-- ==== Sys2Proof/Word.lean ====
section
/-! DEFINITION. The word types of the IH-3296 (spec 00 R5, R6; 02 R22, R37). -/

namespace Sys2Proof

/-- A byte of memory. -/
abbrev Byte := BitVec 8

/-- One lane of a varying register (R53). -/
abbrev Word := BitVec 32

/-- A uniform register, a register pair's lane, an address (R53). -/
abbrev Dword := BitVec 64

/-- A set of the 96 lanes of a group: bit i is lane i (R22, R37). -/
abbrev LaneMask := BitVec 96

/-- A program counter: bits [56:5] the bundle address, bits [4:0] the slot index (R37, R232). -/
abbrev Pc := BitVec 57

/-- The 96 lanes of one varying register, lane 0 first (R53). -/
abbrev Row := List Word

/-- The lanes of a group (R22). -/
abbrev nLanes : Nat := 96

end Sys2Proof
end

