-- ==== Sys2Proof/Syntax.lean ====
section
/-! DEFINITION. What the steps of the IH-3296 are: one constructor per row of spec/opcode_table.json.

A slot instruction carries its head (R234) and the fields of its payload format (R238, R240 to R243), with the operand
kinds turned into constructors.  A step that is no slot instruction carries who or what it concerns; a command of the
command set, an SPDM request and a side-band message act on what the part has received (State.cmd, State.spdm and
State.side), and carry nothing. -/

namespace Sys2Proof

/-- The sequencing codes NX (R236). -/
inductive Nx where
  | seq | jmp | br | loop | call | ret | jind | exit
  deriving DecidableEq, Repr

/-- The slot head without its opcode (R234): DIST, SET, WAIT, NX, TGT and GP. -/
structure Head where
  dist : BitVec 4
  set  : BitVec 4
  wait : BitVec 12
  nx   : Nx
  tgt  : BitVec 5
  gp   : BitVec 4
  deriving DecidableEq, Repr

/-- The neighbour selection of operand A (R74). -/
inductive Nb where
  | none | lft | rgt
  deriving DecidableEq, Repr

/-- A source operand A or B of the R format, by its kind (R238): a varying, affine or uniform register number, an
8-bit immediate, or (operand B only) the 64-bit literal of the next slot (R245). -/
inductive Src where
  | vr  (r : BitVec 8)
  | ar  (r : BitVec 8)
  | sr  (r : BitVec 8)
  | imm (x : BitVec 8)
  | lit (x : Dword)
  deriving DecidableEq, Repr

/-- The R format (R238).  `nb` is the neighbour of A; `sub` and `c` are read under R256 and R257. -/
structure RArgs where
  d   : BitVec 8
  a   : Src
  b   : Src
  c   : BitVec 8
  nb  : Nb
  sub : BitVec 2
  deriving DecidableEq, Repr

/-- The immediate of the I format by its kind IK (R240). -/
inductive Imm where
  | signed   (x : BitVec 16)
  | unsigned (x : BitVec 16)
  | shifted  (x : BitVec 16)
  | literal  (x : Dword)
  deriving DecidableEq, Repr

/-- The I format (R240); A and AK are zero in both its instructions (R280). -/
structure IArgs where
  d   : BitVec 8
  imm : Imm
  sub : BitVec 4
  deriving DecidableEq, Repr

/-- The address kind XK of the M format (R241). -/
inductive Xk where
  | v32 | aff | unif | v64
  deriving DecidableEq, Repr

/-- The ordering field ORD of the M format (R141). -/
inductive Ord where
  | none | acq | rel | acqrel
  deriving DecidableEq, Repr

/-- The M format (R241). -/
structure MArgs where
  d   : BitVec 8
  x   : BitVec 8
  b   : BitVec 8
  off : BitVec 8
  xk  : Xk
  ord : Ord
  scp : BitVec 2
  hnt : BitVec 2
  deriving DecidableEq, Repr

/-- The E format (R242). -/
structure EArgs where
  d   : BitVec 8
  s   : BitVec 8
  b   : BitVec 8
  c   : BitVec 8
  ext : BitVec 8
  deriving DecidableEq, Repr

/-- The X format (R243). -/
structure XArgs where
  d   : BitVec 8
  a   : BitVec 8
  imm : BitVec 24
  deriving DecidableEq, Repr

/-- A Malthouse command entry as a function issues it (R434): the function (0 is PF0, n + 1 is VF n), the reserved
bits of the entry, PV, PART, TAG, OPC and the five arguments. -/
structure Cmd where
  fn   : Nat
  rsvd : Bool
  pv   : Bool
  part : BitVec 3
  tag  : BitVec 16
  opc  : BitVec 16
  a0   : Dword
  a1   : Dword
  a2   : Dword
  a3   : Dword
  a4   : Dword
  deriving DecidableEq, Repr

/-- What the patrol scrubber finds in the word it reads (R505). -/
inductive SoftError where
  | clean | correctable | uncorrectable
  deriving DecidableEq, Repr

/-- The path by which an SPDM request reaches the responder (R485): the DOE capability of a function, or MCTP. -/
inductive Via where
  | doe (fn : Nat)
  | mctp
  deriving DecidableEq, Repr

/-- An SPDM request as it reaches the responder (R485, R486): its path, its request code and its first parameter. -/
structure SpdmReq where
  via   : Via
  code  : BitVec 8
  param : BitVec 8
  deriving DecidableEq, Repr

/-- A message of the side-band controller (R500 to R504). -/
inductive SideMsg where
  /-- ENTDAA assigns this dynamic address. -/
  | daa (addr : BitVec 7)
  /-- MCTP discovery (none) or the assignment of an EID. -/
  | mctp (eid : Option (BitVec 8))
  /-- PLDM reads this numeric sensor. -/
  | sensor (id : Nat)
  /-- READ_ERRLOG from this SEQ on. -/
  | errlog (start : BitVec 32)
  /-- ERRLOG_INFO. -/
  | errlogInfo
  deriving DecidableEq, Repr

/-- The steps of the part: one constructor per row of spec/opcode_table.json. -/
inductive Instr where
  /-- R278. No operation beyond its slot head; carries DIST, SET, WAIT and NX. -/
  | nop (h : Head) (r : RArgs)
  /-- R266. Varying integer add, truncated to the operation width. -/
  | iaddV (h : Head) (r : RArgs)
  /-- R270. Affine add computing base, stride and W under R68. -/
  | iaddA (h : Head) (r : RArgs)
  /-- R266. Uniform integer add. -/
  | iaddS (h : Head) (r : RArgs)
  /-- R266. Varying integer subtract. -/
  | isubV (h : Head) (r : RArgs)
  /-- R270. Affine subtract under R68. -/
  | isubA (h : Head) (r : RArgs)
  /-- R266. Uniform integer subtract. -/
  | isubS (h : Head) (r : RArgs)
  /-- R266. Varying multiply, low n bits. -/
  | imulV (h : Head) (r : RArgs)
  /-- R270. Affine multiply by a uniform or immediate. -/
  | imulA (h : Head) (r : RArgs)
  /-- R266. Uniform multiply, low n bits. -/
  | imulS (h : Head) (r : RArgs)
  /-- R266. Varying multiply, high n bits. -/
  | imulhV (h : Head) (r : RArgs)
  /-- R266. Uniform multiply, high n bits. -/
  | imulhS (h : Head) (r : RArgs)
  /-- R267. Varying multiply-add with a per-lane C. -/
  | imadV (h : Head) (r : RArgs)
  /-- R270. Affine multiply-add under R68. -/
  | imadA (h : Head) (r : RArgs)
  /-- R267. Uniform multiply-add. -/
  | imadS (h : Head) (r : RArgs)
  /-- R268. Varying widening 32x32 to 64-bit product. -/
  | imulwV (h : Head) (r : RArgs)
  /-- R268. Uniform widening product. -/
  | imulwS (h : Head) (r : RArgs)
  /-- R269. Varying absolute value. -/
  | iabsV (h : Head) (r : RArgs)
  /-- R269. Uniform absolute value. -/
  | iabsS (h : Head) (r : RArgs)
  /-- R266. Varying minimum. -/
  | iminV (h : Head) (r : RArgs)
  /-- R266. Uniform minimum. -/
  | iminS (h : Head) (r : RArgs)
  /-- R266. Varying maximum. -/
  | imaxV (h : Head) (r : RArgs)
  /-- R266. Uniform maximum. -/
  | imaxS (h : Head) (r : RArgs)
  /-- R266. Varying saturating add. -/
  | iaddsatV (h : Head) (r : RArgs)
  /-- R266. Uniform saturating add. -/
  | iaddsatS (h : Head) (r : RArgs)
  /-- R271. Varying bitwise AND. -/
  | andV (h : Head) (r : RArgs)
  /-- R271. Uniform bitwise AND. -/
  | andS (h : Head) (r : RArgs)
  /-- R271. Varying bitwise OR. -/
  | orV (h : Head) (r : RArgs)
  /-- R271. Uniform bitwise OR. -/
  | orS (h : Head) (r : RArgs)
  /-- R271. Varying bitwise XOR. -/
  | xorV (h : Head) (r : RArgs)
  /-- R271. Uniform bitwise XOR. -/
  | xorS (h : Head) (r : RArgs)
  /-- R271. Varying complement. -/
  | notV (h : Head) (r : RArgs)
  /-- R271. Uniform complement. -/
  | notS (h : Head) (r : RArgs)
  /-- R272. Varying shift left. -/
  | shlV (h : Head) (r : RArgs)
  /-- R272. Affine shift left by a uniform count, setting W on range loss. -/
  | shlA (h : Head) (r : RArgs)
  /-- R272. Uniform shift left. -/
  | shlS (h : Head) (r : RArgs)
  /-- R272. Varying logical shift right. -/
  | shrV (h : Head) (r : RArgs)
  /-- R272. Uniform logical shift right. -/
  | shrS (h : Head) (r : RArgs)
  /-- R272. Varying arithmetic shift right. -/
  | sarV (h : Head) (r : RArgs)
  /-- R272. Uniform arithmetic shift right. -/
  | sarS (h : Head) (r : RArgs)
  /-- R272. Varying rotate left. -/
  | rolV (h : Head) (r : RArgs)
  /-- R272. Uniform rotate left. -/
  | rolS (h : Head) (r : RArgs)
  /-- R273. Varying bit-field extract. -/
  | bfxV (h : Head) (r : RArgs)
  /-- R273. Uniform bit-field extract. -/
  | bfxS (h : Head) (r : RArgs)
  /-- R273. Varying bit-field insert into D. -/
  | bfiV (h : Head) (r : RArgs)
  /-- R273. Uniform bit-field insert into D. -/
  | bfiS (h : Head) (r : RArgs)
  /-- R274. Varying population count. -/
  | popcV (h : Head) (r : RArgs)
  /-- R274. Uniform population count. -/
  | popcS (h : Head) (r : RArgs)
  /-- R274. Varying count of leading zeros. -/
  | clzV (h : Head) (r : RArgs)
  /-- R274. Uniform count of leading zeros. -/
  | clzS (h : Head) (r : RArgs)
  /-- R274. Varying bit reverse. -/
  | brevV (h : Head) (r : RArgs)
  /-- R274. Uniform bit reverse. -/
  | brevS (h : Head) (r : RArgs)
  /-- R273. Varying sign or zero extension from len bits. -/
  | extV (h : Head) (r : RArgs)
  /-- R273. Uniform sign or zero extension from len bits. -/
  | extS (h : Head) (r : RArgs)
  /-- R275. Varying select on a predicate. -/
  | iselV (h : Head) (r : RArgs)
  /-- R275. Uniform select on a nonzero uniform register. -/
  | iselS (h : Head) (r : RArgs)
  /-- R276. Integer compare with varying sources, writing a predicate per lane. -/
  | icmpVarying (h : Head) (r : RArgs)
  /-- R276. Integer compare of uniform sources, evaluated once and written to every active lane. -/
  | icmpUniform (h : Head) (r : RArgs)
  /-- R277. Varying 64-bit address computation A + B x 2^k + off. -/
  | leaV (h : Head) (r : RArgs)
  /-- R277. Affine address computation with W checks. -/
  | leaA (h : Head) (r : RArgs)
  /-- R277. Uniform address computation. -/
  | leaS (h : Head) (r : RArgs)
  /-- R279. Varying move, including neighbour reads. -/
  | movV (h : Head) (r : RArgs)
  /-- R279. Affine move under R68. -/
  | movA (h : Head) (r : RArgs)
  /-- R279. Uniform move. -/
  | movS (h : Head) (r : RArgs)
  /-- R280. Varying move of an I-format immediate. -/
  | moviV (h : Head) (i : IArgs)
  /-- R280. Uniform move of an I-format immediate. -/
  | moviS (h : Head) (i : IArgs)
  /-- R281. Builds an affine register from a uniform base and stride. -/
  | amake (h : Head) (r : RArgs)
  /-- R282. Writes base 96 x GINDEX, stride 1, W clear. -/
  | alane (h : Head) (r : RArgs)
  /-- R283. Promotes a uniform value to an affine register with stride 0. -/
  | promUniformToAffine (h : Head) (r : RArgs)
  /-- R283. Broadcasts a uniform value to the active lanes. -/
  | promUniformToVarying (h : Head) (r : RArgs)
  /-- R283. Writes each lane's affine lane value, ignoring W. -/
  | promAffineToVarying (h : Head) (r : RArgs)
  /-- R284. Writes an affine register's W flag to a predicate. -/
  | atest (h : Head) (r : RArgs)
  /-- R285. Writes the lowest active lane's value to a uniform register. -/
  | vfirst (h : Head) (r : RArgs)
  /-- R286. As vfirst, raising UNIFORM_CHECK when lanes differ. -/
  | vuni (h : Head) (r : RArgs)
  /-- R293. Varying binary32 add. -/
  | faddF32V (h : Head) (r : RArgs)
  /-- R293. Uniform binary32 add. -/
  | faddF32S (h : Head) (r : RArgs)
  /-- R293. Varying binary64 add. -/
  | faddF64V (h : Head) (r : RArgs)
  /-- R293. Uniform binary64 add. -/
  | faddF64S (h : Head) (r : RArgs)
  /-- R293. Varying binary32 subtract. -/
  | fsubF32V (h : Head) (r : RArgs)
  /-- R293. Uniform binary32 subtract. -/
  | fsubF32S (h : Head) (r : RArgs)
  /-- R293. Varying binary64 subtract. -/
  | fsubF64V (h : Head) (r : RArgs)
  /-- R293. Uniform binary64 subtract. -/
  | fsubF64S (h : Head) (r : RArgs)
  /-- R293. Varying binary32 multiply. -/
  | fmulF32V (h : Head) (r : RArgs)
  /-- R293. Uniform binary32 multiply. -/
  | fmulF32S (h : Head) (r : RArgs)
  /-- R293. Varying binary64 multiply. -/
  | fmulF64V (h : Head) (r : RArgs)
  /-- R293. Uniform binary64 multiply. -/
  | fmulF64S (h : Head) (r : RArgs)
  /-- R294. Varying binary32 fused multiply-add. -/
  | ffmaF32V (h : Head) (r : RArgs)
  /-- R294. Uniform binary32 fused multiply-add. -/
  | ffmaF32S (h : Head) (r : RArgs)
  /-- R294. Varying binary64 fused multiply-add. -/
  | ffmaF64V (h : Head) (r : RArgs)
  /-- R294. Uniform binary64 fused multiply-add. -/
  | ffmaF64S (h : Head) (r : RArgs)
  /-- R296. Varying binary32 minimum. -/
  | fminF32V (h : Head) (r : RArgs)
  /-- R296. Uniform binary32 minimum. -/
  | fminF32S (h : Head) (r : RArgs)
  /-- R296. Varying binary64 minimum. -/
  | fminF64V (h : Head) (r : RArgs)
  /-- R296. Uniform binary64 minimum. -/
  | fminF64S (h : Head) (r : RArgs)
  /-- R296. Varying binary32 maximum. -/
  | fmaxF32V (h : Head) (r : RArgs)
  /-- R296. Uniform binary32 maximum. -/
  | fmaxF32S (h : Head) (r : RArgs)
  /-- R296. Varying binary64 maximum. -/
  | fmaxF64V (h : Head) (r : RArgs)
  /-- R296. Uniform binary64 maximum. -/
  | fmaxF64S (h : Head) (r : RArgs)
  /-- R297. Binary32 compare of varying sources into a predicate. -/
  | fcmpF32V (h : Head) (r : RArgs)
  /-- R297. Binary32 compare of uniform sources, written to every active lane. -/
  | fcmpF32S (h : Head) (r : RArgs)
  /-- R297. Binary64 compare of varying sources into a predicate. -/
  | fcmpF64V (h : Head) (r : RArgs)
  /-- R297. Binary64 compare of uniform sources, written to every active lane. -/
  | fcmpF64S (h : Head) (r : RArgs)
  /-- R293. Varying binary32 divide. -/
  | fdivF32V (h : Head) (r : RArgs)
  /-- R293. Uniform binary32 divide. -/
  | fdivF32S (h : Head) (r : RArgs)
  /-- R293. Varying binary64 divide. -/
  | fdivF64V (h : Head) (r : RArgs)
  /-- R293. Uniform binary64 divide. -/
  | fdivF64S (h : Head) (r : RArgs)
  /-- R295. Varying binary32 square root, correctly rounded. -/
  | fsqrtF32V (h : Head) (r : RArgs)
  /-- R295. Uniform binary32 square root. -/
  | fsqrtF32S (h : Head) (r : RArgs)
  /-- R295. Varying binary64 square root. -/
  | fsqrtF64V (h : Head) (r : RArgs)
  /-- R295. Uniform binary64 square root. -/
  | fsqrtF64S (h : Head) (r : RArgs)
  /-- R295. Correctly rounded binary32 reciprocal. -/
  | frcp (h : Head) (r : RArgs)
  /-- R295. Correctly rounded binary32 reciprocal square root. -/
  | frsq (h : Head) (r : RArgs)
  /-- R295. Correctly rounded binary32 base-2 logarithm. -/
  | flog2 (h : Head) (r : RArgs)
  /-- R295. Correctly rounded binary32 power of two. -/
  | fexp2 (h : Head) (r : RArgs)
  /-- R295. Correctly rounded binary32 sine. -/
  | fsin (h : Head) (r : RArgs)
  /-- R295. Correctly rounded binary32 cosine. -/
  | fcos (h : Head) (r : RArgs)
  /-- R298. Varying conversion between fixed float and integer types. -/
  | fcvtV (h : Head) (r : RArgs)
  /-- R298. Uniform type conversion. -/
  | fcvtS (h : Head) (r : RArgs)
  /-- R299. Varying round to an integral value in the source format. -/
  | frndV (h : Head) (r : RArgs)
  /-- R299. Uniform round to integral. -/
  | frndS (h : Head) (r : RArgs)
  /-- R300. Writes a one-hot class mask per lane. -/
  | fclass (h : Head) (r : RArgs)
  /-- R301. Scales by 2^k with one rounding. -/
  | fldexp (h : Head) (r : RArgs)
  /-- R303. Decodes slot codes to binary32 or integers. -/
  | xunpk (h : Head) (r : RArgs)
  /-- R304. Encodes binary32 values into slot codes. -/
  | xpack (h : Head) (r : RArgs)
  /-- R305. Converts codes from one slot to another with one rounding. -/
  | xcvt (h : Head) (r : RArgs)
  /-- R306. Quantises each beat as a block with E8M0 or E4M3 scales. -/
  | qrow (h : Head) (e : EArgs)
  /-- R308. Computes the second-level scale S2 for a row. -/
  | qscale (h : Head) (r : RArgs)
  /-- R314. Reads A from a lane named by B. -/
  | shfl (h : Head) (r : RArgs)
  /-- R315. Butterfly exchange with lane L xor m. -/
  | shfx (h : Head) (r : RArgs)
  /-- R317. Lane-tree reduction over live lanes into a uniform register. -/
  | lredS (h : Head) (r : RArgs)
  /-- R318. Lane-tree reduction over active guarded lanes written to those lanes. -/
  | lredV (h : Head) (r : RArgs)
  /-- R319. Inclusive prefix scan in the fixed tree. -/
  | lscan (h : Head) (r : RArgs)
  /-- R320. Writes a beat's predicate-and-live mask. -/
  | ballot (h : Head) (r : RArgs)
  /-- R322. Writes one Steep word per lane. -/
  | rng (h : Head) (r : RArgs)
  /-- R323. Varying Husk hash. -/
  | hshV (h : Head) (r : RArgs)
  /-- R323. Uniform Husk hash. -/
  | hshS (h : Head) (r : RArgs)
  /-- R321. Selects the lane of the largest or smallest value with Husk tie-break. -/
  | argmx (h : Head) (r : RArgs)
  /-- R330. Global load into a varying register. -/
  | ldV (h : Head) (m : MArgs)
  /-- R330. Global load into a uniform register. -/
  | ldS (h : Head) (m : MArgs)
  /-- R331. Global store of varying data. -/
  | stV (h : Head) (m : MArgs)
  /-- R331. Global store of uniform data. -/
  | stS (h : Head) (m : MArgs)
  /-- R332. Scratchpad load. -/
  | lds (h : Head) (m : MArgs)
  /-- R332. Scratchpad store. -/
  | sts (h : Head) (m : MArgs)
  /-- R333. Loads one packed opaque element of a sector. -/
  | ldw (h : Head) (m : MArgs)
  /-- R334. Stores one packed opaque element and zeroes trailing bits. -/
  | stw (h : Head) (m : MArgs)
  /-- R336. Per-lane atomic read-modify-write at the LLC home. -/
  | atomV (h : Head) (m : MArgs)
  /-- R336. One atomic access for the group with a uniform operand. -/
  | atomS (h : Head) (m : MArgs)
  /-- R338. Atomic reduction with no return value. -/
  | red (h : Head) (m : MArgs)
  /-- R339. Contributes to a REDUCE region's partial row. -/
  | redo (h : Head) (m : MArgs)
  /-- R340. Prefetches into L1 or LLC without faulting. -/
  | prf (h : Head) (m : MArgs)
  /-- R341. Orders the group's accesses at a scope. -/
  | fence (h : Head) (m : MArgs)
  /-- R203. Waits for the commit token and acquires at dev scope. -/
  | cmtk (h : Head) (m : MArgs)
  /-- R203. Releases and passes the commit token. -/
  | cmtp (h : Head) (m : MArgs)
  /-- R343. Waits until a counter reaches a target, then acquires. -/
  | wcnt (h : Head) (m : MArgs)
  /-- R352. Checks and queues a copy between global memory and scratchpad. -/
  | cpy (h : Head) (e : EArgs)
  /-- R356. Checks and queues a matrix operation of NSTEP steps. -/
  | mloop (h : Head) (e : EArgs)
  /-- R356. As mloop with gathered row indices. -/
  | mloopg (h : Head) (e : EArgs)
  /-- R357. Queues encoding of a tile to scratchpad records. -/
  | mout (h : Head) (e : EArgs)
  /-- R358. Queues zeroing of a tile. -/
  | mzero (h : Head) (e : EArgs)
  /-- R359. Closes unbatched matrix operations into a numbered batch. -/
  | mbat (h : Head) (x : XArgs)
  /-- R359. Issues when batch m is complete. -/
  | mwait (h : Head) (x : XArgs)
  /-- R360. Takes the matrix-engine token or records a waiter. -/
  | macq (h : Head) (x : XArgs)
  /-- R360. Frees or passes the matrix-engine token. -/
  | mrel (h : Head) (x : XArgs)
  /-- R361. Tests whether scratchpad rows are ENGINE. -/
  | ownq (h : Head) (x : XArgs)
  /-- R363. Initialises a barrier object's participant mask. -/
  | bari (h : Head) (x : XArgs)
  /-- R363. Arrives at a barrier object with release. -/
  | bara (h : Head) (x : XArgs)
  /-- R363. Leaves a barrier object's participants. -/
  | barx (h : Head) (x : XArgs)
  /-- R363. Issues when the barrier phase has advanced; acquires. -/
  | barw (h : Head) (x : XArgs)
  /-- R364. Records arrival at the block barrier. -/
  | gbar (h : Head) (x : XArgs)
  /-- R365. Records arrival at a cooperative rectangle barrier. -/
  | rbar (h : Head) (x : XArgs)
  /-- R367. Returns the block's next piece from the even-split distributor. -/
  | work (h : Head) (e : EArgs)
  /-- R368. Submits a task record image to a device queue. -/
  | spawn (h : Head) (e : EArgs)
  /-- R376. Long conditional branch dividing the split. -/
  | brl (h : Head) (x : XArgs)
  /-- R377. Writes the split's loop counter. -/
  | lcset (h : Head) (x : XArgs)
  /-- R378. Rotates the candidate split. -/
  | yield (h : Head) (x : XArgs)
  /-- R378. Makes the group ineligible for n cycles. -/
  | sleep (h : Head) (x : XArgs)
  /-- R385. Raises TRAP with the trap code. -/
  | trap (h : Head) (x : XArgs)
  /-- R386. Leaves the handler with RETRY, SKIP or ABORT. -/
  | rte (h : Head) (x : XArgs)
  /-- R385. Raises BREAKPOINT or freezes for an attached debugger. -/
  | bkpt (h : Head) (x : XArgs)
  /-- R379. Reads a special register into a uniform register. -/
  | getsr (h : Head) (x : XArgs)
  /-- R379. Writes EDGE, FRM or clears STATUS bits. -/
  | setsr (h : Head) (x : XArgs)
  /-- R380. Reads the context time in nanoseconds. -/
  | clk (h : Head) (x : XArgs)
  /-- R381. Reads an allowed performance counter. -/
  | pmc (h : Head) (x : XArgs)
  /-- R387. Reads the interrupted group's state through the UBS window. -/
  | winld (h : Head) (x : XArgs)
  /-- R387. Writes the interrupted group's state through the window. -/
  | winst (h : Head) (x : XArgs)
  /-- R388. Copies group registers into handler rows. -/
  | hsave (h : Head) (x : XArgs)
  /-- R388. Copies handler rows back into group registers. -/
  | hrest (h : Head) (x : XArgs)
  /-- R230. A split's PC enters a bundle, which is checked against CODE and its header. -/
  | bundleFetch (g : Nat) (i : Nat)
  /-- R327. Global data arrives and the destination is written in all checked lanes at once. -/
  | loadDataReturn (g : Nat) (q : Nat)
  /-- R235. A store or ordering completes at its scope and its flag clears. -/
  | accessPerformed (g : Nat) (q : Nat)
  /-- R343. The home re-reads a waited counter on a sector write or every 1 us. -/
  | wcntRecheck (g : Nat)
  /-- R378. The sleep interval ends and the group becomes eligible. -/
  | sleepExpiry (g : Nat)
  /-- R382. A delivered fault saves splits and starts the handler split. -/
  | handlerEntry (g : Nat)
  /-- R390. A group that issued nothing for the watchdog interval faults. -/
  | watchdog (g : Nat)
  /-- R177. One matrix step updates a tile. -/
  | matrixStep (core : Nat)
  /-- R187. A matrix operation completes and its rows return to THREAD. -/
  | matrixOperationComplete (core : Nat)
  /-- R353. A copy's last byte lands and its rows lose their count. -/
  | copyComplete (core : Nat)
  /-- R29. A die dispatcher finds a core that holds the next block. -/
  | blockPlace (t : Nat) (core : Nat)
  /-- R51. The leader grants the next block id after the mirror acknowledges. -/
  | idGrant (t : Nat) (die : Nat)
  /-- R51. The mirror acknowledges a counter update. -/
  | mirrorAck (t : Nat)
  /-- R32. After 64 us of waiting, each die picks a held core. -/
  | heldCore (t : Nat)
  /-- R46. A block retires once its groups, operations and partials are done. -/
  | blockRetire (b : Nat)
  /-- R27. A cooperative task is placed whole once all blocks fit. -/
  | coopLaunch (t : Nat)
  /-- R445. The scheduler consumes a queue slot and checks the record. -/
  | slotConsume (part : Nat) (ctx : Nat) (queue : Nat)
  /-- R453. A task's dependences and waits are met and its start actions enter the work list. -/
  | taskStartable (t : Nat)
  /-- R99. A task behind a failed conflicting task completes with DEP_FAILED. -/
  | depFailed (t : Nat)
  /-- R114. Sparge binds an image to a slot for a task. -/
  | bind (t : Nat)
  /-- R113. Sparge writes identities to a partial-area sector. -/
  | pinit (t : Nat)
  /-- R113. Sparge invalidates a start range line in the context's L1s. -/
  | invstart (t : Nat)
  /-- R100. Sparge writes a dirty sector of a WR or RW range to its home. -/
  | flush (t : Nat)
  /-- R100. Sparge invalidates a range line in other L1s. -/
  | inval (t : Nat)
  /-- R111. Sparge finalises a REDUCE sector from the partials. -/
  | final (t : Nat)
  /-- R103. Sparge writes the completion record and increments the counter. -/
  | complete (t : Nat)
  /-- R171. Every 1 ms each bound slot is read back and checked. -/
  | slotReadback (core : Nat) (k : Nat) (clean : Bool)
  /-- R171. A slot reload finishes its readback and the slot becomes BOUND or the core is fenced. -/
  | kilnReloadDone (core : Nat) (k : Nat) (clean : Bool)
  /-- R466. A 1 ms tick chooses the next context and requests pre-emption. -/
  | gangTick (part : Nat)
  /-- R468. A group reaches its halt point for pre-emption. -/
  | groupHalt (g : Nat)
  /-- R467. A die finishes saving the outgoing context. -/
  | dieSaveDone (part : Nat) (die : Nat)
  /-- R467. Every die has saved; G is bumped and the incoming context restored. -/
  | contextRestore (part : Nat)
  /-- R471. A die still saving 200 us after the tick is reported late. -/
  | switchLate (part : Nat) (die : Nat)
  /-- R471. A die still saving 1 ms after the tick is fenced for the partition. -/
  | lateDieFence (part : Nat) (die : Nat)
  /-- R464. The scrubber clears stale entries of a die. -/
  | scrubPass (die : Nat)
  /-- R505. The patrol scrubber reads and corrects memory words. -/
  | patrolScrub (addr : Nat) (found : SoftError)
  /-- R501. PLDM sensors refresh every 10 ms and threshold crossings send events. -/
  | sensorRefresh (id : Nat) (value : Int)
  /-- R503. A sensor at 110 C stops every core clock. -/
  | thermhalt (id : Nat)
  /-- R440. A held completion is signalled at the end of the COAL interval. -/
  | interruptCoalesceExpiry (fn : Nat)
  /-- R441. A stored event record is written when ring space frees. -/
  | eventStoreDrain (fn : Nat)
  /-- R489. A receiver accepts or drops a flit and returns slots. -/
  | flitReceive (link : Nat) (crcOk : Bool)
  /-- R489. No acknowledgement for 1 us makes the sender resend. -/
  | replayTimeout (link : Nat)
  /-- R490. After 65,536 flits or a retrain the sender sends an audit. -/
  | auditStart (link : Nat)
  /-- R490. The sender applies the audit reply and corrects its counts. -/
  | auditReply (link : Nat)
  /-- R491. An audit without reply after 4 us fails. -/
  | auditTimeout (link : Nat)
  /-- R492. Loss of lock or eight resends starts a retrain. -/
  | retrain (link : Nat)
  /-- R492. A retrain completes and the audit and resend follow. -/
  | retrainComplete (link : Nat) (locked : Bool)
  /-- R494. A link goes down and firmware re-injects its flits. -/
  | linkDown (link : Nat)
  /-- R496. A die is fenced, its blocks lost and its tasks completed with DIE_LOST. -/
  | dieFence (die : Nat)
  /-- R430. A host aperture access is translated for a context. -/
  | bar4Access (fn : Nat) (off : Nat) (size : Nat) (data : Option (List (BitVec 8)))
  /-- R431. A write to a BAR0 register with no row of its own. -/
  | registerWrite (fn : Nat) (off : Nat) (value : BitVec 64)
  /-- R433. A CMDTAIL write hands commands to Malthouse. -/
  | cmdtail (fn : Nat) (value : BitVec 64)
  /-- R441. An EVTHEAD write consumes event records. -/
  | evthead (fn : Nat) (value : BitVec 64)
  /-- R438. A doorbell write sets a queue's tail and re-evaluates waits. -/
  | doorbell (fn : Nat) (off : Nat) (value : BitVec 64)
  /-- R444. FLR of a VF ends the partition's tasks and contexts; of PF0 resets the module. -/
  | functionLevelReset (fn : Nat)
  /-- R254. A split reaches a slot whose OP is reserved, or a literal slot, and raises ILLEGAL_OPCODE. -/
  | illegalOpcode (op : BitVec 8)
  /-- R482. A binding's reconfiguration of up to 40 us ends, each core reads its slot back, mismatching cores are configured again or fenced, and the BIND log entry and fence follow. -/
  | reconfigurationDone (t : Nat) (bad : List Nat)
  /-- R502. An operating-point transition completes. -/
  | opTransitionDone
  /-- R494. New routes are installed on every die. -/
  | routeInstall
  /-- R495. A held request finds no path for 1 ms and dies outside the main component are fenced. -/
  | meshSplit
  /-- R436. Returns revisions and partition. -/
  | identify
  /-- R436. Sets an I/O port's role. -/
  | portConfig
  /-- R461. Creates a partition with quotas. -/
  | partCreate
  /-- R436. Destroys a partition. -/
  | partDestroy
  /-- R472. Replaces a partition's die mask and quota. -/
  | partResize
  /-- R436. Sets the partition's handler entry and range. -/
  | setHandler
  /-- R474. Replaces the pmc allow-list. -/
  | setPmc
  /-- R465. Creates a context and its save areas. -/
  | ctxCreate
  /-- R436. Destroys a context, ending tasks under FORCE. -/
  | ctxDestroy
  /-- R436. Creates a host or device queue. -/
  | queueCreate
  /-- R436. Destroys a queue. -/
  | queueDestroy
  /-- R436. Creates a first-stage mapping. -/
  | map
  /-- R136. Removes a mapping and completes when no access uses it. -/
  | unmap
  /-- R436. Creates a second-stage mapping. -/
  | map2
  /-- R136. Invalidates translations of a range. -/
  | invalCommand
  /-- R481. Verifies an image and enters it in the store. -/
  | imageLoad
  /-- R436. Sets tenant-image permission and pinned slots. -/
  | imagePolicy
  /-- R480. Enrols a tenant key block. -/
  | keyEnroll
  /-- R137. Commands replay of a request packet. -/
  | faultReplay
  /-- R137. Declines a request packet and sends the group to its handler. -/
  | faultDecline
  /-- R502. Sets the operating point. -/
  | setOp
  /-- R484. Copies a measurement log. -/
  | measureLog
  /-- R436. Attaches a debugger to a context. -/
  | debugAttach
  /-- R436. Detaches the debugger and resumes frozen groups. -/
  | debugDetach
  /-- R385. Resumes a group frozen by bkpt. -/
  | debugResume
  /-- R436. Reads or writes 384 bytes of a frozen group's window. -/
  | debugWindow
  /-- R436. Points BAR4 at a context's address range. -/
  | aperture
  /-- R500. The module takes its I3C dynamic address. -/
  | entdaa
  /-- R500. An MCTP control message for discovery or EID assignment. -/
  | mctpControl
  /-- R501. A PLDM request reads a numeric sensor. -/
  | pldmSensorRead
  /-- R485. SPDM version request. -/
  | getVersion
  /-- R485. SPDM capabilities request. -/
  | getCapabilities
  /-- R485. SPDM algorithm negotiation. -/
  | negotiateAlgorithms
  /-- R485. SPDM certificate digests request. -/
  | getDigests
  /-- R485. SPDM certificate request. -/
  | getCertificate
  /-- R485. SPDM challenge request. -/
  | challenge
  /-- R486. SPDM measurement request. -/
  | getMeasurements
  /-- R504. Vendor message returning up to 8 error records. -/
  | readErrlog
  /-- R504. Vendor message returning the oldest and newest SEQ. -/
  | errlogInfo
  /-- R437. Malthouse takes a command entry with a reserved OPC and completes it with BAD_OPCODE. -/
  | badOpcode
  /-- R485. An SPDM request the device does not support is answered with the ERROR response UnsupportedRequest. -/
  | unsupportedRequest
  /-- R431. A module reset from outside, such as power-on, zeroes the registers and starts a new module log. -/
  | moduleReset
  deriving DecidableEq, Repr

end Sys2Proof
end

