-- ==== Sys2Proof/WellFormed.lean ====
section
/-! DEFINITION. Which instructions are well formed: every check of an encoding that needs nothing but the encoding
(spec 10 R234 to R247, 11 R249 to R261, 12 R264, 13 R298, 14 R309, 15 R325, R335, R337, 16 R346, 17 R374).
An encoding that breaks one raises RESERVED_FIELD (R247). -/

namespace Sys2Proof

/-- The payload of a slot by its format (R238, R240 to R243). -/
inductive Payload where
  | r (x : RArgs)
  | i (x : IArgs)
  | m (x : MArgs)
  | e (x : EArgs)
  | x (x : XArgs)
  deriving DecidableEq, Repr

/-- A slot instruction as its opcode, head and payload (R234). -/
structure Slot where
  op   : BitVec 8
  head : Head
  pl   : Payload
  deriving DecidableEq, Repr

/-- The opcode (R249 to R253), head and payload of a slot instruction; none for a step that is no slot instruction. -/
def Instr.slot : Instr → Option Slot
  | .nop h p => some ⟨0, h, .r p⟩
  | .iaddV h p => some ⟨1, h, .r p⟩
  | .iaddA h p => some ⟨2, h, .r p⟩
  | .iaddS h p => some ⟨3, h, .r p⟩
  | .isubV h p => some ⟨4, h, .r p⟩
  | .isubA h p => some ⟨5, h, .r p⟩
  | .isubS h p => some ⟨6, h, .r p⟩
  | .imulV h p => some ⟨7, h, .r p⟩
  | .imulA h p => some ⟨8, h, .r p⟩
  | .imulS h p => some ⟨9, h, .r p⟩
  | .imulhV h p => some ⟨10, h, .r p⟩
  | .imulhS h p => some ⟨11, h, .r p⟩
  | .imadV h p => some ⟨12, h, .r p⟩
  | .imadA h p => some ⟨13, h, .r p⟩
  | .imadS h p => some ⟨14, h, .r p⟩
  | .imulwV h p => some ⟨15, h, .r p⟩
  | .imulwS h p => some ⟨16, h, .r p⟩
  | .iabsV h p => some ⟨17, h, .r p⟩
  | .iabsS h p => some ⟨18, h, .r p⟩
  | .iminV h p => some ⟨19, h, .r p⟩
  | .iminS h p => some ⟨20, h, .r p⟩
  | .imaxV h p => some ⟨21, h, .r p⟩
  | .imaxS h p => some ⟨22, h, .r p⟩
  | .iaddsatV h p => some ⟨23, h, .r p⟩
  | .iaddsatS h p => some ⟨24, h, .r p⟩
  | .andV h p => some ⟨25, h, .r p⟩
  | .andS h p => some ⟨26, h, .r p⟩
  | .orV h p => some ⟨27, h, .r p⟩
  | .orS h p => some ⟨28, h, .r p⟩
  | .xorV h p => some ⟨29, h, .r p⟩
  | .xorS h p => some ⟨30, h, .r p⟩
  | .notV h p => some ⟨31, h, .r p⟩
  | .notS h p => some ⟨32, h, .r p⟩
  | .shlV h p => some ⟨33, h, .r p⟩
  | .shlA h p => some ⟨34, h, .r p⟩
  | .shlS h p => some ⟨35, h, .r p⟩
  | .shrV h p => some ⟨36, h, .r p⟩
  | .shrS h p => some ⟨37, h, .r p⟩
  | .sarV h p => some ⟨38, h, .r p⟩
  | .sarS h p => some ⟨39, h, .r p⟩
  | .rolV h p => some ⟨40, h, .r p⟩
  | .rolS h p => some ⟨41, h, .r p⟩
  | .bfxV h p => some ⟨42, h, .r p⟩
  | .bfxS h p => some ⟨43, h, .r p⟩
  | .bfiV h p => some ⟨44, h, .r p⟩
  | .bfiS h p => some ⟨45, h, .r p⟩
  | .popcV h p => some ⟨46, h, .r p⟩
  | .popcS h p => some ⟨47, h, .r p⟩
  | .clzV h p => some ⟨48, h, .r p⟩
  | .clzS h p => some ⟨49, h, .r p⟩
  | .brevV h p => some ⟨50, h, .r p⟩
  | .brevS h p => some ⟨51, h, .r p⟩
  | .extV h p => some ⟨52, h, .r p⟩
  | .extS h p => some ⟨53, h, .r p⟩
  | .iselV h p => some ⟨54, h, .r p⟩
  | .iselS h p => some ⟨55, h, .r p⟩
  | .icmpVarying h p => some ⟨56, h, .r p⟩
  | .icmpUniform h p => some ⟨57, h, .r p⟩
  | .leaV h p => some ⟨58, h, .r p⟩
  | .leaA h p => some ⟨59, h, .r p⟩
  | .leaS h p => some ⟨60, h, .r p⟩
  | .movV h p => some ⟨64, h, .r p⟩
  | .movA h p => some ⟨65, h, .r p⟩
  | .movS h p => some ⟨66, h, .r p⟩
  | .moviV h p => some ⟨67, h, .i p⟩
  | .moviS h p => some ⟨68, h, .i p⟩
  | .amake h p => some ⟨69, h, .r p⟩
  | .alane h p => some ⟨70, h, .r p⟩
  | .promUniformToAffine h p => some ⟨71, h, .r p⟩
  | .promUniformToVarying h p => some ⟨72, h, .r p⟩
  | .promAffineToVarying h p => some ⟨73, h, .r p⟩
  | .atest h p => some ⟨74, h, .r p⟩
  | .vfirst h p => some ⟨75, h, .r p⟩
  | .vuni h p => some ⟨76, h, .r p⟩
  | .faddF32V h p => some ⟨80, h, .r p⟩
  | .faddF32S h p => some ⟨81, h, .r p⟩
  | .faddF64V h p => some ⟨82, h, .r p⟩
  | .faddF64S h p => some ⟨83, h, .r p⟩
  | .fsubF32V h p => some ⟨84, h, .r p⟩
  | .fsubF32S h p => some ⟨85, h, .r p⟩
  | .fsubF64V h p => some ⟨86, h, .r p⟩
  | .fsubF64S h p => some ⟨87, h, .r p⟩
  | .fmulF32V h p => some ⟨88, h, .r p⟩
  | .fmulF32S h p => some ⟨89, h, .r p⟩
  | .fmulF64V h p => some ⟨90, h, .r p⟩
  | .fmulF64S h p => some ⟨91, h, .r p⟩
  | .ffmaF32V h p => some ⟨92, h, .r p⟩
  | .ffmaF32S h p => some ⟨93, h, .r p⟩
  | .ffmaF64V h p => some ⟨94, h, .r p⟩
  | .ffmaF64S h p => some ⟨95, h, .r p⟩
  | .fminF32V h p => some ⟨96, h, .r p⟩
  | .fminF32S h p => some ⟨97, h, .r p⟩
  | .fminF64V h p => some ⟨98, h, .r p⟩
  | .fminF64S h p => some ⟨99, h, .r p⟩
  | .fmaxF32V h p => some ⟨100, h, .r p⟩
  | .fmaxF32S h p => some ⟨101, h, .r p⟩
  | .fmaxF64V h p => some ⟨102, h, .r p⟩
  | .fmaxF64S h p => some ⟨103, h, .r p⟩
  | .fcmpF32V h p => some ⟨104, h, .r p⟩
  | .fcmpF32S h p => some ⟨105, h, .r p⟩
  | .fcmpF64V h p => some ⟨106, h, .r p⟩
  | .fcmpF64S h p => some ⟨107, h, .r p⟩
  | .fdivF32V h p => some ⟨108, h, .r p⟩
  | .fdivF32S h p => some ⟨109, h, .r p⟩
  | .fdivF64V h p => some ⟨110, h, .r p⟩
  | .fdivF64S h p => some ⟨111, h, .r p⟩
  | .fsqrtF32V h p => some ⟨112, h, .r p⟩
  | .fsqrtF32S h p => some ⟨113, h, .r p⟩
  | .fsqrtF64V h p => some ⟨114, h, .r p⟩
  | .fsqrtF64S h p => some ⟨115, h, .r p⟩
  | .frcp h p => some ⟨116, h, .r p⟩
  | .frsq h p => some ⟨117, h, .r p⟩
  | .flog2 h p => some ⟨118, h, .r p⟩
  | .fexp2 h p => some ⟨119, h, .r p⟩
  | .fsin h p => some ⟨120, h, .r p⟩
  | .fcos h p => some ⟨121, h, .r p⟩
  | .fcvtV h p => some ⟨122, h, .r p⟩
  | .fcvtS h p => some ⟨123, h, .r p⟩
  | .frndV h p => some ⟨124, h, .r p⟩
  | .frndS h p => some ⟨125, h, .r p⟩
  | .fclass h p => some ⟨126, h, .r p⟩
  | .fldexp h p => some ⟨127, h, .r p⟩
  | .xunpk h p => some ⟨128, h, .r p⟩
  | .xpack h p => some ⟨129, h, .r p⟩
  | .xcvt h p => some ⟨130, h, .r p⟩
  | .qrow h p => some ⟨131, h, .e p⟩
  | .qscale h p => some ⟨132, h, .r p⟩
  | .shfl h p => some ⟨136, h, .r p⟩
  | .shfx h p => some ⟨137, h, .r p⟩
  | .lredS h p => some ⟨138, h, .r p⟩
  | .lredV h p => some ⟨145, h, .r p⟩
  | .lscan h p => some ⟨139, h, .r p⟩
  | .ballot h p => some ⟨140, h, .r p⟩
  | .rng h p => some ⟨141, h, .r p⟩
  | .hshV h p => some ⟨142, h, .r p⟩
  | .hshS h p => some ⟨143, h, .r p⟩
  | .argmx h p => some ⟨144, h, .r p⟩
  | .ldV h p => some ⟨152, h, .m p⟩
  | .ldS h p => some ⟨153, h, .m p⟩
  | .stV h p => some ⟨154, h, .m p⟩
  | .stS h p => some ⟨155, h, .m p⟩
  | .lds h p => some ⟨156, h, .m p⟩
  | .sts h p => some ⟨157, h, .m p⟩
  | .ldw h p => some ⟨158, h, .m p⟩
  | .stw h p => some ⟨159, h, .m p⟩
  | .atomV h p => some ⟨160, h, .m p⟩
  | .atomS h p => some ⟨161, h, .m p⟩
  | .red h p => some ⟨162, h, .m p⟩
  | .redo h p => some ⟨163, h, .m p⟩
  | .prf h p => some ⟨164, h, .m p⟩
  | .fence h p => some ⟨165, h, .m p⟩
  | .cmtk h p => some ⟨166, h, .m p⟩
  | .cmtp h p => some ⟨167, h, .m p⟩
  | .wcnt h p => some ⟨168, h, .m p⟩
  | .cpy h p => some ⟨176, h, .e p⟩
  | .mloop h p => some ⟨177, h, .e p⟩
  | .mloopg h p => some ⟨178, h, .e p⟩
  | .mout h p => some ⟨179, h, .e p⟩
  | .mzero h p => some ⟨180, h, .e p⟩
  | .mbat h p => some ⟨181, h, .x p⟩
  | .mwait h p => some ⟨182, h, .x p⟩
  | .macq h p => some ⟨183, h, .x p⟩
  | .mrel h p => some ⟨184, h, .x p⟩
  | .ownq h p => some ⟨185, h, .x p⟩
  | .bari h p => some ⟨186, h, .x p⟩
  | .bara h p => some ⟨187, h, .x p⟩
  | .barx h p => some ⟨188, h, .x p⟩
  | .barw h p => some ⟨189, h, .x p⟩
  | .gbar h p => some ⟨190, h, .x p⟩
  | .rbar h p => some ⟨191, h, .x p⟩
  | .work h p => some ⟨192, h, .e p⟩
  | .spawn h p => some ⟨193, h, .e p⟩
  | .brl h p => some ⟨208, h, .x p⟩
  | .lcset h p => some ⟨209, h, .x p⟩
  | .yield h p => some ⟨210, h, .x p⟩
  | .sleep h p => some ⟨211, h, .x p⟩
  | .trap h p => some ⟨212, h, .x p⟩
  | .rte h p => some ⟨213, h, .x p⟩
  | .bkpt h p => some ⟨214, h, .x p⟩
  | .getsr h p => some ⟨215, h, .x p⟩
  | .setsr h p => some ⟨216, h, .x p⟩
  | .clk h p => some ⟨217, h, .x p⟩
  | .pmc h p => some ⟨218, h, .x p⟩
  | .winld h p => some ⟨219, h, .x p⟩
  | .winst h p => some ⟨220, h, .x p⟩
  | .hsave h p => some ⟨221, h, .x p⟩
  | .hrest h p => some ⟨222, h, .x p⟩
  | .bundleFetch _ _ => none
  | .loadDataReturn _ _ => none
  | .accessPerformed _ _ => none
  | .wcntRecheck _ => none
  | .sleepExpiry _ => none
  | .handlerEntry _ => none
  | .watchdog _ => none
  | .matrixStep _ => none
  | .matrixOperationComplete _ => none
  | .copyComplete _ => none
  | .blockPlace _ _ => none
  | .idGrant _ _ => none
  | .mirrorAck _ => none
  | .heldCore _ => none
  | .blockRetire _ => none
  | .coopLaunch _ => none
  | .slotConsume _ _ _ => none
  | .taskStartable _ => none
  | .depFailed _ => none
  | .bind _ => none
  | .pinit _ => none
  | .invstart _ => none
  | .flush _ => none
  | .inval _ => none
  | .final _ => none
  | .complete _ => none
  | .slotReadback _ _ _ => none
  | .kilnReloadDone _ _ _ => none
  | .gangTick _ => none
  | .groupHalt _ => none
  | .dieSaveDone _ _ => none
  | .contextRestore _ => none
  | .switchLate _ _ => none
  | .lateDieFence _ _ => none
  | .scrubPass _ => none
  | .patrolScrub _ _ => none
  | .sensorRefresh _ _ => none
  | .thermhalt _ => none
  | .interruptCoalesceExpiry _ => none
  | .eventStoreDrain _ => none
  | .flitReceive _ _ => none
  | .replayTimeout _ => none
  | .auditStart _ => none
  | .auditReply _ => none
  | .auditTimeout _ => none
  | .retrain _ => none
  | .retrainComplete _ _ => none
  | .linkDown _ => none
  | .dieFence _ => none
  | .bar4Access _ _ _ _ => none
  | .registerWrite _ _ _ => none
  | .cmdtail _ _ => none
  | .evthead _ _ => none
  | .doorbell _ _ _ => none
  | .functionLevelReset _ => none
  | .illegalOpcode _ => none
  | .reconfigurationDone _ _ => none
  | .opTransitionDone => none
  | .routeInstall => none
  | .meshSplit => none
  | .identify => none
  | .portConfig => none
  | .partCreate => none
  | .partDestroy => none
  | .partResize => none
  | .setHandler => none
  | .setPmc => none
  | .ctxCreate => none
  | .ctxDestroy => none
  | .queueCreate => none
  | .queueDestroy => none
  | .map => none
  | .unmap => none
  | .map2 => none
  | .invalCommand => none
  | .imageLoad => none
  | .imagePolicy => none
  | .keyEnroll => none
  | .faultReplay => none
  | .faultDecline => none
  | .setOp => none
  | .measureLog => none
  | .debugAttach => none
  | .debugDetach => none
  | .debugResume => none
  | .debugWindow => none
  | .aperture => none
  | .entdaa => none
  | .mctpControl => none
  | .pldmSensorRead => none
  | .getVersion => none
  | .getCapabilities => none
  | .negotiateAlgorithms => none
  | .getDigests => none
  | .getCertificate => none
  | .challenge => none
  | .getMeasurements => none
  | .readErrlog => none
  | .errlogInfo => none
  | .badOpcode => none
  | .unsupportedRequest => none
  | .moduleReset => none

/-! ### Type codes (R241) -/

/-- Bytes of a type code of R241; none for the reserved codes 14 and 15. -/
def tyBytes (t : Nat) : Option Nat :=
  match t with
  | 0 => some 1 | 1 => some 2 | 2 => some 4 | 3 => some 8
  | 4 => some 1 | 5 => some 2 | 6 => some 4 | 7 => some 8
  | 8 => some 4 | 9 => some 8 | 10 => some 2 | 11 => some 2
  | 12 => some 4 | 13 => some 8 | _ => none

/-- Whether a type code is 64 bits wide. -/
def tyWide (t : Nat) : Bool := tyBytes t == some 8

/-- The register width of a type code: 64 for the 64-bit types, else 32. -/
def tyWidth (t : Nat) : Nat := if tyWide t then 64 else 32

/-- The integer types S32, S64, N32 and N64. -/
def tyInt (t : Nat) : Bool := [2, 3, 6, 7].contains t

/-- The types of OPT and SEL (R258). -/
def tyRed (t : Nat) : Bool := tyInt t || [12, 13].contains t

/-- The types of CVT (R258, R298). -/
def tyCvt (t : Nat) : Bool := tyRed t || [10, 11].contains t

/-- The types of an atomic (R335). -/
def tyAtom (t : Nat) : Bool := tyRed t || [8, 9].contains t

/-! ### The R format -/

/-- The class of a destination (R249). -/
inductive Cls where
  | v | a | s | p | none
  deriving DecidableEq, Repr

/-- The kinds an operand accepts: varying, affine, uniform, 8-bit immediate, literal (R61, R238, R259, R260). -/
structure Kinds where
  v : Bool
  a : Bool
  s : Bool
  i : Bool
  l : Bool
  deriving DecidableEq, Repr

/-- Kinds a varying-class source accepts (R61). -/
def kV : Kinds := ⟨true, true, true, true, true⟩
/-- Kinds an affine-class source accepts (R61). -/
def kA : Kinds := ⟨false, true, true, true, true⟩
/-- Kinds a uniform-class source accepts (R61). -/
def kS : Kinds := ⟨false, false, true, true, true⟩
/-- Varying only. -/
def kVar : Kinds := ⟨true, false, false, false, false⟩
/-- Affine only. -/
def kAff : Kinds := ⟨false, true, false, false, false⟩
/-- Uniform only. -/
def kUni : Kinds := ⟨false, false, true, false, false⟩
/-- An 8-bit immediate only (the code operands of R259). -/
def kImm : Kinds := ⟨false, false, false, true, false⟩
/-- A floating-point operand of varying class (R260). -/
def kFV : Kinds := ⟨true, false, true, false, true⟩
/-- A floating-point operand of uniform class (R260). -/
def kFS : Kinds := ⟨false, false, true, false, true⟩
/-- Varying or affine (`rng`, R259). -/
def kVA : Kinds := ⟨true, true, false, false, false⟩

/-- The C layouts of R257. -/
inductive CLay where
  | zero | reg | pred | len | cond | ofs | rm | cvt | slot | slotrm | opt | sel | beat | rng
  deriving DecidableEq, Repr

/-- The SUB groups of R256. -/
inductive SubG where
  | wn | w | n | fw | z | sc | cmb | rm2
  deriving DecidableEq, Repr

/-- What the opcode map says of an R-format opcode: class, kinds of A and B (none where the field is unused), C layout
and SUB group. -/
structure RSpec where
  cls : Cls
  a   : Option Kinds
  b   : Option Kinds
  c   : CLay
  sub : SubG
  deriving DecidableEq, Repr

/-- The four forms f32 V, f32 S, f64 V, f64 S of a floating-point opcode (R250). -/
def fRow (vb sb : Option Kinds) (c : CLay) (sub : SubG) (k : Nat) : RSpec :=
  if k % 2 == 0 then ⟨.v, some kFV, vb, c, sub⟩ else ⟨.s, some kFS, sb, c, sub⟩

/-- The integer, affine, move and promotion rows 0x00 to 0x4C (R249, R259).  0x38 with both sources uniform or immediate is
permitted: log 74's choice. -/
def rSpecInt (op : Nat) : Option RSpec :=
  match op with
  | 0x00 => some ⟨.s, none, none, .zero, .z⟩
  | 0x01 => some ⟨.v, some kV, some kV, .zero, .wn⟩
  | 0x02 => some ⟨.a, some kA, some kA, .zero, .wn⟩
  | 0x03 => some ⟨.s, some kS, some kS, .zero, .wn⟩
  | 0x04 => some ⟨.v, some kV, some kV, .zero, .wn⟩
  | 0x05 => some ⟨.a, some kA, some kA, .zero, .wn⟩
  | 0x06 => some ⟨.s, some kS, some kS, .zero, .wn⟩
  | 0x07 => some ⟨.v, some kV, some kV, .zero, .wn⟩
  | 0x08 => some ⟨.a, some kA, some kS, .zero, .wn⟩
  | 0x09 => some ⟨.s, some kS, some kS, .zero, .wn⟩
  | 0x0A => some ⟨.v, some kV, some kV, .zero, .wn⟩
  | 0x0B => some ⟨.s, some kS, some kS, .zero, .wn⟩
  | 0x0C => some ⟨.v, some kV, some kV, .reg, .wn⟩
  | 0x0D => some ⟨.a, some kA, some kS, .reg, .wn⟩
  | 0x0E => some ⟨.s, some kS, some kS, .reg, .wn⟩
  | 0x0F => some ⟨.v, some kV, some kV, .zero, .n⟩
  | 0x10 => some ⟨.s, some kS, some kS, .zero, .n⟩
  | 0x11 => some ⟨.v, some kV, none, .zero, .w⟩
  | 0x12 => some ⟨.s, some kS, none, .zero, .w⟩
  | 0x13 | 0x15 | 0x17 => some ⟨.v, some kV, some kV, .zero, .wn⟩
  | 0x14 | 0x16 | 0x18 => some ⟨.s, some kS, some kS, .zero, .wn⟩
  | 0x19 | 0x1B | 0x1D => some ⟨.v, some kV, some kV, .zero, .w⟩
  | 0x1A | 0x1C | 0x1E => some ⟨.s, some kS, some kS, .zero, .w⟩
  | 0x1F => some ⟨.v, some kV, none, .zero, .w⟩
  | 0x20 => some ⟨.s, some kS, none, .zero, .w⟩
  | 0x21 => some ⟨.v, some kV, some kV, .zero, .w⟩
  | 0x22 => some ⟨.a, some kA, some kS, .zero, .w⟩
  | 0x23 => some ⟨.s, some kS, some kS, .zero, .w⟩
  | 0x24 | 0x26 | 0x28 => some ⟨.v, some kV, some kV, .zero, .w⟩
  | 0x25 | 0x27 | 0x29 => some ⟨.s, some kS, some kS, .zero, .w⟩
  | 0x2A => some ⟨.v, some kV, some kV, .len, .wn⟩
  | 0x2B => some ⟨.s, some kS, some kS, .len, .wn⟩
  | 0x2C => some ⟨.v, some kV, some kV, .len, .w⟩
  | 0x2D => some ⟨.s, some kS, some kS, .len, .w⟩
  | 0x2E | 0x30 | 0x32 => some ⟨.v, some kV, none, .zero, .w⟩
  | 0x2F | 0x31 | 0x33 => some ⟨.s, some kS, none, .zero, .w⟩
  | 0x34 => some ⟨.v, some kV, none, .len, .wn⟩
  | 0x35 => some ⟨.s, some kS, none, .len, .wn⟩
  | 0x36 => some ⟨.v, some kV, some kV, .pred, .w⟩
  | 0x37 => some ⟨.s, some kS, some kS, .reg, .w⟩
  | 0x38 => some ⟨.p, some kV, some kV, .cond, .cmb⟩
  | 0x39 => some ⟨.p, some kS, some kS, .cond, .cmb⟩
  | 0x3A => some ⟨.v, some kV, some kV, .ofs, .sc⟩
  | 0x3B => some ⟨.a, some kA, some kA, .ofs, .sc⟩
  | 0x3C => some ⟨.s, some kS, some kS, .ofs, .sc⟩
  | 0x40 => some ⟨.v, some kV, none, .zero, .w⟩
  | 0x41 => some ⟨.a, some kA, none, .zero, .w⟩
  | 0x42 => some ⟨.s, some kS, none, .zero, .w⟩
  | 0x45 => some ⟨.a, some kS, some kS, .zero, .z⟩
  | 0x46 => some ⟨.a, none, none, .zero, .z⟩
  | 0x47 => some ⟨.a, some kS, none, .zero, .z⟩
  | 0x48 => some ⟨.v, some kS, none, .zero, .w⟩
  | 0x49 => some ⟨.v, some kAff, none, .zero, .w⟩
  | 0x4A => some ⟨.p, some kAff, none, .zero, .z⟩
  | 0x4B | 0x4C => some ⟨.s, some kVar, none, .zero, .w⟩
  | _ => none

/-- The floating-point and format rows 0x50 to 0x84 (R250, R259, R260). -/
def rSpecFloat (op : Nat) : Option RSpec :=
  if op < 0x50 then none
  else if op < 0x5C then some (fRow (some kFV) (some kFS) .rm .z op)
  else if op < 0x60 then some (fRow (some kFV) (some kFS) .reg .rm2 op)
  else if op < 0x68 then some (fRow (some kFV) (some kFS) .zero .z op)
  else if op < 0x6C then some { fRow (some kFV) (some kFS) .cond .cmb op with cls := .p }
  else if op < 0x70 then some (fRow (some kFV) (some kFS) .rm .z op)
  else if op < 0x74 then some (fRow none none .rm .z op)
  else if op < 0x7A then some ⟨.v, some kFV, none, .rm, .z⟩
  else if op < 0x7C then some (fRow (some kImm) (some kImm) .cvt .z op)
  else if op < 0x7E then some (fRow none none .cvt .z op)
  else
    match op with
    | 0x7E => some ⟨.v, some kFV, none, .zero, .fw⟩
    | 0x7F => some ⟨.v, some kFV, some kV, .rm, .fw⟩
    | 0x80 => some ⟨.v, some kVar, none, .slot, .z⟩
    | 0x81 => some ⟨.v, some kVar, none, .slotrm, .z⟩
    | 0x82 => some ⟨.v, some kVar, some kImm, .slotrm, .z⟩
    | 0x84 => some ⟨.s, some kUni, none, .slot, .z⟩
    | _ => none

/-- The cross-lane rows 0x88 to 0x91 (R251, R309).  The A of `ballot` is a predicate number of kind 0. -/
def rSpecCross (op : Nat) : Option RSpec :=
  match op with
  | 0x88 => some ⟨.v, some kVar, some kV, .zero, .w⟩
  | 0x89 => some ⟨.v, some kVar, some kS, .zero, .w⟩
  | 0x8A => some ⟨.s, some kVar, none, .opt, .z⟩
  | 0x8B => some ⟨.v, some kVar, none, .opt, .z⟩
  | 0x8C => some ⟨.s, some kVar, none, .beat, .z⟩
  | 0x8D => some ⟨.v, some kVA, none, .rng, .z⟩
  | 0x8E => some ⟨.v, some kV, some kV, .zero, .w⟩
  | 0x8F => some ⟨.s, some kS, some kS, .zero, .w⟩
  | 0x90 => some ⟨.s, some kVar, none, .sel, .z⟩
  | 0x91 => some ⟨.v, some kVar, none, .opt, .z⟩
  | _ => none

/-- The row of the opcode map for an R-format opcode. -/
def rSpec (op : Nat) : Option RSpec :=
  if op < 0x50 then rSpecInt op else if op < 0x88 then rSpecFloat op else rSpecCross op

/-- The register widths (32 or 64) of A, B, C and D of an R-format instruction when they name varying registers
(R57, R256, R268, R277, R298 to R303, R309). -/
structure RWidths where
  a : Nat
  b : Nat
  c : Nat
  d : Nat
  deriving DecidableEq, Repr

/-- The width that bit 1 of SUB selects in the groups WN, W and FW (R256). -/
def subWidth (sub : BitVec 2) : Nat := if sub.getLsbD 1 then 64 else 32

/-- The immediate B of `fcvt` and `xcvt`, 0 for any other operand. -/
def Src.code : Src → Nat
  | .imm x => x.toNat
  | _ => 0

/-- See `RWidths`. -/
def rWidths (op : Nat) (r : RArgs) : RWidths :=
  let n := subWidth r.sub
  let t := tyWidth (r.c.toNat / 16)
  if 0x50 ≤ op && op < 0x74 then
    let w := if op % 4 < 2 then 32 else 64
    ⟨w, w, w, w⟩
  else if op == 0x0F || op == 0x10 then ⟨32, 32, 32, 64⟩
  else if op == 0x38 || op == 0x39 then
    let w := if r.c.getLsbD 4 then 64 else 32
    ⟨w, w, 32, 32⟩
  else if 0x3A ≤ op && op ≤ 0x3C then ⟨64, 32, 32, 64⟩
  else if op < 0x4D then
    if op == 0x00 || (0x45 ≤ op && op ≤ 0x47) || op == 0x4A then ⟨32, 32, 32, 32⟩ else ⟨n, n, n, n⟩
  else if op == 0x7A || op == 0x7B then ⟨tyWidth r.b.code, 32, 32, t⟩
  else if op == 0x7C || op == 0x7D then ⟨t, 32, 32, t⟩
  else if op == 0x7E then ⟨n, 32, 32, 32⟩
  else if op == 0x7F then ⟨n, 32, 32, n⟩
  else if op == 0x88 || op == 0x89 then ⟨n, 32, 32, n⟩
  else if op == 0x8E || op == 0x8F then ⟨n, 32, 32, 32⟩
  else if op == 0x8D then ⟨64, 32, 32, 32⟩
  else if op == 0x8A || op == 0x8B || op == 0x90 || op == 0x91 then ⟨t, 32, 32, t⟩
  else ⟨32, 32, 32, 32⟩

/-- A varying register number of width `w` as R57 judges it before the declared count: a pair's number is even. -/
def vregOk (w : Nat) (x : BitVec 8) : Bool := w == 32 || x.toNat % 2 == 0

/-- A source operand against the kinds its field accepts (R57, R238, R259). -/
def srcOk (k : Option Kinds) (w : Nat) (x : Src) : Bool :=
  match k with
  | none => x == .vr 0
  | some k =>
    match x with
    | .vr r => k.v && vregOk w r
    | .ar r => k.a && r.toNat < 32
    | .sr r => k.s && r.toNat < 64
    | .imm _ => k.i
    | .lit _ => k.l

/-- A destination register of a class (R57). -/
def dstOk (c : Cls) (w : Nat) (d : BitVec 8) : Bool :=
  match c with
  | .v => vregOk w d
  | .a => d.toNat < 32
  | .s => d.toNat < 64
  | .p => d.toNat < 7
  | .none => d == 0

/-- SUB against its group (R255, R256). -/
def subOk (g : SubG) (sub : BitVec 2) : Bool :=
  match g with
  | .wn | .sc | .rm2 => true
  | .w | .fw => !sub.getLsbD 0
  | .n => !sub.getLsbD 1
  | .z => sub == 0
  | .cmb => sub != 3

/-- C against its layout (R257, R258) for opcode `op`. -/
def cOk (op : Nat) (s : RSpec) (w : RWidths) (c : BitVec 8) : Bool :=
  let n := c.toNat
  match s.c with
  | .zero => n == 0
  | .reg => dstOk s.cls w.c c
  | .pred => n < 8
  | .len => 1 ≤ n && n ≤ w.d
  | .cond => if op < 0x50 then n < 32 && n % 8 ≤ 5 else n < 8
  | .ofs | .rng => true
  | .rm => n ≤ 5
  | .cvt =>
    (if op < 0x7C then tyCvt (n / 16) else [12, 13].contains (n / 16)) && !c.getLsbD 3 && n % 8 ≤ 5
  | .slot => n < 8
  | .slotrm => n < 128 && !c.getLsbD 3 && n / 16 ≤ 6
  | .opt => tyRed (n / 16) && n % 16 ≤ 5 && (n % 16 ≤ 2 || tyInt (n / 16))
  | .sel => tyRed (n / 16) && n % 16 ≤ 1
  | .beat => n < 3

/-- The code operands in B of `fcvt` (R298) and `xcvt` (R259). -/
def bCodeOk (op : Nat) (r : RArgs) : Bool :=
  if op == 0x7A || op == 0x7B then tyCvt r.b.code && !(tyInt r.b.code && tyInt (r.c.toNat / 16))
  else if op == 0x82 then r.b.code < 8
  else true

/-- An 8-bit immediate in B is not 0x80, which selects the literal; A has no literal (R238). -/
def srcEnc (r : RArgs) : Bool :=
  (match r.a with | .lit _ => false | _ => true) && r.b != .imm 0x80

/-- NB only on a varying A, and not in the cross-lane opcodes (R74, R259, R309). -/
def nbOk (op : Nat) (r : RArgs) (s : RSpec) : Bool :=
  match r.nb with
  | .none => true
  | _ =>
    match s.a, r.a with
    | some _, .vr _ => op < 0x88
    | _, _ => false

/-- The R format (R238, R239, R244). -/
def rOk (op : Nat) (r : RArgs) : Bool :=
  match rSpec op with
  | none => false
  | some s =>
    let w := rWidths op r
    let da := if op == 0x00 then r.d == 0 else dstOk s.cls w.d r.d
    let a := if op == 0x8C then srcOk s.a w.a r.a && (match r.a with | .vr p => p.toNat < 8 | _ => false)
             else srcOk s.a w.a r.a
    srcEnc r && da && a && srcOk s.b w.b r.b && cOk op s w r.c && subOk s.sub r.sub && nbOk op r s && bCodeOk op r

/-- Whether R261 leaves the R-format opcode unguarded: class S or A. -/
def rUnguarded (op : Nat) : Bool :=
  match rSpec op with
  | some s => s.cls == .s || s.cls == .a
  | none => false

/-! ### The I format -/

/-- `movi` (R240, R255, R280): SUB bits [3:2] zero, and the register of its class. -/
def iOk (op : Nat) (i : IArgs) : Bool :=
  i.sub.toNat < 4 &&
    (if op == 0x43 then vregOk (if i.sub.getLsbD 1 then 64 else 32) i.d else i.d.toNat < 64)

/-! ### The M format -/

/-- What B holds in an M-format opcode (R325). -/
inductive BLay where
  | ty | width | atom | reg | zero
  deriving DecidableEq, Repr

/-- The B layout of an M-format opcode (R325). -/
def mB (op : Nat) : BLay :=
  if op ≤ 0x9D || op == 0xA3 || op == 0xA4 then .ty
  else if op ≤ 0x9F then .width
  else if op ≤ 0xA2 then .atom
  else if op == 0xA8 then .reg
  else .zero

/-- The type code an M-format instruction names (R241, R335). -/
def mTy (b : BitVec 8) : Nat := b.toNat % 16

/-- B against its layout (R241, R325, R333, R335). -/
def mBOk (op : Nat) (m : MArgs) : Bool :=
  let n := m.b.toNat
  match mB op with
  | .ty => n < 14
  | .width => 2 ≤ n && n ≤ 32
  | .atom =>
    let f := n / 16
    tyAtom (n % 16) && f ≤ 7 && !(op == 0xA2 && 6 ≤ f) &&
      (if f ≤ 2 then tyRed (n % 16) else if f ≤ 5 then tyInt (n % 16) || [8, 9].contains (n % 16) else true)
  | .reg => n < 64
  | .zero => n == 0

/-- D against the column of R325, with the pairs of R57 and R334 and the CAS rule of R337. -/
def mDOk (op : Nat) (m : MArgs) : Bool :=
  let d := m.d.toNat
  let wide := tyWide (mTy m.b)
  let cas := m.b.toNat / 16 == 7
  if op == 0x99 || op == 0x9B || op == 0xA8 then d < 64
  else if op == 0xA1 then d < 64 && (!cas || d % 2 == 0)
  else if op == 0xA0 then
    if cas then (if wide then d % 4 == 0 else d % 2 == 0) else (!wide || d % 2 == 0)
  else if op == 0x9E then true
  else if op == 0x9F then d % 2 == 0
  else if 0xA4 ≤ op then d == 0
  else !wide || d % 2 == 0

/-- X against its kind and the kinds R325 permits. -/
def mXOk (op : Nat) (m : MArgs) : Bool :=
  if 0xA5 ≤ op && op ≤ 0xA7 then m.x == 0 && m.xk == .v32
  else
    (if op == 0x99 || op == 0xA1 || op == 0xA8 then m.xk == .unif else true) &&
    (match m.xk with
     | .v32 => true
     | .aff => m.x.toNat < 32
     | .unif => m.x.toNat < 64
     | .v64 => m.x.toNat % 2 == 0)

/-- OFF is unused where there is no address (R244, R341, R342). -/
def mOffOk (op : Nat) (m : MArgs) : Bool := if 0xA5 ≤ op && op ≤ 0xA7 then m.off == 0 else true

/-- ORD against its column (R141, R325). -/
def mOrdOk (op : Nat) (o : Ord) : Bool :=
  match o with
  | .none => op != 0xA8
  | .acq => [0x98, 0x99, 0x9C, 0x9E, 0xA0, 0xA1, 0xA8].contains op
  | .rel => [0x9A, 0x9B, 0x9D, 0x9F, 0xA0, 0xA1, 0xA2].contains op
  | .acqrel => op == 0xA0 || op == 0xA1

/-- SCP (R141, R325). -/
def mScpOk (op : Nat) (m : MArgs) : Bool :=
  m.scp != 3 && (m.ord != .none || op == 0xA5 || m.scp == 0) &&
    (!(op == 0x9C || op == 0x9D) || m.scp == 0) && (op != 0xA8 || m.scp != 0) &&
    (!(op == 0xA6 || op == 0xA7) || m.scp == 0)

/-- HNT (R134, R325). -/
def mHntOk (op : Nat) (m : MArgs) : Bool :=
  if op == 0x9C || op == 0x9D || op == 0xA3 || 0xA5 ≤ op then m.hnt == 0 else true

/-- The M format (R241, R325). -/
def mOk (op : Nat) (m : MArgs) : Bool :=
  mBOk op m && mDOk op m && mXOk op m && mOffOk op m && mOrdOk op m.ord && mScpOk op m && mHntOk op m

/-- Whether the M-format opcode takes no guard: `cmtk`, `cmtp` and the uniform-class forms (R261). -/
def mUnguarded (op : Nat) : Bool := [0x99, 0xA1, 0xA6, 0xA7, 0xA8].contains op

/-! ### The E and X formats -/

/-- The first of four uniform registers: a multiple of 4 below 64 (R346). -/
def quadOk (s : BitVec 8) : Bool := s.toNat < 64 && s.toNat % 4 == 0

/-- The two slots of `mloop`: bits [3] and [7] zero (R346). -/
def slotsOk (b : BitVec 8) : Bool := !b.getLsbD 3 && !b.getLsbD 7

/-- The E format (R250, R306, R346, R357, R367, R368). -/
def eOk (op : Nat) (e : EArgs) : Bool :=
  match op with
  | 0x83 => (if e.ext.getLsbD 6 then e.s.toNat < 64 else e.s == 0) && e.ext.toNat < 128 && e.ext.toNat / 8 % 8 ≤ 6 &&
      e.d != e.c
  | 0xB0 => e.d == 0 && quadOk e.s && e.b == 0 && e.c == 0 && e.ext.toNat < 4
  | 0xB1 => quadOk e.s && slotsOk e.b && e.c == 0 && e.ext == 0
  | 0xB2 => quadOk e.s && slotsOk e.b && e.ext == 0
  | 0xB3 => e.s.toNat < 64 && slotsOk e.b && e.c == 0 && e.ext == 0
  | 0xB4 => e.s == 0 && e.b == 0 && e.c == 0 && e.ext == 0
  | 0xC0 => quadOk e.d && e.s.toNat < 64 && e.b == 0 && e.c == 0 && e.ext == 0
  | 0xC1 => e.d == 0 && e.s.toNat < 64 && e.b == 0 && e.c == 0 && e.ext.toNat < 16
  | _ => false

/-- The special registers of R77 that `getsr` names. -/
def srListed (n : Nat) : Bool := n ≤ 0x19 || (0x20 ≤ n && n ≤ 0x26)

/-- The X format (R346, R361, R365, R374, R377, R386 to R388). -/
def xOk (op : Nat) (x : XArgs) : Bool :=
  let n := x.imm.toNat
  match op with
  | 0xB5 => x.d.toNat < 64 && x.a == 0 && n == 0
  | 0xB6 => x.d == 0 && x.a.toNat < 64 && n == 0
  | 0xB7 | 0xB8 | 0xBE => x.d == 0 && x.a == 0 && n == 0
  | 0xB9 => x.d.toNat < 64 && x.a.toNat < 64 && 1 ≤ n && n ≤ 2359296
  | 0xBA => x.d == 0 && x.a == 0 && n < 65536 && n / 16 % 16 == 0
  | 0xBB | 0xBC | 0xBD => x.d == 0 && x.a == 0 && n < 16
  | 0xBF => x.d == 0 && x.a == 0 && n < 3
  | 0xD0 => x.d == 0 && x.a.toNat < 16
  | 0xD1 => x.d == 0 && (if x.imm.getLsbD 23 then x.a.toNat < 64 && n == 8388608 else x.a == 0)
  | 0xD2 => x.d == 0 && x.a == 0 && n == 0
  | 0xD3 | 0xD4 | 0xD6 => x.d == 0 && x.a == 0
  | 0xD5 => x.d == 0 && x.a == 0 && n < 3
  | 0xD7 => x.d.toNat < 64 && x.a == 0 && srListed n
  | 0xD8 => x.d == 0 && x.a.toNat < 64 && 0x13 ≤ n && n ≤ 0x15
  | 0xD9 => x.d.toNat < 64 && x.a == 0 && n == 0
  | 0xDA => x.d.toNat < 64 && x.a == 0 && n < 65536
  | 0xDB | 0xDC => x.a.toNat < 64
  | 0xDD | 0xDE => x.d == 0 && 1 ≤ n && n ≤ 8 && x.a.toNat + n ≤ 248
  | _ => false

/-! ### The head and the whole -/

/-- Whether the opcode must carry an unguarded GP (R237, R261). -/
def unguarded (op : Nat) (p : Payload) : Bool :=
  match p with
  | .r _ => rUnguarded op
  | .i _ => op == 0x44
  | .m _ => mUnguarded op
  | .e _ => op != 0x83
  | .x _ => true

/-- The head (R234, R236, R237, R374). -/
def headOk (op : Nat) (h : Head) (p : Payload) : Bool :=
  h.set.toNat ≤ 12 &&
  (match h.nx with | .seq | .ret | .exit => h.tgt == 0 | _ => true) &&
  (!unguarded op p || h.gp == 7 || h.nx == .br || h.nx == .exit) &&
  (!(op == 0xD0 || op == 0xD4 || op == 0xD5 || op == 0xD6) || h.nx == .seq)

/-- A well-formed slot. -/
def Slot.ok (s : Slot) : Bool :=
  let op := s.op.toNat
  headOk op s.head s.pl &&
  (match s.pl with
   | .r x => rOk op x
   | .i x => iOk op x
   | .m x => mOk op x
   | .e x => eOk op x
   | .x x => xOk op x)

/-- A well-formed instruction.  A slot instruction passes every check of its encoding; `illegalOpcode` carries a
reserved opcode or the literal's (R254); a step that is no slot instruction has no encoding to check. -/
def WellFormed (i : Instr) : Bool :=
  match i.slot with
  | some s => s.ok
  | none =>
    match i with
    | .illegalOpcode op =>
      let n := op.toNat
      (0x3D ≤ n && n ≤ 0x3F) || (0x4D ≤ n && n ≤ 0x4F) || (0x85 ≤ n && n ≤ 0x87) || (0x92 ≤ n && n ≤ 0x97) ||
      (0xA9 ≤ n && n ≤ 0xAF) || (0xC2 ≤ n && n ≤ 0xCF) || 0xDF ≤ n
    | _ => true

end Sys2Proof
end

