-- ==== Sys2Proof/Decode.lean ====
section
/-! DEFINITION. From bits to instructions and back (spec 10).

`decodeSlot` is total: it answers an instruction, or which of LITERAL_MISSING and RESERVED_FIELD the encoding raises, in
the order of R247 and R248; a reserved opcode decodes to the instruction `illegalOpcode` (R254).  `encode` writes the
slot of a well-formed instruction, and the literal slot after it where it uses one. -/

namespace Sys2Proof

/-- The faults a slot's encoding raises before the instruction is known (R248). -/
inductive DecodeError where
  /-- R246: the literal slot is absent or is none. -/
  | literalMissing
  /-- R247: a field the encoding may not hold. -/
  | reservedField
  deriving DecidableEq, Repr

/-- A constructor of a slot instruction with its payload format (R249 to R253). -/
inductive Mk where
  | r (f : Head → RArgs → Instr)
  | i (f : Head → IArgs → Instr)
  | m (f : Head → MArgs → Instr)
  | e (f : Head → EArgs → Instr)
  | x (f : Head → XArgs → Instr)

/-- The opcode map, part 1 (R249 to R253). -/
def opcodeMap1 : List (BitVec 8 × Mk) :=
  [(0x00, .r .nop), (0x01, .r .iaddV), (0x02, .r .iaddA), (0x03, .r .iaddS),
   (0x04, .r .isubV), (0x05, .r .isubA), (0x06, .r .isubS), (0x07, .r .imulV),
   (0x08, .r .imulA), (0x09, .r .imulS), (0x0A, .r .imulhV), (0x0B, .r .imulhS),
   (0x0C, .r .imadV), (0x0D, .r .imadA), (0x0E, .r .imadS), (0x0F, .r .imulwV),
   (0x10, .r .imulwS), (0x11, .r .iabsV), (0x12, .r .iabsS), (0x13, .r .iminV),
   (0x14, .r .iminS), (0x15, .r .imaxV), (0x16, .r .imaxS), (0x17, .r .iaddsatV),
   (0x18, .r .iaddsatS), (0x19, .r .andV), (0x1A, .r .andS), (0x1B, .r .orV),
   (0x1C, .r .orS), (0x1D, .r .xorV), (0x1E, .r .xorS), (0x1F, .r .notV)]

/-- The opcode map, part 2 (R249 to R253). -/
def opcodeMap2 : List (BitVec 8 × Mk) :=
  [(0x20, .r .notS), (0x21, .r .shlV), (0x22, .r .shlA), (0x23, .r .shlS),
   (0x24, .r .shrV), (0x25, .r .shrS), (0x26, .r .sarV), (0x27, .r .sarS),
   (0x28, .r .rolV), (0x29, .r .rolS), (0x2A, .r .bfxV), (0x2B, .r .bfxS),
   (0x2C, .r .bfiV), (0x2D, .r .bfiS), (0x2E, .r .popcV), (0x2F, .r .popcS),
   (0x30, .r .clzV), (0x31, .r .clzS), (0x32, .r .brevV), (0x33, .r .brevS),
   (0x34, .r .extV), (0x35, .r .extS), (0x36, .r .iselV), (0x37, .r .iselS),
   (0x38, .r .icmpVarying), (0x39, .r .icmpUniform), (0x3A, .r .leaV), (0x3B, .r .leaA),
   (0x3C, .r .leaS), (0x40, .r .movV), (0x41, .r .movA), (0x42, .r .movS)]

/-- The opcode map, part 3 (R249 to R253). -/
def opcodeMap3 : List (BitVec 8 × Mk) :=
  [(0x43, .i .moviV), (0x44, .i .moviS), (0x45, .r .amake), (0x46, .r .alane),
   (0x47, .r .promUniformToAffine), (0x48, .r .promUniformToVarying), (0x49, .r .promAffineToVarying), (0x4A, .r .atest),
   (0x4B, .r .vfirst), (0x4C, .r .vuni), (0x50, .r .faddF32V), (0x51, .r .faddF32S),
   (0x52, .r .faddF64V), (0x53, .r .faddF64S), (0x54, .r .fsubF32V), (0x55, .r .fsubF32S),
   (0x56, .r .fsubF64V), (0x57, .r .fsubF64S), (0x58, .r .fmulF32V), (0x59, .r .fmulF32S),
   (0x5A, .r .fmulF64V), (0x5B, .r .fmulF64S), (0x5C, .r .ffmaF32V), (0x5D, .r .ffmaF32S),
   (0x5E, .r .ffmaF64V), (0x5F, .r .ffmaF64S), (0x60, .r .fminF32V), (0x61, .r .fminF32S),
   (0x62, .r .fminF64V), (0x63, .r .fminF64S), (0x64, .r .fmaxF32V), (0x65, .r .fmaxF32S)]

/-- The opcode map, part 4 (R249 to R253). -/
def opcodeMap4 : List (BitVec 8 × Mk) :=
  [(0x66, .r .fmaxF64V), (0x67, .r .fmaxF64S), (0x68, .r .fcmpF32V), (0x69, .r .fcmpF32S),
   (0x6A, .r .fcmpF64V), (0x6B, .r .fcmpF64S), (0x6C, .r .fdivF32V), (0x6D, .r .fdivF32S),
   (0x6E, .r .fdivF64V), (0x6F, .r .fdivF64S), (0x70, .r .fsqrtF32V), (0x71, .r .fsqrtF32S),
   (0x72, .r .fsqrtF64V), (0x73, .r .fsqrtF64S), (0x74, .r .frcp), (0x75, .r .frsq),
   (0x76, .r .flog2), (0x77, .r .fexp2), (0x78, .r .fsin), (0x79, .r .fcos),
   (0x7A, .r .fcvtV), (0x7B, .r .fcvtS), (0x7C, .r .frndV), (0x7D, .r .frndS),
   (0x7E, .r .fclass), (0x7F, .r .fldexp), (0x80, .r .xunpk), (0x81, .r .xpack),
   (0x82, .r .xcvt), (0x83, .e .qrow), (0x84, .r .qscale), (0x88, .r .shfl)]

/-- The opcode map, part 5 (R249 to R253). -/
def opcodeMap5 : List (BitVec 8 × Mk) :=
  [(0x89, .r .shfx), (0x8A, .r .lredS), (0x91, .r .lredV), (0x8B, .r .lscan),
   (0x8C, .r .ballot), (0x8D, .r .rng), (0x8E, .r .hshV), (0x8F, .r .hshS),
   (0x90, .r .argmx), (0x98, .m .ldV), (0x99, .m .ldS), (0x9A, .m .stV),
   (0x9B, .m .stS), (0x9C, .m .lds), (0x9D, .m .sts), (0x9E, .m .ldw),
   (0x9F, .m .stw), (0xA0, .m .atomV), (0xA1, .m .atomS), (0xA2, .m .red),
   (0xA3, .m .redo), (0xA4, .m .prf), (0xA5, .m .fence), (0xA6, .m .cmtk),
   (0xA7, .m .cmtp), (0xA8, .m .wcnt), (0xB0, .e .cpy), (0xB1, .e .mloop),
   (0xB2, .e .mloopg), (0xB3, .e .mout), (0xB4, .e .mzero), (0xB5, .x .mbat)]

/-- The opcode map, part 6 (R249 to R253). -/
def opcodeMap6 : List (BitVec 8 × Mk) :=
  [(0xB6, .x .mwait), (0xB7, .x .macq), (0xB8, .x .mrel), (0xB9, .x .ownq),
   (0xBA, .x .bari), (0xBB, .x .bara), (0xBC, .x .barx), (0xBD, .x .barw),
   (0xBE, .x .gbar), (0xBF, .x .rbar), (0xC0, .e .work), (0xC1, .e .spawn),
   (0xD0, .x .brl), (0xD1, .x .lcset), (0xD2, .x .yield), (0xD3, .x .sleep),
   (0xD4, .x .trap), (0xD5, .x .rte), (0xD6, .x .bkpt), (0xD7, .x .getsr),
   (0xD8, .x .setsr), (0xD9, .x .clk), (0xDA, .x .pmc), (0xDB, .x .winld),
   (0xDC, .x .winst), (0xDD, .x .hsave), (0xDE, .x .hrest)]

/-- The opcode map (R249 to R253). -/
def opcodeMap : List (BitVec 8 × Mk) :=
  opcodeMap1 ++ opcodeMap2 ++ opcodeMap3 ++ opcodeMap4 ++ opcodeMap5 ++ opcodeMap6

/-! ### The head -/

/-- The sequencing code of three bits (R236). -/
def Nx.ofBits (b : BitVec 3) : Nx :=
  match b.toNat with
  | 0 => .seq | 1 => .jmp | 2 => .br | 3 => .loop | 4 => .call | 5 => .ret | 6 => .jind | _ => .exit

/-- The three bits of a sequencing code (R236). -/
def Nx.bits : Nx → BitVec 3
  | .seq => 0 | .jmp => 1 | .br => 2 | .loop => 3 | .call => 4 | .ret => 5 | .jind => 6 | .exit => 7

/-- The head of a slot without its opcode: bits [71:40] (R234). -/
def Head.ofSlot (w : BitVec 80) : Head :=
  { dist := w.extractLsb' 68 4, set := w.extractLsb' 64 4, wait := w.extractLsb' 52 12,
    nx := Nx.ofBits (w.extractLsb' 49 3), tgt := w.extractLsb' 44 5, gp := w.extractLsb' 40 4 }

/-- Bits [71:40] of a slot (R234). -/
def Head.bits (h : Head) : BitVec 32 := h.dist ++ h.set ++ h.wait ++ h.nx.bits ++ h.tgt ++ h.gp

/-! ### The R format (R238) -/

/-- The neighbour of two bits; none for the reserved 0b11 (R74). -/
def Nb.ofBits (b : BitVec 2) : Option Nb :=
  match b.toNat with
  | 0 => some .none | 1 => some .lft | 2 => some .rgt | _ => Option.none

/-- The two bits of a neighbour (R74). -/
def Nb.bits : Nb → BitVec 2
  | .none => 0 | .lft => 1 | .rgt => 2

/-- A source of field `x` and kind `k`; a literal for B is given by the caller (R238). -/
def Src.ofBits (k : BitVec 2) (x : BitVec 8) : Src :=
  match k.toNat with
  | 0 => .vr x | 1 => .ar x | 2 => .sr x | _ => .imm x

/-- The field of a source; a literal's is 0x80 (R238). -/
def Src.field : Src → BitVec 8
  | .vr x | .ar x | .sr x | .imm x => x
  | .lit _ => 0x80

/-- The kind of a source; a literal's is that of an immediate (R238). -/
def Src.kind : Src → BitVec 2
  | .vr _ => 0 | .ar _ => 1 | .sr _ => 2 | .imm _ | .lit _ => 3

/-- The literal a source holds. -/
def Src.literal : Src → Option Dword
  | .lit x => some x
  | _ => none

/-- Whether the B of an R-format payload selects the literal slot: field 0x80, kind 3 (R232). -/
def rUsesLit (p : BitVec 40) : Bool := p.extractLsb' 16 8 == 0x80 && p.extractLsb' 4 2 == 3

/-- The R payload, with the literal where B selects it; none where NB is reserved (R238). -/
def RArgs.ofPayload (p : BitVec 40) (lit : Dword) : Option RArgs :=
  (Nb.ofBits (p.extractLsb' 2 2)).map fun nb =>
    { d := p.extractLsb' 32 8
      a := Src.ofBits (p.extractLsb' 6 2) (p.extractLsb' 24 8)
      b := if rUsesLit p then .lit lit else Src.ofBits (p.extractLsb' 4 2) (p.extractLsb' 16 8)
      c := p.extractLsb' 8 8, nb := nb, sub := p.extractLsb' 0 2 }

/-- The R payload's bits (R238). -/
def RArgs.bits (r : RArgs) : BitVec 40 :=
  r.d ++ r.a.field ++ r.b.field ++ r.c ++ r.a.kind ++ r.b.kind ++ r.nb.bits ++ r.sub

/-! ### The I format (R240) -/

/-- Whether IK is LITERAL (R232). -/
def iUsesLit (p : BitVec 40) : Bool := p.extractLsb' 4 2 == 3

/-- The I payload; none where A or AK is not zero, or IMM16 is not zero under LITERAL (R240). -/
def IArgs.ofPayload (p : BitVec 40) (lit : Dword) : Option IArgs :=
  let x := p.extractLsb' 8 16
  if p.extractLsb' 24 8 != 0 || p.extractLsb' 6 2 != 0 || (iUsesLit p && x != 0) then none
  else some
    { d := p.extractLsb' 32 8
      imm := match (p.extractLsb' 4 2).toNat with
        | 0 => .signed x | 1 => .unsigned x | 2 => .shifted x | _ => .literal lit
      sub := p.extractLsb' 0 4 }

/-- IMM16 of an immediate (R240). -/
def Imm.field : Imm → BitVec 16
  | .signed x | .unsigned x | .shifted x => x
  | .literal _ => 0

/-- IK of an immediate (R240). -/
def Imm.kind : Imm → BitVec 2
  | .signed _ => 0 | .unsigned _ => 1 | .shifted _ => 2 | .literal _ => 3

/-- The literal an I-format immediate holds. -/
def Imm.lit : Imm → Option Dword
  | .literal x => some x
  | _ => none

/-- The I payload's bits (R240). -/
def IArgs.bits (i : IArgs) : BitVec 40 :=
  i.d ++ (0 : BitVec 8) ++ i.imm.field ++ (0 : BitVec 2) ++ i.imm.kind ++ i.sub

/-! ### The M, E and X formats (R241 to R243) -/

/-- XK of two bits (R241). -/
def Xk.ofBits (b : BitVec 2) : Xk :=
  match b.toNat with
  | 0 => .v32 | 1 => .aff | 2 => .unif | _ => .v64

/-- The two bits of XK (R241). -/
def Xk.bits : Xk → BitVec 2
  | .v32 => 0 | .aff => 1 | .unif => 2 | .v64 => 3

/-- ORD of two bits (R141). -/
def Ord.ofBits (b : BitVec 2) : Ord :=
  match b.toNat with
  | 0 => .none | 1 => .acq | 2 => .rel | _ => .acqrel

/-- The two bits of ORD (R141). -/
def Ord.bits : Ord → BitVec 2
  | .none => 0 | .acq => 1 | .rel => 2 | .acqrel => 3

/-- The M payload (R241). -/
def MArgs.ofPayload (p : BitVec 40) : MArgs :=
  { d := p.extractLsb' 32 8, x := p.extractLsb' 24 8, b := p.extractLsb' 16 8, off := p.extractLsb' 8 8,
    xk := Xk.ofBits (p.extractLsb' 6 2), ord := Ord.ofBits (p.extractLsb' 4 2),
    scp := p.extractLsb' 2 2, hnt := p.extractLsb' 0 2 }

/-- The M payload's bits (R241). -/
def MArgs.bits (m : MArgs) : BitVec 40 := m.d ++ m.x ++ m.b ++ m.off ++ m.xk.bits ++ m.ord.bits ++ m.scp ++ m.hnt

/-- The E payload (R242). -/
def EArgs.ofPayload (p : BitVec 40) : EArgs :=
  { d := p.extractLsb' 32 8, s := p.extractLsb' 24 8, b := p.extractLsb' 16 8, c := p.extractLsb' 8 8,
    ext := p.extractLsb' 0 8 }

/-- The E payload's bits (R242). -/
def EArgs.bits (e : EArgs) : BitVec 40 := e.d ++ e.s ++ e.b ++ e.c ++ e.ext

/-- The X payload (R243). -/
def XArgs.ofPayload (p : BitVec 40) : XArgs :=
  { d := p.extractLsb' 32 8, a := p.extractLsb' 24 8, imm := p.extractLsb' 0 24 }

/-- The X payload's bits (R243). -/
def XArgs.bits (x : XArgs) : BitVec 40 := x.d ++ x.a ++ x.imm

/-! ### Slots -/

/-- The opcode of a slot (R234). -/
def slotOp (w : BitVec 80) : BitVec 8 := w.extractLsb' 72 8

/-- The payload bits of a slot (R234). -/
def slotPayload (w : BitVec 80) : BitVec 40 := w.extractLsb' 0 40

/-- The first row of a table under a key. -/
def lookupOp (op : BitVec 8) : List (BitVec 8 × Mk) → Option Mk
  | [] => none
  | (k, m) :: t => if k == op then some m else lookupOp op t

/-- Whether a slot uses a literal (R232). -/
def usesLit (w : BitVec 80) : Bool :=
  match lookupOp (slotOp w) opcodeMap with
  | some (.r _) => rUsesLit (slotPayload w)
  | some (.i _) => iUsesLit (slotPayload w)
  | _ => false

/-- The literal of the next slot: LITERAL_MISSING where it is absent or no literal slot, RESERVED_FIELD where bits
[71:64] are not zero (R245, R246). -/
def literalOf (next : Option (BitVec 80)) : Except DecodeError Dword :=
  match next with
  | none => .error .literalMissing
  | some w =>
    if slotOp w != 0xFF then .error .literalMissing
    else if w.extractLsb' 64 8 != 0 then .error .reservedField
    else .ok (w.extractLsb' 0 64)

/-- The payload under its constructor, with the literal where the slot uses one. -/
def Mk.build (m : Mk) (h : Head) (p : BitVec 40) (lit : Dword) : Option Instr :=
  match m with
  | .r f => (RArgs.ofPayload p lit).map (f h)
  | .i f => (IArgs.ofPayload p lit).map (f h)
  | .m f => some (f h (MArgs.ofPayload p))
  | .e f => some (f h (EArgs.ofPayload p))
  | .x f => some (f h (XArgs.ofPayload p))

/-- The instruction of a slot, given the slot that follows it in its bundle (R247, R248). -/
def decodeSlot (w : BitVec 80) (next : Option (BitVec 80)) : Except DecodeError Instr :=
  match lookupOp (slotOp w) opcodeMap with
  | none => .ok (.illegalOpcode (slotOp w))
  | some m =>
    match (if usesLit w then literalOf next else .ok 0) with
    | .error e => .error e
    | .ok lit =>
      match m.build (Head.ofSlot w) (slotPayload w) lit with
      | none => .error .reservedField
      | some i => if WellFormed i then .ok i else .error .reservedField

/-- What a slot that is refused is the instruction of, its fields as they stand: its own wait comes before its fault, which is
raised at issue (R248). -/
def rawSlot (w : BitVec 80) : Option Instr :=
  (lookupOp (slotOp w) opcodeMap).bind fun m =>
    (m.build (Head.ofSlot w) (slotPayload w) 0).or (m.build (Head.ofSlot w) (slotPayload w &&& ~~~(0xC : BitVec 40)) 0)

/-! ### Bundles (R228, R229) -/

/-- The bytes of a little-endian integer, lowest address first, as a natural number (R6). -/
def leNat : List Byte → Nat
  | [] => 0
  | b :: t => b.toNat + 256 * leNat t

/-- The first `n` bytes of a number, lowest address first (R6). -/
def leBytes : Nat → Nat → List Byte
  | 0, _ => []
  | n + 1, x => BitVec.ofNat 8 x :: leBytes n (x / 256)

/-- Slot `s` of a bundle (R228). -/
def bundleSlot (b : BitVec 256) (s : Nat) : BitVec 80 := b.extractLsb' (16 + 80 * s) 80

/-- SC of a bundle header (R229). -/
def bundleSc (b : BitVec 256) : Nat := (b.extractLsb' 0 2).toNat

/-- Whether a header is valid: SC not 0 and bits [15:11] zero (R230). -/
def bundleHeaderOk (b : BitVec 256) : Bool := bundleSc b != 0 && b.extractLsb' 11 5 == 0

/-- The YLD hint of slot `s` (R229). -/
def bundleYld (b : BitVec 256) (s : Nat) : Bool := b.getLsbD (2 + s)

/-- A bundle of up to three slots with no hints (R228, R229). -/
def bundleOf (slots : List (BitVec 80)) : BitVec 256 :=
  (slots.getD 2 0) ++ (slots.getD 1 0) ++ (slots.getD 0 0) ++ BitVec.ofNat 16 (min slots.length 3)

/-- The instruction at slot index `s` of a bundle whose header is valid and whose SC exceeds `s` (R246, R247). -/
def decodeAt (b : BitVec 256) (s : Nat) : Except DecodeError Instr :=
  decodeSlot (bundleSlot b s) (if s + 1 < bundleSc b then some (bundleSlot b (s + 1)) else none)

/-- The next PC of an instruction (R232): past its literal where it uses one. -/
def nextPc (b : BitVec 256) (pc : Pc) : Pc :=
  let s := (pc.extractLsb' 0 5).toNat
  let i := if usesLit (bundleSlot b s) then s + 2 else s + 1
  let base := pc - BitVec.ofNat 57 s
  if i < bundleSc b then base + BitVec.ofNat 57 i else base + 32

/-! ### The encoder -/

/-- The literal an instruction uses (R232). -/
def Payload.literal : Payload → Option Dword
  | .r p => p.b.literal
  | .i p => p.imm.lit
  | _ => none

/-- The payload's bits. -/
def Payload.bits : Payload → BitVec 40
  | .r p => p.bits
  | .i p => p.bits
  | .m p => p.bits
  | .e p => p.bits
  | .x p => p.bits

/-- The literal slot (R245). -/
def literalSlot (x : Dword) : BitVec 80 := (0xFF : BitVec 8) ++ (0 : BitVec 8) ++ x

/-- The slot of a slot instruction, and the literal slot that follows it where it uses one (R234, R238 to R245); none
for a step that is no slot instruction. -/
def encode (i : Instr) : Option (BitVec 80 × Option (BitVec 80)) :=
  i.slot.map fun s => (s.op ++ s.head.bits ++ s.pl.bits, s.pl.literal.map literalSlot)

/-- The instruction whose bits are `w`: bits [79:0] are its slot and bits [159:80] the slot after it. -/
def decodeTableWord (_nbits w : Nat) : Option Instr :=
  match decodeSlot (BitVec.ofNat 80 w) (some (BitVec.ofNat 80 (w / 2 ^ 80))) with
  | .ok i => some i
  | .error _ => none

/-! ### Command entries (R434) -/

/-- The command of a 64-byte ring entry issued by function `fn` (R434). -/
def Cmd.ofEntry (fn : Nat) (e : BitVec 512) : Cmd :=
  { fn := fn, rsvd := e.extractLsb' 40 24 != 0 || e.extractLsb' 35 4 != 0, pv := e.getLsbD 39,
    part := e.extractLsb' 32 3, tag := e.extractLsb' 16 16, opc := e.extractLsb' 0 16,
    a0 := e.extractLsb' 64 64, a1 := e.extractLsb' 128 64, a2 := e.extractLsb' 192 64,
    a3 := e.extractLsb' 256 64, a4 := e.extractLsb' 320 64 }

/-- The command of an entry (R436); BAD_OPCODE for a reserved OPC (R437). -/
def Cmd.instr (c : Cmd) : Instr :=
  match c.opc.toNat with
  | 0x01 => .identify
  | 0x10 => .portConfig
  | 0x20 => .partCreate
  | 0x21 => .partDestroy
  | 0x22 => .partResize
  | 0x23 => .setHandler
  | 0x24 => .setPmc
  | 0x30 => .ctxCreate
  | 0x31 => .ctxDestroy
  | 0x40 => .queueCreate
  | 0x41 => .queueDestroy
  | 0x50 => .map
  | 0x51 => .unmap
  | 0x52 => .map2
  | 0x53 => .invalCommand
  | 0x60 => .imageLoad
  | 0x61 => .imagePolicy
  | 0x62 => .keyEnroll
  | 0x70 => .faultReplay
  | 0x71 => .faultDecline
  | 0x80 => .setOp
  | 0x90 => .measureLog
  | 0xA0 => .debugAttach
  | 0xA1 => .debugDetach
  | 0xA2 => .debugResume
  | 0xA3 => .debugWindow
  | 0xB0 => .aperture
  | _ => .badOpcode

end Sys2Proof
end

