-- ==== Sys2Proof/Config.lean ====
section
/-! DEFINITION. What an implementation fixes and what the spec leaves open.  An opaque constant has no body: nothing
can be proved about its value; each names its entry of notes/assumptions. -/

namespace Sys2Proof.Config

/-- The byte a STACK load returns where the lane has not stored since its block was placed, R88: one free value for
every draw of the counter `State.fresh` (log 3). -/
opaque freeByte : Nat → Byte

/-- SHA-384 of the ROM (R483, R486), which the spec does not give (log 9). -/
opaque romDigest : BitVec 384

/-- The bytes of the ROM's Finran RSA-3072 modulus, most significant first (R478; log 9). -/
opaque finranModulus : Nat → Byte

/-- The bytes of the ROM's Finran SLH-DSA-SHA2-192s public key (R478; log 9). -/
opaque finranSlh : Nat → Byte

/-- Bytes 4 to 439 of the key block that the ROM's Finran pair would have (R478, R479): the exponent 65,537, the modulus of 384
bytes and the SLH-DSA key of 48. -/
def finranKey : List Byte := [1, 0, 1, 0] ++ (List.range 384).map finranModulus ++ (List.range 48).map finranSlh

/-- The body of an SPDM response whose bytes the spec leaves to SPDM 1.3 and to the module's certificate: request
code, parameter, and the values of R485 and R486 that it carries (log 11). -/
opaque spdmBody : BitVec 8 → BitVec 8 → List Byte → List Byte

/-- What `qrow` takes where its slot has no positive Max: the top exponent and the first scale code (R193, R196), which
the spec does not state (log 18). -/
opaque emaxOfNone : Int

/-- See `emaxOfNone`. -/
opaque sigmaOfNone : Nat

/-- The byte of a ring slot at a virtual address that no entry maps, as consumption takes it (R445): the spec does not say
(log 20). -/
opaque ringByte : Nat → Byte

/-- The value that a unit of Sparge takes from a virtual address that no entry maps (R111): the spec does not say (log 21). -/
opaque unmappedValue : Nat → BitVec 64

/-- The core of a die, modulo 48, that COREX and COREY of its SWITCH_LATE record name (R442, R471): the spec does not say
(log 22). -/
opaque lateCore : Nat → Nat

/-- Which of the L1s that hold bytes of a sector FLUSH cleans last, of task and unit: which of two blocks' values of one byte
then stands is not fixed (R124; log 46). -/
opaque flushLast : Nat → Nat → Nat

/-- Which line of its partition a full LLC slice replaces (R129, R461): the spec gives the LLC no replacement rule; one free
value for every draw of `State.fresh` (log 19). -/
opaque llcVictim : Nat → Nat

/-- The status with which PORT_CONFIG refuses, which R436 does not name: 0 for the host port, 1 after the first
PART_CREATE, 2 for a seventeenth CXL port (R19; log 25); MAP and MAP2 refuse with that of 3 INTERLEAVE for second-tier pages
(R128), and with that of 4 pages where no memory is, of 5 pages of a save area (R465; log 59). -/
opaque refusedStatus : Nat → BitVec 16

/-- The bytes of a reply that the spec leaves to its protocol: an MCTP control message (the EID it assigns), a sensor
reading over PLDM (sensor, reading, none where unavailable), an SPDM ERROR (true for UnsupportedRequest), ERRLOG_INFO of an
empty log (R485, R500, R501, R504; log 11). -/
opaque mctpBody : Option (BitVec 8) → List Byte

/-- See `mctpBody`. -/
opaque pldmBody : Nat → Option Int → List Byte

/-- See `mctpBody`. -/
opaque spdmError : Bool → List Byte

/-- See `mctpBody`. -/
opaque emptyErrlog : List Byte

/-- The byte of a function's configuration space at an offset at which no register of R429 stands (log 61). -/
opaque configByte : Nat → Nat → Byte

/-- What a read of BAR2 gives at an offset that is no doorbell of a host queue: the function and the offset (R445; log 61). -/
opaque doorbellValue : Nat → Nat → BitVec 64

/-- DETAIL of a SLOT_ERROR, LINK or QUEUE_ERROR record from its two numbers, of whose places in the field R443 says
nothing: the record type, the first (slot, link or die, context), the second (image, channel, queue) (log 23). -/
opaque recordDetail : Nat → Nat → Nat → BitVec 64

/-- What the provisioned ID of ENTDAA holds beside the vendor value (R500; log 11). -/
opaque provisionedRest : BitVec 33

/-- The EID that an MCTP control message assigns, none where it assigns none (R500; log 11). -/
opaque mctpEid : List Byte → Option (BitVec 8)

/-- The sensor that a PLDM message asks for (R501; log 11). -/
opaque pldmSensor : List Byte → Nat

/-- The code and the parameter of an SPDM message (R485; log 11). -/
opaque spdmFields : List Byte → BitVec 8 × BitVec 8

/-- Arithmetic revision (R3). -/
def arith : Nat := 0x0001

/-- Firmware release (R4). -/
def fwRelease : Nat := 0x0100

/-- Revision ID (R2, R429). -/
def revisionId : Nat := 0xA1

/-- Vendor ID (R429). -/
def vendorId : Nat := 0x1F6B

/-- The provisioned ID that the module sends in ENTDAA: it carries the vendor value, in the 15 bits that I3C has for it
(R500; PRESUMED, log 11: the spec does not say where). -/
def provisionedId : BitVec 48 := BitVec.ofNat 15 vendorId ++ provisionedRest

/-- Device ID (R429). -/
def deviceId : Nat := 0x3296

/-- Class code (R429). -/
def classCode : Nat := 0x120000

/-- The MCTP message types that the side-band answers (R500): MCTP control, PLDM, SPDM, vendor defined (PCI). -/
def mctpControl : Nat := 0x00
/-- See `mctpControl`. -/
def mctpPldm : Nat := 0x01
/-- See `mctpControl`. -/
def mctpSpdm : Nat := 0x05
/-- See `mctpControl`. -/
def mctpVendor : Nat := 0x7E

/-- The vendor message commands READ_ERRLOG and ERRLOG_INFO (R504). -/
def cmdReadErrlog : Nat := 0x01
/-- See `cmdReadErrlog`. -/
def cmdErrlogInfo : Nat := 0x02

/-- What the module supports of SPDM (R485), in the codes of SPDM 1.3 (log 11): its version. -/
def spdmVersion : Nat := 0x13

/-- The capabilities (R485): certificates, challenges and signed measurements; no session, no KEY_EXCHANGE, no PSK and no mutual
authentication (log 11). -/
def spdmFlags : Nat := 0x16

/-- The algorithms (R485): ECDSA P-384, SHA-384, and SHA-384 for measurements (log 11). -/
def spdmAsym : Nat := 0x80
/-- See `spdmAsym`. -/
def spdmHash : Nat := 0x2
/-- See `spdmAsym`. -/
def spdmMeasHash : Nat := 0x4

/-- The certificate slots that hold a chain (R485): slot 0. -/
def spdmSlots : Nat := 0x1

/-- Bytes of an HBM4E stack (R10, R18). -/
def stackBytes : Nat := 2 ^ 36

/-- Bytes of HBM4E of the module (R18). -/
def hbmBytes : Nat := 64 * stackBytes

/-- Bytes of second-tier memory that one CXL port adds, of sixteen that add 16 TiB (R18; log 59). -/
def tierBytes : Nat := 2 ^ 40

/-- Lines of a way of an LLC slice: 128 KiB of 512 bytes (R127, R461). -/
def wayLines : Nat := 256

end Sys2Proof.Config
end

