-- ==== Sys2Proof/Machine/Crypto.lean ====
section
/-! DEFINITION. The checks and digests the spec names: SHA-384 (R476, R479, R483, R509), CRC-32C (R477) and the
CRC-64 of a flit (R487).  The functions are those of FIPS 180-4 and of the named polynomials (log 13). -/

namespace Sys2Proof.Machine

/-- The round constants of SHA-384, first half. -/
def shaK1 : List (BitVec 64) :=
  [0x428A2F98D728AE22, 0x7137449123EF65CD, 0xB5C0FBCFEC4D3B2F, 0xE9B5DBA58189DBBC, 0x3956C25BF348B538,
   0x59F111F1B605D019, 0x923F82A4AF194F9B, 0xAB1C5ED5DA6D8118, 0xD807AA98A3030242, 0x12835B0145706FBE,
   0x243185BE4EE4B28C, 0x550C7DC3D5FFB4E2, 0x72BE5D74F27B896F, 0x80DEB1FE3B1696B1, 0x9BDC06A725C71235,
   0xC19BF174CF692694, 0xE49B69C19EF14AD2, 0xEFBE4786384F25E3, 0x0FC19DC68B8CD5B5, 0x240CA1CC77AC9C65,
   0x2DE92C6F592B0275, 0x4A7484AA6EA6E483, 0x5CB0A9DCBD41FBD4, 0x76F988DA831153B5, 0x983E5152EE66DFAB,
   0xA831C66D2DB43210, 0xB00327C898FB213F, 0xBF597FC7BEEF0EE4, 0xC6E00BF33DA88FC2, 0xD5A79147930AA725,
   0x06CA6351E003826F, 0x142929670A0E6E70, 0x27B70A8546D22FFC, 0x2E1B21385C26C926, 0x4D2C6DFC5AC42AED,
   0x53380D139D95B3DF, 0x650A73548BAF63DE, 0x766A0ABB3C77B2A8, 0x81C2C92E47EDAEE6, 0x92722C851482353B]

/-- The round constants of SHA-384, second half. -/
def shaK2 : List (BitVec 64) :=
  [0xA2BFE8A14CF10364, 0xA81A664BBC423001, 0xC24B8B70D0F89791, 0xC76C51A30654BE30, 0xD192E819D6EF5218,
   0xD69906245565A910, 0xF40E35855771202A, 0x106AA07032BBD1B8, 0x19A4C116B8D2D0C8, 0x1E376C085141AB53,
   0x2748774CDF8EEB99, 0x34B0BCB5E19B48A8, 0x391C0CB3C5C95A63, 0x4ED8AA4AE3418ACB, 0x5B9CCA4F7763E373,
   0x682E6FF3D6B2B8A3, 0x748F82EE5DEFB2FC, 0x78A5636F43172F60, 0x84C87814A1F0AB72, 0x8CC702081A6439EC,
   0x90BEFFFA23631E28, 0xA4506CEBDE82BDE9, 0xBEF9A3F7B2C67915, 0xC67178F2E372532B, 0xCA273ECEEA26619C,
   0xD186B8C721C0C207, 0xEADA7DD6CDE0EB1E, 0xF57D4F7FEE6ED178, 0x06F067AA72176FBA, 0x0A637DC5A2C898A6,
   0x113F9804BEF90DAE, 0x1B710B35131C471B, 0x28DB77F523047D84, 0x32CAAB7B40C72493, 0x3C9EBE0A15C9BEBC,
   0x431D67C49C100D4C, 0x4CC5D4BECB3E42B6, 0x597F299CFC657E2A, 0x5FCB6FAB3AD6FAEC, 0x6C44198C4A475817]

/-- The initial state of SHA-384. -/
def shaIv : List (BitVec 64) :=
  [0xCBBB9D5DC1059ED8, 0x629A292A367CD507, 0x9159015A3070DD17, 0x152FECD8F70E5939, 0x67332667FFC00B31,
   0x8EB44A8768581511, 0xDB0C2E0D64F98FA7, 0x47B5481DBEFA4FA4]

/-- The bits of the length field and the padding after a message of `n` bytes. -/
def shaPad (n : Nat) : List Byte :=
  let z := (239 - n % 128) % 128
  (0x80 : Byte) :: List.replicate z 0 ++
    ((List.range 16).map fun i => BitVec.ofNat 8 (8 * n / 256 ^ (15 - i)))

/-- Big-endian 64-bit word of the first eight bytes. -/
def shaWord (b : List Byte) : BitVec 64 := (b.take 8).foldl (fun a x => a <<< 8 ||| x.setWidth 64) 0

/-- The first `k` 64-bit words of a block. -/
def shaWords : Nat → List Byte → List (BitVec 64)
  | 0, _ => []
  | k + 1, b => shaWord b :: shaWords k (b.drop 8)

/-- Extends the schedule, kept newest first, by `k` words. -/
def shaSchedule : Nat → List (BitVec 64) → List (BitVec 64)
  | 0, w => w
  | k + 1, w =>
    let x := w.getD 14 0
    let y := w.getD 1 0
    let s0 := x.rotateRight 1 ^^^ x.rotateRight 8 ^^^ x >>> 7
    let s1 := y.rotateRight 19 ^^^ y.rotateRight 61 ^^^ y >>> 6
    shaSchedule k ((w.getD 15 0 + s0 + w.getD 6 0 + s1) :: w)

/-- One round on the eight working words. -/
def shaRound (h : List (BitVec 64)) (kw : BitVec 64 × BitVec 64) : List (BitVec 64) :=
  match h with
  | [a, b, c, d, e, f, g, x] =>
    let s1 := e.rotateRight 14 ^^^ e.rotateRight 18 ^^^ e.rotateRight 41
    let ch := (e &&& f) ^^^ (~~~e &&& g)
    let t1 := x + s1 + ch + kw.1 + kw.2
    let s0 := a.rotateRight 28 ^^^ a.rotateRight 34 ^^^ a.rotateRight 39
    let mj := (a &&& b) ^^^ (a &&& c) ^^^ (b &&& c)
    [t1 + s0 + mj, a, b, c, d + t1, e, f, g]
  | h => h

/-- One block of 128 bytes. -/
def shaBlock (h : List (BitVec 64)) (b : List Byte) : List (BitVec 64) :=
  let w := (shaSchedule 64 (shaWords 16 b).reverse).reverse
  List.zipWith (· + ·) h (((shaK1 ++ shaK2).zip w).foldl shaRound h)

/-- The blocks of a padded message, at most `k`. -/
def shaBlocks : Nat → List (BitVec 64) → List Byte → List (BitVec 64)
  | 0, h, _ => h
  | k + 1, h, b => if b.isEmpty then h else shaBlocks k (shaBlock h (b.take 128)) (b.drop 128)

/-- SHA-384 of a byte string, its first byte in the least significant bits of the result. -/
def sha384 (m : List Byte) : BitVec 384 :=
  let h := shaBlocks (m.length / 128 + 2) shaIv (m ++ shaPad m.length)
  BitVec.ofNat 384
    ((h.take 6).foldr (fun w acc =>
      (List.range 8).foldr (fun i a => (w.toNat / 256 ^ (7 - i)) % 256 + 256 * a) acc) 0)

/-- One byte into CRC-32C, reflected. -/
def crc32Step (c : BitVec 32) (b : Byte) : BitVec 32 :=
  (List.range 8).foldl (fun c _ => if c.getLsbD 0 then c >>> 1 ^^^ 0x82F63B78 else c >>> 1) (c ^^^ b.setWidth 32)

/-- CRC-32C (Castagnoli) of a byte string (R477). -/
def crc32c (m : List Byte) : BitVec 32 := ~~~(m.foldl crc32Step 0xFFFFFFFF)

/-- CRC-64 of the ECMA-182 polynomial over bytes 0 to 247 of a flit (R487). -/
def crc64 (m : List Byte) : BitVec 64 :=
  m.foldl (fun c b =>
    (List.range 8).foldl (fun c _ => if c.getLsbD 63 then c <<< 1 ^^^ 0x42F0E1EBA9EA3693 else c <<< 1)
      (c ^^^ BitVec.ofNat 64 (b.toNat * 2 ^ 56))) 0

end Sys2Proof.Machine
end

