-- ==== Sys2Proof/Machine/State.lean ====
section
/-! DEFINITION. The state of the IH-3296, as plain data.

Objects that come and go (groups, blocks, tasks, queues, contexts, partitions) stand in lists, each under the key its
docstring names.  A core, a function or a link that is not listed is in its reset state (`Core.idle`, `Fn.idle`,
`Link.idle`). -/

namespace Sys2Proof.Machine

/-! ### Registers and splits of a group -/

/-- An affine register: base, signed stride and flag W (R53, R67). -/
structure AReg where
  base   : Dword
  stride : BitVec 32
  w      : Bool
  deriving DecidableEq, Repr

/-- A split (R37).  RSP is derived from the return entries (R371).  `last` is the PC of the split's last executed
instruction (R93), none when no instruction led to its PC; `ready` is the first cycle in which its next instruction may
issue as DIST counts from `prev` and a taken transfer allows (R34, R375); `fetched` says that the bundle at PC has been
fetched and checked (R230).  `hi` is bits [63:57] of the target of the CALL or JIND that led to PC (R117, R233). -/
structure Split where
  pc      : Pc
  hi      : BitVec 7 := 0
  mask    : LaneMask
  lc      : Word
  hold    : Bool
  last    : Option Pc
  prev    : Nat
  ready   : Nat
  fetched : Bool
  deriving DecidableEq, Repr

/-- A return entry in use (R371). -/
structure RetEntry where
  pc   : Pc
  mask : LaneMask
  deriving DecidableEq, Repr

/-- One destination of a result in flight (R36). -/
inductive Write where
  /-- Lanes of varying register r. -/
  | v (r : Nat) (m : LaneMask) (x : Row)
  /-- Lanes of handler row r. -/
  | h (r : Nat) (m : LaneMask) (x : Row)
  /-- Uniform register r. -/
  | s (r : Nat) (x : Dword)
  /-- Handler uniform register r. -/
  | hs (r : Nat) (x : Dword)
  /-- Affine register r. -/
  | a (r : Nat) (x : AReg)
  /-- Lanes of predicate r. -/
  | p (r : Nat) (m : LaneMask) (x : LaneMask)
  /-- EDGE.MODE (R80). -/
  | edge (x : BitVec 2)
  /-- FRM.RM (R81). -/
  | frm (x : BitVec 3)
  /-- Bits that become set in STATUS (R82, R83). -/
  | stSet (x : BitVec 9)
  /-- Bits that become clear in STATUS (R82). -/
  | stClr (x : BitVec 9)
  /-- Flag fn of the group clears (R235). -/
  | flag (n : Nat)
  /-- Flag fn of the handler invocation `inv` clears (R382). -/
  | hflag (inv : Nat) (n : Nat)
  deriving DecidableEq, Repr

/-- A result in flight: readable in cycle `at_`, of the instruction with issue number `seq` (R36, R263), issued in the
handler invocation `inv`, none outside a handler (R382). -/
structure Pend where
  at_ : Nat
  seq : Nat
  inv : Option Nat := none
  w   : Write
  deriving DecidableEq, Repr

/-- The condition a fault leaves (R383, R390).  `mask` is the faulting split's mask (it names the split);
`next` the next PC of FPC (R232); `fetch` marks a fault at fetch; `req` the issue number of the request that an
ECC_UNCORRECTABLE keeps (R344); `inv` the handler invocation that issued the engine operation at fault, none outside a
handler (R350, R384). -/
structure FaultInfo where
  cause : BitVec 8
  fpc   : Pc
  faddr : Dword
  flane : LaneMask
  defer : Bool
  fetch : Bool
  mask  : LaneMask
  next  : Pc
  req   : Option Nat
  inv   : Option Nat := none
  deriving DecidableEq, Repr

/-- What a group waits for beyond eligibility (R349, R385); that a translation packet halts it stands with its requests
(R137). -/
inductive GWait where
  | none
  /-- `macq` recorded the group as a waiter (R185). -/
  | token
  | gbar
  | rbar (level : Nat)
  /-- `wcnt` holds the group until it has written (R343). -/
  | wcnt (seq : Nat)
  /-- `bkpt` under a debugger (R385): the next PC of the `bkpt`. -/
  | debug (split : LaneMask) (next : Pc)
  deriving DecidableEq, Repr

/-- A handler invocation (R382): its number, its split, its flags, the fault registers, RANK and TOTAL, and what the
interrupted group waits for and until when it sleeps, which `rte` resumes (R390). -/
structure Handler where
  inv   : Nat
  split : Split
  flags : BitVec 12
  fault : FaultInfo
  rank  : Nat
  total : Nat
  saved : GWait
  sleep : Nat
  deriving DecidableEq, Repr

/-- What a memory request is (15): an access of an instruction, an ordering (`order`: of an instruction with no checked
lane, R147), the mark of a `bara` or `barx` that what was issued before it must pass (R149; `gen` is the object's phase),
the mark of an EXIT (R45), the image read of a `spawn`, the global accesses of a `cpy` (R150; `gen` is the copy's uid), or
a bundle fetch. -/
inductive ReqKind where
  | ld | st | ldw | stw | atom | red | redo | wcnt | fence | cmtk | cmtp | bara | barx | exit | spawn | cpy | fetch | order
  deriving DecidableEq, Repr

/-- Where a request stands: on its way, a packet of a halted context (R345, R470), a packet that awaits
FAULT_REPLAY or FAULT_DECLINE with its id (R137), with the driver's answer recorded (R470), or poisoned (R344).  FADDR
and FLANE of the translation fault stand with it. -/
inductive ReqState where
  | flying
  | packet
  | xlat (id faddr : Nat) (flane : LaneMask)
  | replayed (faddr : Nat) (flane : LaneMask)
  | declined (faddr : Nat) (flane : LaneMask)
  | poisoned
  deriving DecidableEq, Repr

/-- One access of a request: the lane, its effective address, its operand (store data, atomic operand, opaque index),
a second operand (the new value of CAS, the data of `stw`), the region it matched (R90), and the physical address and
HOME of its first byte.  A `cmtp` lists the accesses it waits for: group, issue number. -/
structure LaneReq where
  lane : Nat
  addr : Nat
  x    : Dword := 0
  y    : Dword := 0
  reg  : Nat := 0
  pa   : Nat := 0
  home : Nat := 0
  deriving DecidableEq, Repr

/-- A memory request (R326, R327, R470).  `seq` is its issue number; `op`, `head` and `m` its opcode, head and payload
(for an instruction of another format, `m` holds its B or object number); `uni` marks one access for the group, or a copy
that writes global memory; `flag` the completion flag to clear, 0 for none; `inv` the handler invocation it belongs to;
`born` the cycle of its issue; `det` says that it is of a DET task (R198); `sent` that it has left for homes on other dies
(R488), and `read` that a waiting `wcnt` has read its home (R343); `went` says that its instruction's sequencing is
done, and `cond` and `target` are what it reads where it is not. -/
structure Req where
  seq   : Nat
  op    : Nat
  head  : Head
  m     : MArgs
  cond  : LaneMask
  target : Dword
  kind  : ReqKind
  lanes : List LaneReq
  uni   : Bool
  mask  : LaneMask
  flag  : Nat
  inv   : Option Nat
  pc    : Pc
  next  : Pc
  split : LaneMask
  st    : ReqState
  gen   : Nat
  born  : Nat := 0
  det   : Bool := false
  sent  : Bool := false
  read  : Bool := false
  went  : Bool := true
  deriving DecidableEq, Repr

/-- A thread instruction on a format slot whose result is not yet written (R171): its issue number, slot, the cycle of
its last result, its next PC and its completion flag; and what a mismatch takes its lanes back to: its split, the group's
return entries and live mask, and its handler invocation. -/
structure SlotOp where
  seq   : Nat
  slot  : Nat
  due   : Nat
  next  : Pc
  flag  : Nat
  split : Split
  rets  : List RetEntry
  live  : LaneMask
  inv   : Option Nat
  deriving DecidableEq, Repr

/-- A group in a group slot (R22, R53).  Key: `uid`. -/
structure Group where
  uid      : Nat
  block    : Nat
  core     : Nat
  gslot    : Nat
  gindex   : Nat
  v        : List Row
  a        : List AReg
  s        : List Dword
  p        : List LaneMask
  flags    : BitVec 12
  edge     : BitVec 2
  frm      : BitVec 3
  status   : BitVec 9
  live     : LaneMask
  active   : List Split
  parked   : List Split
  rets     : List RetEntry
  h        : List Row
  hs       : List Dword
  handler  : Option Handler
  invs     : Nat
  pend     : List Pend
  reqs     : List Req
  slotOps  : List SlotOp
  seq      : Nat
  last     : Option Nat
  lastCtx  : Nat
  passed   : Nat
  yielded  : Option Nat
  sleep    : Nat
  issued   : Nat
  wait     : GWait
  deferred : List FaultInfo
  barLast  : List (Option Word)
  poison   : List Nat
  halted   : Bool
  deriving DecidableEq, Repr

/-! ### Blocks and engines -/

/-- A barrier object (R362). -/
structure Bar where
  pmask : BitVec 8
  amask : BitVec 8
  phase : Word
  deriving DecidableEq, Repr

/-- The cursor of `work` (R191). -/
structure Cursor where
  ntile : Nat
  kiter : Nat
  pos   : Nat
  stop  : Nat
  deriving DecidableEq, Repr

/-- A resident block (R23, R29).  Key: `uid`.  `runs` are its register
runs and, last, its scratchpad run as first row and rows; `accs` the accumulator tiles it holds; `scr` is the scratchpad
(bytes that are not zero), `tiles` the cells
of its tiles that are not +0 under 1,024 × tile + 32 × i + j (R175), `scrBad` the poisoned scratchpad words (R506),
`tileBad` the poisoned cells, `stk` the STACK
bytes its lanes have stored to since it was placed (R88), `unb` the groups with matrix operations that `mbat` has not
closed (R185). -/
structure Block where
  uid      : Nat
  task     : Nat
  part     : Nat
  ctx      : Nat
  blkid    : Nat
  core     : Nat
  slots    : List Nat
  runs     : List (Nat × Nat)
  accs     : List Nat
  nacc     : Nat
  scrSize  : Nat
  scr      : List Host.Cell
  scrBad   : List Nat
  stk      : List Nat
  tiles    : List (Nat × BitVec 36)
  tileBad  : List Nat
  token    : Option Nat
  tokWait  : List Nat
  batch    : Nat
  unb      : List Nat
  bars     : List Bar
  gbar     : List Nat
  rbar     : List Nat
  rbarLvl  : Option Nat
  rbarDone : List Nat
  work     : Option Cursor
  suspended : Bool
  deriving DecidableEq, Repr

/-- The descriptor of a matrix loop (R179). -/
structure MDesc where
  abase  : Nat
  bbase  : Nat
  nstep  : Nat
  ars    : Nat
  bcs    : Nat
  ainc   : Nat
  binc   : Nat
  slay   : Nat
  sfmt   : Bool
  asbase : Nat
  bsbase : Nat
  a2base : Nat
  b2base : Nat
  deriving DecidableEq, Repr

/-- What a queued matrix operation does (R356 to R358). -/
inductive MKind where
  | loop (d : MDesc) (g : List Nat) (fsA fsB : Nat)
  | out (base stride : Nat) (fs : Nat) (rm : Nat)
  | zero
  deriving DecidableEq, Repr

/-- A queued matrix operation (R186).  `batch` 0 means not yet closed by `mbat` (R188); `queued` is the cycle from which the
engine can turn to it and `ready` the first cycle in which it may begin or take its next step; `rows` are its scratchpad rows
(R187), `wrows` those it writes; `inv` is the handler invocation that issued it. -/
structure MOp where
  uid   : Nat
  block : Nat
  group : Nat
  tile  : Nat
  kind  : MKind
  step  : Nat
  ready : Nat
  batch : Nat
  rows  : List Nat
  wrows : List Nat
  queued : Nat := 0
  inv   : Option Nat := none
  deriving DecidableEq, Repr

/-- The descriptor of a copy (R351). -/
structure CDesc where
  dir     : Bool
  gaddr   : Nat
  saddr   : Nat
  len     : Nat
  nrow    : Nat
  gstride : Int
  sstride : Nat
  deriving DecidableEq, Repr

/-- A queued copy (R353, R355): its descriptor, hint, next row and byte, the PC, split and handler invocation that issued it,
the cycle from which the engine can turn to it, and the packet id while a translation fault pauses it (R139). -/
structure COp where
  uid    : Nat
  block  : Nat
  group  : Nat
  desc   : CDesc
  hnt    : Nat
  shared : Bool
  row    : Nat
  byte   : Nat
  ready  : Nat
  rows   : List Nat
  wrows  : List Nat
  pc     : Pc
  mask   : LaneMask
  paused : Option Nat
  queued : Nat := 0
  inv    : Option Nat := none
  deriving DecidableEq, Repr

/-- A sector of an L1 (R122): its physical address, its bytes with valid and written masks, its poisoned 8-byte words,
the context that
wrote it, and the block whose STACK slices it belongs to.  A core's list is in age order, youngest first. -/
structure Sector where
  pa    : Nat
  part  : Nat
  ctx   : Nat
  bytes : List Byte
  valid : BitVec 128
  dirty : BitVec 128
  bad   : BitVec 16
  stack : Option Nat
  deriving DecidableEq, Repr

/-- A core (R11).  Key: its number 48 × DIEID + 8 × row + column.  `vecFree` is the first cycle in which the vector
port is free (R33), `vecUsed`, `scaUsed` and `memUsed` the cycle in which a port last started an instruction; `mTurn` is the lowest group
slot of the block whose matrix step ran last (R186) and `mFree` the cycle in which it ended; `cTurn` and `cFree` are
those of the copy engine (R353); `left` holds the tags, partition and G, of rows that were written and not yet cleared by the
scrubber (R462, R464). -/
structure Core where
  vecFree : Nat
  vecUsed : Option Nat
  scaUsed : Option Nat
  memUsed : Option Nat
  mq      : List MOp
  cq      : List COp
  mTurn   : Nat
  mFree   : Nat
  cTurn   : Nat
  cFree   : Nat
  l1      : List Sector
  left    : List (Nat × Nat)
  deriving DecidableEq, Repr

/-- A core at reset. -/
def Core.idle : Core :=
  { vecFree := 0, vecUsed := none, scaUsed := none, memUsed := none, mq := [], cq := [], mTurn := 0, mFree := 0, cTurn := 0,
    cFree := 0, l1 := [], left := [] }

/-! ### LLC -/

/-- A 512-byte LLC line (R127, R129, R462): its physical address divided by 512, the die of its home, the partition in whose
ways it stands with the epoch E it was tagged with, its way, its allocated sectors, and its written bytes that memory does
not hold yet, by rising physical address.  Its other bytes are those of memory.  Key: partition and line. -/
structure LlcLine where
  line  : Nat
  die   : Nat
  part  : Nat
  epoch : Nat
  way   : Nat
  secs  : BitVec 4
  data  : List Host.Cell
  deriving DecidableEq, Repr

/-! ### Tasks, queues, contexts -/

/-- A region record (R84, R449). -/
structure Region where
  base  : Nat
  ext   : Nat
  mode  : Nat
  op    : Nat
  ety   : Nat
  init  : Nat
  pbase : Nat
  deriving DecidableEq, Repr

/-- A rectangle of cores or clusters. -/
structure Rect where
  x : Nat
  y : Nat
  w : Nat
  h : Nat
  deriving DecidableEq, Repr

/-- The kernel descriptor's fields (R416). -/
structure KDesc where
  entry    : Nat
  nregs    : Nat
  ngrp     : Nat
  nacc     : Nat
  scratch  : Nat
  slotmask : Nat
  stkmin   : Nat
  det      : Bool
  coop     : Bool
  fused    : Bool
  deriving DecidableEq, Repr

/-- The header of a task record (R448). -/
structure TaskHdr where
  kdesc     : Nat
  codeBase  : Nat
  codeLen   : Nat
  argsBase  : Nat
  argsLen   : Nat
  det       : Bool
  coop      : Bool
  startinv  : Bool
  nx        : Nat
  ny        : Nat
  nz        : Nat
  prio      : Nat
  reqarith  : Nat
  detseed   : Dword
  taskid    : Dword
  stackBase : Nat
  stackSz   : Nat
  cplAddr   : Nat
  sigctr    : Nat
  waits     : List (Nat × Nat)
  slotimg   : List Nat
  dieset    : BitVec 32
  aff       : Rect
  cl        : Rect
  deriving DecidableEq, Repr

/-- Where a task stands (R453). -/
inductive Phase where
  | waiting | starting | ready | running | ending | done
  deriving DecidableEq, Repr

/-- The Sparge cursor of a work-list entry (R456). -/
structure SCursor where
  record : Nat
  action : Nat
  unit   : Nat
  deriving DecidableEq, Repr

/-- What a launch has told its mirror and is not yet acknowledged (R51, R205, R366, R456): the counter, the pass of the commit
position, the counts of `rbar`, the cursor. -/
structure Told where
  sent    : Option Nat
  csent   : Option Nat
  rsent   : List Nat
  csrSent : Option SCursor
  deriving DecidableEq, Repr

/-- What changes as a task runs (R51, R202, R455, R456).  `waitsMet` is the last evaluation of the counter waits (R98).
`granted` is the leader's counter, `sent` the value sent to the mirror, `acked` the mirror's; `ask` the die and core
that found room, `grant` the id granted and its core (R51); `commit` is the commit position and `csent` the pass sent to
the mirror (R205); `retired` the blocks retired; `mirrorNew` says that the mirror has not yet acknowledged its first copy (R52); `rcnt` the
instance counts of DIE and LAUNCH, under the die's number and 32, and `rsent` those whose pass was sent to the mirror
(R366); `csrSent` the Sparge cursor sent to it (R456); `told` what of all this is on its way to the mirror, and `rtold` the
instances of `rbar` whose counts are on their way to the leader (R498); `due` the order in which its actions became due (R457); `holds` its
slots (R114); `waitFrom` the cycle from which the next block waits and `held` the held cores (R32); `cores` the cores
that served its blocks (R100); `suspect` and `lost` what its status will be (R172, R52); `kiln` a reconfiguration in
progress, its slot and end. -/
structure TaskRun where
  phase    : Phase
  status   : Nat
  cause    : BitVec 8
  waitsMet : Bool
  granted  : Nat
  sent     : Option Nat
  acked    : Nat
  ask      : Option (Nat × Nat)
  grant    : Option (Nat × Nat)
  leader   : Nat
  mirror   : Option Nat
  commit   : Nat
  csent    : Option Nat
  retired  : List Nat
  mirrorNew : Bool
  rcnt     : List (Nat × Nat)
  rsent    : List Nat
  cursor   : SCursor
  csrSent  : Option SCursor
  told     : Option Told
  rtold    : List Nat
  due      : Nat
  holds    : List Nat
  waitFrom : Nat
  held     : List Nat
  cores    : List Nat
  suspect  : Bool
  lost     : Bool
  kiln     : Option (Nat × Nat)
  deriving DecidableEq, Repr

/-- A task as its consumption leaves it. -/
def TaskRun.new : TaskRun :=
  { phase := .waiting, status := 0, cause := 0, waitsMet := false, granted := 0, sent := none, acked := 0, ask := none,
    grant := none, leader := 0, mirror := none, commit := 0, csent := none, retired := [],
    mirrorNew := false, rcnt := [], rsent := [], cursor := { record := 0, action := 0, unit := 0 }, csrSent := none, told := none, rtold := [], due := 0, holds := [], waitFrom := 0, held := [], cores := [],
    suspect := false, lost := false, kiln := none }

/-- A consumed task (R445, R455).  Key: `uid`.  `seq` is the head count of its slot. -/
structure Task where
  uid     : Nat
  part    : Nat
  ctx     : Nat
  queue   : Nat
  dev     : Bool
  qprio   : Nat
  seq     : Nat
  hdr     : TaskHdr
  kd      : KDesc
  regions : List Region
  run     : TaskRun
  deriving DecidableEq, Repr

/-- A queue (R436, R445, R447).  Key: partition, context and number. -/
structure Queue where
  part    : Nat
  ctx     : Nat
  num     : Nat
  ring    : Nat
  slots   : Nat
  dev     : Bool
  prio    : Nat
  vec     : Nat
  head    : Nat
  tail    : Nat
  stopped : Bool
  deriving DecidableEq, Repr

/-- A mapping of either stage (R128, R135, R436): `from_` the address it translates, `to_` what it gives, `home` 0 to
31 or 63, `size` the page size in bytes. -/
structure Mapping where
  from_ : Nat
  len   : Nat
  to_   : Nat
  read  : Bool
  write : Bool
  exec  : Bool
  home  : Nat
  size  : Nat
  deriving DecidableEq, Repr

/-- A context (R436, R465).  Key: partition and number.  `clk` is its time in 1/24 ns (R380, R475); `saved` holds the records
of its request packets in its save areas, with their groups (R470). -/
structure Ctx where
  part     : Nat
  num      : Nat
  root     : Dword
  maps     : List Mapping
  watchdog : Nat
  clk      : Nat
  debug    : Bool
  saved    : List (Nat × List Byte)
  deriving DecidableEq, Repr

/-! ### Partitions -/

/-- The per-core quota (R460). -/
structure Quota where
  gsBase  : Nat
  gsCnt   : Nat
  rowBase : Nat
  rowCnt  : Nat
  accBase : Nat
  accCnt  : Nat
  deriving DecidableEq, Repr

/-- A format as the descriptor gives it (R157, R158).  `kind` 0 FLOAT, 1 INTEGER, 2 TABLE; `special` and `ovf` as
coded there. -/
structure Fmt where
  kind    : Nat
  signed  : Bool
  width   : Nat
  ebits   : Nat
  fbits   : Nat
  bias    : Nat
  subn    : Bool
  special : Nat
  inf     : Bool
  ovf     : Nat
  nozero  : Bool
  rmallow : Nat
  rmdef   : Nat
  table   : List Word
  deriving DecidableEq, Repr

/-- A loaded image (R476, R481). -/
structure Image where
  id     : Nat
  tenant : Bool
  fmt    : Fmt
  digest : BitVec 384
  deriving DecidableEq, Repr

/-- An enrolled tenant key (R479, R480): its KEYID and its 448 bytes. -/
structure Key where
  id    : Dword
  bytes : List Byte
  deriving DecidableEq, Repr

/-- An entry of a measurement log (R483). -/
structure LogEntry where
  seq    : Nat
  kind   : Nat
  part   : Nat
  slot   : Nat
  image  : Nat
  where_ : BitVec 48
  digest : BitVec 384
  deriving DecidableEq, Repr

/-- A measurement log (R483, R484): the newest entries, M before the first of them, and M. -/
structure MLog where
  next    : Nat
  m0      : BitVec 384
  m       : BitVec 384
  entries : List LogEntry
  deriving DecidableEq, Repr

/-- The counters of R381 that a partition keeps for a core or a die: the event, the place and the count. -/
structure PmcCount where
  event : Nat
  place : Nat
  count : Nat
  deriving DecidableEq, Repr

/-- A gang switch in progress (R467, R471): the context going in, the cycle of the tick, the dies that have saved
and those reported late. -/
structure Switch where
  to_   : Option Nat
  tick  : Nat
  saved : List Nat
  late  : List Nat
  deriving DecidableEq, Repr

/-- A partition (R461).  Key: its number.  `slotImg` is the image of each slot, 0 for none; `config` the slots being
bound; `bare` the (die, slot) pairs whose cores a PART_RESIZE has added since the slot was bound, UNBOUND there (R169);
`corrupt` the (core, slot) pairs that are CORRUPT with the reloads tried (R171, R173); `uses` the (core, slot,
task) uses since the last clean readback (R172).  `outDies` are the dies fenced for it (R471), `resize` a PART_RESIZE in
progress: its die mask, its quota, and whether they have taken effect (R472). -/
structure Part where
  num      : Nat
  dies     : BitVec 32
  quota    : Quota
  slotMask : BitVec 8
  ways     : BitVec 16
  root     : Dword
  maps     : List Mapping
  handler  : Option (Nat × Nat × Nat)
  pmcAllow : BitVec 64
  pmc      : List PmcCount
  tenantOk : Bool
  pinned   : BitVec 8
  keys     : List Key
  images   : List Image
  slotImg  : List Nat
  config   : List Nat
  bare     : List (Nat × Nat)
  corrupt  : List (Nat × Nat × Nat)
  uses     : List (Nat × Nat × Nat)
  log      : MLog
  genG     : Nat
  genE     : Nat
  resident : Option Nat
  created  : Nat
  nextTick : Nat
  switch   : Option Switch
  outDies  : List Nat
  resize   : Option (BitVec 32 × Quota × Bool)
  deriving DecidableEq, Repr

/-! ### The host side -/

/-- A PCIe function's registers (R431) and its vectors (R440).  Key: 0 for PF0, n + 1 for VF n.  `store` holds the
records that wait for ring space (R441); `raised` the vectors signalled; `due` the held ones with their cycles; `apert` the partition, context and
address that BAR4 shows (R430); `reply` the bytes of the host's last read of the function, none after an Unsupported Request (R430). -/
structure Fn where
  cmdBase : Dword
  cmdSize : Dword
  cmdTail : Dword
  cmdHead : Dword
  evtBase : Dword
  evtSize : Dword
  evtTail : Dword
  evtHead : Dword
  intctl  : Dword
  evtDrop : Dword
  evtSeq  : Nat
  cmdErr  : Bool
  evtOvf  : Bool
  store   : List (BitVec 512)
  raised  : List Nat
  due     : List (Nat × Nat)
  sentAt  : List (Nat × Nat)
  apert   : Option (Nat × Nat × Nat)
  reply   : Option (List Byte)
  deriving DecidableEq, Repr

/-- A function at reset (R431). -/
def Fn.idle : Fn :=
  { cmdBase := 0, cmdSize := 0, cmdTail := 0, cmdHead := 0, evtBase := 0, evtSize := 0, evtTail := 0, evtHead := 0,
    intctl := 0, evtDrop := 0, evtSeq := 0, cmdErr := false, evtOvf := false, store := [], raised := [], due := [], sentAt := [],
    apert := none, reply := none }

/-- The role of an I/O port (R19, R436). -/
inductive Port where
  | idle | cxl | peer | host
  deriving DecidableEq, Repr

/-! ### Die links -/

/-- What crosses die links (R488, R498): the request of a group toward a home or, of a `cmtp`, toward the leader, and its
completion; the data of a copy; a sector that a core's L1 writes back; a die's request for an id and the grant; what a leader
tells its mirror, and the acknowledgement; counts of `rbar`; a block of a launch that has retired; the commit token; a tick. -/
inductive MsgKind where
  | req (group seq : Nat)
  | rsp (group seq : Nat)
  | data
  | wback (core : Nat) (x : Sector)
  | ask (task : Nat)
  | grant (task : Nat)
  | tell (task : Nat)
  | ack (task : Nat)
  | rbar (task : Nat)
  | retire (task block : Nat)
  | commit (task : Nat)
  | tick (part : Nat)
  deriving DecidableEq, Repr

/-- A message from one die to another on a virtual channel (R488). -/
structure Msg where
  src  : Nat
  dst  : Nat
  vc   : Nat
  kind : MsgKind
  deriving DecidableEq, Repr

/-- The payload of a flit (R487, R490): none, an audit with A of each channel, its reply with V and P, or a message. -/
inductive Body where
  | none
  | audit (a : List Nat)
  | reply (v p : List Nat)
  | msg (m : Msg)
  deriving DecidableEq, Repr

/-- A flit on a link (R487).  Its AUDIT bit, its 256 bytes and its CRC follow from these (`Flit.bytes`). -/
structure Flit where
  seq  : BitVec 12
  ack  : BitVec 12
  nak  : Bool
  vc   : BitVec 2
  rvc  : BitVec 2
  rcnt : BitVec 8
  body : Body
  deriving DecidableEq, Repr

/-- One direction of a die link (R488 to R492): the sender's next SEQ, last acknowledged SEQ, available counts, replay buffer
with the resends of each flit, flits sent since the last audit, audit in progress (its cycle), audits given up whose replies
are still to come, and whether a retrain's resend follows the audit; the receiver's last accepted SEQ, the flits in its
receive slots, freed counts, NAK, the cycle by which it owes an acknowledgement, and how many audits it has to answer; the
wire, each flit with the CRC that it carries; failed audits; the cycles of the retrains that failed within 1 ms; the retrain
in progress; the cycle of the last acknowledgement; an audit reply (V, P) that has arrived; and whether the link is down. -/
structure Link where
  seq      : BitVec 12
  acked    : BitVec 12
  avail    : List Nat
  replay   : List (Flit × Nat)
  since    : Nat
  audit    : Option Nat
  missed   : Nat
  resend   : Bool
  rxSeq    : BitVec 12
  rx       : List Flit
  freed    : List Nat
  nak      : Bool
  owe      : Option Nat
  asked    : Nat
  wire     : List (Flit × BitVec 64)
  badAudit : Nat
  fails    : List Nat
  training : Bool
  lastAck  : Nat
  reply    : Option (List Nat × List Nat)
  down     : Bool
  deriving DecidableEq, Repr

/-- Receive slots of the four virtual channels (R488). -/
def vcSlots : List Nat := [96, 192, 96, 32]

/-- A link at reset (R487, R488): SEQ 0, ACK 0xFFF, every receive slot available. -/
def Link.idle : Link :=
  { seq := 0, acked := 0xFFF, avail := vcSlots, replay := [], since := 0, audit := none, missed := 0, resend := false,
    rxSeq := 0xFFF, rx := [], freed := [0, 0, 0, 0], nak := false, owe := none, asked := 0, wire := [], badAudit := 0,
    fails := [], training := false, lastAck := 0, reply := none, down := false }

/-! ### The fleet side -/

/-- A record as an event ring and the error log hold it (R442, R504). -/
abbrev Record := BitVec 512

/-- Firmware, power and the side-band (R432, R500 to R504): the operating point (0 to 5), a transition's target, whether a
partition has been created (R436), whether the command at the head has begun and waits (R435), READY, THERMHALT, sensors by id, the I3C address and EID, the error log with its next SEQ, replies sent. -/
structure Fleet where
  op        : Nat
  opTarget  : Option Nat
  parted    : Bool
  busy      : Bool
  ready     : Bool
  thermhalt : Bool
  sensors   : List (Nat × Int)
  platform  : List (Nat × Bool)
  i3cAddr   : Option (BitVec 7)
  eid       : BitVec 8
  errlog    : List Record
  errNext   : Nat
  modlog    : MLog
  out       : List (Via × List Byte)
  deriving DecidableEq, Repr

/-! ### Whose turn it is -/

/-- A turn of the script: what moves next.  The model's own data (log 2). -/
inductive Turn where
  /-- A step that is no slot instruction. -/
  | op (i : Instr)
  /-- The host writes bytes of its own memory, at an IOVA of a function. -/
  | host (fn : Nat) (addr : Nat) (bytes : List Byte)
  /-- An SPDM request arrives. -/
  | spdm (r : SpdmReq)
  /-- A side-band message arrives. -/
  | side (m : SideMsg)
  /-- An MCTP message of a type arrives on the side-band (R500). -/
  | message (type : BitVec 8) (bytes : List Byte)
  /-- A die has data for another die, on a virtual channel (R488). -/
  | send (src dst vc : Nat)
  /-- A peer module writes bytes of its own memory (R499). -/
  | peer (pa : Nat) (bytes : List Byte)
  /-- The host reads `width` bytes of a function's configuration space (R429). -/
  | config (fn off width : Nat)
  /-- The host reads or writes `width` bytes of BAR0 of a function (R431). -/
  | bar0 (fn off width : Nat) (value : Option Dword)
  /-- The host reads or writes `width` bytes of BAR2 of a function, its doorbells (R438, R445). -/
  | bar2 (fn off width : Nat) (value : Option Dword)
  /-- The turns that follow wait until this cycle; the part runs by itself meanwhile. -/
  | until_ (cycle : Nat)
  /-- A request of a group, by its issue number, is not performed before a cycle (R327: memory answers when it will). -/
  | hold (group : Nat) (seq : Nat) (cycle : Nat)
  /-- A soft error (R505, R506; `State.upset`): its kind, the group, block or core it strikes, the place. -/
  | upset (kind : Nat) (uid : Nat) (place : Nat)
  deriving DecidableEq, Repr

/-! ### The whole -/

/-- Why the machine stops. -/
inductive Fault where
  /-- Raised by a slot instruction when `cur` names no group: no run reaches such a state, since `step` sets `cur` to
  the group it issues from.  Safe: the machine stops where the hardware has no such state. -/
  | noGroup
  deriving DecidableEq, Repr

/-- Why the machine refuses an instruction. -/
inductive Refusal where
  /-- Raised by the dispatcher for an instruction whose meaning is not written.  Safe: the machine stops. -/
  | notModelled (mnemonic : String)
  deriving DecidableEq, Repr

/-- The whole module.  `cur` is the group whose instruction executes; `nextPc` and `yld` are what the fetch of that
instruction gave: its next PC (R232) and its YLD hint (R231); `stall` says that the
instruction found itself unable to issue (log 2); `late` names requests, by group and issue number, with a cycle before which
they are not performed (log 54).  `llc` holds the lines of every LLC slice; `scanAt` is the cycle of the next readback of the
slots' configuration and `scan` the cores and slots that this one has still to reach (R171); `scrubAt` and `scrub` are those of
the scrubber and its dies (R464).  `gens` holds G and E of the partition numbers that do not
exist now (R462).  `msgs` holds the messages that wait at a die for their next link, each with the cycle from which no path
has been left for it (R494, R495), and `away` those that have not arrived.  `cured` holds, for sectors with poisoned words, the
bytes that the host has written since (R506). -/
structure State where
  now     : Nat
  script  : List Turn
  cur     : Nat
  nextPc  : Pc
  yld     : Bool
  stall   : Bool
  late    : List (Nat × Nat × Nat)
  fresh   : Nat
  uid     : Nat
  groups  : List Group
  blocks  : List Block
  cores   : List (Nat × Core)
  tasks   : List Task
  queues  : List Queue
  ctxs    : List Ctx
  parts   : List Part
  gens    : List (Nat × Nat × Nat)
  fns     : List (Nat × Fn)
  cmdq    : List (Nat × Dword)
  cmd     : Cmd
  spdm    : SpdmReq
  side    : SideMsg
  ports   : List Port
  mem     : List Host.Cell
  llc     : List LlcLine
  bad     : List Nat
  peer    : List Host.Cell
  hmem    : List Host.Cell
  links   : List (Nat × Link)
  deadDies  : List Nat
  deadCores : List Nat
  msgs    : List (Nat × Option Nat × Msg)
  away    : List Msg
  cured   : List (Nat × BitVec 128)
  scanAt  : Nat
  scan    : List (Nat × Nat)
  scrubAt : Nat
  scrub   : List Nat
  fleet   : Fleet
  deriving DecidableEq, Repr

/-- The 64 bytes of a log entry (R483), lowest address first in the least significant bits. -/
def LogEntry.bits (e : LogEntry) : BitVec 512 :=
  e.digest ++ e.where_ ++ BitVec.ofNat 16 e.image ++ (0 : BitVec 8) ++ BitVec.ofNat 8 e.slot ++
    BitVec.ofNat 8 e.part ++ BitVec.ofNat 8 e.kind ++ BitVec.ofNat 32 e.seq

/-- The first `n` bytes of a number, lowest address first. -/
def bytesOf : Nat → Nat → List Byte
  | 0, _ => []
  | n + 1, x => BitVec.ofNat 8 x :: bytesOf n (x / 256)

/-- M extended by an entry: SHA-384(M ‖ entry) (R483). -/
def MLog.extend (m : BitVec 384) (e : LogEntry) : BitVec 384 :=
  sha384 (bytesOf 48 m.toNat ++ bytesOf 64 e.bits.toNat)

/-- A log with one entry more (R483), of which the newest 65,536 are kept (R484). -/
def MLog.add (l : MLog) (kind part slot image : Nat) (w : BitVec 48) (d : BitVec 384) : MLog :=
  let e : LogEntry := { seq := l.next, kind := kind, part := part, slot := slot, image := image, where_ := w, digest := d }
  let es := l.entries ++ [e]
  match es with
  | o :: t => if 65536 < es.length then
      { next := l.next + 1, m0 := MLog.extend l.m0 o, m := MLog.extend l.m e, entries := t }
    else { next := l.next + 1, m0 := l.m0, m := MLog.extend l.m e, entries := es }
  | [] => l

/-- A log at its start: M of zero bytes and a FIRMWARE entry (R483). -/
def MLog.start : MLog :=
  ({ next := 0, m0 := 0, m := 0, entries := [] } : MLog).add 0 0xFF 0xFF 0 0 Config.romDigest

/-- Firmware, power and the side-band right after reset (R432: OP 4; every value the spec does not give is log 5
or 6). -/
def Fleet.reset : Fleet :=
  { op := 4, opTarget := none, parted := false, busy := false, ready := false, thermhalt := false, sensors := [],
    platform := [], i3cAddr := none, eid := 0, errlog := [], errNext := 0, modlog := MLog.start, out := [] }

/-- The machine right after reset: no partition, context, task or image (R502); every RW register zero (R431). -/
def State.reset : State :=
  { now := 0, script := [], cur := 0, nextPc := 0, yld := false, stall := false, late := [], fresh := 0, uid := 1, groups := [], blocks := [], cores := [], tasks := [],
    queues := [], ctxs := [], parts := [], gens := [], fns := [], cmdq := [],
    cmd := { fn := 0, rsvd := false, pv := false, part := 0, tag := 0, opc := 0, a0 := 0, a1 := 0, a2 := 0, a3 := 0,
             a4 := 0 },
    spdm := { via := .mctp, code := 0, param := 0 }, side := .errlogInfo,
    ports := Port.host :: List.replicate 31 Port.idle, mem := [], llc := [], bad := [], peer := [], hmem := [], links := [],
    deadDies := [], deadCores := [], msgs := [], away := [], cured := [], scanAt := 0, scan := [], scrubAt := 0, scrub := [], fleet := Fleet.reset }

end Sys2Proof.Machine
end

