-- ==== Sys2Proof/Machine/Basic.lean ====
section
/-! DEFINITION. Helpers without a rule of their own: bits, lane masks, tables of State, and byte maps in canonical
form. -/

namespace Sys2Proof.Machine

open Host (Outcome Cell)

/-! ### Bits and numbers -/

/-- A Dword of a number, modulo 2^64. -/
def dw (n : Nat) : Dword := BitVec.ofNat 64 n

/-- A Word of a number, modulo 2^32. -/
def wd (n : Nat) : Word := BitVec.ofNat 32 n

/-- Bits [lo + len − 1 : lo] of a number. -/
def fld (x lo len : Nat) : Nat := x / 2 ^ lo % 2 ^ len

/-- Bit `i` of a number. -/
def bitOf (x i : Nat) : Bool := x.testBit i

/-- x truncated to n bits and read as two's complement. -/
def sextNat (x n : Nat) : Int :=
  let y := x % 2 ^ n
  if y < 2 ^ (n - 1) then (y : Int) else (y : Int) - (2 ^ n : Nat)

/-- An integer modulo 2^n (Trunc). -/
def truncInt (x : Int) (n : Nat) : Nat := (x % ((2 ^ n : Nat) : Int)).toNat

/-- The number a little-endian byte string holds (R6). -/
def leOf : List Byte → Nat
  | [] => 0
  | b :: t => b.toNat + 256 * leOf t

/-- Rounds up to a multiple. -/
def roundUp (x k : Nat) : Nat := (x + k - 1) / k * k

/-! ### Lane masks (R22, R37) -/

/-- Every lane. -/
def allLanes : LaneMask := BitVec.allOnes 96

/-- The lanes of a mask in ascending order. -/
def lanesOf (m : LaneMask) : List Nat := (List.range 96).filter fun i => m.getLsbD i

/-- The mask of the lanes a test accepts. -/
def maskOf (f : Nat → Bool) : LaneMask :=
  BitVec.ofNat 96 ((List.range 96).foldr (fun i a => 2 * a + (f i).toNat) 0)

/-- The lowest lane of a mask, 96 for none. -/
def lowLane (m : LaneMask) : Nat := (lanesOf m).headD 96

/-- The lanes of beat b (R22). -/
def beatMask (b : Nat) : LaneMask := BitVec.ofNat 96 (0xFFFFFFFF * 2 ^ (32 * b))

/-- A row of one value. -/
def rowOf (x : Word) : Row := List.replicate 96 x

/-- The row of a function of the lane. -/
def mkRow (f : Nat → Word) : Row := (List.range 96).map f

/-- A row with the lanes of a mask replaced. -/
def rowMerge (m : LaneMask) (old new : Row) : Row := mkRow fun i => if m.getLsbD i then new.getD i 0 else old.getD i 0

/-! ### Tables -/

/-- Every entry that satisfies a test is replaced by its image. -/
def updIf {α : Type} (p : α → Bool) (f : α → α) (l : List α) : List α := l.map fun x => if p x then f x else x

/-- The value under a key, or the value an unlisted key has. -/
def getKey {α : Type} (d : α) (k : Nat) : List (Nat × α) → α
  | [] => d
  | (j, x) :: t => if j == k then x else getKey d k t

/-- The table with a value under a key. -/
def setKey {α : Type} (k : Nat) (v : α) : List (Nat × α) → List (Nat × α)
  | [] => [(k, v)]
  | (j, x) :: t => if j == k then (k, v) :: t else (j, x) :: setKey k v t

/-! ### Bytes by address -/

/-- Canonical form: addresses strictly rising and no entry that equals what an unlisted address reads as, 0 (log 4). -/
def cellsWf : List Cell → Bool
  | [] => true
  | [(_, b)] => b != 0
  | (a, b) :: (c, d) :: t => b != 0 && a < c && cellsWf ((c, d) :: t)

/-- The byte at an address; an unlisted one reads 0 (log 4). -/
def cellGet (a : Nat) : List Cell → Byte
  | [] => 0
  | (k, b) :: t => if k == a then b else cellGet a t

/-- The cells with a byte written, in canonical form. -/
def cellSet (a : Nat) (x : Byte) : List Cell → List Cell
  | [] => if x == 0 then [] else [(a, x)]
  | (k, b) :: t =>
    if a < k then (if x == 0 then (k, b) :: t else (a, x) :: (k, b) :: t)
    else if k == a then (if x == 0 then t else (a, x) :: t)
    else (k, b) :: cellSet a x t

/-- `n` bytes from an address on. -/
def cellRead (m : List Cell) (a : Nat) : Nat → List Byte
  | 0 => []
  | n + 1 => cellGet a m :: cellRead m (a + 1) n

/-- A byte string written from an address on. -/
def cellWrite (m : List Cell) (a : Nat) : List Byte → List Cell
  | [] => m
  | b :: t => cellWrite (cellSet a b m) (a + 1) t

/-- A byte put among others by rising address; unlike memory, a zero byte is listed. -/
def cellPut (a : Nat) (x : Byte) : List Cell → List Cell
  | [] => [(a, x)]
  | (k, b) :: t =>
    if a < k then (a, x) :: (k, b) :: t
    else if k == a then (a, x) :: t
    else (k, b) :: cellPut a x t

/-! ### The parts of State -/

/-- The group of a uid. -/
def State.group? (s : State) (u : Nat) : Option Group := s.groups.find? (·.uid == u)

/-- The state with a group replaced, under its uid. -/
def State.putGroup (s : State) (g : Group) : State := { s with groups := updIf (·.uid == g.uid) (fun _ => g) s.groups }

/-- The block of a uid. -/
def State.block? (s : State) (u : Nat) : Option Block := s.blocks.find? (·.uid == u)

/-- The state with a block replaced, under its uid. -/
def State.putBlock (s : State) (b : Block) : State := { s with blocks := updIf (·.uid == b.uid) (fun _ => b) s.blocks }

/-- The task of a uid. -/
def State.task? (s : State) (u : Nat) : Option Task := s.tasks.find? (·.uid == u)

/-- The state with a task replaced, under its uid. -/
def State.putTask (s : State) (t : Task) : State := { s with tasks := updIf (·.uid == t.uid) (fun _ => t) s.tasks }

/-- A partition by number. -/
def State.part? (s : State) (n : Nat) : Option Part := s.parts.find? (·.num == n)

/-- The state with a partition replaced, under its number. -/
def State.putPart (s : State) (p : Part) : State := { s with parts := updIf (·.num == p.num) (fun _ => p) s.parts }

/-- A context by partition and number. -/
def State.ctx? (s : State) (p c : Nat) : Option Ctx := s.ctxs.find? fun x => x.part == p && x.num == c

/-- The state with a context replaced. -/
def State.putCtx (s : State) (c : Ctx) : State :=
  { s with ctxs := updIf (fun x => x.part == c.part && x.num == c.num) (fun _ => c) s.ctxs }

/-- A queue by partition, context and number. -/
def State.queue? (s : State) (p c q : Nat) : Option Queue :=
  s.queues.find? fun x => x.part == p && x.ctx == c && x.num == q

/-- The state with a queue replaced. -/
def State.putQueue (s : State) (q : Queue) : State :=
  { s with queues := updIf (fun x => x.part == q.part && x.ctx == q.ctx && x.num == q.num) (fun _ => q) s.queues }

/-- A core by number. -/
def State.core (s : State) (c : Nat) : Core := getKey Core.idle c s.cores

/-- The state with a core replaced. -/
def State.putCore (s : State) (c : Nat) (k : Core) : State := { s with cores := setKey c k s.cores }

/-- A PCIe function. -/
def State.fn (s : State) (f : Nat) : Fn := getKey Fn.idle f s.fns

/-- The state with a function replaced. -/
def State.putFn (s : State) (f : Nat) (x : Fn) : State := { s with fns := setKey f x s.fns }

/-- One direction of a die link. -/
def State.link (s : State) (l : Nat) : Link := getKey Link.idle l s.links

/-- The state with a link replaced. -/
def State.putLink (s : State) (l : Nat) (x : Link) : State := { s with links := setKey l x s.links }

/-- Host memory of a function: IOVA spaces are kept apart by the function's number (log 4). -/
def hostAddr (fn addr : Nat) : Nat := fn * 2 ^ 64 + addr

/-- `n` bytes of host memory (R431, R433). -/
def State.hostRead (s : State) (fn addr n : Nat) : List Byte := cellRead s.hmem (hostAddr fn addr) n

/-- Host memory with bytes written. -/
def State.hostWrite (s : State) (fn addr : Nat) (b : List Byte) : State :=
  { s with hmem := cellWrite s.hmem (hostAddr fn addr) b }

/-! ### Places (R12, R13) -/

/-- The die of a core number. -/
def coreDie (c : Nat) : Nat := c / 48

/-- COREX of a core number (R13). -/
def coreX (c : Nat) : Nat := 8 * (c / 48 % 8) + c % 48 % 8

/-- COREY of a core number (R13). -/
def coreY (c : Nat) : Nat := 6 * (c / 48 / 8) + c % 48 / 8

/-- The core number at COREX, COREY (R13). -/
def coreAt (x y : Nat) : Nat := 48 * (8 * (y / 6) + x / 8) + 8 * (y % 6) + x % 8

/-- Whether an operating point runs the core clock: OP0 to OP2, outside THERMHALT (R502, R503). -/
def State.clocked (s : State) : Bool := s.fleet.op ≤ 2 && !s.fleet.thermhalt && s.fleet.opTarget.isNone

/-- Half nanoseconds per core cycle: 2.0, 1.6 and 1.2 GHz (R16), in units of 1/24 ns so that all three are whole. -/
def State.tickLen (s : State) : Nat :=
  match s.fleet.op with | 0 => 12 | 1 => 15 | _ => 20

/-- Cycles of a time in microseconds at the present operating point (R16). -/
def State.cyclesOfUs (s : State) (us : Nat) : Nat := 24000 * us / s.tickLen

end Sys2Proof.Machine
end

