-- ==== Sys2Proof/Machine/Records.lean ====
section
/-! DEFINITION. Event records, the error log and interrupts (spec 23 R440 to R443, 28 R504). -/

namespace Sys2Proof.Machine

/-- What a fault or event record carries (R442), before it gets its SEQ. -/
structure RecInfo where
  type      : Nat
  part      : Option Nat := none
  ctx       : Option Nat := none
  taskid    : Dword := 0
  cause     : BitVec 8 := 0
  core      : Option Nat := none
  gslot     : Nat := 0
  rank      : Nat := 0
  fpc       : Pc := 0
  faddr     : Dword := 0
  flane     : LaneMask := 0
  pkt       : Nat := 0
  detail    : Dword := 0
  replay    : Bool := false
  double    : Bool := false
  nohandler : Bool := false
  deriving DecidableEq, Repr

/-- The 64 bytes of a record (R442). -/
def RecInfo.bits (r : RecInfo) (seq : Nat) : Record :=
  r.detail ++ BitVec.ofNat 32 r.pkt ++ r.flane ++ r.faddr ++ (0 : BitVec 7) ++ r.fpc ++ (0 : BitVec 16) ++
    BitVec.ofNat 8 r.rank ++ BitVec.ofNat 8 r.gslot ++ BitVec.ofNat 8 ((r.core.map coreY).getD 0) ++
    BitVec.ofNat 8 ((r.core.map coreX).getD 0) ++ BitVec.ofNat 8 ((r.core.map coreDie).getD 0) ++ r.cause ++ r.taskid ++
    BitVec.ofNat 32 seq ++ BitVec.ofNat 8 (r.ctx.getD 0xFF) ++ BitVec.ofNat 8 (r.part.getD 0xFF) ++ (0 : BitVec 4) ++
    BitVec.ofBool r.nohandler ++ BitVec.ofBool r.double ++ BitVec.ofBool r.replay ++ (0 : BitVec 1) ++
    BitVec.ofNat 8 r.type

/-- Whether a record is that of packet `id`, which awaits the driver's answer (R441, R442). -/
def replayOf (r : Record) (id : Nat) : Bool := r.getLsbD 9 && (r.extractLsb' 416 32).toNat == id % 2 ^ 32

/-- Raises an MSI-X vector of a function (R440). -/
def Fn.raise (f : Fn) (vec : Nat) : Fn := { f with raised := f.raised ++ [vec] }

/-- Whether the event ring has room for a record (R431, R441). -/
def Fn.evtRoom (f : Fn) : Bool :=
  f.evtSize != 0 && (f.evtTail - f.evtHead).toNat < 2 ^ f.evtSize.toNat

/-- Writes a record to the ring of a function, then advances EVTTAIL and signals vector 1 (R440, R441). -/
def State.ringRecord (s : State) (fn : Nat) (r : Record) : State :=
  let f := s.fn fn
  let at_ := f.evtBase.toNat + 64 * (f.evtTail.toNat % 2 ^ f.evtSize.toNat)
  let f' := { f with evtTail := f.evtTail + 1 }
  (s.hostWrite fn at_ (bytesOf 64 r.toNat)).putFn fn (if f.intctl.getLsbD 17 then f'.raise 1 else f')

/-- Delivers a record to a function (R441): to the ring, else to the firmware store of 1,024, else it is dropped,
counted in EVTDROP and EVTOVF is set; a record with REPLAY is kept in any case.  A record that the store takes does not set
EVTOVF (DESIGN CHOICE, log 78: R441 sets it at a drop, R432 says of it a record due while the ring was full). -/
def State.deliver (s : State) (fn : Nat) (i : RecInfo) : State :=
  let f := s.fn fn
  let r := i.bits f.evtSeq
  let s := s.putFn fn { f with evtSeq := f.evtSeq + 1 }
  let f := s.fn fn
  if f.evtRoom && f.store.isEmpty then s.ringRecord fn r
  else if i.replay || f.store.length < 1024 then s.putFn fn { f with store := f.store ++ [r] }
  else s.putFn fn { f with evtDrop := f.evtDrop + 1, evtOvf := true }

/-- The record types the error log holds (R504): ECC, LINK, SLOT_ERROR, SWITCH_LATE, THERMHALT. -/
def logged (type : Nat) : Bool := [0x04, 0x05, 0x06, 0x07, 0x08].contains type

/-- Appends a record to the error log, of which the newest 4,096 are kept (R504); SEQ is the log's own (log 14). -/
def Fleet.log (f : Fleet) (i : RecInfo) : Fleet :=
  let l := f.errlog ++ [i.bits f.errNext]
  { f with errlog := l.drop (l.length - 4096), errNext := f.errNext + 1 }

/-- Writes an event record: to the function that owns the context, PF0 for a record with no partition (R441), and to
the error log where R504 lists its type. -/
def State.record (s : State) (i : RecInfo) : State :=
  let s := if logged i.type then { s with fleet := s.fleet.log i } else s
  s.deliver (match i.part with | some p => p + 1 | none => 0) i

/-- Signals a queue's vector after a completion record: at most once per COAL interval, the rest held to its end, which a
signal that is due before it takes along (R440). -/
def State.signalQueue (s : State) (fn vec : Nat) : State :=
  let f := s.fn fn
  let coal := s.cyclesOfUs (f.intctl.toNat % 65536)
  let last := f.sentAt.find? (·.1 == vec)
  match last with
  | some (_, t) =>
    if s.now < t + coal then
      if f.due.any (·.1 == vec) then s else s.putFn fn { f with due := f.due ++ [(vec, t + coal)] }
    else s.putFn fn { f.raise vec with sentAt := setKey vec s.now f.sentAt, due := f.due.filter (·.1 != vec) }
  | none => s.putFn fn { f.raise vec with sentAt := setKey vec s.now f.sentAt }

end Sys2Proof.Machine
end

