-- ==== Sys2Proof/Machine/Mem.lean ====
section
/-! DEFINITION. Global memory: translation, homes, links, L1, the region check (spec 04 R84 to R95, 05 R117 to R139,
27 R493 to R499). -/

namespace Sys2Proof.Machine

/-! ### Translation (R128, R135) -/

/-- A final page: physical address of the byte asked for, permissions of both stages, HOME of the second. -/
structure Page where
  pa    : Nat
  read  : Bool
  write : Bool
  exec  : Bool
  home  : Nat
  deriving DecidableEq, Repr

/-- The mapping of a stage that covers an address. -/
def findMap (a : Nat) (l : List Mapping) : Option Mapping := l.find? fun m => m.from_ ≤ a && a < m.from_ + m.len

/-- Two-stage translation of a virtual address (R135); none where an entry of either stage is missing; HOME is
the second stage's (log 30). -/
def State.translate (s : State) (part ctx va : Nat) : Option Page := do
  let c ← s.ctx? part ctx
  let p ← s.part? part
  let m ← findMap va c.maps
  let ia := m.to_ + (va - m.from_)
  let n ← findMap ia p.maps
  pure { pa := n.to_ + (ia - n.from_), read := m.read && n.read, write := m.write && n.write,
         exec := m.exec && n.exec, home := n.home }

/-- Whether a physical address lies in a peer window (R499). -/
def isPeer (pa : Nat) : Bool := pa.testBit 51

/-- The die that homes a physical address (R127, R128). -/
def homeDie (home pa : Nat) : Nat := if home < 32 then home else pa / 4096 % 64 / 2

/-- Where physical memory ends (R18; log 59): the HBM4E stacks, then a share for each port in the CXL role. -/
def State.memEnd (s : State) : Nat := Config.hbmBytes + Config.tierBytes * (s.ports.filter (· == .cxl)).length

/-- Whether physical addresses from `pa` on lie in second-tier memory (R130; log 59). -/
def isTier (pa n : Nat) : Bool := !isPeer pa && Config.hbmBytes < pa + n

/-! ### Die links (R493 to R496) -/

/-- The two dies of die link `l` (0 to 51): 28 horizontal pairs, then 24 vertical (R10; log 15). -/
def linkDies (l : Nat) : Nat × Nat :=
  if l < 28 then (8 * (l / 7) + l % 7, 8 * (l / 7) + l % 7 + 1)
  else (8 * ((l - 28) / 8) + (l - 28) % 8, 8 * ((l - 28) / 8) + (l - 28) % 8 + 8)

/-- Whether die link `l` is up: neither direction down. -/
def State.linkUp (s : State) (l : Nat) : Bool := !(s.link (2 * l)).down && !(s.link (2 * l + 1)).down

/-- A set of dies extended by their neighbours over up links: by one hop. -/
def State.spread (s : State) (m : BitVec 32) : BitVec 32 :=
  (List.range 52).foldl (fun n l =>
    let d := linkDies l
    if s.linkUp l then
      n ||| (if m.getLsbD d.1 then BitVec.twoPow 32 d.2 else 0) ||| (if m.getLsbD d.2 then BitVec.twoPow 32 d.1 else 0)
    else n) m

/-- The dies that up links join to die `d`. -/
def State.component (s : State) (d : Nat) : BitVec 32 :=
  (List.range 32).foldl (fun m _ => s.spread m) (BitVec.twoPow 32 d)

/-- Whether an access of die `d` reaches a home on die `h` (R495, R496): the home is not fenced and a path of up links
joins them. -/
def State.reaches (s : State) (d h : Nat) : Bool :=
  !s.deadDies.contains h &&
    (d == h || s.links.all (fun l => !l.2.down) || (s.component d).getLsbD h)

/-- Whether the home of a page can be reached at all: its die is not fenced (R496). -/
def State.homeUp (s : State) (p : Page) : Bool := isPeer p.pa || !s.deadDies.contains (homeDie p.home p.pa)

/-! ### The LLC home (R127 to R130, R461 to R463)

Each line has one home: `homeRead` and `homeWrite` are all that reaches it.  What a partition finds there is its own line of
the LLC, memory where it has none, zero where the line's epoch is stale. -/

/-- A message from one die to another waits at its die for its first link (R488, R493); within a die none is needed. -/
def State.carry (s : State) (m : Msg) : State :=
  if m.src == m.dst then s else { s with msgs := s.msgs ++ [(m.src, none, m)], away := s.away ++ [m] }

/-- Whether a message of a kind has not arrived. -/
def State.inTransit (s : State) (k : MsgKind) : Bool := s.away.any (·.kind == k)

/-- HOME of a physical address: that of a page mapped to it, else INTERLEAVE (log 30). -/
def State.homeOf (s : State) (pa : Nat) : Nat :=
  match s.parts.findSome? fun p => p.maps.find? fun m => m.to_ ≤ pa && pa < m.to_ + m.len with
  | some m => m.home
  | none => 63

/-- A count of a partition one higher (R381). -/
def State.countUp (s : State) (part event place : Nat) : State :=
  match s.part? part with
  | none => s
  | some p =>
    let at_ (k : PmcCount) : Bool := k.event == event && k.place == place
    if p.pmc.any at_ then s.putPart { p with pmc := updIf at_ (fun k => { k with count := k.count + 1 }) p.pmc }
    else s.putPart { p with pmc := p.pmc ++ [{ event := event, place := place, count := 1 }] }

/-- The LLC slice of a physical address on its home die (R127). -/
def llcSlice (pa : Nat) : Nat := pa / 512 % 32 ^^^ pa / 16384 % 32

/-- E of a partition's number (R462). -/
def State.epochOf (s : State) (part : Nat) : Nat :=
  match s.part? part with
  | some p => p.genE
  | none => (getKey (0, 0) part s.gens).2

/-- The line of a physical address in a partition's ways (R129). -/
def State.llcLine? (s : State) (part pa : Nat) : Option LlcLine :=
  s.llc.find? fun l => l.part == part && l.line == pa / 512

/-- Whether a line holds the sector of a physical address. -/
def LlcLine.holds (l : LlcLine) (pa : Nat) : Bool := l.secs.getLsbD (pa / 128 % 4)

/-- Whether a line is stale (R463). -/
def State.llcStale (s : State) (l : LlcLine) : Bool := l.epoch != s.epochOf l.part

/-- A byte of module memory as a partition finds it at its home: a stale line reads as zero, whole (R129, R463). -/
def State.homeByte (s : State) (part pa : Nat) : Byte :=
  match s.llcLine? part pa with
  | none => cellGet pa s.mem
  | some l =>
    if s.llcStale l then 0
    else if !l.holds pa then cellGet pa s.mem
    else match l.data.find? (·.1 == pa) with
      | some x => x.2
      | none => cellGet pa s.mem

/-- Bytes of module memory from an address on. -/
def State.homeBytes (s : State) (part pa : Nat) : Nat → List Byte
  | 0 => []
  | n + 1 => s.homeByte part pa :: s.homeBytes part (pa + 1) n

/-- `n` bytes at a physical address, at their home or at the peer. -/
def State.homeRead (s : State) (part pa n : Nat) : List Byte :=
  if isPeer pa then cellRead s.peer pa n else s.homeBytes part pa n

/-- The written bytes of a line that memory does not hold yet. -/
def LlcLine.dirty (l : LlcLine) : List Host.Cell := l.data.filter fun x => x.1 / 512 == l.line && l.holds x.1

/-- The written bytes of a line go to memory (R130, R463: a stale one's never do). -/
def State.llcBack (s : State) (l : LlcLine) : State :=
  if s.llcStale l then s else { s with mem := l.dirty.foldr (fun x m => cellSet x.1 x.2 m) s.mem }

/-- The line of an address leaves a partition's ways, its written bytes to memory. -/
def State.llcEvict (s : State) (part pa : Nat) : State :=
  match s.llcLine? part pa with
  | none => s
  | some l => { s.llcBack l with llc := s.llc.filter fun k => !(k.part == part && k.line == pa / 512) }

/-- Whether a partition holds a line and it is not stale. -/
def State.llcOwn (s : State) (part : Nat) (l : LlcLine) : Bool :=
  s.llcLine? part (512 * l.line) == some l && !s.llcStale l

/-- The lowest of a partition's ways of a slice in which a place is free: each way of a slice has 128 KiB (R461). -/
def State.llcFree (s : State) (p : Part) (die slice : Nat) : Option Nat :=
  (List.range 16).find? fun w => p.ways.getLsbD w &&
    (s.llc.filter fun l => l.die == die && llcSlice (512 * l.line) == slice && l.way == w).length < Config.wayLines

/-- The lines that a miss of a partition may replace in its ways of a slice (R129): its own, and what another partition has
left stale there (log 19). -/
def State.llcVictims (s : State) (p : Part) (die slice : Nat) : List LlcLine :=
  s.llc.filter fun l => l.die == die && llcSlice (512 * l.line) == slice && p.ways.getLsbD l.way &&
    s.llcLine? l.part (512 * l.line) == some l && ((l.part == p.num) != s.llcStale l)

/-- Room for one line more in a partition's ways of a slice (R129): full ways give up a line (log 19). -/
def State.llcRoom (s : State) (p : Part) (die slice : Nat) : State :=
  if (s.llcFree p die slice).isSome then s
  else
    let l := s.llcVictims p die slice
    match l[Config.llcVictim s.fresh % l.length]? with
    | some v => { s with fresh := s.fresh + 1 }.llcEvict v.part (512 * v.line)
    | none => s

/-- An access of a partition to a sector at its home (R127, R133): one that misses is counted (R381), and allocates the
sector unless `byp`.  A stale line is not retagged by a read (R463); where every line of full ways is one of the partition's
own that is stale, nothing is allocated (log 19). -/
def State.llcTouch (s : State) (part pa : Nat) (byp : Bool := false) : State :=
  if isPeer pa then s
  else
    let die := homeDie (s.homeOf pa) pa
    let sec : BitVec 4 := BitVec.twoPow 4 (pa / 128 % 4)
    match s.llcLine? part pa, s.part? part with
    | some l, _ =>
      if s.llcStale l || l.holds pa then s
      else if byp then s.countUp part 4 die
      else { s with llc := updIf (fun k => k.part == part && k.line == pa / 512)
                             (fun k => { k with secs := k.secs ||| sec, data := k.data.filter fun x => k.holds x.1 }) s.llc
           }.countUp part 4 die
    | none, some p =>
      if byp then s.countUp part 4 die
      else
        let s := s.llcRoom p die (llcSlice pa)
        match s.llcFree p die (llcSlice pa) with
        | none => s.countUp part 4 die
        | some w =>
          { s with llc := { line := pa / 512, die := die, part := part, epoch := p.genE, way := w, secs := sec,
                            data := [] } :: s.llc }.countUp part 4 die
    | none, none => s

/-- The bytes of the line of an address, all zero. -/
@[irreducible] def lineZeros (pa : Nat) : List Host.Cell := (List.range 512).map fun i => (512 * (pa / 512) + i, 0)

/-- A line of a partition that holds the zeros of the stale one it takes over. -/
def LlcLine.renewed (part epoch die way pa : Nat) : LlcLine :=
  { line := pa / 512, die := die, part := part, epoch := epoch, way := way, secs := 0xF, data := lineZeros pa }

/-- The bytes of the line of an address are zero in memory. -/
def State.zeroLine (s : State) (pa : Nat) : State :=
  { s with mem := (lineZeros pa).foldr (fun x m => cellSet x.1 x.2 m) s.mem }

/-- Before a write of the owner: a stale line at the address is retagged, in one of the owner's ways, with the zeros it reads
as (R463); where no place is free in them (`llcRoom`) the zeros go to memory, and no line is kept (R129; log 19). -/
def State.llcRenew (s : State) (part pa : Nat) : State :=
  match s.llcLine? part pa with
  | none => s
  | some l =>
    if !s.llcStale l then s
    else
      let die := homeDie (s.homeOf pa) pa
      let s : State := { s with llc := s.llc.filter fun k => !(k.part == part && k.line == pa / 512) }
      match s.part? part with
      | none => s.zeroLine pa
      | some p =>
        let s := s.llcRoom p die (llcSlice pa)
        match s.llcFree p die (llcSlice pa) with
        | some w => { s with llc := LlcLine.renewed part (s.epochOf part) die w pa :: s.llc }
        | none => s.zeroLine pa

/-- A byte written into a line. -/
def LlcLine.put (l : LlcLine) (pa : Nat) (b : Byte) : LlcLine := { l with data := cellPut pa b l.data }

/-- A byte of module memory written at its home into the line that the partition has there, or into memory. -/
def State.homeStore (s : State) (part pa : Nat) (b : Byte) : State :=
  match s.llcLine? part pa with
  | none => { s with mem := cellSet pa b s.mem }
  | some l =>
    if !l.holds pa then { s with mem := cellSet pa b s.mem }
    else { s with llc := updIf (fun k => k.part == part && k.line == pa / 512) (fun _ => l.put pa b) s.llc }

/-- A byte of module memory written by a partition at its home, whose stale line it retags. -/
def State.homePut (s : State) (part pa : Nat) (b : Byte) : State := (s.llcRenew part pa).homeStore part pa b

/-- Bytes of module memory written by a partition from an address on. -/
def State.homePuts (s : State) (part pa : Nat) : List Byte → State
  | [] => s
  | b :: t => (s.homePut part pa b).homePuts part (pa + 1) t

/-- The sectors of `n` bytes from an address on accessed at their home, each once (R381). -/
def State.llcTouches (s : State) (part pa n : Nat) (byp : Bool) : State :=
  (List.range (if n == 0 then 0 else (pa % 128 + n + 127) / 128)).foldl
    (fun s i => s.llcTouch part (pa / 128 * 128 + 128 * i) byp) s

/-- Bytes written at a home or at the peer; under BYP a miss allocates nothing (R133). -/
def State.homeWriteBy (s : State) (part pa : Nat) (byp : Bool) (b : List Byte) : State :=
  if isPeer pa then { s with peer := cellWrite s.peer pa b } else (s.llcTouches part pa b.length byp).homePuts part pa b

/-- Bytes written at a home or at the peer. -/
def State.homeWrite (s : State) (part pa : Nat) (b : List Byte) : State := s.homeWriteBy part pa false b

/-- The written bytes of a partition's lines go to memory, as a sys-scope ordering requires (R130); the lines stay, clean. -/
def State.llcClean (s : State) (part : Nat) : State :=
  { s with mem := ((s.llc.filter (s.llcOwn part)).flatMap LlcLine.dirty).foldr (fun x m => cellSet x.1 x.2 m) s.mem
           llc := updIf (s.llcOwn part) (fun l => { l with data := [] }) s.llc }

/-- Whether any of `n` bytes from `pa` on is poisoned at its home (R505, R506). -/
def State.homeBad (s : State) (pa n : Nat) : Bool := s.bad.any fun w => w < pa + n && pa < w + 8

/-- A word of memory poisoned: what the host has written of its sector before clears it no more. -/
def State.poisonMem (s : State) (w : Nat) : State :=
  let s := { s with cured := s.cured.filter (·.1 != w / 128) }
  if s.bad.contains w then s else { s with bad := s.bad ++ [w] }

/-! ### L1 (R120 to R126, R133) -/

/-- Whether a block's context has its L1 fused on the cluster of core `c` (R125). -/
def State.fused (s : State) (part ctx c : Nat) : Bool :=
  s.tasks.any fun t => t.part == part && t.ctx == ctx && t.hdr.coop && t.kd.fused && !t.run.cores.isEmpty && t.run.phase != .done &&
    t.hdr.cl.x ≤ coreX c / 4 && coreX c / 4 < t.hdr.cl.x + t.hdr.cl.w &&
    t.hdr.cl.y ≤ coreY c / 2 && coreY c / 2 < t.hdr.cl.y + t.hdr.cl.h

/-- The core whose L1 holds the sector of `pa` for a block on core `c` (R125). -/
def State.l1Core (s : State) (part ctx c pa : Nat) : Nat :=
  if s.fused part ctx c then
    let k := pa / 512 % 8
    coreAt (coreX c / 4 * 4 + k % 4) (coreY c / 2 * 2 + k / 4)
  else c

/-- Rows that runs of the resident context hold on a core for a partition (R29, R120). -/
def State.rowsHeld (s : State) (part c : Nat) : Nat :=
  let res := (s.part? part).bind (·.resident)
  s.blocks.foldl (fun n b =>
    if b.part == part && b.core == c && res == some b.ctx then b.runs.foldl (fun m r => m + r.2) n else n) 0

/-- Sectors the L1 of a partition holds on a core (R120). -/
def State.l1Cap (s : State) (part c : Nat) : Nat :=
  match s.part? part with
  | some p => 3 * (8 * p.quota.rowCnt - s.rowsHeld part c)
  | none => 0

/-- Whether bit `i` of a byte mask is set. -/
def bm (m : BitVec 128) (i : Nat) : Bool := m.getLsbD i

/-- A byte mask of a range. -/
def bmRange (o n : Nat) : BitVec 128 := BitVec.ofNat 128 ((2 ^ n - 1) * 2 ^ o)

/-- The bytes of a list that a mask marks, replaced. -/
def bytesMerge (m : BitVec 128) (old new : List Byte) : List Byte :=
  (List.range 128).map fun i => if bm m i then new.getD i 0 else old.getD i 0

/-- Writes back the written bytes of a sector and its poison (R123, R506); what a fenced die homes is lost (R496). -/
def State.writeBack (s : State) (x : Sector) : State :=
  if !isPeer x.pa && s.deadDies.contains (homeDie (s.homeOf x.pa) x.pa) then s
  else
  let s := (List.range 128).foldl (fun s i => if bm x.dirty i then s.homeWrite x.part (x.pa + i) [x.bytes.getD i 0] else s) s
  (List.range 16).foldl (fun s i =>
    if x.bad.getLsbD i && (x.dirty >>> (8 * i)).extractLsb' 0 8 != 0 then s.poisonMem (x.pa + 8 * i) else s) s

/-- A sector of core `c` written back: to another die what it has written crosses as a write-back, and lands at the home when that
has arrived (R488, R495). -/
def State.sendBack (s : State) (c : Nat) (x : Sector) : State :=
  let d := homeDie (s.homeOf x.pa) x.pa
  if x.dirty == 0 || isPeer x.pa || d == coreDie c || s.deadDies.contains d then s.writeBack x
  else s.carry { src := coreDie c, dst := d, vc := 2, kind := .wback c x }

/-- The write-backs on their way that a test of core and sector accepts. -/
def State.backs (s : State) (p : Nat → Sector → Bool) : Bool :=
  s.away.any fun m => match m.kind with | .wback c x => p c x | _ => false

/-- Whether a write-back of a partition's sector of `pa` is on its way: what goes to its home waits for it (R142). -/
def State.backPends (s : State) (part pa : Nat) : Bool := s.backs fun _ x => x.part == part && x.pa / 128 == pa / 128

/-- The write-backs among messages that a test of core and sector accepts land at their homes, in order. -/
def State.landBacks (s : State) (p : Nat → Sector → Bool) : List Msg → State
  | [] => s
  | m :: l =>
    match m.kind with
    | .wback c x => if p c x then ({ s with away := s.away.erase m }.writeBack x).landBacks p l else s.landBacks p l
    | _ => s.landBacks p l

/-- The write-backs of a partition's sector of `pa` land: what goes to its home comes after them (R142). -/
def State.landSector (s : State) (part pa : Nat) : State :=
  s.landBacks (fun _ y => y.part == part && y.pa / 128 == pa / 128) s.away

/-- A write-back arrives: those of its sector that left before it land with it, in their order. -/
def State.landBack (s : State) (m : Msg) (x : Sector) : State :=
  if s.away.contains m then
    s.landBacks (fun _ y => y.part == x.part && y.pa == x.pa) (s.away.takeWhile (· != m) ++ [m])
  else s

/-- The L1 of a core replaced. -/
def State.putL1 (s : State) (c : Nat) (l : List Sector) : State := s.putCore c { s.core c with l1 := l }

/-- Evicts the oldest sectors of a partition until its L1 fits `cap` (R120, R122), at most `fuel`, which is at least their
number. -/
def State.l1Trim (s : State) (part c cap : Nat) : Nat → State
  | 0 => s
  | fuel + 1 =>
    let l := (s.core c).l1
    if (l.filter (·.part == part)).length ≤ cap then s
    else match (l.reverse.find? (·.part == part)) with
      | none => s
      | some x => ((s.sendBack c x).putL1 c (l.filter fun y => !(y.part == part && y.pa == x.pa))).l1Trim part c cap fuel

/-- The L1 of a partition on a core brought down to `cap` sectors (R121). -/
def State.l1Fit (s : State) (part c cap : Nat) : State := s.l1Trim part c cap (s.core c).l1.length

/-- The sector of `pa` in a partition's L1 on a core. -/
def State.sector? (s : State) (part c pa : Nat) : Option Sector :=
  (s.core c).l1.find? fun x => x.part == part && x.pa == pa / 128 * 128

/-- Puts a sector in, as the youngest or the oldest (R122): where its partition's L1 is full it replaces the sector that
was oldest. -/
def State.putSector (s : State) (c : Nat) (x : Sector) (oldest : Bool) : State :=
  let rest := (s.core c).l1.filter fun y => !(y.part == x.part && y.pa == x.pa)
  let s := (s.putL1 c rest).l1Fit x.part c (s.l1Cap x.part c - 1)
  s.putL1 c (if oldest then (s.core c).l1 ++ [x] else x :: (s.core c).l1)

/-- Replaces a sector in its place. -/
def State.keepSector (s : State) (c : Nat) (x : Sector) : State :=
  s.putL1 c (updIf (fun y => y.part == x.part && y.pa == x.pa) (fun _ => x) (s.core c).l1)

/-- The poison of a sector's 8-byte words at the home. -/
def State.homeBadMask (s : State) (pa : Nat) : BitVec 16 :=
  BitVec.ofNat 16 ((List.range 16).foldr (fun i a => 2 * a + (s.homeBad (pa + 8 * i) 8).toNat) 0)

/-- The 8-byte words of which a byte mask leaves a byte out. -/
def wordsLeft (m : BitVec 128) : BitVec 16 :=
  BitVec.ofNat 16 ((List.range 16).foldr (fun i a => 2 * a + (m.extractLsb' (8 * i) 8 != 0xFF).toNat) 0)

/-- A sector with every byte that is not valid filled from the home (R123); a fill brings the poison of the words it
fills. -/
def State.fillSector (s : State) (x : Sector) : Sector :=
  { x with bytes := bytesMerge (~~~x.valid) x.bytes (s.homeRead x.part x.pa 128), valid := BitVec.allOnes 128,
           bad := x.bad ||| (s.homeBadMask x.pa &&& wordsLeft x.valid) }

/-- An empty sector. -/
def Sector.new (pa part ctx : Nat) (stack : Option Nat) : Sector :=
  { pa := pa / 128 * 128, part := part, ctx := ctx, bytes := List.replicate 128 0, valid := 0, dirty := 0, bad := 0,
    stack := stack }

/-- Whether a sector's words that bytes [o, o + n) touch are poisoned. -/
def Sector.badAt (x : Sector) (o n : Nat) : Bool :=
  (List.range 16).any fun i => x.bad.getLsbD i && 8 * i < o + n && o < 8 * i + 8

/-- A load of `n` bytes inside one sector through the L1 under a hint (R123, R133): the bytes, whether they are
poisoned, the state. -/
def State.l1Read (s : State) (part ctx core pa n hnt : Nat) (stack : Option Nat) : List Byte × Bool × State :=
  let c := s.l1Core part ctx core pa
  let o := pa % 128
  let old := s.sector? part c pa
  let x := old.getD (Sector.new pa part ctx stack)
  let hit := bmRange o n &&& ~~~x.valid == 0
  let y := if hit then x else s.fillSector x
  let y := { y with stack := stack.or y.stack }
  let t := if hit then s else s.llcTouch part pa
  (y.bytes.drop o |>.take n, y.badAt o n,
    if hnt == 1 || hnt == 2 then t
    else (if hit then t else t.countUp part 3 c).putSector c y (hnt == 3 && old.isNone))

/-- A store of bytes inside one sector through the L1 under a hint (R123, R133); one that hits makes the sector the youngest
(R122), and one to a STACK slice makes it a sector of that (R88). -/
def State.l1Write (s : State) (part ctx core pa : Nat) (b : List Byte) (hnt : Nat) (stack : Option Nat) : State :=
  let c := s.l1Core part ctx core pa
  let o := pa % 128
  let m := bmRange o b.length
  let put (x : Sector) : Sector := { x with bytes := bytesMerge m x.bytes (List.replicate o 0 ++ b), valid := x.valid ||| m, stack := stack.or x.stack }
  match s.sector? part c pa with
  | some x =>
    let y := put x
    if hnt == 1 || (hnt == 2 && x.dirty != 0) then s.putSector c { y with dirty := x.dirty ||| m, ctx := ctx } false
    else if hnt == 2 then (s.homeWrite part pa b).putSector c y false
    else s.putSector c { y with dirty := x.dirty ||| m, ctx := ctx } (hnt == 3)
  | none =>
    if hnt == 1 || hnt == 2 then s.homeWrite part pa b
    else s.putSector c { put (Sector.new pa part ctx stack) with dirty := m } (hnt == 3)

/-- Writes back and drops every sector of the L1 of core `c` that a test accepts (R100, R121, R126). -/
def State.l1Purge (s : State) (c : Nat) (p : Sector → Bool) : State :=
  let l := (s.core c).l1
  (l.foldl (fun s x => if p x then s.sendBack c x else s) s).putL1 c (l.filter fun x => !p x)

/-- Writes back the sectors that a test accepts and keeps them clean (R100, R101). -/
def State.l1Clean (s : State) (c : Nat) (p : Sector → Bool) : State :=
  let l := (s.core c).l1
  (l.foldl (fun s x => if p x then s.sendBack c x else s) s).putL1 c (updIf p (fun x => { x with dirty := 0 }) l)

/-- The cores listed. -/
def State.coreNums (s : State) : List Nat := s.cores.map (·.1)

/-! ### The region check (R84 to R92) -/

/-- What a matched region behaves as (R85, R86). -/
inductive RMode where
  | rd | wr | rw | shared | reduce | code | args | stack
  deriving DecidableEq, Repr

/-- The behaviour of a MODE code in use. -/
def RMode.ofCode (n : Nat) : Option RMode :=
  match n with
  | 1 => some .rd | 2 => some .wr | 3 => some .rw | 4 => some .shared | 5 => some .reduce | _ => none

/-- The slice of lane L of a group that was placed on (core, slot): k of R87. -/
def sliceIndex (core gslot lane : Nat) : Nat := ((coreY core * 64 + coreX core) * 16 + gslot) * 96 + lane

/-- The regions of a task in index order (R84, R86), with STACK narrowed to one slice (none: it matches nothing). -/
def Task.spans (t : Task) (slice : Option Nat) : List (Nat × Nat × Nat × Option RMode) :=
  (t.regions.zip (List.range 16)).map (fun (r, i) => (i, r.base, r.base + r.ext, RMode.ofCode r.mode)) ++
  [(16, t.hdr.codeBase, t.hdr.codeBase + t.hdr.codeLen, some .code),
   (17, t.hdr.argsBase, t.hdr.argsBase + t.hdr.argsLen, some .args)] ++
  (match slice with
   | some k => if t.hdr.stackSz == 0 then [] else
       [(18, t.hdr.stackBase + k * t.hdr.stackSz, t.hdr.stackBase + (k + 1) * t.hdr.stackSz, some .stack)]
   | none => [])

/-- `Match(lo, hi, L)` of R90: the lowest region in use that holds every byte from lo to hi; an address with any of bits [63:57]
set lies outside every region (R117). -/
def Task.match_ (t : Task) (lo hi : Nat) (slice : Option Nat) : Option (Nat × RMode) :=
  if 2 ^ 57 ≤ hi then none
  else (t.spans slice).findSome? fun (i, b, e, m) =>
    match m with
    | some m => if b ≤ lo && hi < e then some (i, m) else none
    | none => none

/-- The kinds of access of R92. -/
inductive Acc where
  | read | write | atomic | redo | cpyRead | cpyWrite
  deriving DecidableEq, Repr

/-- The table of R92. -/
def Acc.allowed (a : Acc) (m : RMode) : Bool :=
  match a with
  | .read => !(m == .wr || m == .reduce)
  | .cpyRead => !(m == .wr || m == .reduce || m == .stack)
  | .write => m == .wr || m == .rw || m == .shared || m == .stack
  | .cpyWrite => m == .wr || m == .rw || m == .shared
  | .atomic => m == .shared
  | .redo => m == .reduce

/-- Whether a page gives what an access needs (R138). -/
def Acc.permitted (a : Acc) (p : Page) : Bool :=
  match a with
  | .read | .cpyRead => p.read
  | .write | .cpyWrite => p.write
  | .atomic | .redo => p.read && p.write

/-! ### Instruction fetch (R93, R137, R138, R230) -/

/-- What a fetch of a bundle gives. -/
inductive Fetch where
  | ok (b : BitVec 256)
  | fault (cause : BitVec 8) (faddr : Nat)
  | miss

/-- The code range a split fetches from: the task's CODE, or the partition's handler range (R382). -/
def codeRange (s : State) (t : Task) (handler : Bool) : Nat × Nat :=
  if handler then
    match s.part? t.part with
    | some p => match p.handler with
      | some (_, b, l) => (b, l)
      | none => (0, 0)
    | none => (0, 0)
  else (t.hdr.codeBase, t.hdr.codeLen)

/-- The bundle address of a PC (R232). -/
def bundleAddr (pc : Pc) : Nat := pc.toNat / 32 * 32

/-- The slot index of a PC (R232). -/
def slotIndex (pc : Pc) : Nat := pc.toNat % 32

/-- Fetches and checks the bundle of a PC for a block of task `t` on a core: UNDECLARED outside the code range (R93), a
missing entry is a packet (R137), PROTECTION without EXEC (R138) or at a peer (R499), LINK_UNREACHABLE where the home cannot be
reached (R496), then BUNDLE_HEADER (R230).  The
bytes come
from the home: the L1 holds only data (R122; log 34). -/
def State.fetch (s : State) (t : Task) (core : Nat) (handler : Bool) (pc : Pc) : Fetch :=
  let (b, l) := codeRange s t handler
  let a := bundleAddr pc
  if !(b ≤ a && a + 32 ≤ b + l) then .fault 0x06 pc.toNat
  else match s.translate t.part t.ctx a with
    | none => .miss
    | some p =>
      if !p.exec || isPeer p.pa then .fault 0x0A pc.toNat
      else if !s.reaches (coreDie core) (homeDie p.home p.pa) then .fault 0x19 pc.toNat
      else
        let w := BitVec.ofNat 256 (leOf (s.homeRead t.part p.pa 32))
        if !(bundleScOk w pc) then .fault 0x18 a else .ok w
where
  /-- The header is valid and the slot index is below SC (R230). -/
  bundleScOk (w : BitVec 256) (pc : Pc) : Bool :=
    let sc := (w.extractLsb' 0 2).toNat
    sc != 0 && w.extractLsb' 11 5 == 0 && slotIndex pc < sc

end Sys2Proof.Machine
end

