-- ==== Sys2Proof/Machine/Regs.lean ====
section
/-! DEFINITION. The registers of a group, results in flight, and splits (spec 02 R36 to R44, 03 R53 to R58, 17 R371). -/

namespace Sys2Proof.Machine

/-! ### Results in flight (R36) -/

/-- A result written to its destination. -/
def Group.apply (g : Group) (w : Write) : Group :=
  match w with
  | .v r m x => { g with v := g.v.modify r (fun o => rowMerge m o x) }
  | .h r m x => { g with h := g.h.modify r (fun o => rowMerge m o x) }
  | .s r x => { g with s := g.s.set r x }
  | .hs r x => { g with hs := g.hs.set r x }
  | .a r x => { g with a := g.a.set r x }
  | .p r m x => { g with p := g.p.modify r (fun o => (o &&& ~~~m) ||| (x &&& m)) }
  | .edge x => { g with edge := x }
  | .frm x => { g with frm := x }
  | .stSet x => { g with status := g.status ||| x }
  | .stClr x => { g with status := g.status &&& ~~~x }
  | .flag n => { g with flags := g.flags &&& ~~~BitVec.twoPow 12 (n - 1) }
  | .hflag i n =>
    match g.handler with
    | some k => if k.inv == i then { g with handler := some { k with flags := k.flags &&& ~~~BitVec.twoPow 12 (n - 1) } } else g
    | none => g

/-- Order of results: by the cycle, then by issue number, so that the later instruction's stands (R263). -/
def Pend.le (a b : Pend) : Bool := a.at_ < b.at_ || (a.at_ == b.at_ && a.seq ≤ b.seq)

/-- A result put among the others in order. -/
def insertPend (p : Pend) : List Pend → List Pend
  | [] => [p]
  | q :: t => if q.le p then q :: insertPend p t else p :: q :: t

/-- The group with a result that becomes readable in cycle `t`. -/
def Group.push (g : Group) (t : Nat) (seq : Nat) (w : Write) : Group :=
  { g with pend := insertPend { at_ := t, seq := seq, inv := g.handler.map (·.inv), w := w } g.pend }

/-- The registers of the group as a read in cycle `t` finds them (R36). -/
def Group.viewAt (g : Group) (t : Nat) : Group :=
  (g.pend.filter (·.at_ ≤ t)).foldl (fun g p => g.apply p.w) g

/-- Whether a result is the clearing of a completion flag. -/
def Write.clears : Write → Bool
  | .flag _ | .hflag _ _ => true
  | _ => false

/-- The group after the flags that clear by cycle `t` have cleared; register results stay in flight, so that a load that
returns in `t` is ordered among them (R404). -/
def Group.landFlags (g : Group) (t : Nat) : Group :=
  let due (p : Pend) : Bool := p.w.clears && p.at_ ≤ t
  { (g.pend.filter due).foldl (fun g p => g.apply p.w) g with pend := g.pend.filter fun p => !due p }

/-- Whether a result is not beyond recall in cycle `t`: an operation on a format slot, as old or older, is in flight, which a
readback mismatch would take back (R171). -/
def Group.unsettled (g : Group) (t : Nat) (p : Pend) : Bool := g.slotOps.any fun o => t < o.due && o.seq ≤ p.seq

/-- The group after the results readable in cycle `t` are in their registers, up to the first that is unsettled: that one and
those after it stay in flight, where a read finds them as well. -/
def Group.land (g : Group) (t : Nat) : Group :=
  let n := (g.pend.takeWhile fun p => p.at_ ≤ t && !g.unsettled t p).length
  { (g.pend.take n).foldl (fun g p => g.apply p.w) g with pend := g.pend.drop n }

/-! ### Register numbers (R57, R58) -/

/-- Whether the group executes its handler. -/
def Group.inHandler (g : Group) : Bool := g.handler.isSome

/-- The declared varying count N (R59). -/
def Group.nregs (g : Group) : Nat := g.v.length

/-- Varying register r; in a handler 248 to 255 name h0 to h7 (R58). -/
def Group.rv (g : Group) (r : Nat) : Row :=
  if g.inHandler && 248 ≤ r then g.h.getD (r - 248) [] else g.v.getD r []

/-- Uniform register r; in a handler 56 to 63 name hs0 to hs7 (R58). -/
def Group.rs (g : Group) (r : Nat) : Dword :=
  if g.inHandler && 56 ≤ r then g.hs.getD (r - 56) 0 else g.s.getD r 0

/-- Affine register r. -/
def Group.ra (g : Group) (r : Nat) : AReg := g.a.getD r { base := 0, stride := 0, w := false }

/-- Predicate r; p7 is true in every lane (R53). -/
def Group.rp (g : Group) (r : Nat) : LaneMask := if r == 7 then allLanes else g.p.getD r 0

/-- The lanes a guard field names: bit 3 negates (R234, R237). -/
def Group.guard (g : Group) (gp : BitVec 4) : LaneMask :=
  let m := g.rp (gp.toNat % 8)
  if gp.getLsbD 3 then ~~~m else m

/-- The write of varying register r (R58). -/
def Group.wv (g : Group) (r : Nat) (m : LaneMask) (x : Row) : Write :=
  if g.inHandler && 248 ≤ r then .h (r - 248) m x else .v r m x

/-- The write of uniform register r (R58). -/
def Group.ws (g : Group) (r : Nat) (x : Dword) : Write :=
  if g.inHandler && 56 ≤ r then .hs (r - 56) x else .s r x

/-- Whether varying register r is out of the declared range (R57, R58). -/
def Group.vBad (g : Group) (r : Nat) : Bool := g.nregs ≤ r && !(g.inHandler && 248 ≤ r)

/-- The pending completion flags an instruction sees: the handler has its own (R382). -/
def Group.curFlags (g : Group) : BitVec 12 :=
  match g.handler with
  | some k => k.flags
  | none => g.flags

/-- The group with its current flags replaced. -/
def Group.putFlags (g : Group) (x : BitVec 12) : Group :=
  match g.handler with
  | some k => { g with handler := some { k with flags := x } }
  | none => { g with flags := x }

/-- The write that clears flag n of the mode the group is in (R382). -/
def Group.flagClear (g : Group) (n : Nat) : Write :=
  match g.handler with
  | some k => .hflag k.inv n
  | none => .flag n

/-! ### Splits (R37 to R41, R371) -/

/-- The key order of splits: PC, then the lowest lane (R38). -/
def Split.before (a b : Split) : Bool :=
  a.pc.toNat < b.pc.toNat || (a.pc == b.pc && lowLane a.mask < lowLane b.mask)

/-- A split put among others in key order. -/
def insertSplit (x : Split) : List Split → List Split
  | [] => [x]
  | y :: t => if y.before x then y :: insertSplit x t else x :: y :: t

/-- Splits in ascending key order. -/
def sortSplits (l : List Split) : List Split := l.foldr insertSplit []

/-- The candidate split (R40, R41): the holding active split, else the active split of lowest key. -/
def Group.candidate (g : Group) : Option Split :=
  match g.active.find? (·.hold) with
  | some x => some x
  | none => (sortSplits g.active).head?

/-- The split that executes: the handler split in a handler. -/
def Group.exec? (g : Group) : Option Split :=
  match g.handler with
  | some k => some k.split
  | none => g.candidate

/-- The return entries of a split (R371). -/
def entriesOf (m : LaneMask) (l : List RetEntry) : List RetEntry := l.filter fun e => m != 0 && e.mask &&& m == m

/-- RSP of a split (R37, R371). -/
def rspOf (m : LaneMask) (l : List RetEntry) : Nat := (entriesOf m l).length

/-- The places of a split's return entries among a group's, in push order (R371): an entry is known by its place, since
two may be equal. -/
def entryPlaces (m : LaneMask) (l : List RetEntry) : List Nat :=
  (List.range l.length).filter fun i => match l[i]? with
    | some e => m != 0 && e.mask &&& m == m
    | none => false

/-- Whether two splits merge (R39, R93): both fetched, equal PC, LC and return entries. -/
def mergeable (rets : List RetEntry) (a b : Split) : Bool :=
  a.fetched && b.fetched && a.pc == b.pc && a.lc == b.lc &&
    (entriesOf a.mask rets).map (·.pc) == (entriesOf b.mask rets).map (·.pc)

/-- The return entry at place `i` after pairs of places are united: into the older of each pair, which frees the newer
(R371). -/
def uniteEntry (pairs : List (Nat × Nat)) (rets : List RetEntry) (e : RetEntry) (i : Nat) : Option RetEntry :=
  if pairs.any (fun (j, k) => j != k && max j k == i) then none
  else some (pairs.foldl (fun e (j, k) =>
    if j != k && min j k == i then { e with mask := e.mask ||| ((rets[max j k]?).map (·.mask)).getD 0 } else e) e)

/-- The return entries after two splits merge: each pair united into the older (R371). -/
def mergeRets (a b : LaneMask) (rets : List RetEntry) : List RetEntry :=
  let pairs := (entryPlaces a rets).zip (entryPlaces b rets)
  (rets.zip (List.range rets.length)).filterMap fun (e, i) => uniteEntry pairs rets e i

/-- The return entries after a split returned: its lanes leave its newest entry, which is freed when none is left
(R372). -/
def popEntry (m : LaneMask) (rets : List RetEntry) : List RetEntry :=
  match (entryPlaces m rets).getLast? with
  | none => rets
  | some i => (rets.modify i fun e => { e with mask := e.mask &&& ~~~m }).filter (·.mask != 0)

/-- Two splits united (R39).  What each may issue next is the later of the two (log 16). -/
def Split.join (a b : Split) (holds : Bool) : Split :=
  { pc := a.pc, hi := a.hi, mask := a.mask ||| b.mask, lc := a.lc, hold := (a.hold || b.hold) && holds, last := a.last,
    prev := max a.prev b.prev, ready := max a.ready b.ready, fetched := true }

/-- The splits of a group that merging works on: a split with whether it is active. -/
abbrev Marked := Split × Bool

/-- Unites a split with the first of the others that it merges with (R39). -/
def joinFirst (rets : List RetEntry) (x : Marked) : List Marked → Option (Marked × List Marked × List RetEntry)
  | [] => none
  | y :: t =>
    if mergeable rets x.1 y.1 then
      let act := x.2 || y.2
      some ((x.1.join y.1 act, act), t, mergeRets x.1.mask y.1.mask rets)
    else
      match joinFirst rets x t with
      | some (z, t', r) => some (z, y :: t', r)
      | none => none

/-- One pass of the merge test; none when no two splits merge. -/
def mergeOnce (rets : List RetEntry) : List Marked → Option (List Marked × List RetEntry)
  | [] => none
  | x :: t =>
    match joinFirst rets x t with
    | some (z, t', r) => some (z :: t', r)
    | none =>
      match mergeOnce rets t with
      | some (t', r) => some (x :: t', r)
      | none => none

/-- The merge test repeated, at most `fuel` times (each pass removes a split). -/
def mergeAll : Nat → List Marked → List RetEntry → List Marked × List RetEntry
  | 0, l, r => (l, r)
  | n + 1, l, r =>
    match mergeOnce r l with
    | some (l', r') => mergeAll n l' r'
    | none => (l, r)

/-- Unparks the splits of lowest key into free active places (R40). -/
def unpark : Nat → List Split → List Split → List Split × List Split
  | 0, act, park => (act, park)
  | n + 1, act, park =>
    if act.length < 4 then
      match sortSplits park with
      | [] => (act, park)
      | x :: t => unpark n (act ++ [x]) t
    else (act, park)

/-- Parks the active split of highest key when there are more than four (R38); it loses its Hold bit. -/
def Group.parkExtra (g : Group) : Group :=
  if 4 < g.active.length then
    match (sortSplits g.active).getLast? with
    | some x => { g with active := g.active.filter (· != x), parked := g.parked ++ [{ x with hold := false }] }
    | none => g
  else g

/-- The merge test of R39 (log 50: before a fifth active split is parked), the parking of R38 and the unparking of R40. -/
def Group.settle (g : Group) : Group :=
  let l := g.active.map (fun x => (x, true)) ++ g.parked.map (fun x => (x, false))
  let (l', r) := mergeAll 96 l g.rets
  let g := Group.parkExtra { g with
    active := (l'.filter (·.2)).map (·.1), parked := (l'.filter (fun x => !x.2)).map (·.1), rets := r }
  let (a, p) := unpark 4 g.active g.parked
  { g with active := a, parked := p }

/-- The active split that a mask names, replaced by others. -/
def Group.replaceSplit (g : Group) (m : LaneMask) (new : List Split) : Group :=
  { g with active := (g.active.filter fun x => x.mask != m) ++ new }

/-- The executing split replaced: the handler split in a handler. -/
def Group.putExec (g : Group) (m : LaneMask) (new : Split) : Group :=
  match g.handler with
  | some k => { g with handler := some { k with split := new } }
  | none => g.replaceSplit m [new]

/-- Whether a request waits for the driver: a translation packet, or one whose answer is recorded (R137, R470). -/
def Req.waitsDriver (q : Req) : Bool :=
  match q.st with
  | .xlat _ _ _ | .replayed _ _ | .declined _ _ => true
  | _ => false

/-- Whether a translation packet halts the group (R137): one of the handler while it runs, else one of the splits. -/
def Group.xlatWait (g : Group) : Bool := g.reqs.any fun q => q.waitsDriver && q.inv == g.handler.map (·.inv)

/-- Whether every access that the group has issued is performed (R149); the packet of a fetch is no access. -/
def Group.quiet (g : Group) : Bool := g.reqs.all fun q => q.kind == .fetch

/-- Four consecutive uniform registers as one 256-bit value (R179, R351). -/
def Group.quad (v : Group) (n : Nat) : Nat :=
  (v.rs n).toNat + 2 ^ 64 * (v.rs (n + 1)).toNat + 2 ^ 128 * (v.rs (n + 2)).toNat + 2 ^ 192 * (v.rs (n + 3)).toNat

/-! ### Marks in a group's issue order -/

/-- A head that does nothing. -/
def Head.plain : Head := { dist := 0, set := 0, wait := 0, nx := .seq, tgt := 0, gp := 7 }

/-- A payload of zeros. -/
def MArgs.zero : MArgs := { d := 0, x := 0, b := 0, off := 0, xk := .v32, ord := .none, scp := 0, hnt := 0 }

/-- A mark of kind `kind` with issue number `seq` in the group's issue order: `n` its object, `gen` its phase, `lanes` the
requests it waits for. -/
def Group.mark (g : Group) (kind : ReqKind) (seq n gen : Nat) (lanes : List LaneReq) : Req :=
  { seq := seq, op := 0, head := Head.plain, m := { MArgs.zero with b := BitVec.ofNat 8 n }, cond := 0, target := 0,
    kind := kind, lanes := lanes, uni := false, mask := 0, flag := 0, inv := g.handler.map (·.inv), pc := 0, next := 0,
    split := 0, st := .flying, gen := gen }

/-- A mark's reference to a request of group `u`: its issue number stands for an address, and it has no home. -/
def LaneReq.ref (u seq : Nat) : LaneReq := { lane := u, addr := seq, home := 99 }

/-- Whether a request stores. -/
def Req.stores (q : Req) : Bool :=
  [ReqKind.st, .stw, .atom, .red, .redo].contains q.kind || (q.kind == .cpy && q.uni)

/-! ### Special views (R43, R78) -/

/-- Every split, active and parked, in ascending key order (R48, R382). -/
def Group.records (g : Group) : List Split := sortSplits (g.active ++ g.parked)

/-- The index of the split a mask names among the records of a group (R383 RANK).  Where that split has merged or divided
since (R344), it is the first record with a lane of the mask, and the candidate's where none is left (log 49). -/
def Group.rankOf (g : Group) (m : LaneMask) : Nat :=
  match g.records.findIdx? fun x => x.mask == m with
  | some i => i
  | none =>
    match g.records.findIdx? fun x => x.mask &&& m != 0 with
    | some i => i
    | none => (g.candidate.bind fun y => g.records.findIdx? (· == y)).getD 0

/-- A park record (R43). -/
def parkRecord (g : Group) (x : Split) : BitVec 256 :=
  (0 : BitVec 55) ++ BitVec.ofBool x.hold ++ (0 : BitVec 3) ++ BitVec.ofNat 5 (rspOf x.mask g.rets) ++ x.lc ++ x.mask ++
    (0 : BitVec 7) ++ x.pc

/-- The park records as a reader of the park rows finds them: in a handler every split (R382), else the parked ones,
in key order from record 0 (log 64). -/
def Group.parkRecords (g : Group) : List Split := if g.inHandler then g.records else sortSplits g.parked

/-- Byte `i` of the park rows of a group (R43). -/
def Group.parkByte (g : Group) (i : Nat) : Byte :=
  match g.parkRecords[i / 32]? with
  | some x => BitVec.ofNat 8 ((parkRecord g x).toNat / 256 ^ (i % 32))
  | none => 0

end Sys2Proof.Machine
end

