-- ==== Sys2Proof/Machine/Order.lean ====
section
/-! DEFINITION. The order in which a group's accesses are performed (spec 05 R142 to R149, 02 R45), and whose turn it is on
an engine (07 R186, R189, 16 R353, R354). -/

namespace Sys2Proof.Machine

/-! ### The bytes of an access (R90, R325) -/

/-- The size that scales OFF (R325). -/
def mSize (op : Nat) (m : MArgs) : Nat :=
  if op == 0x9E || op == 0x9F then 128 else if op == 0xA8 then 8 else (tyBytes (mTy m.b)).getD 1

/-- The access range of a lane (R90): its first byte, its length, and whether it is misaligned (R132, R135). -/
def accRange (op : Nat) (m : MArgs) (a idx : Nat) : Nat × Nat × Bool :=
  if op == 0x9E || op == 0x9F then
    let w := m.b.toNat % 64
    let lo := idx * w / 8
    let hi := ((idx + 1) * w - 1) / 8
    (a + lo, hi - lo + 1, a % 128 != 0 || 1024 / w ≤ idx)
  else
    let n := mSize op m
    (a, n, a % n != 0)

/-- The element index of an access (R333, R334), 0 where there is none. -/
def idxOf (op : Nat) (q : LaneReq) : Nat := if op == 0x9E then q.x.toNat else if op == 0x9F then q.y.toNat else 0

/-- The `cpy` descriptor of a 256-bit value; none where R351 raises RESERVED_FIELD. -/
def CDesc.of (d : Nat) : Option CDesc :=
  let len := fld d 96 24
  if fld d 88 8 != 0 || fld d 120 8 != 0 || fld d 144 16 != 0 || fld d 216 39 != 0 || fld d 128 16 == 0 || len == 0 ||
      2359296 < len then none
  else some { dir := bitOf d 255, gaddr := fld d 0 64, saddr := fld d 64 24, len := len, nrow := fld d 128 16,
              gstride := sextNat (fld d 160 32) 32, sstride := fld d 192 24 }

/-! ### Ordering (R142 to R149) -/

/-- Whether a request acts as an acquire (R144, R146). -/
def Req.acq (q : Req) : Bool :=
  q.m.ord == .acq || q.m.ord == .acqrel || [ReqKind.wcnt, .cmtk, .fence].contains q.kind

/-- Whether a request acts as a release (R145, R146, R149, R203, R368). -/
def Req.rel (q : Req) : Bool :=
  q.m.ord == .rel || q.m.ord == .acqrel || [ReqKind.fence, .cmtp, .bara, .barx, .spawn].contains q.kind

/-- Whether the lanes of a request are accesses of an instruction to global memory; those of a mark, a copy and a fetch are
none. -/
def Req.accesses (q : Req) : Bool := !([ReqKind.cmtp, .exit, .cpy, .fetch].contains q.kind)

/-- The bytes that an access of a request touches, as ranges from the first to past the last: an `stw` also zeroes its
sector's trailing bits (R132, R334).  That of a copy gives the first byte and the length of its global side. -/
def Req.spans (q : Req) (x : LaneReq) : List (Nat × Nat) :=
  if q.kind == .cpy then [(x.addr, x.addr + x.x.toNat)]
  else
  let (lo, n, _) := accRange q.op q.m x.addr (idxOf q.op x)
  let w := q.m.b.toNat % 64
  let top := 1024 / w * w
  (lo, lo + n) :: (if q.kind == .stw && top % 1024 != 0 then [(x.addr + top / 8, x.addr + 128)] else [])

/-- Whether two requests of a DET task meet in the order of issue whatever their lanes: one of them stores, and the order of a
group's splits is fixed, so that no timing decides which byte stands (R198, R201; log 70). -/
def Req.detPair (p q : Req) : Bool := p.det && q.det && (p.stores || q.stores)

/-- Whether one of two requests is a copy, and they meet in a DET task: R201 does not list the order of a copy and its group's
accesses among what a program must fix itself (R150, R198; log 70). -/
def Req.copyPair (p q : Req) : Bool := p.detPair q && ((p.kind == .cpy && q.accesses) || (q.kind == .cpy && p.accesses))

/-- Whether two requests access one byte in one lane (R142), in any lanes of a DET task where one stores, or one element by
`redo` (R339).  Bytes are told apart by their virtual addresses: that two of them are mapped to one physical byte the model
does not see (DESIGN CHOICE, log 70: R142 does not say which it means). -/
def Req.overlaps (p q : Req) : Bool :=
  ((p.accesses && q.accesses) || p.copyPair q) &&
    p.lanes.any fun x => q.lanes.any fun y =>
      (p.uni || q.uni || (p.kind == .redo && q.kind == .redo) || p.detPair q || x.lane == y.lane) &&
        (p.spans x).any fun a => (q.spans y).any fun b => a.1 < b.2 && b.1 < a.2

/-- Whether an EXIT's mark waits for a request (R45). -/
def Req.marks (r p : Req) : Bool := r.kind == .exit && r.lanes.any (·.addr == p.seq)

/-- Whether an earlier request of the group that is not yet performed holds back `q`: program order in a lane, an
acquire or fence before it, a release or fence that it is, or a release or an EXIT of its lanes between the two where `q`
stores; a `cmtp` itself, which releases for the whole block (R203), holds back every later store.  A request that is not on
its way, of another invocation, holds back none: its handler must run on (R386).  A fetch has no part in the order. -/
def Group.heldBy (g : Group) (q p : Req) : Bool :=
  p.seq < q.seq && p.kind != .fetch && q.kind != .fetch && (p.st == .flying || p.inv == q.inv) &&
    (p.acq || p.overlaps q || q.rel || q.marks p || (q.stores && p.kind == .cmtp) ||
      (q.stores && g.reqs.any fun r => (r.rel || r.marks p) && p.seq < r.seq && r.seq < q.seq))

/-- Whether the order of the group's accesses holds back a request (R142 to R149). -/
def Group.held (g : Group) (q : Req) : Bool := g.reqs.any fun p => g.heldBy q p

/-- Whether a request may be performed now. -/
def Group.mayPerform (g : Group) (q : Req) : Bool := q.st == .flying && !g.halted && !g.held q

/-- Whether a `cmtp` of another group of the block, issued before cycle `born`, holds back a store of the group that is issued
in that cycle: it releases for the whole block (R203), also as a packet that a switch has made of it (DESIGN CHOICE, log 71:
R148 and R345 want an atomic behind it performed before the halt). -/
def State.behindPass (s : State) (g : Group) (born : Nat) : Bool :=
  s.groups.any fun x => x.block == g.block && x.uid != g.uid && x.reqs.any fun r =>
    r.kind == .cmtp && (r.st == .flying || r.st == .packet) && r.born < born

/-! ### Whose turn it is (R186, R353, R354) -/

/-- The lowest group slot of a block. -/
def Block.lowSlot (b : Block) : Nat := b.slots.foldl min 16

/-- Whether an engine may work for a block from cycle `t` on (R189, R467, R473): its context is resident, no switch has
stopped it before `t`, and the block is not suspended. -/
def State.engineRuns (s : State) (b : Block) (t : Nat) : Bool :=
  !b.suspended && (match s.part? b.part with
    | some p => p.resident == some b.ctx && (match p.switch with | some w => t < w.tick | none => true)
    | none => false)

/-- The next in turn among candidates, each with its block's lowest slot: the first above the slot served last, else the
first (R186). -/
def inTurn {α : Type} (last : Nat) (l : List (Nat × α)) : Option α :=
  let least (l : List (Nat × α)) : Option (Nat × α) := l.foldl (fun m x => match m with
    | none => some x
    | some y => if x.1 < y.1 then some x else m) none
  match least (l.filter (fun x => last < x.1)) with
  | some x => some x.2
  | none => (least l).map (·.2)

/-- Whether two row sets have a common row. -/
def meetRows (a b : List Nat) : Bool := a.any b.contains

/-- Whether a matrix operation that has not begun waits for an earlier copy of its block (R354). -/
def Core.mHeld (k : Core) (o : MOp) : Bool :=
  o.step == 0 && k.cq.any fun c =>
    c.block == o.block && c.uid < o.uid && (meetRows c.wrows o.rows || meetRows o.wrows c.rows)

/-- Whether a copy that has not begun waits for an earlier matrix operation of its block (R354). -/
def Core.cHeld (k : Core) (c : COp) : Bool :=
  c.row == 0 && c.byte == 0 && k.mq.any fun o =>
    o.block == c.block && o.uid < c.uid && (meetRows c.wrows o.rows || meetRows o.wrows c.rows)

/-- The first operation of each block in a queue (R186, R353). -/
def heads {α : Type} (block : α → Nat) : List α → List Nat → List α
  | [], _ => []
  | x :: t, seen => if seen.contains (block x) then heads block t seen else x :: heads block t (block x :: seen)

/-- Whether a queued loop has taken all its steps. -/
def MOp.stepsDone (o : MOp) : Bool := match o.kind with | .loop d _ _ _ => d.nstep ≤ o.step | _ => false

/-- The operation that the matrix engine of a core works on, with the cycle in which its step begins: as a step ends the engine
turns to the next block with a queued operation, which begins 4 cycles after its issue if that is later (R186).  A first
operation that R354 holds back is passed over (DESIGN CHOICE, log 71: R186 does not say whether the engine waits for it). -/
def State.matrixTurn (s : State) (c : Nat) : Option (MOp × Block × Nat) :=
  let k := s.core c
  let l := (heads (·.block) k.mq []).filterMap fun o =>
    if o.stepsDone || k.mHeld o then none
    else match s.block? o.block with
      | some b => if s.engineRuns b (max o.ready k.mFree) then some (o, b) else none
      | none => none
  match l.map (fun (o, _) => max o.queued k.mFree) with
  | [] => none
  | t :: ts =>
    let t0 := ts.foldl min t
    (inTurn k.mTurn ((l.filter fun (o, _) => max o.queued k.mFree ≤ t0).map fun (o, b) => (b.lowSlot, (o, b)))).map
      fun (o, b) => (o, b, max o.ready k.mFree)

/-- The bytes a copy has left. -/
def COp.left (o : COp) : Nat := (o.desc.nrow - o.row) * o.desc.len - o.byte

/-- Whether the order of its group's accesses, or a `cmtp` of its block where it stores, holds a copy back (R150, R203). -/
def State.copyHeld (s : State) (o : COp) : Bool :=
  match s.group? o.group with
  | some g => g.reqs.any fun q => q.kind == .cpy && q.gen == o.uid &&
      (g.held q || (q.stores && s.behindPass g q.born))
  | none => false

/-- The copy in turn on a core, with the cycle in which its turn begins and the bytes of the turn: all it has left, or
4 KiB where another block has a copy queued (R353); one that is paused or held back is passed over (log 71). -/
def State.copyTurn (s : State) (c : Nat) : Option (COp × Block × Nat × Nat) :=
  let k := s.core c
  let l := (heads (·.block) k.cq []).filterMap fun o =>
    if o.paused.isSome || k.cHeld o || s.copyHeld o then none
    else match s.block? o.block with
      | some b => if s.engineRuns b (max o.ready k.cFree) then some (o, b) else none
      | none => none
  match l.map (fun (o, _) => max o.queued k.cFree) with
  | [] => none
  | t :: ts =>
    let t0 := ts.foldl min t
    (inTurn k.cTurn ((l.filter fun (o, _) => max o.queued k.cFree ≤ t0).map fun (o, b) => (b.lowSlot, (o, b)))).map
      fun (o, b) => (o, b, max o.ready k.cFree, if l.length == 1 then o.left else min 4096 o.left)

/-- An operation that the engine can turn to, and that may begin, from a cycle on. -/
def MOp.from_ (o : MOp) (now : Nat) : MOp := { o with ready := max now o.ready, queued := max now o.queued }

/-- See `MOp.from_`. -/
def COp.from_ (o : COp) (now : Nat) : COp := { o with ready := max now o.ready, queued := max now o.queued }

/-- The engine operations of a core that become free to begin as another ends may begin from this cycle on. -/
def Core.release (old new : Core) (now : Nat) : Core :=
  { new with mq := updIf (fun o => old.mHeld o && !new.mHeld o) (·.from_ now) new.mq
             cq := updIf (fun c => old.cHeld c && !new.cHeld c) (·.from_ now) new.cq }

/-- The batches' and rows' owner after an operation has left a core's queues (R187, R188). -/
def State.putEngines (s : State) (c : Nat) (k : Core) : State := s.putCore c ((s.core c).release k s.now)

/-- Engine operations of a core dropped unfinished: an engine that was at work on one turns to the next from now on
(R186). -/
def State.dropOps (s : State) (c : Nat) (m : MOp → Bool) (y : COp → Bool) : State :=
  let k := s.core c
  let k := match s.matrixTurn c with
    | some (o, b, t) => if m o && t ≤ s.now then { k with mFree := s.now, mTurn := b.lowSlot } else k
    | none => k
  let k := match s.copyTurn c with
    | some (o, b, t, _) => if y o && t ≤ s.now then { k with cFree := s.now, cTurn := b.lowSlot } else k
    | none => k
  s.putEngines c { k with mq := k.mq.filter (!m ·), cq := k.cq.filter (!y ·) }

/-- Whether a block's operations stand in its core's engine queues: a switch saves those of its context, a resize those of
a suspended block (R189, R355, R473). -/
def State.queuedHere (s : State) (bu : Nat) : Bool :=
  match s.block? bu with
  | some b => !b.suspended && (match s.part? b.part with | some p => p.resident == some b.ctx | none => false)
  | none => false

/-- The matrix operations in the queue of a core (R186). -/
def State.mqLen (s : State) (c : Nat) : Nat := ((s.core c).mq.filter fun o => s.queuedHere o.block).length

/-- The copies in the queue of a core (R353). -/
def State.cqLen (s : State) (c : Nat) : Nat := ((s.core c).cq.filter fun o => s.queuedHere o.block).length

end Sys2Proof.Machine
end

