-- ==== Sys2Proof/Machine/Sync.lean ====
section
/-! DEFINITION. What groups of a block wait for together, the end of groups, blocks and tasks (spec 02 R46, 07 R185,
08 R202, 16 R362 to R365, 17 R386). -/

namespace Sys2Proof.Machine

/-! ### Barriers -/

/-- The groups of a block. -/
def State.groupsOf (s : State) (b : Nat) : List Group := s.groups.filter (·.block == b)

/-- The groups of a block that have not retired (R46). -/
def State.liveGroups (s : State) (b : Nat) : List Group := (s.groupsOf b).filter (·.live != 0)

/-- The phase test of a barrier object (R362). -/
def Bar.test (x : Bar) : Bar :=
  if x.amask != 0 && x.pmask &&& ~~~x.amask == 0 then { x with amask := 0, phase := x.phase + 1 } else x

/-- A group with its wait cleared where a test accepts it, in its handler or in what the handler interrupted. -/
def Group.unwait (g : Group) (p : GWait → Bool) : Group :=
  { g with wait := if p g.wait then .none else g.wait,
           handler := g.handler.map fun k => { k with saved := if p k.saved then .none else k.saved } }

/-- Clears a wait of the groups that a test accepts. -/
def State.wake (s : State) (q : Group → Bool) (p : GWait → Bool) : State :=
  { s with groups := updIf q (fun g => g.unwait p) s.groups }

/-- Whether every access of the groups that arrived is performed (R149). -/
def State.arrivedDone (s : State) (bu : Nat) (arr : List Nat) : Bool :=
  (s.groupsOf bu).all fun g => !arr.contains g.gindex || g.quiet

/-- `gbar` passes when every group that has not retired has arrived (R364) and what they issued before is performed
(R149). -/
def State.gbarTest (s : State) (bu : Nat) : State :=
  match s.block? bu with
  | none => s
  | some b =>
    let gs := s.liveGroups bu
    if b.gbar.isEmpty || !(gs.all fun g => b.gbar.contains g.gindex) || !s.arrivedDone bu b.gbar then s
    else (s.putBlock { b with gbar := [] }).wake (·.block == bu) (· == .gbar)

/-- Whether a block has arrived at an `rbar` of level `l`: all its groups that have not retired wait there (R365) and
their accesses are performed (R149).  One that has not arrived counts when it has retired (R46), and so stands here no more. -/
def State.rbarArrived (s : State) (b : Block) (l : Nat) : Bool :=
  b.rbarLvl == some l && !b.rbar.isEmpty && (s.liveGroups b.uid).all (fun g => b.rbar.contains g.gindex) &&
    s.arrivedDone b.uid b.rbar

/-- Whether two blocks of a task belong to one unit of level `l` (R28): one cluster, one die, or the launch. -/
def sameUnit (l : Nat) (a b : Block) : Bool :=
  match l with
  | 0 => coreX a.core / 4 == coreX b.core / 4 && coreY a.core / 2 == coreY b.core / 2
  | 1 => coreDie a.core == coreDie b.core
  | _ => true

/-- The key under which a launch counts the instances of a unit (R366): the die's number, or 32 for the launch; none for a
cluster, whose blocks keep their count themselves. -/
def rbarKey (l : Nat) (b : Block) : Option Nat := if l == 0 then none else some (if l == 1 then coreDie b.core else 32)

/-- A launch with one instance more counted under a key (R366). -/
def TaskRun.countRbar (r : TaskRun) (k : Option Nat) : TaskRun :=
  match k with
  | none => r
  | some k => { r with rcnt := setKey k (getKey 0 k r.rcnt + 1) r.rcnt, rsent := r.rsent.filter (· != k)
                       rtold := r.rtold.filter (· != k) }

/-- An instance of level `l` passes the blocks of the unit of `b` (R365): their groups resume and it is counted. -/
def State.rbarPass (s : State) (b : Block) (l : Nat) : State :=
  let us := (s.blocks.filter fun x => x.task == b.task && sameUnit l b x).map (·.uid)
  let pass (x : Block) : Block :=
    { x with rbar := [], rbarLvl := none, rbarDone := x.rbarDone.modify l (fun n => n + 1) }
  let s := { s with blocks := updIf (fun x => us.contains x.uid) pass s.blocks }
  let s := match s.task? b.task with
    | some t => s.putTask { t with run := t.run.countRbar (rbarKey l b) }
    | none => s
  s.wake (fun g => us.contains g.block) fun w => (match w with | .rbar _ => true | _ => false)

/-- The dies of a unit's blocks send the leader their counts of an instance, over CTL (R366, R498). -/
def State.rbarTell (s : State) (t : Task) (k : Nat) (dies : List Nat) : State :=
  if t.run.rtold.contains k then s
  else dies.eraseDups.foldl (fun s d => s.carry { src := d, dst := t.run.leader, vc := 3, kind := .rbar t.uid })
    (s.putTask { t with run := { t.run with rtold := t.run.rtold ++ [k] } })

/-- Whether the retirement of a block of a task has not reached the leader (R46, R498). -/
def State.retiring (s : State) (t : Nat) : Bool :=
  s.away.any fun m => match m.kind with | .retire u _ => u == t | _ => false

/-- `rbar` passes a unit when every block of it has arrived or retired (R365); a pass that the leader counts is performed
when the counts have reached it, and its mirror, where there is one, has acknowledged them (R205, R366, R498). -/
def State.rbarTest (s : State) (bu : Nat) : State :=
  match s.block? bu with
  | none => s
  | some b =>
    match b.rbarLvl with
    | none => s
    | some l =>
      let unit := s.blocks.filter fun x => x.task == b.task && sameUnit l b x
      if !(unit.all fun x => s.rbarArrived x l) then s
      else
        match s.task? b.task, rbarKey l b with
        | some t, some k =>
          let s := s.rbarTell t k (unit.map fun x => coreDie x.core)
          if s.inTransit (.rbar t.uid) || s.retiring t.uid then s
          else if t.run.mirror.isNone then s.rbarPass b l
          else if t.run.rsent.contains k then s
          else match s.task? b.task with
            | some t => s.putTask { t with run := { t.run with rsent := t.run.rsent ++ [k] } }
            | none => s
        | _, _ => s.rbarPass b l

/-- The passes that a launch's mirror has acknowledged are performed (R205, R366). -/
def State.rbarAck (s : State) (t : Task) (ks : List Nat) : State :=
  ks.foldl (fun s k =>
    match s.blocks.find? fun b => b.task == t.uid && (b.rbarLvl.bind fun l => rbarKey l b) == some k with
    | some b => s.rbarPass b (if k == 32 then 2 else 1)
    | none => s) s

/-- The rectangle barriers of a task tested again, as when one of its blocks retires (R365). -/
def State.rbarTestTask (s : State) (t : Nat) : State :=
  ((s.blocks.filter (·.task == t)).map (·.uid)).foldl (fun s b => s.rbarTest b) s

/-- The barriers of a block tested again when a group of it has no access left (R149). -/
def State.retest (s : State) (gu : Nat) : State :=
  match s.group? gu with
  | none => s
  | some g =>
    if g.quiet then
      match s.block? g.block with
      | some b => (s.gbarTest b.uid).rbarTestTask b.task
      | none => s
    else s

/-- The matrix token freed, or passed to the first waiter (R185). -/
def State.passToken (s : State) (b : Block) : State :=
  match b.tokWait with
  | [] => s.putBlock { b with token := none }
  | g :: t => (s.putBlock { b with token := some g, tokWait := t }).wake
      (fun x => x.block == b.uid && x.gindex == g) (· == .token)

/-- A group as its retirement leaves it: what poison keeps has no instruction left to fault at, and for every object that
holds the group what it issued before has a `barx` to pass (R149, R363). -/
def Group.retireMarks (g : Group) (b : Block) : Group :=
  let reqs := g.reqs.filter (·.st != .poisoned)
  let objs := (b.bars.zip (List.range b.bars.length)).filter fun (o, _) => o.pmask.getLsbD g.gindex
  { g with deferred := []
           seq := g.seq + 1
           reqs := if reqs.isEmpty then [] else reqs ++ objs.map fun (o, n) => g.mark .barx g.seq n o.phase.toNat [] }

/-- A group whose live mask has become empty retires (R46): it frees the token (R185), acts as a `barx` on every
object that holds it (R363) and no longer counts in `gbar` and `rbar` (R364, R365).  One that retires by the NX EXIT of its
own waiting `macq` waits for the token no more (DESIGN CHOICE, log 71: R185 gives no rule for it). -/
def State.retireGroup (s : State) (g : Group) : State :=
  match s.block? g.block with
  | none => s
  | some b =>
    let m : BitVec 8 := ~~~BitVec.twoPow 8 g.gindex
    let s := s.putGroup (g.retireMarks b)
    let b := { b with tokWait := b.tokWait.filter (· != g.gindex), bars := b.bars.map fun x =>
      if x.pmask.getLsbD g.gindex then ({ x with pmask := x.pmask &&& m, amask := x.amask &&& m } : Bar).test else x }
    let s := s.putBlock b
    let s := if b.token == some g.gindex then s.passToken b else s
    (s.gbarTest b.uid).rbarTestTask b.task

/-! ### The commit position (R202) -/

/-- The commit position moved past every block that has retired in its turn, at most `n` times (R202). -/
def commitSkip (ret : List Nat) : Nat → Nat → Nat
  | 0, c => c
  | n + 1, c => if ret.contains c then commitSkip ret n (c + 1) else c

/-- The commit position on its way to `c`, and past the blocks that retired before their turn (R202): it moves at once
where the launch has no mirror, else when the mirror has acknowledged the pass (R205). -/
def TaskRun.pass (r : TaskRun) (c : Nat) : TaskRun :=
  let c' := commitSkip r.retired (r.retired.length + 1) (max r.commit c)
  if c' == r.commit || r.csent.isSome then r
  else match r.mirror with
    | none => { r with commit := c' }
    | some _ => { r with csent := some c' }

/-- The pass on its way performed (R205); another that has become due follows. -/
def TaskRun.passDone (r : TaskRun) : TaskRun :=
  match r.csent with
  | none => r
  | some c => { r with commit := c, csent := none }.pass c

/-- A task with a block more among its retired ones, and its commit position (R202). -/
def TaskRun.retire (r : TaskRun) (b : Nat) : TaskRun := { r with retired := r.retired ++ [b] }.pass r.commit

/-- A commit position that has moved on from `old` crosses from the leader, which keeps it, to the die of the block that holds the
token now (R202, R205, R498). -/
def State.commitTell (s : State) (u old : Nat) : State :=
  match s.task? u with
  | none => s
  | some t =>
    if t.run.commit == old || !t.hdr.det then s
    else match s.blocks.find? fun b => b.task == u && b.blkid == t.run.commit with
      | some b => s.carry { src := t.run.leader, dst := coreDie b.core, vc := 3, kind := .commit u }
      | none => s

/-- NBLK (R24). -/
def TaskHdr.nblk (h : TaskHdr) : Nat := h.nx * h.ny * h.nz

/-! ### Blocks and tasks end -/

/-- A block removed: its groups, its queued engine operations, and without write-back its STACK sectors, in whatever L1
slice they stand (R46, R88, R125). -/
def State.dropBlock (s : State) (b : Block) : State :=
  let s := s.dropOps b.core (·.block == b.uid) (·.block == b.uid)
  { s with groups := s.groups.filter (·.block != b.uid), blocks := s.blocks.filter (·.uid != b.uid)
           cores := s.cores.map fun (c, k) => (c, { k with l1 := k.l1.filter fun x => x.stack != some b.uid }) }

/-- The end-action cursor from record `i` on (R100, R104, R456): FLUSH for a WR or RW record, FINAL for a REDUCE record of
a task whose status is OK, COMPLETE after the last record; `n` bounds the records looked at. -/
def Task.endFrom (t : Task) : Nat → Nat → SCursor
  | 0, _ => { record := 16, action := 6, unit := 0 }
  | n + 1, i =>
    match t.regions[i]? with
    | none => { record := 16, action := 6, unit := 0 }
    | some r =>
      if r.mode == 2 || r.mode == 3 then { record := i, action := 3, unit := 0 }
      else if r.mode == 5 && t.run.status == 0 then { record := i, action := 5, unit := 0 }
      else t.endFrom n (i + 1)

/-- A task with its cursor moved: where the launch has a mirror, when that has acknowledged it (R205, R456). -/
def Task.at_ (t : Task) (c : SCursor) : Task :=
  { t with run := if t.run.mirror.isNone then { t.run with cursor := c, csrSent := none }
                  else { t.run with csrSent := some c } }

/-- A task whose blocks are gone goes to its end actions (R100, R455), with a status unless it has one already. -/
def Task.toEnd (t : Task) (status : Nat) (cause : BitVec 8) (due : Nat) : Task :=
  let t' := { t with run := { t.run with
    phase := .ending, status := if t.run.status == 0 then status else t.run.status,
    cause := if t.run.status == 0 then cause else t.run.cause, due := due, ask := none, grant := none, sent := none,
    held := [], rsent := [], csrSent := none, told := none } }
  t'.at_ (t'.endFrom 17 0)

/-- Every block of a task stops (R386, R496). -/
def State.stopBlocks (s : State) (t : Nat) : State :=
  (s.blocks.filter (·.task == t)).foldl (fun s b => s.dropBlock b) s

/-- A task ends with a status: its blocks stop and its end actions become due. -/
def State.endTask (s : State) (t : Nat) (status : Nat) (cause : BitVec 8) : State :=
  let s := s.stopBlocks t
  match s.task? t with
  | none => s
  | some x =>
    if x.run.phase == .ending || x.run.phase == .done then s
    else { s.putTask (x.toEnd status cause s.uid) with uid := s.uid + 1 }

/-- ABORT (R386): a TASK_FAULT record, and the task completes with status FAULT and the cause of its first ABORT. -/
def State.abort (s : State) (g : Group) (f : FaultInfo) (double nohandler : Bool) : State :=
  match s.block? g.block with
  | none => s
  | some b =>
    match s.task? b.task with
    | none => s
    | some t =>
      let rank := match g.handler with
        | some k => k.rank
        | none => g.rankOf f.mask
      let s := s.record { type := 1, part := some t.part, ctx := some t.ctx, taskid := t.hdr.taskid, cause := f.cause,
                          core := some g.core, gslot := g.gslot, rank := rank, fpc := f.fpc, faddr := f.faddr, flane := f.flane,
                          double := double, nohandler := nohandler }
      s.endTask t.uid 1 f.cause

end Sys2Proof.Machine
end

