-- ==== Sys2Proof/Machine/Ops.lean ====
section
/-! DEFINITION. What every slot instruction shares: the checks before its own effect (spec 03 R57 to R62, R72; 17 R373,
R384), issue and completion flags (02 R33, R34; 10 R235), sequencing (02 R38 to R45; 17 R372), taking a fault and
returning from a handler (17 R382 to R386). -/

namespace Sys2Proof.Machine

open Host (Outcome)

/-- The causes of R390 by name. -/
def cIllegal : BitVec 8 := 0x01
/-- RESERVED_FIELD. -/
def cReserved : BitVec 8 := 0x02
/-- UNIFORM_PARTIAL. -/
def cPartial : BitVec 8 := 0x03
/-- AFFINE_RANGE. -/
def cAffine : BitVec 8 := 0x04
/-- UNIFORM_CHECK. -/
def cUniform : BitVec 8 := 0x05
/-- UNDECLARED. -/
def cUndeclared : BitVec 8 := 0x06
/-- REGION_MODE. -/
def cMode : BitVec 8 := 0x07
/-- MISALIGNED. -/
def cMisaligned : BitVec 8 := 0x08
/-- TRANSLATION. -/
def cXlat : BitVec 8 := 0x09
/-- PROTECTION. -/
def cProt : BitVec 8 := 0x0A
/-- SCRATCH_RANGE. -/
def cScratch : BitVec 8 := 0x0B
/-- ENGINE_CONFLICT. -/
def cEngine : BitVec 8 := 0x0C
/-- FORMAT_SLOT_UNBOUND. -/
def cUnbound : BitVec 8 := 0x0D
/-- FORMAT_SLOT_ERROR. -/
def cSlotError : BitVec 8 := 0x0E
/-- DET_VIOLATION. -/
def cDet : BitVec 8 := 0x0F
/-- REGISTER_RANGE. -/
def cRange : BitVec 8 := 0x10
/-- CALL_DEPTH. -/
def cDepth : BitVec 8 := 0x11
/-- BARRIER_MISUSE. -/
def cBarrier : BitVec 8 := 0x12
/-- TRAP. -/
def cTrap : BitVec 8 := 0x13
/-- BREAKPOINT. -/
def cBreak : BitVec 8 := 0x14
/-- ECC_UNCORRECTABLE. -/
def cEcc : BitVec 8 := 0x15
/-- WATCHDOG. -/
def cWatchdog : BitVec 8 := 0x16
/-- LITERAL_MISSING. -/
def cLiteral : BitVec 8 := 0x17
/-- LINK_UNREACHABLE. -/
def cLink : BitVec 8 := 0x19

/-! ### What an instruction names -/

/-- The varying registers from `r` that an operand of width `w` names. -/
def vNums (w : Nat) (r : BitVec 8) : List Nat := if w == 64 then [r.toNat, r.toNat + 1] else [r.toNat]

/-- The varying registers a source names. -/
def Src.vNums (w : Nat) : Src → List Nat
  | .vr r => Sys2Proof.Machine.vNums w r
  | _ => []

/-- Every varying register an instruction names (R57), in the formats of R238 to R243. -/
def namedV (op : Nat) : Payload → List Nat
  | .r x =>
    let w := rWidths op x
    match rSpec op with
    | none => []
    | some k =>
      (if k.a.isSome && op != 0x8C then Src.vNums w.a x.a else []) ++ (if k.b.isSome then Src.vNums w.b x.b else []) ++
      (if k.cls == .v then vNums w.d x.d ++ (if k.c == .reg then vNums w.c x.c else []) else [])
  | .i x => if op == 0x43 then vNums (if x.sub.getLsbD 1 then 64 else 32) x.d else []
  | .m x =>
    let wide := if tyWide (mTy x.b) then 64 else 32
    (if 0xA5 ≤ op && op ≤ 0xA7 then [] else
      match x.xk with | .v32 => [x.x.toNat] | .v64 => vNums 64 x.x | _ => []) ++
    (if op == 0x9E then [x.d.toNat]
     else if op == 0x9F then vNums 64 x.d
     else if op == 0xA0 && x.b.toNat / 16 == 7 then
       (if wide == 64 then [x.d.toNat, x.d.toNat + 1, x.d.toNat + 2, x.d.toNat + 3] else vNums 64 x.d)
     else if [0x98, 0x9A, 0x9C, 0x9D, 0xA0, 0xA2, 0xA3].contains op then vNums wide x.d
     else [])
  | .e x => if op == 0x83 then [x.d.toNat, x.b.toNat, x.c.toNat] else if op == 0xB2 then [x.c.toNat] else []
  | .x x =>
    if op == 0xDB || op == 0xDC then [x.d.toNat]
    else if op == 0xDD || op == 0xDE then (List.range x.imm.toNat).map (x.a.toNat + ·)
    else []

/-- The varying registers whose contents an instruction reads (R506): `hrest` those that a handler names h0 to h7 by. -/
def readsV (op : Nat) : Payload → List Nat
  | .r x =>
    let w := rWidths op x
    match rSpec op with
    | none => []
    | some k =>
      (if k.a.isSome && op != 0x8C then Src.vNums w.a x.a else []) ++ (if k.b.isSome then Src.vNums w.b x.b else []) ++
      (if k.cls == .v then (if op == 0x2C then vNums w.d x.d else []) ++ (if k.c == .reg then vNums w.c x.c else []) else [])
  | .i _ => []
  | .m x => if [0x98, 0x9C].contains op then (match x.xk with | .v32 => [x.x.toNat] | .v64 => vNums 64 x.x | _ => [])
            else namedV op (.m x)
  | .e x => if op == 0x83 then [x.b.toNat] else if op == 0xB2 then [x.c.toNat] else []
  | .x x => if op == 0xDC then [x.d.toNat] else if op == 0xDD then namedV op (.x x)
    else if op == 0xDE then (List.range x.imm.toNat).map (248 + ·) else []

/-- Whether the destination is a uniform or affine register or a writable special register (R72). -/
def uniformDst (op : Nat) : Payload → Bool
  | .r _ => op != 0x00 && (match rSpec op with | some k => k.cls == .s || k.cls == .a | none => false)
  | .i _ => op == 0x44
  | .m _ => [0x99, 0xA1, 0xA8].contains op
  | .e _ => op == 0xC0
  | .x _ => [0xB5, 0xB9, 0xD7, 0xD8, 0xD9, 0xDA].contains op

/-! ### Ports (R33) -/

/-- The issue ports. -/
inductive PortK where
  | scalar | vector | memory
  deriving DecidableEq, Repr

/-- The port of an opcode (R33). -/
def opPort (op : Nat) : PortK :=
  if op == 0x43 || op == 0x83 then .vector
  else if 0xD0 ≤ op || [0x44, 0x84, 0x4A, 0x39, 0x69, 0x6B, 0x8F].contains op then .scalar
  else if 0x98 ≤ op then .memory
  else if 0x88 ≤ op then .vector
  else match rSpec op with
    | some k => if k.cls == .s || k.cls == .a then .scalar else .vector
    | none => .scalar

/-- The port of an instruction (R33): its opcode's. -/
def portOf (op : Nat) (_ : Payload) : PortK := opPort op

/-- Whether an operand of a vector instruction is 64 bits wide (R33). -/
def isWide (op : Nat) : Payload → Bool
  | .r x =>
    let w := rWidths op x
    match rSpec op with
    | none => false
    | some k => (k.a.isSome && op != 0x8C && w.a == 64) || (k.b.isSome && w.b == 64) ||
        (k.c == .reg && w.c == 64) || w.d == 64
  | .i x => x.sub.getLsbD 1
  | _ => false

/-- The first cycle of beat b of a vector instruction started in cycle s (R36). -/
def beatStart (wide : Bool) (s b : Nat) : Nat := if wide then s + 2 * b else s + b

/-- The cycle in which beat b of its result becomes readable, at latency λ (R36). -/
def beatDone (wide : Bool) (s b lat : Nat) : Nat := beatStart wide s b + (if wide then 1 else 0) + lat

/-! ### Taking a fault (R47, R382 to R386) -/

/-- The handler split at its start (R382): all 96 lanes at the entry (log 51: its DIST counts from the entry's cycle). -/
def handlerStart (entry now : Nat) : Split :=
  { pc := BitVec.ofNat 57 entry, mask := allLanes, lc := 0, hold := false, last := none, prev := now, ready := now + 1,
    fetched := false }

/-- Whether the handler split of a group must wait in cycle `now` for what an earlier invocation left in flight (R382): a
result that is not yet readable, or a request that is not yet performed; a request that poison keeps for `rte` is not in
flight (R344), and a `cpy` has left its instruction behind (R235). -/
def Group.handlerHeld (g : Group) (now : Nat) : Bool :=
  match g.handler with
  | none => false
  | some k =>
    g.pend.any (fun p => now < p.at_ && p.inv.any (· != k.inv)) ||
      g.reqs.any (fun q => q.kind != .cpy && q.st != .poisoned && q.inv.any (· != k.inv))

/-- Takes a fault of a group (R382): with a handler the group enters it; in handler mode it is a double fault, and
without a handler entry it ends the task (R384, R386). -/
def State.takeFault (s : State) (g : Group) (f : FaultInfo) : State :=
  if g.inHandler then s.abort g f true false
  else
    match (s.block? g.block).bind fun b => (s.part? b.part).bind (·.handler) with
    | none => s.abort g f false true
    | some (entry, _, _) =>
      let g := g.parkExtra
      s.putGroup { g with
        invs := g.invs + 1
        handler := some { inv := g.invs + 1, split := handlerStart entry s.now, flags := 0, fault := f,
                          rank := g.rankOf f.mask, total := g.records.length, saved := g.wait, sleep := g.sleep }
        wait := .none
        sleep := 0 }

/-- What a record about a group says of the place (R442). -/
def State.groupRec (s : State) (g : Group) : RecInfo :=
  match s.block? g.block with
  | some b => { type := 0, part := some b.part, ctx := some b.ctx,
                taskid := ((s.task? b.task).map (·.hdr.taskid)).getD 0, core := some g.core, gslot := g.gslot }
  | none => { type := 0, core := some g.core, gslot := g.gslot }

/-- A translation fault becomes a packet (R137): the group halts (`Group.xlatWait`), and a record with REPLAY is written. -/
def State.packet (s : State) (g : Group) (q : Req) (faddr : Nat) (flane : LaneMask) : State :=
  let id := s.uid
  let g' := { g with reqs := (g.reqs.filter (·.seq != q.seq)) ++ [{ q with st := .xlat id faddr flane }] }
  ({ s with uid := id + 1 }.putGroup g').record
    { s.groupRec g with type := 2, cause := cXlat, rank := g.rankOf q.split, fpc := q.pc, faddr := dw faddr,
                        flane := flane, pkt := id, replay := true }

/-- The splits as `rte` leaves them (R386): after a precise fault the faulting one re-executes FPC under RETRY, and is at the
next PC of FPC under SKIP.  It stands at FPC already, unless the fault is that of a packet of an instruction sequenced long ago
(log 55). -/
def rteSplit (f : FaultInfo) (skip : Bool) (x : Split) : Split :=
  if f.defer || f.fetch || x.mask != f.mask then x
  else if skip then { x with pc := f.next, hi := 0, last := some x.pc, fetched := false }
  else if x.pc == f.fpc && x.hi == 0 then x
  else { x with pc := f.fpc, hi := 0, fetched := false }

/-- The faulting split stands at an address again, as a split of its own, where its lanes have merged, divided or exited since its
instruction issued (log 55): its live lanes leave the splits in which they are. -/
def Group.restart (g : Group) (f : FaultInfo) (skip : Bool) : Group :=
  let m := f.mask &&& g.live
  if f.defer || f.fetch || m == 0 || (g.active ++ g.parked).any (·.mask == f.mask) then g
  else
    match (g.active ++ g.parked).find? fun y => y.mask &&& m != 0 with
    | none => g
    | some y =>
      let rest (l : List Split) : List Split := (l.map fun z => { z with mask := z.mask &&& ~~~m }).filter (·.mask != 0)
      let x := { y with pc := if skip then f.next else f.fpc, hi := 0, mask := m, hold := false, fetched := false
                        last := if skip then some f.fpc else y.last }
      Group.parkExtra { g with active := rest g.active ++ [x], parked := rest g.parked }

/-- The request an ECC_UNCORRECTABLE fault kept: reissued in its place under RETRY, dropped with its flag cleared
under SKIP (R386). -/
def Group.rteReq (g : Group) (f : FaultInfo) (skip : Bool) : Group :=
  match f.req with
  | none => g
  | some n =>
    if skip then
      let fl := (g.reqs.find? (·.seq == n)).map (·.flag) |>.getD 0
      let g := { g with reqs := g.reqs.filter (·.seq != n), wait := if g.wait == .wcnt n then .none else g.wait }
      if fl == 0 then g else g.apply (.flag fl)
    else { g with reqs := updIf (·.seq == n) (fun q => { q with st := .flying }) g.reqs }

/-- Leaves the handler with RETRY or SKIP (R386): the splits resume (`rteSplit`, `Group.restart`), then the merge test runs. -/
def Group.leave (g : Group) (k : Handler) (skip : Bool) : Group :=
  let skip' := skip && !k.fault.fetch
  let g := { g with handler := none, wait := k.saved, sleep := k.sleep, active := g.active.map (rteSplit k.fault skip'),
                    parked := g.parked.map (rteSplit k.fault skip') }
  ((g.restart k.fault skip').rteReq k.fault skip').settle

/-! ### Sequencing (R372, R375, R384) -/

/-- The target of JMP, BR and LOOP (R233).  One past either end of the address space wraps within 57 bits (DESIGN CHOICE,
log 74: R233 does not say). -/
def shortTarget (pc : Pc) (tgt : BitVec 5) : Pc :=
  BitVec.ofNat 57 (bundleAddr pc) + (tgt.signExtend 57) * 32

/-- The target of an NX code: the displacement, or s[TGT] for CALL and JIND (R233). -/
def nxTarget (g : Group) (pc : Pc) (h : Head) : Dword :=
  match h.nx with
  | .call | .jind => g.rs h.tgt.toNat
  | _ => (shortTarget pc h.tgt).setWidth 64

/-- A split moved to an address: taken transfers delay it by three cycles (R375). -/
def Split.go (x : Split) (pc : Dword) (taken : Bool) (now : Nat) : Split :=
  { x with pc := pc.setWidth 57, hi := pc.extractLsb' 57 7, last := some x.pc, prev := now,
           ready := if taken then now + 4 else now + 1, fetched := false }

/-- A split divided on a condition between a target and the next PC (R38): an empty part is not created, and the part
of lower key keeps the Hold bit. -/
def divide (x : Split) (cond : LaneMask) (target next : Dword) (now : Nat) : List Split :=
  let a := { x.go target true now with mask := x.mask &&& cond }
  let b := { x.go next false now with mask := x.mask &&& ~~~cond }
  if b.mask == 0 then [a] else if a.mask == 0 then [b]
  else [{ a with hold := x.hold && a.before b }, { b with hold := x.hold && b.before a }]

/-- The group after the NX code acted on its executing split `x` (R372); `next` is the next PC, `target` the target and
`cond` the lanes of the condition.  In a handler the split never divides (R384). -/
def Group.sequence (g : Group) (x : Split) (h : Head) (nextPc : Pc) (target : Dword) (cond : LaneMask) (now : Nat) :
    Group :=
  let next : Dword := nextPc.setWidth 64
  let one (y : Split) : Group := g.putExec x.mask y
  match h.nx with
  | .seq => one (x.go next false now)
  | .jmp => one (x.go target true now)
  | .jind => one (x.go target true now)
  | .br =>
    if g.inHandler then (if cond == allLanes then one (x.go target true now) else one (x.go next false now))
    else g.replaceSplit x.mask (divide x cond target next now)
  | .loop =>
    let lc := x.lc - 1
    let y := { x with lc := lc }
    if lc != 0 then one (y.go target true now) else one (y.go next false now)
  | .call =>
    let g := one (x.go target true now)
    { g with rets := g.rets ++ [{ pc := nextPc, mask := x.mask }] }
  | .ret =>
    match (entriesOf x.mask g.rets).getLast? with
    | none => one (x.go next false now)
    | some e => { one (x.go (e.pc.setWidth 64) true now) with rets := popEntry x.mask g.rets }
  | .exit =>
    let gone := x.mask &&& cond
    let y := { x.go next false now with mask := x.mask &&& ~~~gone }
    let g := if y.mask == 0 then g.replaceSplit x.mask [] else g.replaceSplit x.mask [y]
    { g with live := g.live &&& ~~~gone
             rets := (g.rets.map fun e => { e with mask := e.mask &&& ~~~gone }).filter (·.mask != 0) }

/-! ### Fetch at a transfer (R93, R137, R230) -/

/-- A split marked as fetched, in the group: the split is named by its mask (the handler split by the mode). -/
def Group.markFetched (g : Group) (m : LaneMask) : Group :=
  match g.handler with
  | some k => { g with handler := some { k with split := { k.split with fetched := true } } }
  | none => { g with active := updIf (·.mask == m) (fun x => { x with fetched := true }) g.active
                     parked := updIf (·.mask == m) (fun x => { x with fetched := true }) g.parked }

/-- The task of a group. -/
def State.taskOf (s : State) (g : Group) : Option Task := (s.block? g.block).bind fun b => s.task? b.task

/-- The fault of a fetch (R93, R138, R230): FPC the split's last executed instruction, or the fetched PC when none led
there and for BUNDLE_HEADER. -/
def fetchFault (x : Split) (cause : BitVec 8) (faddr : Nat) : FaultInfo :=
  { cause := cause, fpc := if cause == 0x18 then x.pc else x.last.getD x.pc, faddr := dw faddr, flane := x.mask,
    defer := false, fetch := true, mask := x.mask, next := x.pc, req := none }

/-- The request of a fetch that waits for a translation (R137), or for its bundle's home on another die (R488). -/
def fetchReq (g : Group) (x : Split) : Req :=
  { seq := g.seq, op := 0, head := Head.plain, m := MArgs.zero, cond := 0, target := 0, kind := .fetch, lanes := [],
    uni := true, mask := x.mask, flag := 0, inv := g.handler.map (·.inv), pc := x.last.getD x.pc, next := x.pc,
    split := x.mask, st := .flying, gen := 0 }

/-- The request for a split's bundle that has left, or is to leave, for another die (R488). -/
def Group.fetchOf (g : Group) (x : Split) : Option Req :=
  g.reqs.find? fun q => q.kind == .fetch && q.st == .flying && q.next == x.pc && q.inv == g.handler.map (·.inv)

/-- The bundle of a split that has been fetched, as memory holds it now; none where it can be fetched no longer. -/
def State.bundleAt (s : State) (g : Group) (x : Split) : Option (BitVec 256) :=
  match s.taskOf g with
  | none => none
  | some t =>
    match s.fetch t g.core g.inHandler x.pc with
    | .ok b => some b
    | _ => none

/-- Whether a split waits for its bundle, which another die has been asked for and has not sent (R488). -/
def State.fetchWaits (s : State) (g : Group) (x : Split) : Bool :=
  (s.bundleAt g x).isSome &&
    (g.fetchOf x).any fun q => !q.sent || s.inTransit (.req g.uid q.seq) || s.inTransit (.rsp g.uid q.seq)

/-- The home of a split's bundle where that is another die. -/
def State.fetchAway (s : State) (g : Group) (x : Split) : Option Nat :=
  match s.taskOf g with
  | none => none
  | some t => ((s.translate t.part t.ctx (bundleAddr x.pc)).map fun p => homeDie p.home p.pa).filter (· != coreDie g.core)

/-- A bundle that can be fetched: at once where its die homes it, else it is asked for and read when the answer has come (R488). -/
def State.fetchOk (s : State) (g : Group) (x : Split) : State × Bool :=
  match s.fetchAway g x, g.fetchOf x with
  | none, _ => (s.putGroup (g.markFetched x.mask), true)
  | some _, some q =>
    if s.fetchWaits g x then (s, false)
    else (s.putGroup ({ g with reqs := g.reqs.filter (·.seq != q.seq) }.markFetched x.mask), true)
  | some d, none =>
    (s.putGroup { g with seq := g.seq + 1
                         reqs := g.reqs ++ [{ fetchReq g x with lanes := [{ lane := 0, addr := bundleAddr x.pc, home := d }] }] },
     false)

/-- Fetches for one split of a group: checked and marked, or the fault or packet of the fetch, or it waits for another die.  An
address with any of bits [63:57] set lies in no code range (R117, R233). -/
def State.fetchSplit (s : State) (g : Group) (x : Split) : State × Bool :=
  match s.taskOf g with
  | none => (s, false)
  | some t =>
    if x.hi != 0 then (s.takeFault g (fetchFault x cUndeclared (x.hi ++ x.pc : Dword).toNat), false)
    else
      match s.fetch t g.core g.inHandler x.pc with
      | .ok _ => s.fetchOk g x
      | .fault c a => (s.takeFault g (fetchFault x c a), false)
      | .miss => (s.packet { g with seq := g.seq + 1 } (fetchReq g x) x.pc.toNat x.mask, false)

/-- Fetches for the splits that a transfer moved, in key order, until one faults or waits: the others stay unfetched.  A PC in
the bundle `here` needs no fetch. -/
def State.fetchAll (s : State) (gu here : Nat) : List Split → State
  | [] => s
  | x :: t =>
    match s.group? gu with
    | none => s
    | some g =>
      if x.hi == 0 && bundleAddr x.pc == here then (s.putGroup (g.markFetched x.mask)).fetchAll gu here t
      else
        match s.fetchSplit g x with
        | (s', true) => s'.fetchAll gu here t
        | (s', false) => s'

/-- The splits of a group that await a fetch, in key order: only the handler split in a handler, else the active and the
parked ones (R39). -/
def Group.unfetched (g : Group) : List Split :=
  match g.handler with
  | some k => if k.split.fetched then [] else [k.split]
  | none => g.records.filter fun x => !x.fetched

/-- The splits of a group to fetch: those that await it, and the executing one where its bundle was rewritten or unmapped
since its fetch (R137, R230). -/
def State.awaiting (s : State) (g : Group) : List Split :=
  g.unfetched ++ (match g.exec? with
    | some x => if x.fetched && (s.bundleAt g x).isNone then [x] else []
    | none => [])

/-- Fetches that no split of what executes waits for any more are gone. -/
def Group.dropFetches (g : Group) : Group :=
  let l := g.unfetched
  { g with reqs := g.reqs.filter fun q =>
      q.kind != .fetch || q.st != .flying || q.inv != g.handler.map (·.inv) || l.any fun x => x.pc == q.next }

/-- After an instruction's sequencing: the fetch checks, then the merge test, the parking of a fifth active split and
unparking (R38 to R40, R93), then the retirement of a group without live lanes (R46). -/
def State.settleGroup (s : State) (gu here : Nat) : State :=
  match s.group? gu with
  | none => s
  | some g =>
    let s := s.fetchAll gu here g.unfetched
    match s.group? gu with
    | none => s
    | some g =>
      let g := (if g.inHandler then g else g.settle).dropFetches
      let s := s.putGroup g
      if g.live == 0 then s.retireGroup g else s

/-! ### Issue -/

/-- What an instruction's own effect gives: the state with its effect and the cycle at which its SET flag clears (none
when a request or a wait clears it); a request that a missing translation holds as a packet, with FADDR and FLANE
(R137); a request on which the group waits, and its wait; a fault with FADDR and FLANE; poison it reads, at an address
(R506); a wait that leaves it unissued, all else as it is; or a state in which its sequencing is done as well. -/
inductive Own where
  | ok (s : State) (clear : Option Nat)
  | packet (q : Req) (faddr : Nat) (flane : LaneMask)
  | await (q : Req) (w : GWait)
  | fault (cause : BitVec 8) (faddr : Dword) (flane : LaneMask)
  | ecc (faddr : Nat) (flane : LaneMask)
  | wait
  | done (s : State)

/-- The group that executes. -/
def State.curGroup (s : State) : Option Group := s.group? s.cur

/-- The window index of `winld` and `winst` (R387). -/
def winIndex (v : Group) (a : XArgs) : Nat := ((v.rs a.a.toNat).toNat + a.imm.toNat) % 65536

/-- Whether a window index names a register that `winst` can write (R387). -/
def winWritable (i : Nat) : Bool := i < 0x167

/-- Whether a window index is listed (R387): a register or a park row. -/
def winListed (i : Nat) : Bool := winWritable i || (0x200 ≤ i && i < 0x208)

/-- Whether a value that an instruction reads makes it RESERVED_FIELD (R80, R81, R351, R363, R387): that cause comes before the
others of R60. -/
def valueBad (s : State) (g : Group) (op : Nat) (p : Payload) : Bool :=
  let v := g.viewAt s.now
  match p with
  | .x a =>
    (op == 0xD8 && a.imm.toNat % 256 == 0x13 && 2 < (v.rs a.a.toNat).toNat) ||
    (op == 0xD8 && a.imm.toNat % 256 == 0x14 && 4 < (v.rs a.a.toNat).toNat) ||
    (op == 0xBA && (match s.taskOf g with
      | some t => 2 ^ t.kd.ngrp ≤ a.imm.toNat / 256 % 256
      | none => false)) ||
    (op == 0xDB && !winListed (winIndex v a)) || (op == 0xDC && !winWritable (winIndex v a))
  | .e a => op == 0xB0 && (CDesc.of (v.quad a.s.toNat)).isNone
  | _ => false

/-- Whether `winld` or `winst` names a varying register past the declared count (R387), REGISTER_RANGE. -/
def Group.winRange (g : Group) (now op : Nat) (p : Payload) : Bool :=
  match p with
  | .x a => (op == 0xDB || op == 0xDC) && winIndex (g.viewAt now) a < 0x100 && g.nregs ≤ winIndex (g.viewAt now) a
  | _ => false

/-- The checks of R60, R373 and R384 that come before an instruction's own faults; none when all pass.  A CALL with both causes
of R373 raises CALL_DEPTH (DESIGN CHOICE, log 74: R373 gives them no order). -/
def precheck (s : State) (g : Group) (x : Split) (op : Nat) (h : Head) (p : Payload) : Option (BitVec 8 × Dword) :=
  let g' := g.viewAt s.now
  let nacc := ((s.block? g.block).map (·.nacc)).getD 0
  let sr (y : Payload) : Bool := match y with
    | .x a => op == 0xD7 && 0x20 ≤ a.imm.toNat && !g.inHandler
    | _ => false
  let tile (y : Payload) : Bool := match y with
    | .e a => 0xB1 ≤ op && op ≤ 0xB4 && nacc ≤ a.d.toNat
    | _ => false
  if !(Slot.mk (BitVec.ofNat 8 op) h p).ok then some (cReserved, 0)
  else if (op == 0xD5 || 0xDB ≤ op) && !g.inHandler then some (cReserved, 0)
  else if g.inHandler && (h.nx == .call || h.nx == .ret || h.nx == .exit) then some (cReserved, 0)
  else if sr p || valueBad s g op p then some (cReserved, 0)
  else if (namedV op p).any g.vBad || g.winRange s.now op p || tile p then some (cRange, 0)
  else if uniformDst op p && !g.inHandler && x.mask != g.live then some (cPartial, 0)
  else if h.nx == .call && 16 ≤ g.rets.length then some (cDepth, 0)
  else if h.nx == .ret && rspOf x.mask g.rets == 0 then some (cDepth, 0)
  else if (h.nx == .call || h.nx == .jind) && (g'.rs h.tgt.toNat).extractLsb' 0 5 != 0 then
    some (cMisaligned, g'.rs h.tgt.toNat)
  else none

/-- The ports after an issue in this cycle (R33). -/
def Core.use (k : Core) (p : PortK) (wide : Bool) (now : Nat) : Core :=
  match p with
  | .scalar => { k with scaUsed := some now }
  | .memory => { k with memUsed := some now }
  | .vector => { k with vecUsed := some now, vecFree := now + if wide then 6 else 3 }

/-- The context time of a group, in 1/24 ns (R475). -/
def State.ctxClk (s : State) (g : Group) : Nat :=
  match s.block? g.block with
  | some b => ((s.ctx? b.part b.ctx).map (·.clk)).getD 0
  | none => 0

/-- The bookkeeping of an issue: counts, ages, the SET flag pending and its clearing (R34, R35, R235, R378).  What is
due in this cycle clears first, so that a flag set now outlasts it. -/
def Group.issue (g : Group) (h : Head) (now clk : Nat) (yld : Bool) (clear : Option Nat) : Group :=
  let n := h.set.toNat
  let g := g.landFlags now
  let g := { g with issued := g.issued + 1, last := some now, lastCtx := clk, passed := 0,
                    yielded := if yld then some (now + 1) else none }
  let g := if n == 0 then g else
    let g := g.putFlags (g.curFlags ||| BitVec.twoPow 12 (n - 1))
    match clear with
    | some t => g.push t g.seq (g.flagClear n)
    | none => g
  { g with seq := g.seq + 1 }

/-- The group with the mark of an EXIT of lanes `gone` (R45): what orders their earlier SHARED stores that are not yet
performed before every later store; no mark where there are none. -/
def State.exitMark (s : State) (g : Group) (gone : LaneMask) : Group :=
  let shared (i : Nat) : Bool := match s.taskOf g with
    | some t => ((t.regions[i]?).map (·.mode)) == some 4
    | none => false
  match g.reqs.filter fun q => q.stores && q.mask &&& gone != 0 && q.lanes.any fun l => shared l.reg with
  | [] => g
  | l => { g with seq := g.seq + 1, reqs := g.reqs ++ [g.mark .exit g.seq 0 0 (l.map fun q => LaneReq.ref g.uid q.seq)] }

/-- The sequencing of an instruction issued in cycle `t` that has had its own effect: NX, fetch, merge (R372, R39). -/
def State.sequencedAt (s : State) (gu t : Nat) (h : Head) (x : Split) (next : Pc) (cond : LaneMask) (target : Dword) :
    State :=
  match s.group? gu with
  | none => s
  | some g =>
    let y := match g.handler with
      | some k => k.split
      | none => (g.active.find? (·.mask == x.mask)).getD x
    let g := if h.nx == .exit then s.exitMark g (y.mask &&& cond) else g
    (s.putGroup (g.sequence y h next target cond t)).settleGroup gu (bundleAddr x.pc)

/-- The sequencing of an instruction that issues now. -/
def State.sequenced (s : State) (gu : Nat) (h : Head) (x : Split) (next : Pc) (cond : LaneMask) (target : Dword) : State :=
  s.sequencedAt gu s.now h x next cond target

/-- The split of a request in its group: the handler's, where the handler that runs issued it. -/
def Group.reqSplit (g : Group) (q : Req) : Split :=
  let own := ((g.active ++ g.parked).find? (·.mask == q.split)).getD
    { pc := q.pc, mask := q.split, lc := 0, hold := false, last := none, prev := 0, ready := 0, fetched := true }
  match g.handler with
  | some k => if q.inv == some k.inv then k.split else own
  | none => own

/-- The sequencing that a request has kept back, of an instruction issued earlier (R137, R343). -/
def State.goOn (s : State) (gu : Nat) (q : Req) : State :=
  match s.group? gu with
  | none => s
  | some g => if q.went then s else s.sequencedAt gu q.born q.head (g.reqSplit q) q.next q.cond q.target

/-- `rte` (R386): 0 RETRY, 1 SKIP, 2 ABORT.  A request that SKIP drops no longer holds its block's barriers (R149), nor
its instruction's sequencing. -/
def State.rte (s : State) (g : Group) (k : Handler) (mode : Nat) : State :=
  if mode == 2 then s.abort g k.fault false false
  else
    let s := (s.putGroup (g.leave k (mode == 1))).retest g.uid
    match k.fault.req.bind fun n => g.reqs.find? (·.seq == n) with
    | some q => if mode == 1 then s.goOn g.uid q else s
    | none => s

/-- The issue of an instruction on its port, with its flag (R33, R34, R235). -/
def State.issued (s : State) (gu op : Nat) (h : Head) (p : Payload) (clear : Option Nat) : State :=
  match s.group? gu with
  | none => s
  | some g =>
    (s.putCore g.core ((s.core g.core).use (portOf op p) (isWide op p) s.now)).putGroup
      (g.issue h s.now (s.ctxClk g) s.yld clear)

/-- An instruction whose own effect has been applied completes its issue: flags, ports, sequencing, fetch, merge. -/
def State.finish (s : State) (gu op : Nat) (h : Head) (p : Payload) (x : Split) (cond : LaneMask) (target : Dword)
    (clear : Option Nat) : State :=
  (s.issued gu op h p clear).sequenced gu h x s.nextPc cond target

/-- The fault of an instruction at issue (R248): precise, at its PC. -/
def preciseFault (s : State) (x : Split) (cause : BitVec 8) (faddr : Dword) (flane : LaneMask) : FaultInfo :=
  { cause := cause, fpc := x.pc, faddr := faddr, flane := flane, defer := false, fetch := false, mask := x.mask,
    next := s.nextPc, req := none }

/-- ECC_UNCORRECTABLE of poison that an instruction would read: DEFER is 1, the instruction has not issued (R506). -/
def eccFault (x : Split) (faddr : Nat) (flane : LaneMask) : FaultInfo :=
  { cause := cEcc, fpc := x.pc, faddr := dw faddr, flane := flane, defer := true, fetch := false, mask := x.mask,
    next := x.pc, req := none }

/-- Where the poison of handler row 0, and of park row 0, stands in `Group.poison`; a varying register stands there under its
number. -/
def poisonedH : Nat := 0x300

/-- See `poisonedH`: the window index of R387. -/
def poisonedPark : Nat := 0x200

/-- The first poisoned varying register that an instruction reads (R506): in a handler 248 to 255 are its own rows, for which
FADDR holds that number (DESIGN CHOICE, log 67: the window of R387 does not list them). -/
def Group.poisoned (g : Group) (op : Nat) (p : Payload) : Option Nat :=
  (readsV op p).find? fun r => g.poison.contains (if g.inHandler && 248 ≤ r then poisonedH + (r - 248) else r)

/-- A request that keeps its instruction's sequencing back: the condition and the target as they are at issue. -/
def Req.keep (q : Req) (v : Group) (x : Split) (h : Head) : Req :=
  { q with cond := v.guard h.gp, target := nxTarget v x.pc h, went := false }

/-- Whether an instruction's own effect is a wait that leaves it unissued. -/
def Own.waits : Own → Bool
  | .wait => true
  | _ => false

/-- Runs a slot instruction of the current group: its checks, its own effect, its issue.  One that is not eligible by its own
rule (R186, R203, R329, R353, R359, R363, R369) waits before any check: a fault is raised at issue (R60, R248). -/
def runSlot (op : Nat) (h : Head) (p : Payload) (s : State) (own : Group → Split → Own) :
    Outcome State Fault Refusal :=
  match s.curGroup with
  | none => .fault .noGroup
  | some g =>
    match g.exec? with
    | none => .fault .noGroup
    | some x =>
      if (own g x).waits then .next { s with stall := true }
      else match precheck s g x op h p with
      | some (c, a) => .next (s.takeFault g (preciseFault s x c a x.mask))
      | none =>
        match g.poisoned op p with
        | some r => .next (s.takeFault g (eccFault x r x.mask))
        | none =>
          match own g x with
          | .wait => .next { s with stall := true }
          | .done s' => .next s'
          | .ecc a l => .next (s.takeFault g (eccFault x a l))
          | .fault c a l => .next (s.takeFault g (preciseFault s x c a l))
          | .packet q a l =>
            let s' := s.issued g.uid op h p none
            .next (s'.packet ((s'.group? g.uid).getD g) (q.keep (g.viewAt s.now) x h) a l)
          | .await q w =>
            let s' := s.issued g.uid op h p none
            let g' := (s'.group? g.uid).getD g
            .next (s'.putGroup { g' with reqs := g'.reqs ++ [q.keep (g.viewAt s.now) x h], wait := w })
          | .ok s' clear =>
            let v := g.viewAt s.now
            .next (s'.finish g.uid op h p x (v.guard h.gp) (nxTarget v x.pc h) clear)

/-- The lanes an instruction's guard leaves active: all for BR and EXIT, where GP is the condition (R237). -/
def Group.guardAt (g : Group) (h : Head) (t : Nat) : LaneMask :=
  match h.nx with
  | .br | .exit => allLanes
  | _ => (g.viewAt t).guard h.gp

end Sys2Proof.Machine
end

