-- ==== Sys2Proof/Machine/Operands.lean ====
section
/-! DEFINITION. Source operands of the R and I formats and the destinations of each class (spec 03 R55, R65 to R76,
10 R238 to R241, 12 R262, R263). -/

namespace Sys2Proof

/-- The immediate of the I format (R240). -/
def Imm.value : Imm → Dword
  | .signed x => x.signExtend 64
  | .unsigned x => x.setWidth 64
  | .shifted x => (x ++ (0 : BitVec 16) : BitVec 32).signExtend 64
  | .literal x => x

end Sys2Proof

namespace Sys2Proof.Machine

/-! ### Sources (R262) -/

/-- A number truncated to 32 or 64 bits. -/
def trunc (w : Nat) (x : Dword) : Dword := if w == 64 then x else x &&& 0xFFFFFFFF

/-- The value of a Dword under a signed (R262) or unsigned reading at width w. -/
def valOf (signed : Bool) (w : Nat) (x : Dword) : Int :=
  if signed then (if w == 64 then x.toInt else (x.setWidth 32).toInt) else ((trunc w x).toNat : Int)

/-- Lane L of varying register r, or of the pair at r (R53). -/
def Group.lane (g : Group) (w r L : Nat) : Dword :=
  if w == 64 then ((g.rv (r + 1)).getD L 0 ++ (g.rv r).getD L 0 : BitVec 64) else ((g.rv r).getD L 0).setWidth 64

/-- The lane a neighbour operand reads: none where EDGE ZERO gives 0 (R74, R75). -/
def nbLane (nb : Nb) (edge : BitVec 2) (L : Nat) : Option Nat :=
  match nb with
  | .none => some L
  | .lft => if L == 0 then (if edge == 1 then some 95 else if edge == 2 then some 0 else none) else some (L - 1)
  | .rgt => if L == 95 then (if edge == 1 then some 0 else if edge == 2 then some 95 else none) else some (L + 1)

/-- The value of an affine register in lane L at width w, as an integer before truncation (R67). -/
def AReg.lane (a : AReg) (w L : Nat) : Int :=
  (if w == 64 then a.base.toInt else (a.base.setWidth 32).toInt) + (L : Int) * a.stride.toInt

/-- Src(X, L, n) of R262, from the registers as `g` shows them. -/
def Group.src (g : Group) (nb : Nb) (w : Nat) (x : Src) (L : Nat) : Dword :=
  match x with
  | .vr r => match nbLane nb g.edge L with
    | some k => g.lane w r.toNat k
    | none => 0
  | .ar r => trunc w (BitVec.ofInt 64 ((g.ra r.toNat).lane w L))
  | .sr r => trunc w (g.rs r.toNat)
  | .imm y => trunc w (y.signExtend 64)
  | .lit y => trunc w y

/-! ### Results of vector instructions (R36, R55) -/

/-- What one lane of a vector instruction gives: its result and the STATUS bits it raises. -/
structure LaneOut where
  x  : Dword
  fl : BitVec 9 := 0
  deriving DecidableEq, Repr

/-- Pushes a varying result of one beat: the register or the pair (R55). -/
def Group.pushRow (g : Group) (t w d : Nat) (m : LaneMask) (f : Nat → Dword) : Group :=
  if m == 0 then g
  else
    let g := g.push t g.seq (g.wv d m (mkRow fun i => if m.getLsbD i then (f i).setWidth 32 else 0))
    if w == 64 then g.push t g.seq (g.wv (d + 1) m (mkRow fun i => if m.getLsbD i then (f i).extractLsb' 32 32 else 0))
    else g

/-- Pushes STATUS bits (R82, R83). -/
def Group.pushStatus (g : Group) (t : Nat) (fl : BitVec 9) : Group := if fl == 0 then g else g.push t g.seq (.stSet fl)

/-- The STATUS bits of the lanes of a mask together. -/
def flagsOf (m : LaneMask) (f : Nat → LaneOut) : BitVec 9 := (lanesOf m).foldl (fun a i => a ||| (f i).fl) 0

/-- The lanes of beat b that the instruction writes: in the split mask, guard true as read in the beat's first cycle
(R36, R55). -/
def Group.beatLanes (g : Group) (x : Split) (h : Head) (t b : Nat) : LaneMask :=
  x.mask &&& g.guardAt h t &&& beatMask b

/-- The lanes a vector instruction writes over its beats. -/
def Group.writes (g : Group) (x : Split) (h : Head) (wide : Bool) (now : Nat) : LaneMask :=
  (List.range 3).foldl (fun m b => m ||| g.beatLanes x h (beatStart wide now b) b) 0

/-- The cycle in which the SET flag of a vector instruction clears: when its last beat is readable, or the cycle after
issue when it is guarded off in every lane (R235). -/
def Group.vecClear (g : Group) (x : Split) (h : Head) (wide : Bool) (now lat : Nat) : Nat :=
  if g.writes x h wide now == 0 then now + 1 else beatDone wide now 2 lat

/-- The registers as a beat in cycle `t` of an instruction started in cycle `now` finds them: varying registers and
predicates as they are in `t` (R36), uniform and affine ones, EDGE and FRM as they were at the start (R83, R401). -/
def Group.beatView (g : Group) (now t : Nat) : Group :=
  let v := g.viewAt now
  { g.viewAt t with edge := v.edge, frm := v.frm, s := v.s, a := v.a, hs := v.hs }

/-- One beat of a vector instruction with a varying destination: `f` gives a lane's result from the registers as the
beat finds them, which holds the results of the instruction's own earlier beats where they are readable (R36, R76).
Of what issues after the instruction, and of loads that return after its start, no beat finds anything (log 48). -/
def vecBeat (x : Split) (h : Head) (wide : Bool) (now lat w d : Nat) (f : Group → Nat → LaneOut) (g : Group) (b : Nat) :
    Group :=
  let t := beatStart wide now b
  let v := g.beatView now t
  let m := g.beatLanes x h t b
  let r := fun i => f v i
  (g.pushRow (beatDone wide now b lat) w d m (fun i => (r i).x)).pushStatus (beatDone wide now b lat) (flagsOf m r)

/-- A vector instruction with a varying destination (R36, R55). -/
def vecOwn (s : State) (h : Head) (wide : Bool) (lat w d : Nat) (f : Group → Nat → LaneOut) (g : Group) (x : Split) :
    Own :=
  .ok (s.putGroup ((List.range 3).foldl (vecBeat x h wide s.now lat w d f) g)) (some (g.vecClear x h wide s.now lat))

/-- The combination of a compare with the predicate's previous bits (R256, R276): SET, AND, OR. -/
def combine (sub : BitVec 2) (old new : LaneMask) : LaneMask :=
  if sub == 1 then old &&& new else if sub == 2 then old ||| new else new

/-- One beat of a vector compare. -/
def predBeat (x : Split) (h : Head) (wide : Bool) (now lat d : Nat) (sub : BitVec 2)
    (f : Group → Nat → Bool × BitVec 9) (g : Group) (b : Nat) : Group :=
  let t := beatStart wide now b
  let v := g.beatView now t
  let m := g.beatLanes x h t b
  let new := maskOf fun i => m.getLsbD i && (f v i).1
  let fl := (lanesOf m).foldl (fun a i => a ||| (f v i).2) (0 : BitVec 9)
  let g := if m == 0 then g else g.push (beatDone wide now b lat) g.seq (.p d m (combine sub (v.rp d) new))
  g.pushStatus (beatDone wide now b lat) fl

/-- A vector instruction with a predicate destination (R65, R276). -/
def predOwn (s : State) (h : Head) (wide : Bool) (lat d : Nat) (sub : BitVec 2) (f : Group → Nat → Bool × BitVec 9)
    (g : Group) (x : Split) : Own :=
  .ok (s.putGroup ((List.range 3).foldl (predBeat x h wide s.now lat d sub f) g))
    (some (g.vecClear x h wide s.now lat))

/-! ### Results of scalar-port instructions -/

/-- A uniform result of width w as a register holds it: sign-filled for a signed suffix, zero-filled otherwise
(R66, R263). -/
def fill (signed : Bool) (w : Nat) (x : Dword) : Dword :=
  if w == 64 then x else if signed then (x.setWidth 32).signExtend 64 else trunc 32 x

/-- A uniform result readable `lat` cycles after issue (R36, R263). -/
def uniOwn (s : State) (lat d : Nat) (x : Dword) (fl : BitVec 9) (g : Group) : Own :=
  .ok (s.putGroup ((g.push (s.now + lat) g.seq (g.ws d x)).pushStatus (s.now + lat) fl)) (some (s.now + lat))

/-- An affine result readable `lat` cycles after issue. -/
def affOwn (s : State) (lat d : Nat) (x : AReg) (g : Group) : Own :=
  .ok (s.putGroup (g.push (s.now + lat) g.seq (.a d x))) (some (s.now + lat))

/-- A predicate result of a scalar-port instruction: one value for every lane of the split whose guard is true (R65),
read whole at issue. -/
def uniPredOwn (s : State) (h : Head) (lat d : Nat) (sub : BitVec 2) (r : Bool) (fl : BitVec 9) (g : Group) (x : Split) :
    Own :=
  let v := g.viewAt s.now
  let m := x.mask &&& g.guardAt h s.now
  if m == 0 then .ok s (some (s.now + 1))
  else
    let new := if r then allLanes else 0
    .ok (s.putGroup ((g.push (s.now + lat) g.seq (.p d m (combine sub (v.rp d) new))).pushStatus (s.now + lat) fl))
      (some (s.now + lat))

/-! ### Affine results (R68) -/

/-- A source of an affine-class instruction at lane L, as an integer: uniform and immediate values are read as their
signed value at width n (R61, R67, R68). -/
def Group.affSrc (g : Group) (w : Nat) (x : Src) (L : Nat) : Int :=
  match x with
  | .ar r => (g.ra r.toNat).lane w L
  | x => valOf true w (g.src .none w x 0)

/-- The W flag of a source (R70). -/
def Group.srcW (g : Group) : Src → Bool
  | .ar r => (g.ra r.toNat).w
  | _ => false

/-- Base, stride and W of an affine-linear result from its values in lanes 0 and 1 (R68). -/
def affResult (w : Nat) (v0 v1 : Int) (wIn : Bool) : AReg :=
  let base := v0
  let stride := v1 - v0
  let lo : Int := -(2 ^ (w - 1) : Nat)
  let hi : Int := (2 ^ (w - 1) : Nat) - 1
  let last := base + 95 * stride
  { base := if w == 64 then BitVec.ofInt 64 base else (BitVec.ofInt 32 base).signExtend 64
    stride := BitVec.ofInt 32 stride
    w := wIn || base < lo || base > hi || last < lo || last > hi || stride < -2147483648 || stride > 2147483647 }

end Sys2Proof.Machine
end

