-- ==== Sys2Proof/Machine/Flags.lean ====
section
/-! DEFINITION. STATUS (spec 03 R82; 06 R161): the bits as `LaneOut.fl` and a result of Round carry them. -/

namespace Sys2Proof.Machine

/-- The flags a rounding raises (R161): NV, DZ, OF, UF, NX. -/
structure Flags where
  nv  : Bool := false
  dz  : Bool := false
  of_ : Bool := false
  uf  : Bool := false
  nx  : Bool := false
  deriving DecidableEq, Repr

/-- No flag. -/
def Flags.none : Flags := {}

/-- The flags of two roundings together. -/
def Flags.or (a b : Flags) : Flags :=
  { nv := a.nv || b.nv, dz := a.dz || b.dz, of_ := a.of_ || b.of_, uf := a.uf || b.uf, nx := a.nx || b.nx }

/-- The bits of STATUS (R82): NX 0, UF 1, OF 2, DZ 3, NV 4. -/
def Flags.bits (f : Flags) : BitVec 9 :=
  (0 : BitVec 4) ++ BitVec.ofBool f.nv ++ BitVec.ofBool f.dz ++ BitVec.ofBool f.of_ ++ BitVec.ofBool f.uf ++
    BitVec.ofBool f.nx

/-- PMCDENY, bit 8 of STATUS (R82). -/
def statusPmcDeny : BitVec 9 := 0x100

end Sys2Proof.Machine
end

