-- ==== Sys2Proof/Machine/Num.lean ====
section
/-! DEFINITION. Exact numbers, formats, Decode, Round and Encode (spec 06 R154 to R167), Steep and Husk (08 R209, R210),
and the exact elementary functions of R295. -/

namespace Sys2Proof.Machine

/-! ### Exact values (R159) -/

/-- An exact value: NaN, an infinity, or ± n / d × 2^e with the sign of zero kept. -/
inductive Num where
  | nan
  | inf (neg : Bool)
  | fin (neg : Bool) (n d : Nat) (e : Int)
  deriving DecidableEq, Repr

/-- A zero. -/
def Num.zero (neg : Bool) : Num := .fin neg 0 1 0

/-- An integer. -/
def Num.ofInt (x : Int) : Num := .fin (x < 0) x.natAbs 1 0

/-- Whether it is a zero. -/
def Num.isZero : Num → Bool
  | .fin _ n _ _ => n == 0
  | _ => false

/-- The sign: true for negative. -/
def Num.sign : Num → Bool
  | .nan => false
  | .inf s => s
  | .fin s _ _ _ => s

/-- The value with its sign inverted. -/
def Num.neg : Num → Num
  | .nan => .nan
  | .inf s => .inf (!s)
  | .fin s n d e => .fin (!s) n d e

/-- The magnitude. -/
def Num.abs : Num → Num
  | .nan => .nan
  | .inf _ => .inf false
  | .fin _ n d e => .fin false n d e

/-- The exact product; 0 × ∞ is NaN (R177, R293). -/
def Num.mul : Num → Num → Num
  | .fin s n d e, .fin t m c f => .fin (s != t) (n * m) (d * c) (e + f)
  | .inf s, .fin t m _ _ => if m == 0 then .nan else .inf (s != t)
  | .fin s n _ _, .inf t => if n == 0 then .nan else .inf (s != t)
  | .inf s, .inf t => .inf (s != t)
  | _, _ => .nan

/-- n / d × 2^e as a signed numerator over `d` at exponent `lo` ≤ e. -/
def signedAt (neg : Bool) (n : Nat) (e lo : Int) : Int :=
  let x : Int := (n * 2 ^ (e - lo).toNat : Nat)
  if neg then -x else x

/-- The exact sum; +∞ + −∞ is NaN; `z` is the sign of an exact zero of operands that are not zeros of one sign
(R288). -/
def Num.add (z : Bool) : Num → Num → Num
  | .fin s n d e, .fin t m c f =>
    if n == 0 && m == 0 then .zero (if s == t then s else z)
    else
      let lo := min e f
      let x := signedAt s (n * c) e lo + signedAt t (m * d) f lo
      if x == 0 then .zero z else .fin (x < 0) x.natAbs (d * c) lo
  | .inf s, .fin _ _ _ _ => .inf s
  | .fin _ _ _ _, .inf t => .inf t
  | .inf s, .inf t => if s == t then .inf s else .nan
  | _, _ => .nan

/-- Whether x < y, for values that are not NaN; zeros are equal. -/
def Num.lt : Num → Num → Bool
  | .fin s n d e, .fin t m c f =>
    let lo := min e f
    signedAt s (n * c) e lo < signedAt t (m * d) f lo
  | .inf s, .inf t => s && !t
  | .inf s, .fin _ _ _ _ => s
  | .fin _ _ _ _, .inf t => !t
  | _, _ => false

/-- Whether x = y, for values that are not NaN. -/
def Num.eq (x y : Num) : Bool := !x.lt y && !y.lt x

/-- Whether it is NaN. -/
def Num.isNan : Num → Bool
  | .nan => true
  | _ => false

/-- Whether it is a number. -/
def Num.isFin : Num → Bool
  | .fin _ _ _ _ => true
  | _ => false

/-- ⌊log2 (n / d)⌋ for positive n and d. -/
def log2Ratio (n d : Nat) : Int :=
  let l : Int := (n.log2 : Int) - (d.log2 : Int)
  if d * 2 ^ l.toNat ≤ n * 2 ^ (-l).toNat then l else l - 1

/-- ⌊log2 |x|⌋ of a nonzero number. -/
def Num.log2 : Num → Int
  | .fin _ n d e => log2Ratio n d + e
  | _ => 0

/-- The value times 2^k. -/
def Num.scale (k : Int) : Num → Num
  | .fin s n d e => .fin s n d (e + k)
  | x => x

/-! ### Formats (R154, R157, R168) -/

/-- An IEEE-policy format with all five modes (R154, R288). -/
def ieee (ebits fbits bias : Nat) : Fmt :=
  { kind := 0, signed := true, width := 1 + ebits + fbits, ebits := ebits, fbits := fbits, bias := bias, subn := true,
    special := 0, inf := true, ovf := 1, nozero := false, rmallow := 31, rmdef := 0, table := [] }

/-- binary16. -/
def f16 : Fmt := ieee 5 10 15
/-- BF16. -/
def bf16 : Fmt := ieee 8 7 127
/-- binary32. -/
def f32 : Fmt := ieee 8 23 127
/-- binary64. -/
def f64 : Fmt := ieee 11 52 1023
/-- ACCX, whose bit 35 is always zero (R154, R177). -/
def accx : Fmt := ieee 10 24 511

/-- A SINGLE_NAN format of R168. -/
def single (signed : Bool) (ebits fbits bias : Nat) (inf nozero subn : Bool) : Fmt :=
  { kind := 0, signed := signed, width := signed.toNat + ebits + fbits, ebits := ebits, fbits := fbits, bias := bias,
    subn := subn, special := 1, inf := inf, ovf := if inf then 1 else 0, nozero := nozero, rmallow := 31, rmdef := 0,
    table := [] }

/-- An integer format (R156, R168). -/
def intFmt (signed : Bool) (w : Nat) : Fmt :=
  { kind := 1, signed := signed, width := w, ebits := 0, fbits := 0, bias := 0, subn := false, special := 0,
    inf := false, ovf := 0, nozero := false, rmallow := 31, rmdef := 0, table := [] }

/-- E8M0 (R168). -/
def e8m0 : Fmt := single false 8 0 127 false true false
/-- E4M3 (R168). -/
def e4m3 : Fmt := single true 4 3 7 false false true

/-- EBITS + FBITS one bits. -/
def Fmt.ones (F : Fmt) : Nat := 2 ^ (F.ebits + F.fbits) - 1

/-- The magnitude code of an infinity (R160). -/
def Fmt.infIdx (F : Fmt) : Nat :=
  if F.special == 0 then (2 ^ F.ebits - 1) * 2 ^ F.fbits else if F.signed then F.ones else F.ones - 1

/-- The largest magnitude code that is finite (R160). -/
def Fmt.topIdx (F : Fmt) : Nat :=
  if F.special == 0 then (2 ^ F.ebits - 1) * 2 ^ F.fbits - 1
  else if F.special == 1 then (if F.signed then F.ones else F.ones - 1) - F.inf.toNat
  else F.ones

/-- The code of Max as a magnitude (R161): without subnormals the codes of exponent 0 are zeros. -/
def Fmt.maxIdx (F : Fmt) : Nat := if !F.nozero && !F.subn && F.topIdx < 2 ^ F.fbits then 0 else F.topIdx

/-- The canonical NaN code (R164). -/
def Fmt.nanCode (F : Fmt) : Nat :=
  if F.special == 0 then (2 ^ F.ebits - 1) * 2 ^ F.fbits + 2 ^ (F.fbits - 1)
  else if F.signed then 2 ^ (F.width - 1) else 2 ^ F.width - 1

/-- The magnitude that a magnitude code holds (R159). -/
def Fmt.idxVal (F : Fmt) (neg : Bool) (i : Nat) : Num :=
  let E := i / 2 ^ F.fbits
  let fr := i % 2 ^ F.fbits
  if E == 0 && !F.nozero then
    (if F.subn then .fin neg fr 1 (1 - (F.bias : Int) - F.fbits) else .zero neg)
  else .fin neg (2 ^ F.fbits + fr) 1 ((E : Int) - F.bias - F.fbits)

/-- Decode of a FLOAT code (R159, R160). -/
def Fmt.decodeFloat (F : Fmt) (c : Nat) : Num :=
  let m := c % 2 ^ (F.ebits + F.fbits)
  let s := F.signed && bitOf c (F.width - 1)
  if F.special == 0 then
    (if m / 2 ^ F.fbits == 2 ^ F.ebits - 1 then (if m % 2 ^ F.fbits == 0 then .inf s else .nan) else F.idxVal s m)
  else if F.special == 1 then
    (if c % 2 ^ F.width == F.nanCode then .nan else if F.inf && m == F.infIdx then .inf s else F.idxVal s m)
  else F.idxVal s m

/-- binary32 as an exact value. -/
def ofF32 (x : Word) : Num := f32.decodeFloat x.toNat

/-- Decode(fs, c) of R159. -/
def Fmt.decode (F : Fmt) (c : Nat) : Num :=
  if F.kind == 1 then .ofInt (if F.signed then sextNat c F.width else ((c % 2 ^ F.width : Nat) : Int))
  else if F.kind == 2 then ofF32 (F.table.getD (c % 2 ^ F.width) 0)
  else F.decodeFloat c

/-! ### Round and Encode (R161 to R165) -/

/-- How a rounding decides: the mode (0 RNE, 1 RTZ, 2 RUP, 3 RDN, 4 SR) and G of R162. -/
structure Rc where
  mode : Nat
  g    : Nat
  deriving DecidableEq, Repr

/-- RNE. -/
def rne : Rc := ⟨0, 0⟩

/-- Pick (R162), as whether hi is taken: the fraction r / den above lo is not zero, `odd` says that lo's code has bit 0
set. -/
def pickHi (r den : Nat) (odd neg : Bool) (c : Rc) : Bool :=
  match c.mode with
  | 0 => den < 2 * r || (den == 2 * r && odd)
  | 1 => false
  | 2 => !neg
  | 3 => neg
  | _ => c.g < r * 2 ^ 24 / den

/-- The magnitude code that n / d × 2^e rounds to before R163, whether it is exact, and whether it is tiny (R161):
magnitude codes rise by one from each magnitude to the next. -/
def Fmt.roundIdx (F : Fmt) (neg : Bool) (n d : Nat) (e : Int) (c : Rc) : Nat × Bool × Bool :=
  let emin : Int := if F.nozero then -(F.bias : Int) else 1 - (F.bias : Int)
  let k := log2Ratio n d + e
  if k < emin && !F.subn then
    let num := n * 2 ^ (e - emin).toNat
    let den := d * 2 ^ (emin - e).toNat
    (if F.nozero then 0 else if pickHi num den false neg c then 2 ^ F.fbits else 0, false, true)
  else
    let ee := max k emin
    let q := ee - F.fbits
    let num := n * 2 ^ (e - q).toNat
    let den := d * 2 ^ (q - e).toNat
    let i := (ee - emin).toNat * 2 ^ F.fbits + num / den - (if F.nozero then 2 ^ F.fbits else 0)
    let r := num % den
    (if r != 0 && pickHi r den (i % 2 == 1) neg c then i + 1 else i, r == 0, k < emin)

/-- The code of a sign and a magnitude code (R159, R161).  In a signed SINGLE_NAN format code 0 has no negative value: a zero is
+0 there, and a negative nonzero magnitude of code 0 (under NOZERO) takes code 1, the least that a negative value can hold: no
sign is dropped. -/
def Fmt.signed_ (F : Fmt) (neg : Bool) (i : Nat) : Nat :=
  if !(neg && F.signed) then i
  else if F.special == 1 && i == 0 then (if F.nozero then 1 + 2 ^ (F.width - 1) else 0)
  else i + 2 ^ (F.width - 1)

/-- Whether the mode carries a value of this sign away from zero (R163). -/
def Rc.away (c : Rc) (neg : Bool) : Bool :=
  match c.mode with | 0 => true | 1 => false | 2 => !neg | 3 => neg | _ => true

/-- Encode and the flags of Round for FLOAT (R161 to R164).  For x = -0 in an unsigned format R161 returns (+0, {}); in one
without a zero (E8M0) the code is left open, and code 0 is the model's choice (log 73). -/
def Fmt.roundFloat (F : Fmt) (x : Num) (c : Rc) : Nat × Flags :=
  match x with
  | .nan => if F.special == 2 then (0, { nv := true }) else (F.nanCode, Flags.none)
  | .inf s =>
    if s && !F.signed then (if F.nozero && F.special != 2 then F.nanCode else 0, { nv := true })
    else if F.inf then (F.signed_ s F.infIdx, Flags.none)
    else if F.ovf == 0 then (F.signed_ s F.maxIdx, { nv := true })
    else (F.nanCode, { nv := true })
  | .fin s n d e =>
    if n == 0 && s && !F.signed then (0, Flags.none)
    else if n == 0 then (if F.nozero then (0, { uf := true, nx := true }) else (F.signed_ s 0, Flags.none))
    else if s && !F.signed then (if F.nozero && F.special != 2 then F.nanCode else 0, { nv := true })
    else
      let (i0, exact, tiny) := F.roundIdx s n d e c
      let lone := s && F.signed && F.special == 1 && F.nozero && i0 == 0
      let i := if lone then 1 else i0
      let fl : Flags := { nx := !exact || lone, uf := tiny }
      if F.maxIdx < i && !(lone && F.topIdx == 0) then
        let fl := { fl with of_ := true, nx := true }
        if 2 ≤ F.ovf then (F.nanCode, fl)
        else if F.ovf == 0 || !c.away s then (F.signed_ s F.maxIdx, fl)
        else (F.signed_ s F.infIdx, fl)
      else (F.signed_ s i, fl)

/-- A magnitude rounded to an integer by Pick on the grid of spacing 1, and whether it is exact (R165).  The codes of a tie are
the integers' own, so RNE takes the even one; for `frnd`, whose codes R299 does not name, that is log 73's choice. -/
def roundInt (neg : Bool) (n d : Nat) (e : Int) (c : Rc) : Nat × Bool :=
  let num := n * 2 ^ e.toNat
  let den := d * 2 ^ (-e).toNat
  let i := num / den
  let r := num % den
  (if r != 0 && pickHi r den (i % 2 == 1) neg c then i + 1 else i, r == 0)

/-- The least and the greatest value of an integer format. -/
def Fmt.bounds (F : Fmt) : Int × Int :=
  if F.signed then (-(2 ^ (F.width - 1) : Nat), (2 ^ (F.width - 1) : Nat) - 1) else (0, (2 ^ F.width : Nat) - 1)

/-- Encode and flags for INTEGER (R165).  A magnitude of 2^80 or more is out of every range. -/
def Fmt.roundInteger (F : Fmt) (x : Num) (c : Rc) : Nat × Flags :=
  let (lo, hi) := F.bounds
  match x with
  | .nan => (0, { nv := true })
  | .inf s => (truncInt (if s then lo else hi) F.width, { nv := true })
  | .fin s n d e =>
    if n != 0 && 80 < log2Ratio n d + e then (truncInt (if s then lo else hi) F.width, { nv := true })
    else
      let (i, exact) := roundInt s n d e c
      let v : Int := if s then -(i : Int) else i
      if v < lo then (truncInt lo F.width, { nv := true })
      else if hi < v then (truncInt hi F.width, { nv := true })
      else (truncInt v F.width, { nx := !exact })

/-- The codes of a table with their exact values. -/
def Fmt.entries (F : Fmt) : List (Nat × Num) :=
  (List.range (2 ^ F.width)).map fun c => (c, ofF32 (F.table.getD c 0))

/-- The first entry that no other one beats. -/
def bestEntry (better : Num → Num → Bool) : List (Nat × Num) → Option (Nat × Num)
  | [] => none
  | x :: t => match bestEntry better t with
    | some y => if better y.2 x.2 then some y else some x
    | none => some x

/-- Encode and flags for TABLE (R165). -/
def Fmt.roundTable (F : Fmt) (x : Num) : Nat × Flags :=
  let nums := F.entries.filter fun y => !y.2.isNan
  match x with
  | .nan => match F.entries.find? (fun y => y.2.isNan) with
    | some (c, _) => (c, Flags.none)
    | none => (0, { nv := true })
  | .inf s =>
    match bestEntry (fun a b => if s then a.lt b else b.lt a) nums with
    | some (c, _) => (c, { nv := true })
    | none => (0, { nv := true })
  | x =>
    let dist (y : Num) : Num := (y.add false x.neg).abs
    match bestEntry (fun a b => (dist a).lt (dist b)) nums with
    | some (c, y) => (c, { nx := !y.eq x })
    | none => (0, { nv := true })

/-- Encode(fs, x, rm) with the flags of Round (R161 to R165). -/
def Fmt.encode (F : Fmt) (x : Num) (c : Rc) : Nat × Flags :=
  if F.kind == 1 then F.roundInteger x c else if F.kind == 2 then F.roundTable x else F.roundFloat x c

/-- Max of a slot (R161, R193, R308). -/
def Fmt.max (F : Fmt) : Num :=
  if F.kind == 1 then .ofInt F.bounds.2
  else if F.kind == 2 then
    (F.entries.foldl (fun m y => if y.2.isFin && m.lt y.2.abs then y.2.abs else m) (Num.zero false))
  else F.idxVal false F.maxIdx

/-- The bits from the leading to the trailing one of a positive number. -/
def span : Nat → Nat → Nat
  | 0, n => n.log2 + 1
  | f + 1, n => if n % 2 == 0 && n != 0 then span f (n / 2) else n.log2 + 1

/-- The precision of a slot (R178). -/
def Fmt.precision (F : Fmt) : Nat :=
  if F.kind == 0 then F.fbits + 1
  else if F.kind == 1 then F.width
  else F.entries.foldl (fun p y => match y.2 with
    | .fin _ n _ _ => if n == 0 then p else Nat.max p (span 64 n)
    | _ => p) 1

/-! ### Steep and Husk (R209, R210) -/

/-- Rotation left of a 32-bit word. -/
def rotl32 (x : Word) (k : Nat) : Word := x.rotateLeft k

/-- One round of Steep on (c0, c1, c2, c3) under (k0, k1). -/
def steepRound (c : Word × Word × Word × Word) (k0 k1 : Word) : Word × Word × Word × Word :=
  let (c0, c1, c2, c3) := c
  let p0 := c0.setWidth 64 * 0xD2B74407#64
  let p1 := c2.setWidth 64 * 0xC8A1E3F5#64
  (p1.extractLsb' 32 32 ^^^ rotl32 c1 7 ^^^ k0, p1.setWidth 32, p0.extractLsb' 32 32 ^^^ rotl32 c3 11 ^^^ k1,
    p0.setWidth 32)

/-- `n` rounds of Steep. -/
def steepRounds : Nat → Word × Word × Word × Word → Word → Word → Word × Word × Word × Word
  | 0, c, _, _ => c
  | n + 1, c, k0, k1 => steepRounds n (steepRound c k0 k1) (k0 + 0x9E3779B9) (k1 + 0x6A09E667)

/-- Steep(c, k) (R209). -/
def steep (c : Word × Word × Word × Word) (k0 k1 : Word) : Word × Word × Word × Word := steepRounds 10 c k0 k1

/-- Husk(index, seed) (R210). -/
def husk (index seed : Word) : Word :=
  let x := index ^^^ seed
  let x := (x ^^^ (x >>> 16)) * 0x6C8E9CF5
  let x := (x ^^^ (x >>> 13)) * 0x9E485565
  x ^^^ (x >>> 16)

/-- G of R162 for element index i, slot K and DETSEED. -/
def srG (i k : Nat) (seed : Dword) : Nat :=
  (steep (wd i, wd (i / 2 ^ 32), wd (0x53520000 + k), 0) (seed.setWidth 32) (seed.extractLsb' 32 32)).1.toNat % 2 ^ 24

/-! ### Exact elementary functions (R208, R295)

An irrational value is given as an odd numerator: half a unit above the floor at a fine grid.  Every boundary that
Round, Pick and R162's SR test compare with lies on that grid, so they decide as on the exact value.  The series are
summed in fixed point with spare bits that are dropped (log 17). -/

/-- An irrational value with ⌊|x| / 2^e⌋ = n. -/
def sticky (neg : Bool) (n : Nat) (e : Int) : Num := .fin neg (2 * n + 1) 1 (e - 1)

/-- ⌊√x⌋ by binary digits, `k` of them still to find. -/
def isqrtGo (x : Nat) : Nat → Nat → Nat
  | 0, r => r
  | k + 1, r => let c := r + 2 ^ k; isqrtGo x k (if c * c ≤ x then c else r)

/-- ⌊√x⌋. -/
def isqrt (x : Nat) : Nat := isqrtGo x (x.log2 / 2 + 1) 0

/-- m × 2^e with an even exponent. -/
def evenExp (m : Nat) (e : Int) : Nat × Int := if e % 2 == 0 then (m, e) else (2 * m, e - 1)

/-- √(m × 2^e), m positive, with at least 128 bits. -/
def sqrtNum (m : Nat) (e : Int) : Num :=
  let (m, e) := evenExp m e
  let big := m * 2 ^ 256
  let r := isqrt big
  if r * r == big then .fin false r 1 (e / 2 - 128) else sticky false r (e / 2 - 128)

/-- 1 / √(m × 2^e), m positive: √(2^2k / m) × 2^(−k − e / 2). -/
def rsqrtNum (m : Nat) (e : Int) : Num :=
  let (m, e) := evenExp m e
  let k := 128 + m.log2
  let q := 2 ^ (2 * k) / m
  let r := isqrt q
  if r * r * m == 2 ^ (2 * k) then .fin false r 1 (-(k : Int) - e / 2) else sticky false r (-(k : Int) - e / 2)

/-- Σ term / k over odd k, each term times t2 / 2^p: the tail of atanh. -/
def atanhGo (p t2 : Nat) : Nat → Nat → Nat → Nat → Nat
  | 0, _, _, acc => acc
  | f + 1, term, k, acc => atanhGo p t2 f (term * t2 / 2 ^ p) (k + 2) (acc + term / k)

/-- atanh(a / b) × 2^p for 0 ≤ a / b ≤ 1/3. -/
def atanhFx (a b p : Nat) : Nat :=
  let y := a * 2 ^ p / b
  atanhGo p (y * y / 2 ^ p) (p / 3 + 4) y 1 0

/-- ln 2 × 2^p. -/
def ln2Fx (p : Nat) : Nat := 2 * atanhFx 1 3 p

/-- Σ ± term / k over odd k, each term over n²: the tail of atan(1 / n). -/
def atanGo (n : Nat) : Nat → Nat → Nat → Bool → Int → Int
  | 0, _, _, _, acc => acc
  | f + 1, term, k, neg, acc =>
    atanGo n f (term / (n * n)) (k + 2) (!neg) (if neg then acc - (term / k : Nat) else acc + (term / k : Nat))

/-- atan(1 / n) × 2^p for n ≥ 5. -/
def atanInvFx (n p : Nat) : Int := atanGo n (p / 4 + 4) (2 ^ p / n) 1 false 0

/-- π × 2^p by Machin's formula. -/
def piFx (p : Nat) : Nat := (4 * (4 * atanInvFx 5 (p + 32) - atanInvFx 239 (p + 32))).toNat / 2 ^ 32

/-- Σ ± term, each term times a2 / 2^p / (i (i + 1)). -/
def alternate (p a2 : Nat) : Nat → Nat → Nat → Bool → Int → Int
  | 0, _, _, _, acc => acc
  | f + 1, term, i, neg, acc =>
    alternate p a2 f (term * a2 / 2 ^ p / (i * (i + 1))) (i + 2) (!neg) (if neg then acc - (term : Nat) else acc + (term : Nat))

/-- sin and cos of r / 2^p for 0 ≤ r / 2^p < 1, times 2^p. -/
def sinFx (r p : Nat) : Int := alternate p (r * r / 2 ^ p) (p / 8 + 8) r 2 false 0

/-- See `sinFx`. -/
def cosFx (r p : Nat) : Int := alternate p (r * r / 2 ^ p) (p / 8 + 8) (2 ^ p) 1 false 0

/-- Σ z^k / k!. -/
def expGo (p z : Nat) : Nat → Nat → Nat → Nat → Nat
  | 0, _, _, acc => acc
  | f + 1, term, k, acc => expGo p z f (term * z / 2 ^ p / k) (k + 1) (acc + term)

/-- log2 (m × 2^e), m positive: exact for a power of two, else k + 2 atanh((m − 2^l) / (m + 2^l)) / ln 2. -/
def log2Num (m : Nat) (e : Int) : Num :=
  let l0 := m.log2
  let l := if 2 * m < 3 * 2 ^ l0 then l0 else l0 + 1
  let k : Int := (l : Int) + e
  if m == 2 ^ l then .ofInt k
  else
    let b := 2 ^ l
    let (a, neg) := if b < m then (m - b, false) else (b - m, true)
    let t : Int := (2 * atanhFx a (m + b) 256 * 2 ^ 256 / ln2Fx 256 : Nat)
    let v := k * (2 ^ 256 : Nat) + (if neg then -t else t)
    sticky (v < 0) (v.natAbs / 2 ^ 24) (-232)

/-- 2^x of ± m × 2^e.  Beyond ±256 the value given rounds in binary32 as the exact one does. -/
def exp2Num (neg : Bool) (m : Nat) (e : Int) : Num :=
  if m == 0 then .fin false 1 1 0
  else if 8 < log2Ratio m 1 + e then .fin false 1 1 (if neg then -256 else 256)
  else
    let x := signedAt neg m e (-320)
    let i := x / (2 ^ 320 : Nat)
    let f := (x % (2 ^ 320 : Nat)).toNat
    if f == 0 then .fin false 1 1 i
    else
      let z := f * ln2Fx 320 / 2 ^ 320
      sticky false (expGo 320 z 80 (2 ^ 320) 1 0 / 2 ^ 24) (i - 296)

/-- sin (shift 0) or cos (shift 1) of ± m × 2^e, m positive: the argument reduced by multiples of π / 2 exactly
enough that the dropped bits hold every error. -/
def trigNum (neg : Bool) (m : Nat) (e : Int) (shift : Nat) : Num :=
  let p := 800
  let x := m * 2 ^ (e + 800).toNat
  let h := piFx p / 2
  let k := (2 * x + h) / (2 * h)
  let r : Int := (x : Int) - (k * h : Nat)
  let q := (k + shift) % 4
  let v := if q % 2 == 0 then (if r < 0 then -(sinFx r.natAbs p) else sinFx r.natAbs p) else cosFx r.natAbs p
  let v := if 2 ≤ q then -v else v
  let v := if neg && shift == 0 then -v else v
  sticky (v < 0) (v.natAbs / 2 ^ 160) (-640)

end Sys2Proof.Machine
end

