-- ==== Sys2Proof/Machine/Formats.lean ====
section
/-! DEFINITION. Descriptors, stock images and format slots (spec 06 R157, R158, R168 to R172, R509). -/

namespace Sys2Proof.Machine

/-! ### Descriptors (R157, R158) -/

/-- The low 20 bytes of a descriptor: every field but NAME (R157). -/
def Fmt.descBits (F : Fmt) : Nat :=
  F.kind + 2 ^ 4 * F.signed.toNat + 2 ^ 8 * F.width + 2 ^ 16 * F.ebits + 2 ^ 24 * F.fbits + 2 ^ 32 * F.bias +
    2 ^ 48 * F.subn.toNat + 2 ^ 49 * F.special + 2 ^ 51 * F.inf.toNat + 2 ^ 52 * F.ovf + 2 ^ 55 * F.nozero.toNat +
    2 ^ 56 * F.rmallow + 2 ^ 61 * F.rmdef + 2 ^ 64

/-- The 64 bytes of a descriptor with a name (R157, R509). -/
def Fmt.descBytes (F : Fmt) (name : List Byte) : List Byte :=
  bytesOf 56 F.descBits ++ (name ++ List.replicate 8 0).take 8

/-- The format of a descriptor and its table entries, as read. -/
def Fmt.ofDesc (d : Nat) (table : List Word) : Fmt :=
  { kind := fld d 0 4, signed := bitOf d 4, width := fld d 8 6, ebits := fld d 16 4, fbits := fld d 24 5,
    bias := fld d 32 16, subn := bitOf d 48, special := fld d 49 2, inf := bitOf d 51, ovf := fld d 52 2,
    nozero := bitOf d 55, rmallow := fld d 56 5, rmdef := fld d 61 3, table := table }

/-- R158: the conditions of every kind, and those of each; a reserved code of KIND, SPECIAL or OVF is none that is valid
(log 63). -/
def descValid (d : Nat) (F : Fmt) : Bool :=
  fld d 64 16 == 1 && fld d 80 368 == 0 && !bitOf d 54 && fld d 29 3 == 0 && fld d 20 4 == 0 && fld d 14 2 == 0 &&
  fld d 5 3 == 0 && F.rmallow != 0 && F.rmdef < 5 && bitOf F.rmallow F.rmdef &&
  (match F.kind with
   | 0 => 1 ≤ F.ebits && F.ebits ≤ 8 && F.fbits ≤ 23 && F.width == F.signed.toNat + F.ebits + F.fbits &&
      2 ≤ F.width && F.width ≤ 32 && F.bias ≤ 2 ^ F.ebits - 1 && F.special ≤ 2 && F.ovf ≤ 2 &&
      (F.special != 0 || (F.inf && 2 ≤ F.ebits && 1 ≤ F.fbits && !F.nozero)) && (!F.nozero || !F.subn) &&
      (F.ovf != 1 || F.inf) && (F.special != 2 || (!F.inf && F.ovf == 0))
   | 1 => 2 ≤ F.width && F.width ≤ 32 && F.ebits == 0 && F.fbits == 0 && F.bias == 0 && !F.subn && F.special == 0 &&
      !F.inf && !F.nozero && F.ovf == 0
   | 2 => 2 ≤ F.width && F.width ≤ 8 && !F.signed && F.ebits == 0 && F.fbits == 0 && F.bias == 0 && !F.subn &&
      F.special == 0 && !F.inf && !F.nozero && F.ovf == 0 && F.rmallow == 1 &&
      F.table.all (fun x => (ofF32 x).isNan || (ofF32 x).isFin)
   | _ => false)

/-! ### Stock images (R168, R509) -/

/-- The characters of a name as bytes. -/
def ascii (s : String) : List Byte := s.toList.map fun c => BitVec.ofNat 8 c.toNat

/-- A row B8xxp of R168 for precision P. -/
def b8 (base : Nat) (name : String) (signed inf : Bool) (p : Nat) : Nat × List Byte × Fmt :=
  (base + p, ascii name ++ [BitVec.ofNat 8 (48 + p)],
   single signed (if signed then 8 - p else 9 - p) (p - 1) (if signed then 2 ^ (7 - p) else 2 ^ (8 - p)) inf false true)

/-- The stock images with their names and formats (R168). -/
def stockImages : List (Nat × List Byte × Fmt) :=
  ([1, 2, 3, 4, 5, 6, 7].flatMap fun p =>
    [b8 0x100 "B8SE" true true p, b8 0x110 "B8SF" true false p, b8 0x120 "B8UE" false true p,
     b8 0x130 "B8UF" false false p]) ++
  [(0x200, ascii "INT4", intFmt true 4), (0x201, ascii "INT8", intFmt true 8), (0x210, ascii "E8M0", e8m0),
   (0x211, ascii "E4M3", e4m3), (0x220, ascii "FP16", f16), (0x221, ascii "BF16", bf16), (0x222, ascii "FP32", f32)]

/-- A stock image by id. -/
def stock? (id : Nat) : Option (List Byte × Fmt) := (stockImages.find? (·.1 == id)).map (·.2)

/-- The format of an image of a partition's store (R481). -/
def Part.imageFmt (p : Part) (id : Nat) : Option Fmt :=
  match stock? id with
  | some (_, F) => some F
  | none => (p.images.find? (·.id == id)).map (·.fmt)

/-- The digest of an image of a partition's store (R476, R509); zeros for none. -/
def Part.imageDigest (p : Part) (id : Nat) : BitVec 384 :=
  match stock? id with
  | some (n, F) => sha384 (F.descBytes n)
  | none => ((p.images.find? (·.id == id)).map (·.digest)).getD 0

/-! ### Slots as an instruction finds them (R169, R170) -/

/-- A slot as an instruction that names it finds it. -/
inductive SlotSt where
  | ok (F : Fmt)
  | unbound
  | corrupt

/-- Slot K for a group (R169, R170). -/
def State.slotOf (s : State) (g : Group) (k : Nat) : SlotSt :=
  match s.block? g.block with
  | none => .unbound
  | some b =>
    match s.part? b.part, s.task? b.task with
    | some p, some t =>
      if !p.slotMask.getLsbD k || t.hdr.slotimg.getD k 0 == 0 || p.slotImg.getD k 0 == 0 then .unbound
      else if p.bare.contains (coreDie g.core, k) then .unbound
      else if p.corrupt.any (fun (c, j, _) => c == g.core && j == k) then .corrupt
      else match p.imageFmt (p.slotImg.getD k 0) with
        | some F => .ok F
        | none => .unbound
    | _, _ => .unbound

/-- The use of slot K by the task of a group noted for R172. -/
def State.noteSlot (s : State) (g : Group) (k : Nat) : State :=
  match s.block? g.block with
  | none => s
  | some b =>
    match s.part? b.part with
    | none => s
    | some p => if p.uses.contains (g.core, k, b.task) then s else s.putPart { p with uses := p.uses ++ [(g.core, k, b.task)] }

/-- The slots that a slot instruction names, in the order in which they are checked (R302, R307, R308, R346). -/
def slotsOf (op : Nat) : Payload → List Nat
  | .r x => if op == 0x80 || op == 0x81 || op == 0x84 then [x.c.toNat % 8]
            else if op == 0x82 then [x.b.code % 8, x.c.toNat % 8] else []
  | .e x => if op == 0x83 then [x.ext.toNat % 8] else []
  | _ => []

/-- A thread instruction on a slot noted until its last result at `due` (R171). -/
def Group.noteOp (g : Group) (x : Split) (next : Pc) (k due flag : Nat) : Group :=
  { g with slotOps := g.slotOps ++ [{ seq := g.seq, slot := k, due := due, next := next, flag := flag, split := x, rets := g.rets,
                                      live := g.live, inv := g.handler.map (·.inv) }] }

/-- The element index of stochastic rounding for lane L (R289): (BLKID × NGRP + GINDEX) × 96 + L. -/
def State.srIndex (s : State) (g : Group) (l : Nat) : Nat :=
  match s.block? g.block with
  | some b => (b.blkid * ((s.task? b.task).map (·.kd.ngrp)).getD 0 + g.gindex) * 96 + l
  | none => l

/-- DETSEED of the task of a group. -/
def State.seedOf (s : State) (g : Group) : Dword := ((s.taskOf g).map (·.hdr.detseed)).getD 0

/-- The rounding of lane L in a mode for slot K, 8 for a fixed format (R162, R289). -/
def State.rc (s : State) (g : Group) (mode l k : Nat) : Rc :=
  { mode := mode, g := if mode == 4 then srG (s.srIndex g l) k (s.seedOf g) else 0 }

/-- The mode of a rounding field for a fixed format: 5 is DYN (R289). -/
def fixMode (code frm : Nat) : Nat := if code == 5 then frm else code

/-- The mode of a rounding field for a slot (R166): a static mode that RMALLOW does not permit is RESERVED_FIELD (none),
a dynamic one is replaced by RMDEF, and 6 is RMDEF. -/
def Fmt.mode (F : Fmt) (code frm : Nat) : Option Nat :=
  if code == 6 then some F.rmdef
  else if code == 5 then some (if bitOf F.rmallow frm then frm else F.rmdef)
  else if bitOf F.rmallow code then some code else none

end Sys2Proof.Machine
end

