-- ==== Sys2Proof/Machine/IntAlu.lean ====
section
/-! DEFINITION. Integer arithmetic, logic, shifts, compares, addresses, moves and promotion: opcodes 0x00 to 0x4C
(spec 12 R262 to R286). -/

namespace Sys2Proof

/-- The width of the groups WN and W (R256). -/
def RArgs.n (r : RArgs) : Nat := subWidth r.sub

/-- The signedness of the group WN (R256). -/
def RArgs.sgn (r : RArgs) : Bool := !r.sub.getLsbD 0

end Sys2Proof

namespace Sys2Proof.Machine

open Host (Outcome)

/-! ### Forms -/

/-- What one lane of an R-format instruction reads: A, B, C and the previous D. -/
structure LaneIn where
  a : Dword
  b : Dword
  c : Dword
  d : Dword
  deriving DecidableEq, Repr

/-- The operands of lane L, varying class (R262, R267). -/
def rIn (op : Nat) (r : RArgs) (v : Group) (L : Nat) : LaneIn :=
  let w := rWidths op r
  { a := v.src r.nb w.a r.a L, b := v.src .none w.b r.b L, c := v.lane w.c r.c.toNat L, d := v.lane w.d r.d.toNat L }

/-- The operands of a uniform-class instruction, read as if at lane 0 (R262). -/
def uIn (op : Nat) (r : RArgs) (v : Group) : LaneIn :=
  let w := rWidths op r
  { a := v.src .none w.a r.a 0, b := v.src .none w.b r.b 0, c := trunc w.c (v.rs r.c.toNat),
    d := trunc w.d (v.rs r.d.toNat) }

/-- A varying-class R-format instruction of latency `lat`. -/
def runV (op lat : Nat) (h : Head) (r : RArgs) (s : State) (f : LaneIn → LaneOut) : Outcome State Fault Refusal :=
  runSlot op h (.r r) s fun g x =>
    vecOwn s h (isWide op (.r r)) lat (rWidths op r).d r.d.toNat (fun v L => f (rIn op r v L)) g x

/-- A uniform-class R-format instruction of latency `lat`; `sgn` says whether its suffix is signed (R66). -/
def runU (op lat : Nat) (sgn : Bool) (h : Head) (r : RArgs) (s : State) (f : LaneIn → LaneOut) :
    Outcome State Fault Refusal :=
  runSlot op h (.r r) s fun g _ =>
    let o := f (uIn op r (g.viewAt s.now))
    uniOwn s lat r.d.toNat (fill sgn (rWidths op r).d o.x) o.fl g

/-- An affine-class R-format instruction of latency `lat`: `f` is its formula on the integer values of A, B and C in a
lane, `wIn` the W it inherits (R68). -/
def runA (op lat n : Nat) (h : Head) (r : RArgs) (s : State) (f : Int → Int → Int → Int) (useB useC : Bool) :
    Outcome State Fault Refusal :=
  runSlot op h (.r r) s fun g _ =>
    let v := g.viewAt s.now
    let at_ (L : Nat) : Int :=
      f (v.affSrc n r.a L) (if useB then v.affSrc n r.b L else 0) (if useC then v.affSrc n (.ar r.c) L else 0)
    let w := v.srcW r.a || (useB && v.srcW r.b) || (useC && v.srcW (.ar r.c))
    affOwn s lat r.d.toNat (affResult n (at_ 0) (at_ 1) w) g

/-- A result that is only a value. -/
def val (x : Dword) : LaneOut := { x := x, fl := 0 }

/-- An integer as a Dword, modulo 2^64. -/
def ofI (x : Int) : Dword := BitVec.ofInt 64 x

/-! ### The formulas (R266 to R277) -/

/-- x + y at width n (R266). -/
def iadd (n : Nat) (i : LaneIn) : LaneOut := val (trunc n (i.a + i.b))

/-- x − y at width n (R266). -/
def isub (n : Nat) (i : LaneIn) : LaneOut := val (trunc n (i.a - i.b))

/-- Low n bits of x × y (R266). -/
def imul (n : Nat) (i : LaneIn) : LaneOut := val (trunc n (i.a * i.b))

/-- ⌊x × y / 2^n⌋ (R266). -/
def imulh (n : Nat) (sg : Bool) (i : LaneIn) : LaneOut :=
  val (trunc n (ofI (valOf sg n i.a * valOf sg n i.b / (2 ^ n : Nat))))

/-- Low n bits of x × y + c (R267). -/
def imad (n : Nat) (i : LaneIn) : LaneOut := val (trunc n (i.a * i.b + i.c))

/-- The exact 64-bit product of two 32-bit values (R268). -/
def imulw (sg : Bool) (i : LaneIn) : LaneOut := val (ofI (valOf sg 32 i.a * valOf sg 32 i.b))

/-- |x| (R269). -/
def iabs (n : Nat) (i : LaneIn) : LaneOut := val (trunc n (ofI (valOf true n i.a).natAbs))

/-- The smaller (R266). -/
def imin (n : Nat) (sg : Bool) (i : LaneIn) : LaneOut := val (if valOf sg n i.b < valOf sg n i.a then i.b else i.a)

/-- The larger (R266). -/
def imax (n : Nat) (sg : Bool) (i : LaneIn) : LaneOut := val (if valOf sg n i.a < valOf sg n i.b then i.b else i.a)

/-- The least and the greatest value of width n (R266). -/
def intRange (n : Nat) (sg : Bool) : Int × Int :=
  if sg then (-(2 ^ (n - 1) : Nat), (2 ^ (n - 1) : Nat) - 1) else (0, (2 ^ n : Nat) - 1)

/-- x + y clamped to the range of the suffix (R266). -/
def iaddsat (n : Nat) (sg : Bool) (i : LaneIn) : LaneOut :=
  let y := valOf sg n i.a + valOf sg n i.b
  let (lo, hi) := intRange n sg
  val (trunc n (ofI (if y < lo then lo else if hi < y then hi else y)))

/-- A shift count or field position: the low 32 bits of the operand, unsigned (R272, R273). -/
def count (b : Dword) : Nat := (b.setWidth 32).toNat

/-- x × 2^k truncated (R272). -/
def shl (n : Nat) (i : LaneIn) : LaneOut := val (if n ≤ count i.b then 0 else trunc n (i.a <<< count i.b))

/-- ⌊x / 2^k⌋, x unsigned (R272). -/
def shr (n : Nat) (i : LaneIn) : LaneOut := val (if n ≤ count i.b then 0 else i.a >>> count i.b)

/-- ⌊x / 2^k⌋, x signed (R272). -/
def sar (n : Nat) (i : LaneIn) : LaneOut := val (trunc n (ofI (valOf true n i.a / (2 ^ min (count i.b) n : Nat))))

/-- Rotation left by k mod n (R272). -/
def rol (n : Nat) (i : LaneIn) : LaneOut :=
  let k := count i.b % n
  val (trunc n (i.a <<< k ||| i.a >>> (n - k)))

/-- A field of `len` bits read as signed or unsigned, as a Dword of width n (R273). -/
def extend (n len : Nat) (sg : Bool) (x : Nat) : Dword := trunc n (if sg then ofI (sextNat x len) else dw (x % 2 ^ len))

/-- Bit-field extract (R273). -/
def bfx (n len : Nat) (sg : Bool) (i : LaneIn) : LaneOut :=
  val (extend n len sg (if n ≤ count i.b then 0 else i.a.toNat / 2 ^ count i.b))

/-- Bit-field insert into D's previous value (R273). -/
def bfi (n len : Nat) (i : LaneIn) : LaneOut :=
  let k := count i.b
  if n ≤ k then val i.d
  else
    let m := trunc n (dw ((2 ^ len - 1) * 2 ^ k))
    val ((i.d &&& ~~~m) ||| (i.a <<< k &&& m))

/-- Sign or zero extension from `len` bits (R273). -/
def ext (n len : Nat) (sg : Bool) (i : LaneIn) : LaneOut := val (extend n len sg i.a.toNat)

/-- The number of one bits (R274). -/
def popc (n : Nat) (i : LaneIn) : LaneOut := val (dw ((List.range n).filter fun k => i.a.getLsbD k).length)

/-- The number of zero bits above the highest one bit (R274). -/
def clz (n : Nat) (i : LaneIn) : LaneOut :=
  val (dw (((List.range n).find? fun k => i.a.getLsbD (n - 1 - k)).getD n))

/-- Bit i moved to bit n − 1 − i (R274). -/
def brev (n : Nat) (i : LaneIn) : LaneOut :=
  val (dw ((List.range n).foldl (fun a k => 2 * a + (i.a.getLsbD k).toNat) 0))

/-- The conditions EQ, NE, LT, LE, GT, GE (R258, R276). -/
def icmp (cond : Nat) (x y : Int) : Bool :=
  match cond with
  | 0 => x == y | 1 => x != y | 2 => x < y | 3 => x ≤ y | 4 => x > y | _ => x ≥ y

/-- COND of an `icmp` (R257): condition, width and signedness. -/
def icmpOf (c : BitVec 8) (a b : Dword) : Bool :=
  let n := if c.getLsbD 4 then 64 else 32
  icmp (c.toNat % 8) (valOf (!c.getLsbD 3) n a) (valOf (!c.getLsbD 3) n b)

/-- A + SignExt(B, 32) × 2^k + off (R277). -/
def lea (k : Nat) (off : BitVec 8) (i : LaneIn) : LaneOut :=
  val (ofI (i.a.toInt + valOf true 32 i.b * (2 ^ k : Nat) + off.toInt))

/-! ### The instructions -/

/-- R278. -/
def execNop (h : Head) (r : RArgs) (s : State) : Outcome State Fault Refusal :=
  runSlot 0x00 h (.r r) s fun _ _ => .ok s (some (s.now + 1))

/-- R266. -/
def execIaddV (h : Head) (r : RArgs) (s : State) : Outcome State Fault Refusal := runV 0x01 2 h r s (iadd r.n)
/-- R270. -/
def execIaddA (h : Head) (r : RArgs) (s : State) : Outcome State Fault Refusal :=
  runA 0x02 1 r.n h r s (fun a b _ => a + b) true false
/-- R266. -/
def execIaddS (h : Head) (r : RArgs) (s : State) : Outcome State Fault Refusal := runU 0x03 1 r.sgn h r s (iadd r.n)
/-- R266. -/
def execIsubV (h : Head) (r : RArgs) (s : State) : Outcome State Fault Refusal := runV 0x04 2 h r s (isub r.n)
/-- R270. -/
def execIsubA (h : Head) (r : RArgs) (s : State) : Outcome State Fault Refusal :=
  runA 0x05 1 r.n h r s (fun a b _ => a - b) true false
/-- R266. -/
def execIsubS (h : Head) (r : RArgs) (s : State) : Outcome State Fault Refusal := runU 0x06 1 r.sgn h r s (isub r.n)
/-- R266; latency 4, or 6 at 64 bits (R265). -/
def execImulV (h : Head) (r : RArgs) (s : State) : Outcome State Fault Refusal :=
  runV 0x07 (if r.n == 64 then 6 else 4) h r s (imul r.n)
/-- R270. -/
def execImulA (h : Head) (r : RArgs) (s : State) : Outcome State Fault Refusal :=
  runA 0x08 3 r.n h r s (fun a b _ => a * b) true false
/-- R266. -/
def execImulS (h : Head) (r : RArgs) (s : State) : Outcome State Fault Refusal := runU 0x09 3 r.sgn h r s (imul r.n)
/-- R266. -/
def execImulhV (h : Head) (r : RArgs) (s : State) : Outcome State Fault Refusal :=
  runV 0x0A (if r.n == 64 then 6 else 4) h r s (imulh r.n r.sgn)
/-- R266. -/
def execImulhS (h : Head) (r : RArgs) (s : State) : Outcome State Fault Refusal :=
  runU 0x0B 3 r.sgn h r s (imulh r.n r.sgn)
/-- R267. -/
def execImadV (h : Head) (r : RArgs) (s : State) : Outcome State Fault Refusal :=
  runV 0x0C (if r.n == 64 then 6 else 4) h r s (imad r.n)
/-- R270. -/
def execImadA (h : Head) (r : RArgs) (s : State) : Outcome State Fault Refusal :=
  runA 0x0D 3 r.n h r s (fun a b c => a * b + c) true true
/-- R267. -/
def execImadS (h : Head) (r : RArgs) (s : State) : Outcome State Fault Refusal := runU 0x0E 3 r.sgn h r s (imad r.n)
/-- R268. -/
def execImulwV (h : Head) (r : RArgs) (s : State) : Outcome State Fault Refusal := runV 0x0F 6 h r s (imulw r.sgn)
/-- R268. -/
def execImulwS (h : Head) (r : RArgs) (s : State) : Outcome State Fault Refusal := runU 0x10 3 r.sgn h r s (imulw r.sgn)
/-- R269. -/
def execIabsV (h : Head) (r : RArgs) (s : State) : Outcome State Fault Refusal := runV 0x11 2 h r s (iabs r.n)
/-- R269. -/
def execIabsS (h : Head) (r : RArgs) (s : State) : Outcome State Fault Refusal := runU 0x12 1 true h r s (iabs r.n)
/-- R266. -/
def execIminV (h : Head) (r : RArgs) (s : State) : Outcome State Fault Refusal := runV 0x13 2 h r s (imin r.n r.sgn)
/-- R266. -/
def execIminS (h : Head) (r : RArgs) (s : State) : Outcome State Fault Refusal := runU 0x14 1 r.sgn h r s (imin r.n r.sgn)
/-- R266. -/
def execImaxV (h : Head) (r : RArgs) (s : State) : Outcome State Fault Refusal := runV 0x15 2 h r s (imax r.n r.sgn)
/-- R266. -/
def execImaxS (h : Head) (r : RArgs) (s : State) : Outcome State Fault Refusal := runU 0x16 1 r.sgn h r s (imax r.n r.sgn)
/-- R266. -/
def execIaddsatV (h : Head) (r : RArgs) (s : State) : Outcome State Fault Refusal :=
  runV 0x17 2 h r s (iaddsat r.n r.sgn)
/-- R266. -/
def execIaddsatS (h : Head) (r : RArgs) (s : State) : Outcome State Fault Refusal :=
  runU 0x18 1 r.sgn h r s (iaddsat r.n r.sgn)
/-- R271. -/
def execAndV (h : Head) (r : RArgs) (s : State) : Outcome State Fault Refusal := runV 0x19 2 h r s fun i => val (i.a &&& i.b)
/-- R271. -/
def execAndS (h : Head) (r : RArgs) (s : State) : Outcome State Fault Refusal :=
  runU 0x1A 1 false h r s fun i => val (i.a &&& i.b)
/-- R271. -/
def execOrV (h : Head) (r : RArgs) (s : State) : Outcome State Fault Refusal := runV 0x1B 2 h r s fun i => val (i.a ||| i.b)
/-- R271. -/
def execOrS (h : Head) (r : RArgs) (s : State) : Outcome State Fault Refusal :=
  runU 0x1C 1 false h r s fun i => val (i.a ||| i.b)
/-- R271. -/
def execXorV (h : Head) (r : RArgs) (s : State) : Outcome State Fault Refusal := runV 0x1D 2 h r s fun i => val (i.a ^^^ i.b)
/-- R271. -/
def execXorS (h : Head) (r : RArgs) (s : State) : Outcome State Fault Refusal :=
  runU 0x1E 1 false h r s fun i => val (i.a ^^^ i.b)
/-- R271. -/
def execNotV (h : Head) (r : RArgs) (s : State) : Outcome State Fault Refusal :=
  runV 0x1F 2 h r s fun i => val (trunc r.n (~~~i.a))
/-- R271. -/
def execNotS (h : Head) (r : RArgs) (s : State) : Outcome State Fault Refusal :=
  runU 0x20 1 false h r s fun i => val (trunc r.n (~~~i.a))
/-- R272. -/
def execShlV (h : Head) (r : RArgs) (s : State) : Outcome State Fault Refusal := runV 0x21 2 h r s (shl r.n)
/-- R272: the mathematical product by 2^k.  A count above 200 gives the base, stride and W of 200: every value that is
not zero has left the range. -/
def execShlA (h : Head) (r : RArgs) (s : State) : Outcome State Fault Refusal :=
  runSlot 0x22 h (.r r) s fun g _ =>
    let v := g.viewAt s.now
    let k : Int := (2 ^ min 200 (count (v.src .none r.n r.b 0)) : Nat)
    affOwn s 1 r.d.toNat (affResult r.n (v.affSrc r.n r.a 0 * k) (v.affSrc r.n r.a 1 * k) (v.srcW r.a)) g
/-- R272. -/
def execShlS (h : Head) (r : RArgs) (s : State) : Outcome State Fault Refusal := runU 0x23 1 false h r s (shl r.n)
/-- R272. -/
def execShrV (h : Head) (r : RArgs) (s : State) : Outcome State Fault Refusal := runV 0x24 2 h r s (shr r.n)
/-- R272. -/
def execShrS (h : Head) (r : RArgs) (s : State) : Outcome State Fault Refusal := runU 0x25 1 false h r s (shr r.n)
/-- R272. -/
def execSarV (h : Head) (r : RArgs) (s : State) : Outcome State Fault Refusal := runV 0x26 2 h r s (sar r.n)
/-- R272. -/
def execSarS (h : Head) (r : RArgs) (s : State) : Outcome State Fault Refusal := runU 0x27 1 true h r s (sar r.n)
/-- R272. -/
def execRolV (h : Head) (r : RArgs) (s : State) : Outcome State Fault Refusal := runV 0x28 2 h r s (rol r.n)
/-- R272. -/
def execRolS (h : Head) (r : RArgs) (s : State) : Outcome State Fault Refusal := runU 0x29 1 false h r s (rol r.n)
/-- R273. -/
def execBfxV (h : Head) (r : RArgs) (s : State) : Outcome State Fault Refusal :=
  runV 0x2A 2 h r s (bfx r.n r.c.toNat r.sgn)
/-- R273. -/
def execBfxS (h : Head) (r : RArgs) (s : State) : Outcome State Fault Refusal :=
  runU 0x2B 1 r.sgn h r s (bfx r.n r.c.toNat r.sgn)
/-- R273. -/
def execBfiV (h : Head) (r : RArgs) (s : State) : Outcome State Fault Refusal := runV 0x2C 2 h r s (bfi r.n r.c.toNat)
/-- R273: where nothing is replaced D keeps all 64 bits. -/
def execBfiS (h : Head) (r : RArgs) (s : State) : Outcome State Fault Refusal :=
  runSlot 0x2D h (.r r) s fun g _ =>
    let v := g.viewAt s.now
    let i := uIn 0x2D r v
    uniOwn s 1 r.d.toNat (if r.n ≤ count i.b then v.rs r.d.toNat else fill false r.n (bfi r.n r.c.toNat i).x) 0 g
/-- R274. -/
def execPopcV (h : Head) (r : RArgs) (s : State) : Outcome State Fault Refusal := runV 0x2E 3 h r s (popc r.n)
/-- R274. -/
def execPopcS (h : Head) (r : RArgs) (s : State) : Outcome State Fault Refusal := runU 0x2F 1 false h r s (popc r.n)
/-- R274. -/
def execClzV (h : Head) (r : RArgs) (s : State) : Outcome State Fault Refusal := runV 0x30 3 h r s (clz r.n)
/-- R274. -/
def execClzS (h : Head) (r : RArgs) (s : State) : Outcome State Fault Refusal := runU 0x31 1 false h r s (clz r.n)
/-- R274. -/
def execBrevV (h : Head) (r : RArgs) (s : State) : Outcome State Fault Refusal := runV 0x32 3 h r s (brev r.n)
/-- R274. -/
def execBrevS (h : Head) (r : RArgs) (s : State) : Outcome State Fault Refusal := runU 0x33 1 false h r s (brev r.n)
/-- R273. -/
def execExtV (h : Head) (r : RArgs) (s : State) : Outcome State Fault Refusal :=
  runV 0x34 2 h r s (ext r.n r.c.toNat r.sgn)
/-- R273. -/
def execExtS (h : Head) (r : RArgs) (s : State) : Outcome State Fault Refusal :=
  runU 0x35 1 r.sgn h r s (ext r.n r.c.toNat r.sgn)
/-- R275: the predicate of C selects lane by lane, read with the beat. -/
def execIselV (h : Head) (r : RArgs) (s : State) : Outcome State Fault Refusal :=
  runSlot 0x36 h (.r r) s fun g x =>
    vecOwn s h (isWide 0x36 (.r r)) 2 r.n r.d.toNat
      (fun v L => let i := rIn 0x36 r v L
                  val (if (v.rp r.c.toNat).getLsbD L then i.a else i.b)) g x
/-- R275: all 64 bits of the register C names decide. -/
def execIselS (h : Head) (r : RArgs) (s : State) : Outcome State Fault Refusal :=
  runSlot 0x37 h (.r r) s fun g _ =>
    let v := g.viewAt s.now
    let i := uIn 0x37 r v
    uniOwn s 1 r.d.toNat (fill false r.n (if v.rs r.c.toNat != 0 then i.a else i.b)) 0 g
/-- R276. -/
def execIcmpVarying (h : Head) (r : RArgs) (s : State) : Outcome State Fault Refusal :=
  runSlot 0x38 h (.r r) s fun g x =>
    predOwn s h (isWide 0x38 (.r r)) 2 r.d.toNat r.sub
      (fun v L => let i := rIn 0x38 r v L
                  (icmpOf r.c i.a i.b, 0)) g x
/-- R276: evaluated once, at lane 0. -/
def execIcmpUniform (h : Head) (r : RArgs) (s : State) : Outcome State Fault Refusal :=
  runSlot 0x39 h (.r r) s fun g x =>
    let i := uIn 0x39 r (g.viewAt s.now)
    uniPredOwn s h 1 r.d.toNat r.sub (icmpOf r.c i.a i.b) 0 g x
/-- R277. -/
def execLeaV (h : Head) (r : RArgs) (s : State) : Outcome State Fault Refusal := runV 0x3A 2 h r s (lea r.sub.toNat r.c)
/-- R277: the affine form, with the test of an index that would wrap at width 32. -/
def execLeaA (h : Head) (r : RArgs) (s : State) : Outcome State Fault Refusal :=
  runSlot 0x3B h (.r r) s fun g _ =>
    let v := g.viewAt s.now
    let b0 := v.affSrc 32 r.b 0
    let b95 := v.affSrc 32 r.b 95
    let at_ (L : Nat) : Int := v.affSrc 64 r.a L + v.affSrc 32 r.b L * (2 ^ r.sub.toNat : Nat) + r.c.toInt
    let out (y : Int) : Bool := y < -2147483648 || y > 2147483647
    affOwn s 1 r.d.toNat (affResult 64 (at_ 0) (at_ 1) (v.srcW r.a || v.srcW r.b || out b0 || out b95)) g
/-- R277. -/
def execLeaS (h : Head) (r : RArgs) (s : State) : Outcome State Fault Refusal :=
  runU 0x3C 1 false h r s (lea r.sub.toNat r.c)
/-- R279. -/
def execMovV (h : Head) (r : RArgs) (s : State) : Outcome State Fault Refusal := runV 0x40 2 h r s fun i => val i.a
/-- R279: under R68 at width n; W at 64 bits is computed anew too (log 62). -/
def execMovA (h : Head) (r : RArgs) (s : State) : Outcome State Fault Refusal :=
  runA 0x41 1 r.n h r s (fun a _ _ => a) false false
/-- R279. -/
def execMovS (h : Head) (r : RArgs) (s : State) : Outcome State Fault Refusal := runU 0x42 1 false h r s fun i => val i.a
/-- R280. -/
def execMoviV (h : Head) (i : IArgs) (s : State) : Outcome State Fault Refusal :=
  runSlot 0x43 h (.i i) s fun g x =>
    let n := if i.sub.getLsbD 1 then 64 else 32
    vecOwn s h (n == 64) 2 n i.d.toNat (fun _ _ => val (trunc n i.imm.value)) g x
/-- R280. -/
def execMoviS (h : Head) (i : IArgs) (s : State) : Outcome State Fault Refusal :=
  runSlot 0x44 h (.i i) s fun g _ =>
    let n := if i.sub.getLsbD 1 then 64 else 32
    uniOwn s 1 i.d.toNat (fill (!i.sub.getLsbD 0) n (trunc n i.imm.value)) 0 g
/-- R281. -/
def execAmake (h : Head) (r : RArgs) (s : State) : Outcome State Fault Refusal :=
  runSlot 0x45 h (.r r) s fun g _ =>
    let v := g.viewAt s.now
    let base := v.affSrc 64 r.a 0
    affOwn s 1 r.d.toNat (affResult 64 base (base + v.affSrc 64 r.b 0) false) g
/-- R282. -/
def execAlane (h : Head) (r : RArgs) (s : State) : Outcome State Fault Refusal :=
  runSlot 0x46 h (.r r) s fun g _ =>
    affOwn s 1 r.d.toNat { base := dw (96 * g.gindex), stride := 1, w := false } g
/-- R283. -/
def execPromUniformToAffine (h : Head) (r : RArgs) (s : State) : Outcome State Fault Refusal :=
  runSlot 0x47 h (.r r) s fun g _ =>
    affOwn s 1 r.d.toNat { base := (g.viewAt s.now).src .none 64 r.a 0, stride := 0, w := false } g
/-- R283. -/
def execPromUniformToVarying (h : Head) (r : RArgs) (s : State) : Outcome State Fault Refusal :=
  runV 0x48 2 h r s fun i => val i.a
/-- R283: W is ignored. -/
def execPromAffineToVarying (h : Head) (r : RArgs) (s : State) : Outcome State Fault Refusal :=
  runV 0x49 2 h r s fun i => val i.a
/-- R284. -/
def execAtest (h : Head) (r : RArgs) (s : State) : Outcome State Fault Refusal :=
  runSlot 0x4A h (.r r) s fun g x =>
    uniPredOwn s h 1 r.d.toNat 0 ((g.viewAt s.now).srcW r.a) 0 g x
/-- R285. -/
def execVfirst (h : Head) (r : RArgs) (s : State) : Outcome State Fault Refusal :=
  runSlot 0x4B h (.r r) s fun g x =>
    uniOwn s 2 r.d.toNat ((g.viewAt s.now).src r.nb r.n r.a (lowLane x.mask)) 0 g
/-- R286: the lanes that differ from the lowest are marked in UNIFORM_CHECK. -/
def execVuni (h : Head) (r : RArgs) (s : State) : Outcome State Fault Refusal :=
  runSlot 0x4C h (.r r) s fun g x =>
    let v := g.viewAt s.now
    let y := v.src r.nb r.n r.a (lowLane x.mask)
    let diff := maskOf fun L => x.mask.getLsbD L && v.src r.nb r.n r.a L != y
    if diff == 0 then uniOwn s 2 r.d.toNat y 0 g else .fault cUniform 0 diff

end Sys2Proof.Machine
end

