-- ==== Sys2Proof/Machine/FloatAlu.lean ====
section
/-! DEFINITION. Floating-point arithmetic, conversion and slot conversions: opcodes 0x50 to 0x82 (spec 13 R287 to
R305). -/

namespace Sys2Proof.Machine

open Host (Outcome)

/-! ### Sources and results (R287, R288) -/

/-- A source of format F as an exact value. -/
def fv (F : Fmt) (x : Dword) : Num := F.decodeFloat x.toNat

/-- Whether a source is a signalling NaN: a NaN whose fraction MSB is 0 (R287). -/
def sNan (F : Fmt) (x : Dword) : Bool := (fv F x).isNan && !bitOf x.toNat (F.fbits - 1)

/-- A result: Encode of an exact value, with flags of the operation beside those of Round. -/
def fOut (F : Fmt) (y : Num) (fl : Flags) (c : Rc) : LaneOut :=
  let (k, f) := F.encode y c
  { x := dw k, fl := (f.or fl).bits }

/-- NaN with NV. -/
def fInvalid (F : Fmt) : LaneOut := fOut F .nan { nv := true } rne

/-- The canonical NaN for NaN sources, NV where one of them is signalling (R288). -/
def fNan (F : Fmt) (sig : Bool) : LaneOut := fOut F .nan { nv := sig } rne

/-! ### Arithmetic (R293, R294) -/

/-- x + y (R293); under RDN an exact zero is −0 (R288). -/
def faddNum (F : Fmt) (x y : Num) (sig : Bool) (c : Rc) : LaneOut :=
  if x.isNan || y.isNan then fNan F sig
  else
    let z := x.add (c.mode == 3) y
    if z.isNan then fInvalid F else fOut F z Flags.none c

/-- `fadd`. -/
def fadd (F : Fmt) (i : LaneIn) (c : Rc) : LaneOut := faddNum F (fv F i.a) (fv F i.b) (sNan F i.a || sNan F i.b) c

/-- `fsub`: the sum of x and −y.  R288's zeros of one sign are those of this sum, so that −0 minus −0 is +0 (DEDUCED, log 83: its
"operands" could also be the sources as written). -/
def fsub (F : Fmt) (i : LaneIn) (c : Rc) : LaneOut := faddNum F (fv F i.a) (fv F i.b).neg (sNan F i.a || sNan F i.b) c

/-- `fmul`. -/
def fmul (F : Fmt) (i : LaneIn) (c : Rc) : LaneOut :=
  let x := fv F i.a
  let y := fv F i.b
  if x.isNan || y.isNan then fNan F (sNan F i.a || sNan F i.b)
  else
    let z := x.mul y
    if z.isNan then fInvalid F else fOut F z Flags.none c

/-- `fdiv`.  An infinity by a finite value, zero included, is the infinity with the XOR of the signs and no flag (PRESUMED, log 83:
R293 has no row for it). -/
def fdiv (F : Fmt) (i : LaneIn) (c : Rc) : LaneOut :=
  match fv F i.a, fv F i.b with
  | .nan, _ => fNan F (sNan F i.a || sNan F i.b)
  | _, .nan => fNan F (sNan F i.a || sNan F i.b)
  | .inf _, .inf _ => fInvalid F
  | .inf s, .fin t _ _ _ => fOut F (.inf (s != t)) Flags.none c
  | .fin s _ _ _, .inf t => fOut F (.zero (s != t)) Flags.none c
  | .fin s n d e, .fin t m k f =>
    if m == 0 then (if n == 0 then fInvalid F else fOut F (.inf (s != t)) { dz := true } c)
    else fOut F (.fin (s != t) (n * k) (d * m) (e - f)) Flags.none c

/-- `ffma` (R294): 0 × ∞ is invalid whatever c. -/
def ffma (F : Fmt) (i : LaneIn) (c : Rc) : LaneOut :=
  let x := fv F i.a
  let y := fv F i.b
  let z := fv F i.c
  let p := x.mul y
  if !x.isNan && !y.isNan && p.isNan then fInvalid F
  else faddNum F p z (sNan F i.a || sNan F i.b || sNan F i.c) c

/-! ### Functions of one source (R295) -/

/-- A function of one source: `f` on a nonzero positive or negative finite value, `zero` on a zero and `inf` on an
infinity of a sign. -/
def funary (F : Fmt) (zero inf : Bool → Num × Flags) (f : Bool → Nat → Int → Num × Flags) (i : LaneIn) (c : Rc) :
    LaneOut :=
  match fv F i.a with
  | .nan => fNan F (sNan F i.a)
  | .inf s => let (y, fl) := inf s; fOut F y fl c
  | .fin s n _ e =>
    if n == 0 then (let (y, fl) := zero s; fOut F y fl c) else (let (y, fl) := f s n e; fOut F y fl c)

/-- NaN with NV as a result of `funary`. -/
def invalid : Num × Flags := (.nan, { nv := true })

/-- A result without flags of its own. -/
def plain (x : Num) : Num × Flags := (x, Flags.none)

/-- `fsqrt`. -/
def fsqrt (F : Fmt) : LaneIn → Rc → LaneOut :=
  funary F (fun s => plain (.zero s)) (fun s => if s then invalid else plain (.inf false))
    fun s n e => if s then invalid else plain (sqrtNum n e)

/-- `frcp`. -/
def frcp : LaneIn → Rc → LaneOut :=
  funary f32 (fun s => (.inf s, { dz := true })) (fun s => plain (.zero s)) fun s n e => plain (.fin s 1 n (-e))

/-- `frsq`. -/
def frsq : LaneIn → Rc → LaneOut :=
  funary f32 (fun s => (.inf s, { dz := true })) (fun s => if s then invalid else plain (.zero false))
    fun s n e => if s then invalid else plain (rsqrtNum n e)

/-- `flog2`. -/
def flog2 : LaneIn → Rc → LaneOut :=
  funary f32 (fun _ => (.inf true, { dz := true })) (fun s => if s then invalid else plain (.inf false))
    fun s n e => if s then invalid else plain (log2Num n e)

/-- `fexp2`. -/
def fexp2 : LaneIn → Rc → LaneOut :=
  funary f32 (fun _ => plain (.ofInt 1)) (fun s => plain (if s then .zero false else .inf false))
    fun s n e => plain (exp2Num s n e)

/-- `fsin`. -/
def fsin : LaneIn → Rc → LaneOut :=
  funary f32 (fun s => plain (.zero s)) (fun _ => invalid) fun s n e => plain (trigNum s n e 0)

/-- `fcos`. -/
def fcos : LaneIn → Rc → LaneOut :=
  funary f32 (fun _ => plain (.ofInt 1)) (fun _ => invalid) fun s n e => plain (trigNum s n e 1)

/-! ### Minimum, maximum, compare (R296, R297) -/

/-- Whether x orders below y, −0 below +0 (R296). -/
def Num.below (x y : Num) : Bool := x.lt y || (x.isZero && y.isZero && x.sign && !y.sign)

/-- The smaller (`least`) or larger source, as its code, and whether NV is raised (R296). -/
def fminmax (F : Fmt) (least : Bool) (a b : Dword) : LaneOut :=
  let x := fv F a
  let y := fv F b
  let fl : Flags := { nv := sNan F a || sNan F b }
  let code (z : Dword) : Dword := dw (z.toNat % 2 ^ F.width)
  let r := if x.isNan && y.isNan then dw F.nanCode
    else if x.isNan then code b
    else if y.isNan then code a
    else if (if least then y.below x else x.below y) then code b else code a
  { x := r, fl := fl.bits }

/-- A condition of `fcmp` and its NV (R297). -/
def fcmpOf (F : Fmt) (cond : Nat) (a b : Dword) : Bool × BitVec 9 :=
  let x := fv F a
  let y := fv F b
  let un := x.isNan || y.isNan
  let sig := sNan F a || sNan F b
  let ordered := 2 ≤ cond && cond ≤ 5
  let fl : Flags := { nv := sig || (ordered && un) }
  let r := match cond with
    | 0 => !un && x.eq y
    | 1 => un || !x.eq y
    | 2 => !un && x.lt y
    | 3 => !un && !y.lt x
    | 4 => !un && y.lt x
    | 5 => !un && !x.lt y
    | 6 => !un
    | _ => un
  (r, fl.bits)

/-! ### Conversion and classification (R298 to R301) -/

/-- The format of a type code of CVT (R298). -/
def cvtFmt (t : Nat) : Fmt :=
  match t with
  | 2 => intFmt true 32 | 3 => intFmt true 64 | 6 => intFmt false 32 | 7 => intFmt false 64
  | 10 => f16 | 11 => bf16 | 12 => f32 | _ => f64

/-- `fcvt` from type u to type t (R298). -/
def fcvt (t u : Nat) (i : LaneIn) (c : Rc) : LaneOut :=
  let U := cvtFmt u
  fOut (cvtFmt t) (U.decode i.a.toNat) { nv := U.kind == 0 && sNan U i.a } c

/-- `frnd` (R299), which lists NX and NV: that a subnormal source raises no UF is log 73's choice. -/
def frnd (F : Fmt) (i : LaneIn) (c : Rc) : LaneOut :=
  match fv F i.a with
  | .nan => fNan F (sNan F i.a)
  | .inf s => fOut F (.inf s) Flags.none c
  | .fin s n d e =>
    if n == 0 || (F.fbits : Int) ≤ log2Ratio n d + e then { x := dw (i.a.toNat % 2 ^ F.width) }
    else
      let (m, exact) := roundInt s n d e c
      fOut F (.fin s m 1 0) { nx := !exact } rne

/-- `fclass` (R300). -/
def fclass (F : Fmt) (i : LaneIn) : LaneOut :=
  let x := fv F i.a
  let s := x.sign
  let normal := i.a.toNat / 2 ^ F.fbits % 2 ^ F.ebits != 0
  let b := match x with
    | .nan => if sNan F i.a then 0 else 1
    | .inf _ => if s then 2 else 9
    | .fin _ n _ _ =>
      if n == 0 then (if s then 5 else 6) else if normal then (if s then 3 else 8) else (if s then 4 else 7)
  { x := dw (2 ^ b) }

/-- `fldexp` (R301).  A k beyond ±5000 gives what ±5000 gives: every result overflows, or is tinier than any rounding
can tell. -/
def fldexp (F : Fmt) (i : LaneIn) (c : Rc) : LaneOut :=
  match fv F i.a with
  | .nan => fNan F (sNan F i.a)
  | .inf s => fOut F (.inf s) Flags.none c
  | .fin s n d e =>
    let k := valOf true 32 i.b
    let k := if k < -5000 then -5000 else if 5000 < k then 5000 else k
    if n == 0 then fOut F (.zero s) Flags.none c else fOut F (.fin s n d (e + k)) Flags.none c

/-! ### Forms -/

/-- A varying instruction that rounds to a fixed format with rounding field `code` (R289). -/
def runFV (op lat code : Nat) (h : Head) (r : RArgs) (s : State) (f : LaneIn → Rc → LaneOut) :
    Outcome State Fault Refusal :=
  runSlot op h (.r r) s fun g x =>
    let mode := fixMode code (g.viewAt s.now).frm.toNat
    vecOwn s h (isWide op (.r r)) lat (rWidths op r).d r.d.toNat (fun v L => f (rIn op r v L) (s.rc g mode L 8)) g x

/-- A uniform instruction that rounds to a fixed format, computed as for lane 0 (R287, R289). -/
def runFU (op lat code : Nat) (sgn : Bool) (h : Head) (r : RArgs) (s : State) (f : LaneIn → Rc → LaneOut) :
    Outcome State Fault Refusal :=
  runSlot op h (.r r) s fun g _ =>
    let v := g.viewAt s.now
    let o := f (uIn op r v) (s.rc g (fixMode code v.frm.toNat) 0 8)
    uniOwn s lat r.d.toNat (fill sgn (rWidths op r).d o.x) o.fl g

/-- A varying compare into a predicate (R297). -/
def runFCmpV (op lat : Nat) (F : Fmt) (h : Head) (r : RArgs) (s : State) : Outcome State Fault Refusal :=
  runSlot op h (.r r) s fun g x =>
    predOwn s h (isWide op (.r r)) lat r.d.toNat r.sub
      (fun v L => let i := rIn op r v L
                  fcmpOf F (r.c.toNat % 8) i.a i.b) g x

/-- A uniform compare, evaluated once (R65, R297). -/
def runFCmpU (op lat : Nat) (F : Fmt) (h : Head) (r : RArgs) (s : State) : Outcome State Fault Refusal :=
  runSlot op h (.r r) s fun g x =>
    let i := uIn op r (g.viewAt s.now)
    let (b, fl) := fcmpOf F (r.c.toNat % 8) i.a i.b
    uniPredOwn s h lat r.d.toNat r.sub b fl g x

/-- The rounding field of RM and CVT (R257). -/
def rmC (r : RArgs) : Nat := r.c.toNat % 8

/-- The rounding field that RM2 stands for (R256). -/
def rm2 (r : RArgs) : Nat := match r.sub.toNat with | 0 => 0 | 1 => 1 | 2 => 5 | _ => 4

/-- A varying slot conversion: the slots are checked in order, a corrupt one stalls the instruction, `f` gets the
formats and the mode (R169, R170, R302); K is the destination slot of the rounding, `code` its rounding field. -/
def runSlots (op : Nat) (h : Head) (r : RArgs) (s : State) (k code : Nat) (f : List Fmt → LaneIn → Rc → LaneOut) :
    Outcome State Fault Refusal :=
  runSlot op h (.r r) s fun g x =>
    let ks := slotsOf op (.r r)
    match ks.find? (fun j => match s.slotOf g j with | .unbound => true | _ => false) with
    | some j => .fault cUnbound (dw j) x.mask
    | none =>
      let fs := ks.filterMap fun j => match s.slotOf g j with | .ok F => some F | _ => none
      if fs.length != ks.length then .wait
      else
        match (fs.getLastD f32).mode code (g.viewAt s.now).frm.toNat with
        | none => .fault cReserved 0 x.mask
        | some mode =>
          let s := ks.foldl (fun s j => s.noteSlot g j) s
          let g := ks.foldl (fun g j => g.noteOp x s.nextPc j (beatDone false s.now 2 6) h.set.toNat) g
          vecOwn s h false 6 32 r.d.toNat (fun v L => f fs (rIn op r v L) (s.rc g mode L k)) g x

/-- `xunpk` of one code (R303).  A number of a FLOAT descriptor that binary32 does not hold (EBITS 8 with BIAS 0 or 255) is
rounded RNE with no flag: log 73's choice. -/
def unpack (F : Fmt) (x : Dword) : LaneOut :=
  if F.kind == 1 then { x := trunc 32 (match F.decode x.toNat with
    | .fin s n _ _ => BitVec.ofInt 64 (if s then -(n : Int) else n)
    | _ => 0) }
  else { x := dw (f32.encode (F.decode x.toNat) rne).1 }

/-! ### The instructions -/


/-- R293. -/
def execFaddF32V (h : Head) (r : RArgs) (s : State) : Outcome State Fault Refusal :=
  runFV 0x50 4 (rmC r) h r s (fadd f32)

/-- R293. -/
def execFaddF32S (h : Head) (r : RArgs) (s : State) : Outcome State Fault Refusal :=
  runFU 0x51 4 (rmC r) false h r s (fadd f32)

/-- R293. -/
def execFaddF64V (h : Head) (r : RArgs) (s : State) : Outcome State Fault Refusal :=
  runFV 0x52 6 (rmC r) h r s (fadd f64)

/-- R293. -/
def execFaddF64S (h : Head) (r : RArgs) (s : State) : Outcome State Fault Refusal :=
  runFU 0x53 6 (rmC r) false h r s (fadd f64)

/-- R293. -/
def execFsubF32V (h : Head) (r : RArgs) (s : State) : Outcome State Fault Refusal :=
  runFV 0x54 4 (rmC r) h r s (fsub f32)

/-- R293. -/
def execFsubF32S (h : Head) (r : RArgs) (s : State) : Outcome State Fault Refusal :=
  runFU 0x55 4 (rmC r) false h r s (fsub f32)

/-- R293. -/
def execFsubF64V (h : Head) (r : RArgs) (s : State) : Outcome State Fault Refusal :=
  runFV 0x56 6 (rmC r) h r s (fsub f64)

/-- R293. -/
def execFsubF64S (h : Head) (r : RArgs) (s : State) : Outcome State Fault Refusal :=
  runFU 0x57 6 (rmC r) false h r s (fsub f64)

/-- R293. -/
def execFmulF32V (h : Head) (r : RArgs) (s : State) : Outcome State Fault Refusal :=
  runFV 0x58 4 (rmC r) h r s (fmul f32)

/-- R293. -/
def execFmulF32S (h : Head) (r : RArgs) (s : State) : Outcome State Fault Refusal :=
  runFU 0x59 4 (rmC r) false h r s (fmul f32)

/-- R293. -/
def execFmulF64V (h : Head) (r : RArgs) (s : State) : Outcome State Fault Refusal :=
  runFV 0x5A 6 (rmC r) h r s (fmul f64)

/-- R293. -/
def execFmulF64S (h : Head) (r : RArgs) (s : State) : Outcome State Fault Refusal :=
  runFU 0x5B 6 (rmC r) false h r s (fmul f64)

/-- R294. -/
def execFfmaF32V (h : Head) (r : RArgs) (s : State) : Outcome State Fault Refusal :=
  runFV 0x5C 4 (rm2 r) h r s (ffma f32)

/-- R294. -/
def execFfmaF32S (h : Head) (r : RArgs) (s : State) : Outcome State Fault Refusal :=
  runFU 0x5D 4 (rm2 r) false h r s (ffma f32)

/-- R294. -/
def execFfmaF64V (h : Head) (r : RArgs) (s : State) : Outcome State Fault Refusal :=
  runFV 0x5E 6 (rm2 r) h r s (ffma f64)

/-- R294. -/
def execFfmaF64S (h : Head) (r : RArgs) (s : State) : Outcome State Fault Refusal :=
  runFU 0x5F 6 (rm2 r) false h r s (ffma f64)

/-- R296. -/
def execFminF32V (h : Head) (r : RArgs) (s : State) : Outcome State Fault Refusal :=
  runV 0x60 4 h r s fun i => fminmax f32 true i.a i.b

/-- R296. -/
def execFminF32S (h : Head) (r : RArgs) (s : State) : Outcome State Fault Refusal :=
  runU 0x61 4 false h r s fun i => fminmax f32 true i.a i.b

/-- R296. -/
def execFminF64V (h : Head) (r : RArgs) (s : State) : Outcome State Fault Refusal :=
  runV 0x62 6 h r s fun i => fminmax f64 true i.a i.b

/-- R296. -/
def execFminF64S (h : Head) (r : RArgs) (s : State) : Outcome State Fault Refusal :=
  runU 0x63 6 false h r s fun i => fminmax f64 true i.a i.b

/-- R296. -/
def execFmaxF32V (h : Head) (r : RArgs) (s : State) : Outcome State Fault Refusal :=
  runV 0x64 4 h r s fun i => fminmax f32 false i.a i.b

/-- R296. -/
def execFmaxF32S (h : Head) (r : RArgs) (s : State) : Outcome State Fault Refusal :=
  runU 0x65 4 false h r s fun i => fminmax f32 false i.a i.b

/-- R296. -/
def execFmaxF64V (h : Head) (r : RArgs) (s : State) : Outcome State Fault Refusal :=
  runV 0x66 6 h r s fun i => fminmax f64 false i.a i.b

/-- R296. -/
def execFmaxF64S (h : Head) (r : RArgs) (s : State) : Outcome State Fault Refusal :=
  runU 0x67 6 false h r s fun i => fminmax f64 false i.a i.b

/-- R297. -/
def execFcmpF32V (h : Head) (r : RArgs) (s : State) : Outcome State Fault Refusal :=
  runFCmpV 0x68 4 f32 h r s

/-- R297. -/
def execFcmpF32S (h : Head) (r : RArgs) (s : State) : Outcome State Fault Refusal :=
  runFCmpU 0x69 4 f32 h r s

/-- R297. -/
def execFcmpF64V (h : Head) (r : RArgs) (s : State) : Outcome State Fault Refusal :=
  runFCmpV 0x6A 6 f64 h r s

/-- R297. -/
def execFcmpF64S (h : Head) (r : RArgs) (s : State) : Outcome State Fault Refusal :=
  runFCmpU 0x6B 6 f64 h r s

/-- R293. -/
def execFdivF32V (h : Head) (r : RArgs) (s : State) : Outcome State Fault Refusal :=
  runFV 0x6C 12 (rmC r) h r s (fdiv f32)

/-- R293. -/
def execFdivF32S (h : Head) (r : RArgs) (s : State) : Outcome State Fault Refusal :=
  runFU 0x6D 20 (rmC r) false h r s (fdiv f32)

/-- R293. -/
def execFdivF64V (h : Head) (r : RArgs) (s : State) : Outcome State Fault Refusal :=
  runFV 0x6E 24 (rmC r) h r s (fdiv f64)

/-- R293. -/
def execFdivF64S (h : Head) (r : RArgs) (s : State) : Outcome State Fault Refusal :=
  runFU 0x6F 36 (rmC r) false h r s (fdiv f64)

/-- R295. -/
def execFsqrtF32V (h : Head) (r : RArgs) (s : State) : Outcome State Fault Refusal :=
  runFV 0x70 12 (rmC r) h r s (fsqrt f32)

/-- R295. -/
def execFsqrtF32S (h : Head) (r : RArgs) (s : State) : Outcome State Fault Refusal :=
  runFU 0x71 20 (rmC r) false h r s (fsqrt f32)

/-- R295. -/
def execFsqrtF64V (h : Head) (r : RArgs) (s : State) : Outcome State Fault Refusal :=
  runFV 0x72 24 (rmC r) h r s (fsqrt f64)

/-- R295. -/
def execFsqrtF64S (h : Head) (r : RArgs) (s : State) : Outcome State Fault Refusal :=
  runFU 0x73 36 (rmC r) false h r s (fsqrt f64)

/-- R295. -/
def execFrcp (h : Head) (r : RArgs) (s : State) : Outcome State Fault Refusal :=
  runFV 0x74 16 (rmC r) h r s frcp

/-- R295. -/
def execFrsq (h : Head) (r : RArgs) (s : State) : Outcome State Fault Refusal :=
  runFV 0x75 16 (rmC r) h r s frsq

/-- R295. -/
def execFlog2 (h : Head) (r : RArgs) (s : State) : Outcome State Fault Refusal :=
  runFV 0x76 16 (rmC r) h r s flog2

/-- R295. -/
def execFexp2 (h : Head) (r : RArgs) (s : State) : Outcome State Fault Refusal :=
  runFV 0x77 16 (rmC r) h r s fexp2

/-- R295. -/
def execFsin (h : Head) (r : RArgs) (s : State) : Outcome State Fault Refusal :=
  runFV 0x78 16 (rmC r) h r s fsin

/-- R295. -/
def execFcos (h : Head) (r : RArgs) (s : State) : Outcome State Fault Refusal :=
  runFV 0x79 16 (rmC r) h r s fcos

/-- R298; the 64-bit row of R292 where a type is 64 bits wide. -/
def execFcvtV (h : Head) (r : RArgs) (s : State) : Outcome State Fault Refusal :=
  runFV 0x7A (if isWide 0x7A (.r r) then 6 else 4) (rmC r) h r s (fcvt (r.c.toNat / 16) r.b.code)

/-- R298; a signed integer result is sign-filled (R287). -/
def execFcvtS (h : Head) (r : RArgs) (s : State) : Outcome State Fault Refusal :=
  let t := r.c.toNat / 16
  runFU 0x7B (if tyWide t || tyWide r.b.code then 6 else 4) (rmC r) (t == 2 || t == 3) h r s (fcvt t r.b.code)

/-- R299. -/
def execFrndV (h : Head) (r : RArgs) (s : State) : Outcome State Fault Refusal :=
  runFV 0x7C (if isWide 0x7C (.r r) then 6 else 4) (rmC r) h r s (frnd (cvtFmt (r.c.toNat / 16)))

/-- R299. -/
def execFrndS (h : Head) (r : RArgs) (s : State) : Outcome State Fault Refusal :=
  runFU 0x7D (if tyWide (r.c.toNat / 16) then 6 else 4) (rmC r) false h r s (frnd (cvtFmt (r.c.toNat / 16)))

/-- R300. -/
def execFclass (h : Head) (r : RArgs) (s : State) : Outcome State Fault Refusal :=
  runV 0x7E (if r.n == 64 then 6 else 4) h r s (fclass (if r.n == 64 then f64 else f32))

/-- R301. -/
def execFldexp (h : Head) (r : RArgs) (s : State) : Outcome State Fault Refusal :=
  runFV 0x7F (if r.n == 64 then 6 else 4) (rmC r) h r s (fldexp (if r.n == 64 then f64 else f32))

/-- R303: no rounding field, no flag. -/
def execXunpk (h : Head) (r : RArgs) (s : State) : Outcome State Fault Refusal :=
  runSlots 0x80 h r s (r.c.toNat % 8) 6 fun fs i _ => unpack (fs.headD f32) i.a

/-- R304. -/
def execXpack (h : Head) (r : RArgs) (s : State) : Outcome State Fault Refusal :=
  runSlots 0x81 h r s (r.c.toNat % 8) (r.c.toNat / 16 % 8) fun fs i c =>
    fOut (fs.headD f32) (fv f32 i.a) { nv := sNan f32 i.a } c

/-- R305. -/
def execXcvt (h : Head) (r : RArgs) (s : State) : Outcome State Fault Refusal :=
  runSlots 0x82 h r s (r.c.toNat % 8) (r.c.toNat / 16 % 8) fun fs i c =>
    fOut (fs.getLastD f32) ((fs.headD f32).decode i.a.toNat) Flags.none c

end Sys2Proof.Machine
end

