-- ==== Sys2Proof/Machine/CrossLane.lean ====
section
/-! DEFINITION. Cross-lane and keyed instructions: opcodes 0x88 to 0x91 (spec 08 R206, R207; 14 R309 to R324). -/

namespace Sys2Proof.Machine

open Host (Outcome)

/-! ### Reading lanes -/

/-- The values of a varying operand in all lanes, each beat as its first cycle finds it (R36, R310). -/
def Group.gather (g : Group) (wide : Bool) (now w r : Nat) : List Dword :=
  (List.range 3).flatMap fun b =>
    let v := g.viewAt (beatStart wide now b)
    (List.range 32).map fun i => v.lane w r (32 * b + i)

/-- The varying register number of a source. -/
def vNum (x : Src) : Nat :=
  match x with
  | .vr r => r.toNat
  | _ => 0

/-- A[j], with EDGE deciding for j of 96 or more (R313). -/
def edgeRead (v : Group) (w r j : Nat) : Dword :=
  if j < 96 then v.lane w r j
  else if v.edge == 1 then v.lane w r (j % 96)
  else if v.edge == 2 then v.lane w r 95
  else 0

/-! ### The operation of OPT (R316) -/

/-- The width of a type code. -/
def tyN (t : Nat) : Nat := if tyWide t then 64 else 32

/-- Whether a type code is signed. -/
def tySgn (t : Nat) : Bool := t == 2 || t == 3

/-- The format of F32 or F64, none for an integer type. -/
def tyFloat (t : Nat) : Option Fmt := if t == 12 then some f32 else if t == 13 then some f64 else none

/-- The identity of an operation and type (R316). -/
def redIdent (op t : Nat) : Dword :=
  let n := tyN t
  match tyFloat t with
  | some F => if op == 0 then dw (2 ^ (n - 1)) else if op == 1 then dw F.infIdx else dw (F.infIdx + 2 ^ (n - 1))
  | none =>
    match op with
    | 1 => trunc n (ofI (intRange n (tySgn t)).2)
    | 2 => trunc n (ofI (intRange n (tySgn t)).1)
    | 3 => trunc n (BitVec.allOnes 64)
    | _ => 0

/-- One ⊕ of R316.  A sum with the identity −0 is exact and sets no flag unless its other source is a signalling NaN; one that
meets the infinity of MIN or MAX sets NV too, as every signalling source does (DESIGN CHOICE, log 83: R316 says that an ⊕ with
the identity sets no flag, R288 and R296 that a signalling source sets NV). -/
def redOp (op t : Nat) (a b : Dword) : LaneOut :=
  let n := tyN t
  match tyFloat t with
  | some F =>
    match op with
    | 0 =>
      let o := fadd F { a := a, b := b, c := 0, d := 0 } rne
      let id := redIdent 0 t
      if (a == id || b == id) && !sNan F a && !sNan F b then { o with fl := 0 } else o
    | 1 => fminmax F true a b
    | _ => fminmax F false a b
  | none =>
    let i : LaneIn := { a := a, b := b, c := 0, d := 0 }
    match op with
    | 0 => iadd n i
    | 1 => imin n (tySgn t) i
    | 2 => imax n (tySgn t) i
    | 3 => val (a &&& b)
    | 4 => val (a ||| b)
    | _ => val (a ^^^ b)

/-- ⊕ on values that carry the flags of the operations below them. -/
def redNode (op t : Nat) (a b : LaneOut) : LaneOut :=
  let o := redOp op t a.x b.x
  { x := o.x, fl := a.fl ||| b.fl ||| o.fl }

/-- B(lo, 2^k) of R206 over the lanes' values. -/
def laneTree (f : LaneOut → LaneOut → LaneOut) (xs : List LaneOut) (lo : Nat) : Nat → LaneOut
  | 0 => xs.getD lo { x := 0 }
  | k + 1 => f (laneTree f xs lo k) (laneTree f xs (lo + 2 ^ k) k)

/-- The total of R206. -/
def laneTotal (f : LaneOut → LaneOut → LaneOut) (xs : List LaneOut) : LaneOut :=
  f (f (laneTree f xs 0 5) (laneTree f xs 32 5)) (laneTree f xs 64 5)

/-- The beat prefix of R207: m lanes from `lo` on as descending powers of two, combined from the left onto `acc`;
`e` counts the exponents still to try. -/
def beatPrefix (f : LaneOut → LaneOut → LaneOut) (xs : List LaneOut) (m : Nat) :
    Nat → Nat → Option LaneOut → Option LaneOut
  | 0, _, acc => acc
  | e + 1, lo, acc =>
    if m.testBit e then
      let b := laneTree f xs lo e
      beatPrefix f xs m e (lo + 2 ^ e) (some (match acc with | some a => f a b | none => b))
    else beatPrefix f xs m e lo acc

/-- The inclusive prefix of lane L (R207). -/
def lanePrefix (f : LaneOut → LaneOut → LaneOut) (xs : List LaneOut) (b0 b01 : LaneOut) (L : Nat) : LaneOut :=
  let b := L / 32
  let p := (beatPrefix f xs (L % 32 + 1) 6 (32 * b) none).getD { x := 0 }
  if b == 0 then p else if b == 1 then f b0 p else f b01 p

/-- The lanes' values as an operation of R316 combines them: the identity outside the mask. -/
def contributors (op t : Nat) (m : LaneMask) (xs : List Dword) : List LaneOut :=
  xs.mapIdx fun i x => { x := if m.getLsbD i then x else redIdent op t }

/-! ### The instructions -/

/-- R314: A is read whole in the start cycle (R310). -/
def execShfl (h : Head) (r : RArgs) (s : State) : Outcome State Fault Refusal :=
  runSlot 0x88 h (.r r) s fun g x =>
    let va := g.viewAt s.now
    vecOwn s h (isWide 0x88 (.r r)) 4 r.n r.d.toNat
      (fun v L => val (edgeRead va r.n (vNum r.a) (v.src .none 32 r.b L).toNat)) g x

/-- R315. -/
def execShfx (h : Head) (r : RArgs) (s : State) : Outcome State Fault Refusal :=
  runSlot 0x89 h (.r r) s fun g x =>
    let va := g.viewAt s.now
    vecOwn s h (isWide 0x89 (.r r)) 4 r.n r.d.toNat
      (fun v L => val (edgeRead va r.n (vNum r.a) (L ^^^ (v.src .none 32 r.b L).toNat))) g x

/-- The latency of a reduction of type t (R311). -/
def redLat (t : Nat) : Nat :=
  if (tyFloat t).isSome then (if tyWide t then 14 else 10) else if tyWide t then 8 else 6

/-- R317: the lane tree over the live lanes, in a handler those of the interrupted group (log 47); the result is readable λ after the last cycle of beat 2 (R310). -/
def execLredS (h : Head) (r : RArgs) (s : State) : Outcome State Fault Refusal :=
  runSlot 0x8A h (.r r) s fun g _ =>
    let t := r.c.toNat / 16
    let op := r.c.toNat % 16
    let wide := isWide 0x8A (.r r)
    let o := laneTotal (redNode op t) (contributors op t g.live (g.gather wide s.now (tyN t) (vNum r.a)))
    uniOwn s (beatDone wide 0 2 (redLat t)) r.d.toNat (fill (tySgn t) (tyN t) o.x) o.fl g

/-- R318. -/
def execLredV (h : Head) (r : RArgs) (s : State) : Outcome State Fault Refusal :=
  runSlot 0x91 h (.r r) s fun g x =>
    let t := r.c.toNat / 16
    let op := r.c.toNat % 16
    let wide := isWide 0x91 (.r r)
    let m := g.writes x h wide s.now
    let o := laneTotal (redNode op t) (contributors op t m (g.gather wide s.now (tyN t) (vNum r.a)))
    vecOwn s h wide (redLat t) (tyN t) r.d.toNat (fun _ _ => o) g x

/-- A result of type t with the canonical NaN in place of a float NaN (R316): lane 0 of a prefix is no ⊕'s result. -/
def canonOut (t : Nat) (o : LaneOut) : LaneOut :=
  match tyFloat t with
  | some F => if (fv F o.x).isNan then { o with x := dw F.nanCode } else o
  | none => o

/-- R319. -/
def execLscan (h : Head) (r : RArgs) (s : State) : Outcome State Fault Refusal :=
  runSlot 0x8B h (.r r) s fun g x =>
    let t := r.c.toNat / 16
    let op := r.c.toNat % 16
    let wide := isWide 0x8B (.r r)
    let f := redNode op t
    let xs := contributors op t (g.writes x h wide s.now) (g.gather wide s.now (tyN t) (vNum r.a))
    let b0 := laneTree f xs 0 5
    let b01 := f b0 (laneTree f xs 32 5)
    vecOwn s h wide (redLat t) (tyN t) r.d.toNat (fun _ L => canonOut t (lanePrefix f xs b0 b01 L)) g x

/-- R320: beat C of predicate A, as its first cycle finds it, and the live mask (in a handler, log 47). -/
def execBallot (h : Head) (r : RArgs) (s : State) : Outcome State Fault Refusal :=
  runSlot 0x8C h (.r r) s fun g _ =>
    let b := r.c.toNat
    let m := (g.viewAt (beatStart false s.now b)).rp (vNum r.a) &&& g.live
    uniOwn s (beatDone false 0 2 2) r.d.toNat ((m.extractLsb' (32 * b) 32).setWidth 64) 0 g

/-- R322. -/
def execRng (h : Head) (r : RArgs) (s : State) : Outcome State Fault Refusal :=
  runSlot 0x8D h (.r r) s fun g x =>
    let seed := s.seedOf g
    vecOwn s h true 8 32 r.d.toNat
      (fun v L =>
        let c := v.src .none 64 r.a L
        let (c0, c1, c2, c3) := steep (c.setWidth 32, c.extractLsb' 32 32, 0x524E0000#32 + (r.c >>> 2).setWidth 32, 0)
          (seed.setWidth 32) (seed.extractLsb' 32 32)
        val ((match r.c.toNat % 4 with | 0 => c0 | 1 => c1 | 2 => c2 | _ => c3).setWidth 64)) g x

/-- Husk of an index of width n and a seed (R323). -/
def hashOf (n : Nat) (i : LaneIn) : LaneOut :=
  let idx := if n == 64 then i.a.setWidth 32 ^^^ i.a.extractLsb' 32 32 else i.a.setWidth 32
  val ((husk idx (i.b.setWidth 32)).setWidth 64)

/-- R323. -/
def execHshV (h : Head) (r : RArgs) (s : State) : Outcome State Fault Refusal := runV 0x8E 4 h r s (hashOf r.n)

/-- R323: the result is 32 bits wide and zero-filled. -/
def execHshS (h : Head) (r : RArgs) (s : State) : Outcome State Fault Refusal := runU 0x8F 3 false h r s (hashOf r.n)

/-- Whether a value of type t lies strictly below another (R321). -/
def selBelow (t : Nat) (a b : Dword) : Bool :=
  match tyFloat t with
  | some F => (fv F a).below (fv F b)
  | none => valOf (tySgn t) (tyN t) a < valOf (tySgn t) (tyN t) b

/-- Whether candidate (lane, value) `b` beats `a` (R321): by value, then by the smaller Husk. -/
def selBeats (t : Nat) (least : Bool) (seed : Word) (a b : Nat × Dword) : Bool :=
  if selBelow t a.2 b.2 then !least
  else if selBelow t b.2 a.2 then least
  else husk (wd b.1) seed < husk (wd a.1) seed

/-- R321: the order is total, so the lane tree yields its best candidate of the live lanes (in a handler, log 47). -/
def execArgmx (h : Head) (r : RArgs) (s : State) : Outcome State Fault Refusal :=
  runSlot 0x90 h (.r r) s fun g _ =>
    let t := r.c.toNat / 16
    let wide := isWide 0x90 (.r r)
    let xs := g.gather wide s.now (tyN t) (vNum r.a)
    let live := (lanesOf g.live).map fun L => (L, xs.getD L 0)
    let nan (x : Dword) : Bool := match tyFloat t with | some F => (fv F x).isNan | none => false
    let sig := live.any fun y => match tyFloat t with | some F => sNan F y.2 | none => false
    let seed := (s.seedOf g).setWidth 32
    let best := match live.filter (fun y => !nan y.2) with
      | [] => 0x7F
      | y :: l => (l.foldl (fun a b => if selBeats t (r.c.getLsbD 0) seed a b then b else a) y).1
    uniOwn s (beatDone wide 0 2 (redLat t)) r.d.toNat (dw best) ({ nv := sig } : Flags).bits g

end Sys2Proof.Machine
end

