-- ==== Sys2Proof/Machine/Access.lean ====
section
/-! DEFINITION. Memory accesses of a group: addresses and checks at issue (spec 04 R90 to R95, 15 R325 to R328), the
order in which requests are performed (05 R142 to R149), and their performance (15 R330 to R339). -/

namespace Sys2Proof.Machine

/-! ### Addresses (R241, R326) -/

/-- a(L) of R326, from the registers as `v` shows them. -/
def Group.addrOf (v : Group) (m : MArgs) (size L : Nat) : Nat :=
  let base := match m.xk with
    | .v32 => v.lane 32 m.x.toNat L
    | .aff => ofI ((v.ra m.x.toNat).lane 64 L)
    | .unif => v.rs m.x.toNat
    | .v64 => v.lane 64 m.x.toNat L
  (base + ofI (m.off.toInt * size)).toNat

/-- The operands of lane L: store data, index, atomic operand and second operand (R331, R333, R334, R337). -/
def Group.operands (v : Group) (op : Nat) (m : MArgs) (L : Nat) : Dword × Dword :=
  let w := tyWidth (mTy m.b)
  let d := m.d.toNat
  let step := if w == 64 then 2 else 1
  match op with
  | 0x9A | 0xA2 | 0xA3 => (v.lane w d L, 0)
  | 0x9B => (v.rs d, 0)
  | 0x9E => (v.lane 32 d L, 0)
  | 0x9F => (v.lane 32 d L, v.lane 32 (d + 1) L)
  | 0xA0 => (v.lane w d L, if m.b.toNat / 16 == 7 then v.lane w (d + step) L else 0)
  | 0xA1 => (trunc w (v.rs d), if m.b.toNat / 16 == 7 then trunc w (v.rs (d + 1)) else 0)
  | 0xA8 => (v.rs m.b.toNat, 0)
  | _ => (0, 0)

/-! ### The checks of R328 -/

/-- The mode of a region index of a task (R85, R86). -/
def Task.modeOf (t : Task) (i : Nat) : Option RMode :=
  if i == 16 then some .code else if i == 17 then some .args else if i == 18 then some .stack
  else (t.regions[i]?).bind fun r => RMode.ofCode r.mode

/-- The type codes of ETYPE (R339). -/
def etyType (e : Nat) : Nat := [2, 3, 6, 7, 12, 13].getD e 2

/-- RS: the bytes of a row of a partial area (R109). -/
def Region.rowStride (r : Region) : Nat := roundUp r.ext 128

/-- Whether block b holds the commit token (R202); it is tested as an instruction issues. -/
def Task.holds_ (t : Task) (b : Block) : Bool := t.run.commit == b.blkid

/-- Whether an operation may act on a peer page (R499): loads, stores, `wcnt`, and ADD, EXCH and CAS atomics. -/
def peerOp (op : Nat) (m : MArgs) : Bool :=
  op == 0xA8 || ([0x98, 0x99, 0x9A, 0x9B].contains op && 4 ≤ mSize op m) ||
    ((op == 0xA0 || op == 0xA1) && [0, 6, 7].contains (m.b.toNat / 16))

/-- The address whose translation an access needs: the partial's for `redo` (R339), else its own first byte. -/
def xlatAddr (t : Task) (b : Block) (op i lo : Nat) : Nat :=
  if op == 0xA3 then
    match t.regions[i]? with
    | some r => r.pbase + b.blkid * r.rowStride + (lo - r.base)
    | none => lo
  else lo

/-- The checks of one lane after alignment (R328): UNDECLARED, REGION_MODE, DET_VIOLATION, TRANSLATION, PROTECTION,
LINK_UNREACHABLE; `reg` is the region it matched.  FADDR stands with the cause.  The token and the route are tested at issue
only (R202, R390): an access that has `gone` before, and is issued again, needs neither. -/
def State.checkAccess (s : State) (b : Block) (t : Task) (op : Nat) (m : MArgs) (acc : Acc) (gone : Bool) (lo : Nat)
    (reg : Option (Nat × RMode)) (q : LaneReq) : Except (BitVec 8 × Nat) LaneReq :=
  match reg with
  | none => .error (cUndeclared, q.addr)
  | some (i, mode) =>
    let ety := ((t.regions[i]?).map (·.ety)).getD 0
    if !acc.allowed mode || (op == 0xA8 && mode != .shared) || (op == 0xA3 && etyType ety != mTy m.b) then
      .error (cMode, q.addr)
    else if !gone && t.hdr.det && mode == .shared && op != 0xA8 && !t.holds_ b then .error (cDet, q.addr)
    else
      let va := xlatAddr t b op i lo
      match s.translate b.part b.ctx va with
      | none => .error (cXlat, if op == 0xA3 then va else q.addr)
      | some p =>
        if !acc.permitted p || (isPeer p.pa && !(mode == .shared && peerOp op m)) then .error (cProt, q.addr)
        else
          let h := homeDie p.home p.pa
          if !gone && !isPeer p.pa && !s.reaches (coreDie b.core) h then .error (cLink, q.addr)
          else .ok { q with reg := i, pa := p.pa, home := if isPeer p.pa then 99 else h }

/-- The slice of lane L of a group (R87). -/
def Group.slice (g : Group) (L : Nat) : Nat := sliceIndex g.core g.gslot L

/-- The region that an access of an instruction matches among its accesses `qs` (R90, R91): an affine address is matched
at its two end lanes; under a uniform one, which matches no STACK, each access of `ldw` and `stw` is matched by the bytes
of its own index (log 52). -/
def Task.regionOf (t : Task) (g : Group) (op : Nat) (m : MArgs) (qs : List LaneReq) (q : LaneReq) :
    Option (Nat × RMode) :=
  let match_ (q : LaneReq) : Option (Nat × RMode) :=
    let (lo, n, _) := accRange op m q.addr (idxOf op q)
    t.match_ lo (lo + n - 1) (if m.xk == .unif then none else some (g.slice q.lane))
  if m.xk == .aff then
    match qs, qs.getLast? with
    | a :: _, some z => if match_ a == match_ z then match_ a else none
    | _, _ => none
  else match_ q

/-- The checks of every access of an instruction (R90, R91, R94): each access with its region, or its first cause (log 52: the
bytes that `ldw` and `stw` match at a uniform address). -/
def State.checkLanes (s : State) (g : Group) (b : Block) (t : Task) (op : Nat) (m : MArgs) (acc : Acc) (gone : Bool)
    (qs : List LaneReq) : List (LaneReq × Except (BitVec 8 × Nat) LaneReq) :=
  qs.map fun q =>
    let (lo, _, mis) := accRange op m q.addr (idxOf op q)
    if mis then (q, .error (cMisaligned, q.addr))
    else (q, s.checkAccess b t op m acc gone lo (t.regionOf g op m qs q) q)

/-- The accesses of a packet (R137), each with the region it matches. -/
def Task.packed (t : Task) (g : Group) (op : Nat) (m : MArgs) (qs : List LaneReq) : List LaneReq :=
  qs.map fun q => { q with reg := ((t.regionOf g op m qs q).map (·.1)).getD 0 }

/-- The causes of R328 that a lane can have, in order. -/
def causeOrder : List (BitVec 8) := [cMisaligned, cScratch, cUndeclared, cMode, cDet, cXlat, cProt, cLink]

/-- The lanes of accesses as a mask. -/
def lanesMask (l : List Nat) : LaneMask := maskOf l.contains

/-- The fault of a list of checks (R94): the first cause in order that any lane has, the lowest such lane's address, and
the lanes that have it; for a uniform or affine address every checked lane is marked.  LINK_UNREACHABLE is marked like the others
(DESIGN CHOICE, log 77: R94 does not list it, and R390 gives only its FADDR). -/
def firstFault (m : MArgs) (mask : LaneMask) (l : List (LaneReq × Except (BitVec 8 × Nat) LaneReq)) :
    Option (BitVec 8 × Nat × LaneMask) :=
  causeOrder.findSome? fun c =>
    let bad := l.filterMap fun (q, r) => match r with
      | .error (k, a) => if k == c then some (q.lane, a) else none
      | .ok _ => none
    match bad with
    | [] => none
    | (_, a) :: _ =>
      some (c, a, if m.xk == .aff || m.xk == .unif then mask else lanesMask (bad.map (·.1)))

/-- The accesses that pass. -/
def passed (l : List (LaneReq × Except (BitVec 8 × Nat) LaneReq)) : List LaneReq :=
  l.filterMap fun (_, r) => match r with | .ok q => some q | .error _ => none

/-! ### Ordering (R142 to R149) -/

/-- Whether an access to scratchpad with an ordering may be performed at issue (R332): as a request issued now. -/
def Group.mayIssue (g : Group) (op : Nat) (m : MArgs) : Bool :=
  let q : Req := { seq := g.seq, op := op, head := Head.plain, m := m, cond := 0, target := 0, kind := .order,
                   lanes := [], uni := true, mask := 0, flag := 0, inv := g.handler.map (·.inv), pc := 0, next := 0,
                   split := 0, st := .flying, gen := 0 }
  let q := if op == 0x9D then { q with kind := .st } else q
  !g.held q

/-! ### One lane's access (R122, R123, R133, R148) -/

/-- The STACK bytes of a block from `a` on that its lanes have stored to since placement; the others are free values
(R88): each draw advances `fresh`. -/
def State.stackBytes (s : State) (b : Block) (a : Nat) : List Byte → State × List Byte
  | [] => (s, [])
  | x :: t =>
    if b.stk.contains a then let (s, r) := s.stackBytes b (a + 1) t; (s, x :: r)
    else
      let y := Config.freeByte s.fresh
      let (s, r) := ({ s with fresh := s.fresh + 1 }).stackBytes b (a + 1) t
      (s, y :: r)

/-- Reads `n` bytes at the physical address of an access, as its region's mode has it: through the L1, or at the home. -/
def State.readAt (s : State) (b : Block) (mode : RMode) (hnt va pa n : Nat) : List Byte × Bool × State :=
  match mode with
  | .shared | .reduce => (s.homeRead b.part pa n, s.homeBad pa n, s.llcTouch b.part pa (hnt == 2))
  | .stack =>
    let (x, bad, s) := s.l1Read b.part b.ctx b.core pa n hnt (some b.uid)
    let (s, x) := s.stackBytes b va x
    (x, bad, s)
  | _ => s.l1Read b.part b.ctx b.core pa n hnt none

/-- Writes bytes at the physical address of an access. -/
def State.writeAt (s : State) (b : Block) (mode : RMode) (hnt va pa : Nat) (x : List Byte) : State :=
  match mode with
  | .shared | .reduce => s.homeWriteBy b.part pa (hnt == 2) x
  | .stack =>
    let s := s.l1Write b.part b.ctx b.core pa x hnt (some b.uid)
    let new := ((List.range x.length).map (va + ·)).filter fun a => !b.stk.contains a
    s.putBlock { (s.block? b.uid).getD b with stk := b.stk ++ new }
  | _ => s.l1Write b.part b.ctx b.core pa x hnt none

/-- The bytes at a physical address as a store of part of a byte finds them (R132): the L1's where valid, else the
home's. -/
def State.peek (s : State) (b : Block) (mode : RMode) (pa n : Nat) : List Byte :=
  let home := s.homeRead b.part pa n
  match mode with
  | .shared | .reduce => home
  | _ =>
    match s.sector? b.part (s.l1Core b.part b.ctx b.core pa) pa with
    | some x => home.mapIdx fun i y => if bm x.valid (pa % 128 + i) then x.bytes.getD (pa % 128 + i) 0 else y
    | none => home

/-- A loaded value extended by its type to `w` bits (R241, R330). -/
def extendTy (t w : Nat) (x : List Byte) : Dword :=
  let n := (tyBytes t).getD 4
  let v := leOf x
  trunc w (if t ≤ 2 then ofI (sextNat v (8 * n)) else dw v)

/-- The new value of an atomic (R335): old x, operand y, second operand z. -/
def atomOp (op t : Nat) (x y z : Dword) : Dword :=
  match op with
  | 6 => y
  | 7 => if x == y then z else x
  | k => (redOp k t x y).x

/-- Whether an access goes to its home: one of a SHARED or REDUCE region, a load that the L1 cannot serve whole, a store that the
L1 does not keep (R133). -/
def State.goesHome (s : State) (b : Block) (t : Task) (q : Req) (x : LaneReq) : Bool :=
  match t.modeOf x.reg with
  | some .shared | some .reduce | none => true
  | some _ =>
    let (_, n, _) := accRange q.op q.m x.addr (idxOf q.op x)
    match s.sector? b.part (s.l1Core b.part b.ctx b.core x.pa) x.pa with
    | some y => if q.stores then q.m.hnt == 2 && y.dirty == 0 else bmRange (x.pa % 128) n &&& ~~~y.valid != 0
    | none => !q.stores || q.m.hnt == 1 || q.m.hnt == 2

/-! ### Performing a request -/

/-- What performing the accesses of a request gives: the values by lane, the poisoned accesses, the state. -/
structure Perf where
  s    : State
  vals : List (Nat × Dword) := []
  bad  : List LaneReq := []

/-- Performs one access.  An `atom` with a poisoned lane is performed in its other lanes, and again when its request is reissued
(DESIGN CHOICE, log 76: R344 does not say what they do).  A sector that an earlier lane has evicted lands before it is read at its
home (R142). -/
def performLane (b : Block) (t : Task) (q : Req) (p : Perf) (x : LaneReq) : Perf :=
  let mode := (t.modeOf x.reg).getD .rd
  let b := (p.s.block? b.uid).getD b
  let p := if q.kind == .stw || p.s.goesHome b t q x then { p with s := p.s.landSector b.part x.pa } else p
  let hnt := q.m.hnt.toNat
  let ty := mTy q.m.b
  let (lo, n, _) := accRange q.op q.m x.addr (idxOf q.op x)
  match q.kind with
  | .ld =>
    let (y, bad, s) := p.s.readAt b mode hnt lo x.pa n
    { s := s, vals := p.vals ++ [(x.lane, extendTy ty (if q.op == 0x99 then 64 else tyWidth ty) y)],
      bad := if bad then p.bad ++ [x] else p.bad }
  | .ldw =>
    let (y, bad, s) := p.s.readAt b mode hnt lo x.pa n
    let w := q.m.b.toNat % 64
    { s := s, vals := p.vals ++ [(x.lane, dw (fld (leOf y) (x.x.toNat * w % 8) w))],
      bad := if bad then p.bad ++ [x] else p.bad }
  | .st => { p with s := p.s.writeAt b mode hnt lo x.pa (bytesOf n x.x.toNat) }
  | .stw =>
    let w := q.m.b.toNat % 64
    let i := x.y.toNat
    let sec := x.pa / 128 * 128
    let old := leOf (p.s.peek b mode sec 128)
    let elem := (2 ^ w - 1) * 2 ^ (i * w)
    let top := 1024 / w * w
    let new := ((old % 2 ^ top) &&& (2 ^ top - 1 - elem)) ||| (x.x.toNat % 2 ^ w * 2 ^ (i * w))
    let put (s : State) (o k : Nat) : State :=
      s.writeAt b mode hnt (x.addr + o) (sec + o) (bytesOf k (new / 2 ^ (8 * o)))
    let s := put p.s (lo - x.addr) n
    { p with s := if top % 1024 == 0 then s else
        let b := (s.block? b.uid).getD b
        s.writeAt b mode hnt (x.addr + top / 8) (sec + top / 8) (bytesOf (128 - top / 8) (new / 2 ^ (8 * (top / 8)))) }
  | .atom | .red =>
    let y := s64 (p.s.homeRead b.part x.pa n)
    if p.s.homeBad x.pa n then
      { p with s := p.s.llcTouch b.part x.pa (hnt == 2), bad := if q.kind == .atom then p.bad ++ [x] else p.bad }
    else
      { p with s := p.s.homeWriteBy b.part x.pa (hnt == 2) (bytesOf n (atomOp (q.m.b.toNat / 16) ty y x.x x.y).toNat),
               vals := p.vals ++ [(x.lane, y)] }
  | _ => p
where
  /-- Bytes as a value. -/
  s64 (l : List Byte) : Dword := dw (leOf l)

/-- One `redo` (R339): for each element its lanes' data in the lane tree, combined into the block's partial. -/
def performRedo (t : Task) (q : Req) (s : State) : State :=
  let ty := mTy q.m.b
  let n := mSize q.op q.m
  (q.lanes.map (·.addr)).eraseDups.foldl (fun s a =>
    match q.lanes.filter (·.addr == a) with
    | [] => s
    | x :: l =>
      let op := ((t.regions[x.reg]?).map (·.op)).getD 0
      let vals := (List.range 96).map fun L =>
        match (x :: l).find? (·.lane == L) with
        | some y => y.x
        | none => redIdent op ty
      let v := laneTotal (redNode op ty) (vals.map fun y => { x := trunc (tyN ty) y })
      let old := dw (leOf (s.homeRead t.part x.pa n))
      s.homeWrite t.part x.pa (bytesOf n (redOp op ty old v.x).x.toNat)) s

/-- A group whose request is gone, and whose flag clears in cycle `at_` (R235). -/
def Group.drop (g : Group) (q : Req) (at_ : Nat) : Group :=
  let g := { g with reqs := g.reqs.filter (·.seq != q.seq) }
  if q.flag == 0 then g
  else g.push at_ q.seq (match q.inv with | some i => .hflag i q.flag | none => .flag q.flag)

/-- The write of a varying register by a request of a handler invocation or of none (R58). -/
def Req.wv (q : Req) (r : Nat) (m : LaneMask) (x : Row) : Write :=
  if q.inv.isSome && 248 ≤ r then .h (r - 248) m x else .v r m x

/-- The write of a uniform register by a request. -/
def Req.ws (q : Req) (r : Nat) (x : Dword) : Write :=
  if q.inv.isSome && 56 ≤ r then .hs (r - 56) x else .s r x

/-- The destination of a load, `ldw` or `atom` written in all its checked lanes at once (R327). -/
def Group.writeBackReq (g : Group) (q : Req) (vals : List (Nat × Dword)) (now : Nat) : Group :=
  let d := q.m.d.toNat
  let w := if q.kind == .ldw then 32 else tyWidth (mTy q.m.b)
  let f (L : Nat) : Dword := if q.uni then (vals.head?.map (·.2)).getD 0 else ((vals.find? (·.1 == L)).map (·.2)).getD 0
  if q.op == 0x99 || q.op == 0xA1 then
    let x := (vals.head?.map (·.2)).getD 0
    g.push now q.seq (q.ws d (if q.op == 0xA1 then fill (mTy q.m.b ≤ 2) w x else x))
  else
    let g := g.push now q.seq (q.wv d q.mask (mkRow fun i => (f i).setWidth 32))
    if w == 64 then g.push now q.seq (q.wv (d + 1) q.mask (mkRow fun i => (f i).extractLsb' 32 32)) else g

/-- The fault of poisoned data (R344): DEFER is 1 and the request is kept. -/
def reqEcc (q : Req) (bad : List LaneReq) : FaultInfo :=
  { cause := cEcc, fpc := q.pc, faddr := dw ((bad.head?.map (·.addr)).getD 0),
    flane := if q.uni then q.mask else lanesMask (bad.map (·.lane)), defer := true, fetch := false, mask := q.split,
    next := q.next, req := some q.seq }

/-- Whether a path joins a request's die to every home of it (R390). -/
def State.homesUp (s : State) (b : Block) (q : Req) : Bool :=
  !q.accesses || q.lanes.all fun x => x.home == 99 || s.reaches (coreDie b.core) x.home

/-- Whether a request goes to a home toward which a write-back of its sector is on its way: it is performed after that (R142).  An
`stw` looks at its sector's home too (R132). -/
def State.reqPends (s : State) (b : Block) (q : Req) : Bool :=
  match s.task? b.task with
  | none => false
  | some t => q.accesses && q.lanes.any fun x => s.backPends b.part x.pa && (q.kind == .stw || s.goesHome b t q x)

/-- The other dies that a request goes to (R488, R498): those of its homes, of a fetch that of its bundle; of a `cmtp`, the
leader's. -/
def State.reqDies (s : State) (b : Block) (q : Req) : List Nat :=
  match s.task? b.task with
  | none => []
  | some t =>
    let l := if q.kind == .cmtp then [t.run.leader]
      else if q.kind == .fetch then q.lanes.map (·.home)
      else if !q.accesses then [] else ((q.lanes.filter (s.goesHome b t q)).map (·.home)).eraseDups
    l.filter fun d => d != 99 && d != coreDie b.core

/-- Whether a request has nothing to wait for on other dies: it goes to none, or each has answered it (R488), and no write-back is
on its way before it. -/
def State.reqReaches (s : State) (g : Group) (b : Block) (q : Req) : Bool :=
  !s.reqPends b q &&
    if q.sent then !s.inTransit (.req g.uid q.seq) && !s.inTransit (.rsp g.uid q.seq) else (s.reqDies b q).isEmpty

/-- A request whose data is poisoned is kept with its fault (R344); of a group that has retired nothing is left to fault,
and it goes (R46). -/
def Group.keepPoison (g : Group) (q : Req) (bad : List LaneReq) (now : Nat) : Group :=
  if g.live == 0 then g.drop q now
  else { g with reqs := updIf (·.seq == q.seq) (fun r => { r with st := .poisoned }) g.reqs,
                deferred := g.deferred ++ [reqEcc q bad] }

/-- Whether a request orders what came before it at the scope sys (R141, R145, R146). -/
def Req.sys (q : Req) : Bool := q.rel && q.m.scp == 2

/-- Performs a request that returns data: its destination is written, its flag clears, or poison is kept (R344); a release at the
scope sys is in memory with all before it (R140, R145). -/
def State.performLoad (s : State) (g : Group) (b : Block) (t : Task) (q : Req) : State :=
  let p := q.lanes.foldl (performLane b t q) { s := s }
  let s := if q.sys then p.s.llcClean b.part else p.s
  let g := (s.group? g.uid).getD g
  if p.bad.isEmpty then s.putGroup ((g.writeBackReq q p.vals s.now).drop q s.now)
  else s.putGroup (g.keepPoison q p.bad s.now)

/-- Performs a request that returns no data: a store, `red`, `redo` or an ordering; its flag clears.  A release or fence at
the scope sys writes the partition's lines through to memory, its own store's with them (R130, R140). -/
def State.performStore (s : State) (g : Group) (b : Block) (t : Task) (q : Req) : State :=
  let s := if q.kind == .redo then performRedo t q s else (q.lanes.foldl (performLane b t q) { s := s }).s
  let s := if q.sys then s.llcClean b.part else s
  s.putGroup (((s.group? g.uid).getD g).drop q s.now)

end Sys2Proof.Machine
end

