-- ==== Sys2Proof/Machine/MemOps.lean ====
section
/-! DEFINITION. Memory instructions: opcodes 0x98 to 0xA8 (spec 15 R325 to R345, 08 R203). -/

namespace Sys2Proof.Machine

open Host (Outcome)

/-! ### Scratchpad as thread and engines share it (R118, R150) -/

/-- Whether an incomplete engine operation of a block names a scratchpad row, by its index in the run (R187, R353). -/
def State.engineRow (s : State) (b : Block) (row : Nat) : Bool :=
  let k := s.core b.core
  k.mq.any (fun o => o.block == b.uid && o.rows.contains row) || k.cq.any (fun o => o.block == b.uid && o.rows.contains row)

/-- The rows of scratchpad bytes [a, a + n). -/
def rowsOf (a n : Nat) : List Nat :=
  if n == 0 then [] else (List.range ((a + n - 1) / 384 - a / 384 + 1)).map (a / 384 + ·)

/-- Whether any of `n` scratchpad bytes from `a` on is poisoned; `scrBad` holds 8-byte words (R506). -/
def Block.scrPoison (b : Block) (a n : Nat) : Bool := b.scrBad.any fun w => w < a + n && a < w + 8

/-- The block with strings of bytes written to its scratchpad, in their order; a word that they write whole loses its poison
(R506). -/
def Block.scrWrites (b : Block) (l : List (Nat × List Byte)) : Block :=
  let written (a : Nat) : Bool := l.any fun y => y.1 ≤ a && a < y.1 + y.2.length
  { b with scr := l.foldl (fun m y => cellWrite m y.1 y.2) b.scr
           scrBad := b.scrBad.filter fun w => !((List.range 8).all fun i => written (w + i)) }

/-- The block with a string of bytes written to its scratchpad (`Block.scrWrites`). -/
def Block.scrWrite (b : Block) (a : Nat) (x : List Byte) : Block := b.scrWrites [(a, x)]

/-- The block with the words of scratchpad bytes [a, a + n) poisoned (R506). -/
def Block.scrSpoil (b : Block) (a n : Nat) : Block :=
  { b with scrBad := b.scrBad ++ (((List.range n).map fun i => (a + i) / 8 * 8).eraseDups.filter (!b.scrBad.contains ·)) }

/-! ### Issue of a global access -/

/-- A request of an instruction of the group. -/
def mkReq (g : Group) (x : Split) (s : State) (op : Nat) (h : Head) (m : MArgs) (kind : ReqKind) (lanes : List LaneReq)
    (uni : Bool) (mask : LaneMask) : Req :=
  { seq := g.seq, op := op, head := h, m := m, cond := 0, target := 0, kind := kind, lanes := lanes, uni := uni,
    mask := mask, flag := h.set.toNat, inv := g.handler.map (·.inv), pc := x.pc, next := s.nextPc, split := x.mask,
    st := .flying, gen := 0, born := s.now }

/-- The state with a request of the group on its way; its flag clears when it is performed. -/
def State.send (s : State) (g : Group) (q : Req) : Own := .ok (s.putGroup { g with reqs := g.reqs ++ [q] }) none

/-- The checked lanes of a memory instruction (R326). -/
def Group.checked (g : Group) (x : Split) (h : Head) (uniform : Bool) (now : Nat) : LaneMask :=
  if uniform then x.mask else x.mask &&& g.guardAt h now

/-- Whether an affine address has W set (R71). -/
def affineBad (v : Group) (m : MArgs) : Bool := m.xk == .aff && (v.ra m.x.toNat).w

/-- The accesses of an instruction over its checked lanes (R326): `one` makes a single access, with the data of lane
`last` where it stores. -/
def accesses (v : Group) (op : Nat) (m : MArgs) (lanes : List Nat) (one last : Bool) : List LaneReq :=
  let mk (L : Nat) : LaneReq :=
    let (a, b) := v.operands op m L
    { lane := L, addr := v.addrOf m (mSize op m) L, x := a, y := b }
  if one then (if last then lanes.getLast? else lanes.head?).toList.map mk else lanes.map mk

/-- FADDR of AFFINE_RANGE: the lowest checked lane's address (R94; log 53), 0 where no lane is checked. -/
def affineAddr (v : Group) (op : Nat) (m : MArgs) (mask : LaneMask) : Dword :=
  match lanesOf mask with
  | [] => 0
  | L :: _ => dw (v.addrOf m (mSize op m) L)

/-- A global access at issue: AFFINE_RANGE, the checks of R328, then its request, which `act` takes; a
missing translation makes a packet (R137).  An instruction with no checked lane makes no access but still orders (R147,
R326). -/
def memOwnBy (op : Nat) (h : Head) (m : MArgs) (kind : ReqKind) (acc : Acc) (uniform one last : Bool) (s : State)
    (g : Group) (x : Split) (act : Req → Own) : Own :=
  let v := g.viewAt s.now
  let mask := g.checked x h uniform s.now
  let lanes := lanesOf mask
  if affineBad v m then .fault cAffine (affineAddr v op m mask) mask
  else if lanes.isEmpty then
    (if m.ord == .none then .ok s (some (s.now + 1)) else s.send g (mkReq g x s op h m .order [] false 0))
  else
    match s.block? g.block, s.taskOf g with
    | some b, some t =>
      let qs := accesses v op m lanes one last
      let l := s.checkLanes g b t op m acc false qs
      let q (l : List LaneReq) : Req := { mkReq g x s op h m kind l one mask with det := t.hdr.det }
      match firstFault m mask l with
      | some (c, a, fl) => if c == cXlat then .packet (q (t.packed g op m qs)) a fl else .fault c (dw a) fl
      | none => act (q (passed l))
    | _, _ => .wait

/-- A global access at issue that goes on its way as a request (`memOwnBy`). -/
def memOwn (op : Nat) (h : Head) (m : MArgs) (kind : ReqKind) (acc : Acc) (uniform one last : Bool) (s : State)
    (g : Group) (x : Split) : Own :=
  memOwnBy op h m kind acc uniform one last s g x (s.send g)

/-- R330. -/
def execLdV (h : Head) (m : MArgs) (s : State) : Outcome State Fault Refusal :=
  runSlot 0x98 h (.m m) s fun g x => memOwn 0x98 h m .ld .read false (m.xk == .unif) false s g x

/-- R330: uniform class, one access. -/
def execLdS (h : Head) (m : MArgs) (s : State) : Outcome State Fault Refusal :=
  runSlot 0x99 h (.m m) s fun g x => memOwn 0x99 h m .ld .read true true false s g x

/-- R331: under a uniform address, the highest checked lane's data. -/
def execStV (h : Head) (m : MArgs) (s : State) : Outcome State Fault Refusal :=
  runSlot 0x9A h (.m m) s fun g x => memOwn 0x9A h m .st .write false (m.xk == .unif) true s g x

/-- R331: data from a uniform register. -/
def execStS (h : Head) (m : MArgs) (s : State) : Outcome State Fault Refusal :=
  runSlot 0x9B h (.m m) s fun g x => memOwn 0x9B h m .st .write false (m.xk == .unif) true s g x

/-- R333. -/
def execLdw (h : Head) (m : MArgs) (s : State) : Outcome State Fault Refusal :=
  runSlot 0x9E h (.m m) s fun g x => memOwn 0x9E h m .ldw .read false false false s g x

/-- R334. -/
def execStw (h : Head) (m : MArgs) (s : State) : Outcome State Fault Refusal :=
  runSlot 0x9F h (.m m) s fun g x => memOwn 0x9F h m .stw .write false false false s g x

/-- R336. -/
def execAtomV (h : Head) (m : MArgs) (s : State) : Outcome State Fault Refusal :=
  runSlot 0xA0 h (.m m) s fun g x => memOwn 0xA0 h m .atom .atomic false false false s g x

/-- R336: one access for the group. -/
def execAtomS (h : Head) (m : MArgs) (s : State) : Outcome State Fault Refusal :=
  runSlot 0xA1 h (.m m) s fun g x => memOwn 0xA1 h m .atom .atomic true true false s g x

/-- R338. -/
def execRed (h : Head) (m : MArgs) (s : State) : Outcome State Fault Refusal :=
  runSlot 0xA2 h (.m m) s fun g x => memOwn 0xA2 h m .red .atomic false false false s g x

/-- R339. -/
def execRedo (h : Head) (m : MArgs) (s : State) : Outcome State Fault Refusal :=
  runSlot 0xA3 h (.m m) s fun g x => memOwn 0xA3 h m .redo .redo false false false s g x

/-! ### Scratchpad instructions (R332) -/

/-- The checks of a scratchpad access: MISALIGNED, SCRATCH_RANGE (R328, R332). -/
def scrChecks (b : Block) (n : Nat) (qs : List LaneReq) : List (LaneReq × Except (BitVec 8 × Nat) LaneReq) :=
  qs.map fun q =>
    if q.addr % n != 0 then (q, .error (cMisaligned, q.addr))
    else if b.scrSize < q.addr + n then (q, .error (cScratch, q.addr))
    else (q, .ok q)

/-- The scratchpad accesses of an instruction: its checked lanes and one access for each, or one for all. -/
def scrAccesses (op : Nat) (h : Head) (m : MArgs) (now : Nat) (g : Group) (x : Split) : LaneMask × List LaneReq :=
  let v := g.viewAt now
  let mask := g.checked x h false now
  let n := mSize op m
  let mk (L : Nat) : LaneReq :=
    { lane := L, addr := v.addrOf m n L, x := if op == 0x9D then v.lane (tyWidth (mTy m.b)) m.d.toNat L else 0 }
  let qs := (lanesOf mask).map mk
  (mask, if m.xk == .unif then (if op == 0x9D then qs.getLast? else qs.head?).toList else qs)

/-- Whether any of some scratchpad accesses meets a row of an incomplete engine operation (R150, R329). -/
def State.engineStall (s : State) (b : Block) (qs : List LaneReq) : Bool :=
  qs.any fun q => s.engineRow b (q.addr / 384)

/-- A scratchpad access at issue: it is not eligible on ENGINE rows (R329) or before the orderings it waits for, an `sts` not behind
a `cmtp` of its block (R203); its checks, then `act`. -/
def scrOwn (op : Nat) (h : Head) (m : MArgs) (s : State) (g : Group) (x : Split)
    (act : Block → LaneMask → List LaneReq → Own) : Own :=
  let (mask, qs) := scrAccesses op h m s.now g x
  match s.block? g.block with
  | none => .wait
  | some b =>
    if s.engineStall b qs || !g.mayIssue op m || (op == 0x9D && s.behindPass g s.now) then .wait
    else if affineBad (g.viewAt s.now) m then .fault cAffine (affineAddr (g.viewAt s.now) op m mask) mask
    else
      match firstFault m mask (scrChecks b (mSize op m) qs) with
      | some (c, a, fl) => .fault c (dw a) fl
      | none => act b mask qs

/-- R332: the result is readable 6 cycles after issue, 8 at 64 bits (R329); poison is found before issue (R506). -/
def execLds (h : Head) (m : MArgs) (s : State) : Outcome State Fault Refusal :=
  runSlot 0x9C h (.m m) s fun g x => scrOwn 0x9C h m s g x fun b mask qs =>
    let n := mSize 0x9C m
    let t := mTy m.b
    let w := tyWidth t
    let bad := qs.filter fun q => b.scrPoison q.addr n
    match bad with
    | q :: _ => .ecc q.addr (if m.xk == .unif then mask else lanesMask (bad.map (·.lane)))
    | [] =>
      if mask == 0 then .ok s (some (s.now + 1))
      else
        let vals := qs.map fun q => (q.lane, extendTy t w (cellRead b.scr q.addr n))
        let f (L : Nat) : Dword := if m.xk == .unif then (vals.head?.map (·.2)).getD 0
          else ((vals.find? (·.1 == L)).map (·.2)).getD 0
        let at_ := s.now + if w == 64 then 8 else 6
        .ok (s.putGroup (g.pushRow at_ w m.d.toNat mask f)) (some at_)

/-- R332. -/
def execSts (h : Head) (m : MArgs) (s : State) : Outcome State Fault Refusal :=
  runSlot 0x9D h (.m m) s fun g x => scrOwn 0x9D h m s g x fun b _ qs =>
    .ok (s.putBlock (b.scrWrites (qs.map fun q => (q.addr, bytesOf (mSize 0x9D m) q.x.toNat)))) (some (s.now + 1))

/-! ### Prefetch, fence, commit, counter wait (R340 to R343) -/

/-- One access of `prf`: under the hint it fills the L1, or the LLC for SHARED, or is dropped (R92, R133, R340); a sector that
an earlier lane has evicted lands first (R142). -/
def prfLane (b : Block) (det : Bool) (m : MArgs) (s : State) (q : LaneReq) (reg : Option (Nat × RMode)) : State :=
  let n := mSize 0xA4 m
  match reg with
  | none => s
  | some (_, mode) =>
    if q.addr % n != 0 || mode == .reduce || (mode == .shared && det) then s
    else match s.translate b.part b.ctx q.addr with
      | none => s
      | some p =>
        if !p.read || isPeer p.pa || !s.reaches (coreDie b.core) (homeDie p.home p.pa) then s
        else if mode == .shared then s.llcTouch b.part p.pa (m.hnt.toNat == 2)
        else ((s.landSector b.part p.pa).l1Read b.part b.ctx b.core p.pa n m.hnt.toNat (if mode == .stack then some b.uid else none)).2.2

/-- R340; a sector that is being written back is read when that has landed. -/
def execPrf (h : Head) (m : MArgs) (s : State) : Outcome State Fault Refusal :=
  runSlot 0xA4 h (.m m) s fun g x =>
    let v := g.viewAt s.now
    let mask := g.checked x h false s.now
    if affineBad v m then .fault cAffine (affineAddr v 0xA4 m mask) mask
    else
      match s.block? g.block, s.taskOf g with
      | some b, some t =>
        let n := mSize 0xA4 m
        let qs := accesses v 0xA4 m (lanesOf mask) (m.xk == .unif) false
        if qs.any fun q => (s.translate b.part b.ctx q.addr).any fun p => s.backPends b.part p.pa then .wait else
        let match_ (q : LaneReq) := t.match_ q.addr (q.addr + n - 1) (if m.xk == .unif then none else some (g.slice q.lane))
        let ends := match qs, qs.getLast? with
          | a :: _, some z => if match_ a == match_ z then match_ a else none
          | _, _ => none
        .ok (qs.foldl (fun s q => prfLane b t.hdr.det m s q (if m.xk == .aff then ends else match_ q)) s) (some (s.now + 1))
      | _, _ => .wait

/-- R341: a guarded-off fence still orders. -/
def execFence (h : Head) (m : MArgs) (s : State) : Outcome State Fault Refusal :=
  runSlot 0xA5 h (.m m) s fun g x => s.send g (mkReq g x s 0xA5 h m .fence [] false 0)

/-- R203, R342: outside a DET task no effect; else it waits for the token, which the leader sends its die over CTL (R498), and a
position passed is DET_VIOLATION. -/
def execCmtk (h : Head) (m : MArgs) (s : State) : Outcome State Fault Refusal :=
  runSlot 0xA6 h (.m m) s fun g x =>
    match s.block? g.block, s.taskOf g with
    | some b, some t =>
      if !t.hdr.det then .ok s (some (s.now + 1))
      else if t.run.commit < b.blkid || (t.run.commit == b.blkid && s.inTransit (.commit t.uid)) then .wait
      else if b.blkid < t.run.commit then .fault cDet 0 x.mask
      else s.send g (mkReq g x s 0xA6 h m .cmtk [] false 0)
    | _, _ => .wait

/-- The SHARED accesses of a block's groups that are not performed, those of copies and packets with them (R150, R203). -/
def State.sharedOut (s : State) (b : Block) (t : Task) : List LaneReq :=
  (s.groupsOf b.uid).flatMap fun g =>
    (g.reqs.filter fun q => (q.accesses || q.kind == .cpy) && q.lanes.any fun x => t.modeOf x.reg == some .shared).map
      fun q => LaneReq.ref g.uid q.seq

/-- R203, R342. -/
def execCmtp (h : Head) (m : MArgs) (s : State) : Outcome State Fault Refusal :=
  runSlot 0xA7 h (.m m) s fun g x =>
    match s.block? g.block, s.taskOf g with
    | some b, some t =>
      if !t.hdr.det then .ok s (some (s.now + 1))
      else if !t.holds_ b then .fault cDet 0 x.mask
      else s.send g (mkReq g x s 0xA7 h m .cmtp (s.sharedOut b t) false 0)
    | _, _ => .wait

/-- R343: the group waits until WCNT_RECHECK finds the target met; only then does the split go on. -/
def execWcnt (h : Head) (m : MArgs) (s : State) : Outcome State Fault Refusal :=
  runSlot 0xA8 h (.m m) s fun g x =>
    memOwnBy 0xA8 h m .wcnt .read true true false s g x fun q => .await q (.wcnt g.seq)

end Sys2Proof.Machine
end

