-- ==== Sys2Proof/Machine/Barriers.lean ====
section
/-! DEFINITION. Barrier objects, `gbar` and `rbar`, `work` and `spawn`: opcodes 0xBA to 0xC1 (spec 16 R362 to R369,
07 R191). -/

namespace Sys2Proof.Machine

open Host (Outcome)

/-! ### Barrier objects (R347, R362, R363) -/

/-- BARRIER_MISUSE with its object number (R350). -/
def misuse (x : Split) (n : Nat) : Own := .fault cBarrier (dw n) x.mask

/-- Whether the executing split is the whole live mask (R347); a handler's split stands for it. -/
def Group.whole (g : Group) (x : Split) : Bool := g.inHandler || x.mask == g.live

/-- The bit of a group in PMASK and AMASK. -/
def Group.bit (g : Group) : BitVec 8 := BitVec.twoPow 8 g.gindex

/-- A block with barrier object `n` replaced, after its phase test (R362). -/
def Block.putBar (b : Block) (n : Nat) (o : Bar) : Block := { b with bars := b.bars.set n o.test }

/-- Barrier object `n` of a block. -/
def Block.bar (b : Block) (n : Nat) : Bar := b.bars.getD n { pmask := 0, amask := 0, phase := 0 }

/-- The state with a mark in the group's issue order that everything before an arrival at object `n` in a phase must pass
(R149): none is needed where nothing is outstanding. -/
def State.arrive (s : State) (g : Group) (n : Nat) (phase : Word) (kind : ReqKind) : State :=
  s.putGroup (if g.reqs.isEmpty then g else { g with reqs := g.reqs ++ [g.mark kind g.seq n phase.toNat []] })

/-- Whether the marks of arrivals at object `n` of a block in a phase have passed: what its groups issued before is
performed (R149, R363). -/
def State.arrivalsPassed (s : State) (b : Block) (n : Nat) (phase : Word) : Bool :=
  !((s.groupsOf b.uid).any fun g =>
    g.reqs.any fun q => (q.kind == .bara || q.kind == .barx) && q.m.b.toNat == n && q.gen == phase.toNat)

/-- The last arrivals of every group of a block at object `n` cleared. -/
def State.clearLast (s : State) (b : Nat) (n : Nat) : State :=
  { s with groups := updIf (·.block == b) (fun g => { g with barLast := g.barLast.set n none }) s.groups }

/-- R363; a mask with a bit of no group is RESERVED_FIELD (`valueBad`). -/
def execBari (h : Head) (a : XArgs) (s : State) : Outcome State Fault Refusal :=
  runSlot 0xBA h (.x a) s fun g x =>
    match s.block? g.block with
    | some b =>
      let n := a.imm.toNat % 16
      let mask : BitVec 8 := a.imm.extractLsb' 8 8
      if !g.whole x || (b.bar n).amask != 0 then misuse x n
      else
        let live := (s.liveGroups b.uid).foldl (fun m g => m ||| g.bit) (0 : BitVec 8)
        .ok ((s.putBlock (b.putBar n { b.bar n with pmask := mask &&& live })).clearLast b.uid n) (some (s.now + 1))
    | none => .wait

/-- R363: AMASK, the last arrival and the phase change at issue; `barw` waits for what was issued before (R149). -/
def execBara (h : Head) (a : XArgs) (s : State) : Outcome State Fault Refusal :=
  runSlot 0xBB h (.x a) s fun g x =>
    match s.block? g.block with
    | none => .wait
    | some b =>
      let n := a.imm.toNat % 16
      let o := b.bar n
      if !g.whole x || o.pmask &&& g.bit == 0 || o.amask &&& g.bit != 0 then misuse x n
      else
        let s := s.putBlock (b.putBar n { o with amask := o.amask ||| g.bit })
        .ok (s.arrive { g with barLast := g.barLast.set n (some o.phase) } n o.phase .bara) (some (s.now + 1))

/-- R363. -/
def execBarx (h : Head) (a : XArgs) (s : State) : Outcome State Fault Refusal :=
  runSlot 0xBC h (.x a) s fun g x =>
    match s.block? g.block with
    | none => .wait
    | some b =>
      let n := a.imm.toNat % 16
      let o := b.bar n
      if !g.whole x || o.pmask &&& g.bit == 0 then misuse x n
      else
        let s := s.putBlock (b.putBar n { o with pmask := o.pmask &&& ~~~g.bit, amask := o.amask &&& ~~~g.bit })
        .ok (s.arrive g n o.phase .barx) (some (s.now + 1))

/-- R363: it issues when the phase has advanced since the group's last arrival. -/
def execBarw (h : Head) (a : XArgs) (s : State) : Outcome State Fault Refusal :=
  runSlot 0xBD h (.x a) s fun g x =>
    match s.block? g.block with
    | none => .wait
    | some b =>
      let n := a.imm.toNat % 16
      match g.barLast.getD n none with
      | none => misuse x n
      | some p =>
        if !g.whole x then misuse x n
        else if (b.bar n).phase != p && s.arrivalsPassed b n p then .ok s (some (s.now + 1)) else .wait

/-! ### `gbar` and `rbar` (R364, R365) -/

/-- R364: the arrival is recorded; the barrier may pass at once. -/
def execGbar (h : Head) (a : XArgs) (s : State) : Outcome State Fault Refusal :=
  runSlot 0xBE h (.x a) s fun g x =>
    match s.block? g.block with
    | none => .wait
    | some b =>
      if !g.whole x then misuse x 16
      else
        let s' := (s.putBlock { b with gbar := b.gbar ++ [g.gindex] }).putGroup { g with wait := .gbar }
        .ok (s'.gbarTest b.uid) (some (s.now + 1))

/-- R365. -/
def execRbar (h : Head) (a : XArgs) (s : State) : Outcome State Fault Refusal :=
  runSlot 0xBF h (.x a) s fun g x =>
    match s.block? g.block, s.taskOf g with
    | some b, some t =>
      let l := a.imm.toNat % 4
      let waits := (s.liveGroups b.uid).any fun y => b.rbar.contains y.gindex
      if !g.whole x || !t.hdr.coop || (waits && b.rbarLvl != some l) then misuse x (17 + l)
      else
        let s' := (s.putBlock { b with rbar := b.rbar ++ [g.gindex], rbarLvl := some l }).putGroup
          { g with wait := .rbar l }
        .ok (s'.rbarTest b.uid) (some (s.now + 1))
    | _, _ => .wait

/-! ### The distributor (R191, R367) -/

/-- The cursor of a block at its first `work`: its share of NTILE × KITER iterations. -/
def Cursor.start (ntile kiter i w : Nat) : Cursor :=
  let t := ntile * kiter
  { ntile := ntile, kiter := kiter, pos := i * t / w, stop := (i + 1) * t / w }

/-- The next piece: tile, kbeg, kend and flags, and the cursor after it (R191). -/
def Cursor.next (c : Cursor) : (Nat × Nat × Nat × Nat) × Cursor :=
  if c.pos == c.stop then ((0, 0, 0, 2), c)
  else
    let kbeg := c.pos % c.kiter
    let kend := min c.kiter (kbeg + c.stop - c.pos)
    ((c.pos / c.kiter, kbeg, kend, if kbeg != 0 || kend != c.kiter then 1 else 0),
     { c with pos := c.pos + (kend - kbeg) })

/-- R367: four uniform registers, readable two cycles after issue (R349). -/
def execWork (h : Head) (e : EArgs) (s : State) : Outcome State Fault Refusal :=
  runSlot 0xC0 h (.e e) s fun g x =>
    match s.block? g.block, s.taskOf g with
    | some b, some t =>
      let n := ((g.viewAt s.now).rs e.s.toNat).toNat
      let cur := match b.work with
        | some c => some c
        | none => if fld n 0 32 == 0 || fld n 32 32 == 0 then none
                  else some (Cursor.start (fld n 0 32) (fld n 32 32) b.blkid t.hdr.nblk)
      match cur with
      | none => .fault cReserved 0 x.mask
      | some c =>
        let ((tile, kbeg, kend, fl), c') := c.next
        let d := e.d.toNat
        let at_ := s.now + 2
        let g := g.push at_ g.seq (g.ws d (dw tile))
        let g := g.push at_ g.seq (g.ws (d + 1) (dw kbeg))
        let g := g.push at_ g.seq (g.ws (d + 2) (dw kend))
        let g := g.push at_ g.seq (g.ws (d + 3) (dw fl))
        .ok ((s.putBlock { b with work := some c' }).putGroup g) (some at_)
    | _, _ => .wait

/-! ### `spawn` (R368, R369) -/

/-- The device queue that `spawn` names: none where it names no queue of the context, or a host queue. -/
def State.spawnQueue (s : State) (b : Block) (q : Nat) : Option Queue := (s.queue? b.part b.ctx q).filter (·.dev)

/-- The `spawn` requests of a context to queue `q` that have not read their image, by their order of issue. -/
def State.spawnsOut (s : State) (b : Block) (q : Nat) : List Nat :=
  s.groups.flatMap fun g =>
    match s.block? g.block with
    | some c => if c.part == b.part && c.ctx == b.ctx then
        (g.reqs.filter fun r => r.kind == .spawn && r.m.b.toNat == q).map (·.gen) else []
    | none => []

/-- The checks of the image read (R350, R368, R390): one uniform read of 768 bytes, as six sectors.  The token and the route are
tested at issue only, not where the read has `gone` before (R202, R390). -/
def State.spawnCheck (s : State) (b : Block) (t : Task) (gone : Bool) (a : Nat) : Except (BitVec 8 × Nat) (List LaneReq) :=
  if a % 256 != 0 then .error (cMisaligned, a)
  else
    match (if 2 ^ 57 < a + 768 then none else t.match_ a (a + 767) none) with
    | none => .error (cUndeclared, a)
    | some (i, mode) =>
      if !Acc.read.allowed mode then .error (cMode, a)
      else if !gone && t.hdr.det && !t.holds_ b then .error (cDet, a)
      else
        let ps := (List.range 6).map fun k => s.translate b.part b.ctx (a + 128 * k)
        if ps.any (·.isNone) then .error (cXlat, a)
        else
          let ps := ps.filterMap id
          if ps.any (fun p => !p.read || isPeer p.pa) then .error (cProt, a)
          else if !gone && ps.any (fun p => !s.reaches (coreDie b.core) (homeDie p.home p.pa)) then .error (cLink, a)
          else .ok ((ps.zip (List.range 6)).map fun (p, k) =>
            { lane := 0, addr := a + 128 * k, reg := i, pa := p.pa, home := homeDie p.home p.pa })

/-- R368: a release and then a read of the image; a full device queue keeps it from issuing.  `gen` of its request is
its place in the order of issue (R369). -/
def execSpawn (h : Head) (e : EArgs) (s : State) : Outcome State Fault Refusal :=
  runSlot 0xC1 h (.e e) s fun g x =>
    match s.block? g.block, s.taskOf g with
    | some b, some t =>
      let qn := e.ext.toNat % 16
      let full : Bool := match s.spawnQueue b qn with
        | some q => decide (q.slots ≤ q.tail - q.head + (s.spawnsOut b qn).length)
        | none => false
      let a := ((g.viewAt s.now).rs e.s.toNat).toNat
      let m : MArgs := { MArgs.zero with x := e.s, b := BitVec.ofNat 8 qn, xk := .unif }
      let q (l : List LaneReq) : Req :=
        { mkReq g x s 0xC1 h m .spawn l true x.mask with gen := s.uid, det := t.hdr.det }
      if full then .wait
      else
        match s.spawnCheck b t false a with
        | .ok l => .ok ({ s with uid := s.uid + 1 }.putGroup { g with reqs := g.reqs ++ [q l] }) none
        | .error (c, f) =>
          if c == cXlat then
            .packet (q [{ lane := 0, addr := a, reg := ((t.match_ a (a + 767) none).map (·.1)).getD 0 }]) f x.mask
          else .fault c (dw f) x.mask
    | _, _ => .wait

end Sys2Proof.Machine
end

