-- ==== Sys2Proof/Machine/TaskRec.lean ====
section
/-! DEFINITION. Task records, submission checks and completion records (spec 24 R446 to R452, 21 R416, R417, 04 R84 to
R89, R103, 08 R197, R211). -/

namespace Sys2Proof.Machine

/-! ### Memory through a context's translation (R448, R451) -/

/-- The pieces of a range of bytes, each inside one sector: first byte and length. -/
def sectorPieces (va n : Nat) : List (Nat × Nat) :=
  (List.range ((va + n - 1) / 128 - va / 128 + 1)).map fun k =>
    let a := max va ((va / 128 + k) * 128)
    (a, min (va + n) ((va / 128 + k + 1) * 128) - a)

/-- The page of an address under a context's translation, where its home is not fenced: the HBM of a fenced die is unavailable
(R496). -/
def State.upPage (s : State) (part ctx va : Nat) : Option Page := (s.translate part ctx va).filter s.homeUp

/-- That page where its entries permit the access. -/
def State.ctxPage (s : State) (part ctx va : Nat) (write : Bool) : Option Page :=
  (s.upPage part ctx va).filter fun p => if write then p.write else p.read

/-- `n` bytes read under a context's translation; none where a piece of them cannot be read, or is poisoned (R506). -/
def State.ctxRead (s : State) (part ctx va n : Nat) : Option (List Byte) :=
  (sectorPieces va n).foldr (fun (a, k) t => match s.ctxPage part ctx a false, t with
    | some p, some t => if s.homeBad p.pa k then none else some (s.homeRead part p.pa k ++ t)
    | _, _ => none) (some [])

/-- Bytes written under a context's translation; none, and nothing written, where a piece of them cannot be. -/
def State.ctxWrite (s : State) (part ctx va : Nat) (b : List Byte) : Option State :=
  (sectorPieces va b.length).foldl (fun t (a, k) => match s.ctxPage part ctx a true, t with
    | some p, some t => some (t.homeWrite part p.pa ((b.drop (a - va)).take k))
    | _, _ => none) (some s)

/-! ### The record's fields (R416, R448, R449) -/

/-- The 2,048 bits of a header as fields. -/
def TaskHdr.of (n : Nat) : TaskHdr :=
  { kdesc := fld n 0 64, codeBase := fld n 64 64, codeLen := fld n 128 64, argsBase := fld n 192 64,
    argsLen := fld n 256 32, det := bitOf n 288, coop := bitOf n 289, startinv := bitOf n 290, nx := fld n 320 32,
    ny := fld n 352 32, nz := fld n 384 32, prio := fld n 416 8, reqarith := fld n 432 16, detseed := dw (fld n 448 64),
    taskid := dw (fld n 512 64), stackBase := fld n 576 64, stackSz := fld n 640 32, cplAddr := fld n 704 64,
    sigctr := fld n 768 64,
    waits := ((List.range 4).map fun k => (fld n (832 + 128 * k) 64, fld n (896 + 128 * k) 64)).filter (·.1 != 0),
    slotimg := (List.range 8).map fun k => fld n (1344 + 16 * k) 16, dieset := BitVec.ofNat 32 (fld n 1472 32),
    aff := { x := fld n 1504 8, y := fld n 1512 8, w := fld n 1520 8, h := fld n 1528 8 },
    cl := { x := fld n 1536 8, y := fld n 1544 8, w := fld n 1552 8, h := fld n 1560 8 } }

/-- The reserved bits of a header (R448). -/
def hdrReserved (n : Nat) : Bool :=
  fld n 291 29 != 0 || fld n 424 8 != 0 || fld n 672 32 != 0 || fld n 1568 480 != 0

/-- A region record. -/
def Region.of (n : Nat) : Region :=
  { base := fld n 0 64, ext := fld n 64 64, pbase := fld n 128 64, mode := fld n 192 4, op := fld n 196 4,
    ety := fld n 200 4, init := fld n 204 4 }

/-- A kernel descriptor (R416). -/
def KDesc.of (n : Nat) : KDesc :=
  { entry := fld n 0 64, nregs := fld n 80 16, ngrp := fld n 96 4, nacc := fld n 104 4, det := bitOf n 112,
    coop := bitOf n 113, fused := bitOf n 114, scratch := fld n 128 32, slotmask := fld n 160 8, stkmin := fld n 208 16 }

/-- STKMIN and STACKSZ: 0, or a multiple of 16 from 16 to 4,096 (R87, R416). -/
def stackOk (n : Nat) : Bool := n % 16 == 0 && n ≤ 4096

/-- R417: the descriptor is refused with KDESC_INVALID. -/
def kdescBad (n : Nat) (k : KDesc) (h : TaskHdr) : Bool :=
  fld n 64 16 != 1 || fld n 100 4 != 0 || fld n 108 4 != 0 || fld n 115 13 != 0 || fld n 168 8 != 0 ||
  fld n 288 736 != 0 || k.nregs < 1 || 256 < k.nregs || k.ngrp < 1 || 8 < k.ngrp || 8 < k.nacc ||
  2359296 < k.scratch || !stackOk k.stkmin || 65536 < fld n 224 32 || k.entry % 32 != 0 ||
  k.entry < h.codeBase || h.codeBase + h.codeLen < k.entry + 32

/-- The element size of an ETYPE (R107). -/
def etySize (e : Nat) : Nat := if e % 2 == 1 then 8 else 4

/-- R89, R449: a region record is refused; `n` is its 256 bits. -/
def regionBad (n : Nat) : Bool :=
  let r := Region.of n
  fld n 208 48 != 0 || 5 < r.mode ||
  (if r.mode == 0 then n % 2 ^ 208 != 0
   else r.ext == 0 || 2 ^ 57 < r.base + r.ext ||
    (if r.mode == 5 then
      2 < r.op || 5 < r.ety || 1 < r.init || r.base % etySize r.ety != 0 || r.ext % etySize r.ety != 0 ||
        r.pbase % 128 != 0
     else
      r.op != 0 || r.ety != 0 || r.init != 0 || r.pbase != 0 ||
        ((r.mode == 2 || r.mode == 3) && (r.base % 128 != 0 || r.ext % 128 != 0))))

/-- The bits of region record j of a record of 768 bytes. -/
def regionBits (n j : Nat) : Nat := fld n (2048 + 256 * j) 256

/-- R450, order 2: the record is refused with REGION_INVALID. -/
def recordBad (n : Nat) (h : TaskHdr) (k : KDesc) : Bool :=
  (List.range 16).any (fun j => regionBad (regionBits n j)) || hdrReserved n || !stackOk h.stackSz ||
  h.stackBase % 128 != 0 || h.stackSz < k.stkmin || h.codeBase % 32 != 0 || h.codeLen < 32 ||
  2 ^ 57 < h.codeBase + h.codeLen || h.argsLen < 1 || 65536 < h.argsLen || h.cplAddr % 512 != 0 ||
  2 ^ 57 < h.cplAddr + 512 || h.sigctr % 8 != 0 || 2 ^ 57 < h.sigctr + 8 || h.waits.any (fun w => w.1 % 8 != 0)

/-! ### Dies (R15, R50, R471, R496) -/

/-- Whether a die serves a partition: in its mask, not fenced, not out since a late switch. -/
def State.dieOk (s : State) (p : Part) (d : Nat) : Bool :=
  p.dies.getLsbD d && !s.deadDies.contains d && !p.outDies.contains d

/-- The dies of a launch (R50): a DIESET of 0 stands for every die. -/
def State.launchDies (s : State) (p : Part) (h : TaskHdr) : List Nat :=
  (List.range 32).filter fun d => (h.dieset == 0 || h.dieset.getLsbD d) && s.dieOk p d

/-! ### Submission (R450) -/

/-- R450, order 7: an image that the record names for slot k is refused. -/
def Part.imageBad (p : Part) (k id mask : Nat) : Bool :=
  if id == 0 then mask.testBit k
  else !p.slotMask.getLsbD k || (p.imageFmt id).isNone ||
    (match p.images.find? (·.id == id) with | some i => i.tenant && !p.tenantOk | none => false) ||
    (p.pinned.getLsbD k && p.slotImg.getD k 0 != 0 && p.slotImg.getD k 0 != id)

/-- The status of a record (R450) and its parts: 0 where every check passes. -/
def State.submit (s : State) (p : Part) (ctx n : Nat) : Nat × TaskHdr × KDesc × List Region :=
  let h := TaskHdr.of n
  let regs := (List.range 16).map fun j => Region.of (regionBits n j)
  let kn := if h.kdesc % 128 != 0 || h.kdesc < h.codeBase || h.codeBase + h.codeLen < h.kdesc + 128 then none
    else s.ctxRead p.num ctx h.kdesc 128
  match kn with
  | none => (0x10, h, KDesc.of 0, regs)
  | some b =>
    let kd := leOf b
    let k := KDesc.of kd
    let st :=
      if kdescBad kd k h then 0x10
      else if recordBad n h k then 0x12
      else if h.nx == 0 || h.ny == 0 || h.nz == 0 || 2 ^ 48 ≤ h.nblk then 0x11
      else if h.det != k.det then 0x13
      else if h.reqarith != 0 && h.reqarith != Config.arith then 0x14
      else if (s.launchDies p h).isEmpty then 0x16
      else if (List.range 8).any (fun j => p.imageBad j (h.slotimg.getD j 0) k.slotmask) then 0x15
      else if h.coop != k.coop || (h.coop && (15 < h.cl.x || 11 < h.cl.y || h.cl.w < 1 || 16 < h.cl.w || h.cl.h < 1 ||
        12 < h.cl.h)) then 0x17
      else 0
    (st, h, k, regs)

/-! ### Completion (R103, R211, R440, R451) -/

/-- The 512 bytes of a completion record; `nblk` is its NBLK field. -/
def Task.record (t : Task) (p : Part) (nblk : Nat) : List Byte :=
  let img (k : Nat) : Nat := t.hdr.slotimg.getD k 0
  bytesOf 64 (t.run.status + 2 ^ 16 * Config.arith + 2 ^ 32 * Config.fwRelease + 2 ^ 48 * t.hdr.det.toNat +
    2 ^ 64 * t.hdr.taskid.toNat + 2 ^ 128 * t.hdr.detseed.toNat + 2 ^ 192 * (nblk % 2 ^ 64) + 2 ^ 256 * (t.ctx % 256) +
    2 ^ 264 * (t.queue % 16 + 128 * t.dev.toNat) + 2 ^ 288 * (if t.run.status == 1 then t.run.cause.toNat else 0) + 2 ^ 320 * (t.seq % 2 ^ 64)) ++
  (List.range 8).flatMap (fun k => bytesOf 2 (img k)) ++ List.replicate 48 0 ++
  (List.range 8).flatMap (fun k => if img k == 0 then List.replicate 48 0 else bytesOf 48 (p.imageDigest (img k)).toNat)

/-- Whether a counter wait is met (R98): not where the counter cannot be read (log 21). -/
def State.waitMet (s : State) (part ctx : Nat) (w : Nat × Nat) : Bool :=
  match s.ctxRead part ctx w.1 8 with
  | some b => w.2 ≤ leOf b
  | none => false

/-- The counter waits of a context's waiting tasks evaluated again (R98). -/
def State.reWait (s : State) (part ctx : Nat) : State :=
  let eval (t : Task) : Task := { t with run := { t.run with waitsMet := t.hdr.waits.all (s.waitMet part ctx) } }
  { s with tasks := updIf (fun t => t.part == part && t.ctx == ctx && t.run.phase == .waiting) eval s.tasks }

/-- The increment of a completion counter with release at sys scope (R103): what the partition's LLC lines hold is in memory
before it, and the counter after it (R130, R140); then waits are evaluated again (R98).  No effect where the counter cannot be
read and written (log 21). -/
def State.signal (s : State) (part ctx a : Nat) : State :=
  if a == 0 then s
  else
    let s := s.llcClean part
    let s' := match s.ctxRead part ctx a 8 with
      | some b => ((s.ctxWrite part ctx a (bytesOf 8 (leOf b + 1))).getD s).llcClean part
      | none => s
    s'.reWait part ctx

/-- Writes a task's completion record, or the QUEUE_ERROR that stands for it, then increments its counter, and raises its
queue's vector where a record was written (R103, R440, R451). -/
def State.announce (s : State) (t : Task) (nblk : Nat) : State :=
  match s.part? t.part with
  | none => s
  | some p =>
    let a := t.hdr.cplAddr
    let put := if a == 0 then none else s.ctxWrite t.part t.ctx a (t.record p nblk)
    let s := match put with
      | some s' => s'
      | none => if a == 0 then s else
          s.record { type := 9, part := some t.part, ctx := some t.ctx, taskid := t.hdr.taskid, detail := dw a }
    let s := s.signal t.part t.ctx t.hdr.sigctr
    match put, s.queue? t.part t.ctx t.queue with
    | some _, some q => s.signalQueue (t.part + 1) q.vec
    | _, _ => s

/-- A task completes (R103, R455): its record and counter, its slots released, its entry freed.  Tasks that completed
with OK leave the list; the others stay for R99. -/
def State.completeTask (s : State) (u : Nat) : State :=
  match s.task? u with
  | none => s
  | some t =>
    let t := { t with run := { t.run with phase := .done, holds := [], kiln := none } }
    let nblk := if t.run.status == 0x10 || t.run.status == 0x12 then 0 else t.hdr.nblk
    let s := (s.putTask t).announce t nblk
    if t.run.status == 0 then { s with tasks := s.tasks.filter (·.uid != u) } else s

end Sys2Proof.Machine
end

