-- ==== Sys2Proof/Machine/Events.lean ====
section
/-! DEFINITION. What happens to a group beside its instructions: fetches, requests performed, sleep, deferred faults and
the watchdog (spec 10 R230, 15 R327 to R344, 17 R378, R382, R390, 10 R235).

A step that names nothing that can happen now leaves the state as it is. -/

namespace Sys2Proof.Machine

open Host (Outcome)

/-- Whether the group's context runs: its block is not suspended, and no switch has halted it (R467, R473). -/
def State.running (s : State) (g : Group) : Bool :=
  !g.halted && (match s.block? g.block with | some b => !b.suspended | none => false)

/-- R230: the `i`-th of the group's splits to fetch. -/
def execBundleFetch (g i : Nat) (s : State) : Outcome State Fault Refusal :=
  match s.group? g with
  | none => .next s
  | some x =>
    match (s.awaiting x)[i]? with
    | none => .next s
    | some y =>
      if !s.running x || x.xlatWait then .next s
      else .next ((s.fetchSplit x y).1.settleGroup g 1)

/-! ### Replay and decline (R137) -/

/-- The kind of access of a memory opcode (R92). -/
def accOf (op : Nat) : Acc :=
  if op == 0x9A || op == 0x9B || op == 0x9F then .write
  else if op == 0xA0 || op == 0xA1 || op == 0xA2 then .atomic
  else if op == 0xA3 then .redo else .read

/-- What a packet's access meets when it is issued again: its accesses under the translation of now, or a fault.  The token was
tested at its issue (R202), and one whose path has failed waits at its link (R390). -/
def State.recheck (s : State) (g : Group) (q : Req) : Except (BitVec 8 × Nat × LaneMask) (List LaneReq) :=
  match s.block? g.block, s.taskOf g with
  | some b, some t =>
    if q.kind == .spawn then
      match s.spawnCheck b t true ((q.lanes.head?.map (·.addr)).getD 0) with
      | .ok l => .ok l
      | .error (c, a) => .error (c, a, q.mask)
    else
      let l := s.checkLanes g b t q.op q.m (accOf q.op) true q.lanes
      match firstFault q.m q.mask l with
      | some f => .error f
      | none => .ok (passed l)
  | _, _ => .ok []

/-- The group without a packet. -/
def Group.unpack (g : Group) (q : Req) : Group := { g with reqs := g.reqs.filter (·.seq != q.seq) }

/-- The fault of a packet: a fault at fetch for a fetch (R93), else precise at its instruction, which RETRY executes again (log 55:
also where a switch made the packet after its instruction's sequencing). -/
def Group.packetFault (g : Group) (q : Req) (cause : BitVec 8) (faddr : Nat) (flane : LaneMask) : FaultInfo :=
  if q.kind == .fetch then fetchFault (g.reqSplit q) cause faddr
  else { cause := cause, fpc := q.pc, faddr := dw faddr, flane := flane, defer := false, fetch := false,
         mask := q.split, next := q.next, req := none }

/-- A packet discarded, its flag cleared, and its group sent to its handler (R137, step 5). -/
def State.decline (s : State) (g : Group) (q : Req) (cause : BitVec 8) (faddr : Nat) (flane : LaneMask) : State :=
  let g' := (g.unpack q).unwait (· == .wcnt q.seq) |>.drop q s.now
  s.takeFault g' (g'.packetFault q cause faddr flane)

/-- A request of a group issued again (R137, R345): its access is checked anew, under the translation of now, and a missing
entry makes it a packet (R443).  One that would fault for what a handler interrupted stays a packet until the handler is left. -/
def State.reissue (s : State) (g : Group) (q : Req) : State :=
  let fly (l : List LaneReq) : State :=
    s.putGroup { g with reqs := updIf (·.seq == q.seq) (fun q => { q with st := .flying, lanes := l, sent := false }) g.reqs }
  if !q.accesses || q.lanes.isEmpty then fly q.lanes
  else match s.recheck g q with
    | .error (c, a, fl) =>
      if g.inHandler && q.inv != g.handler.map (·.inv) then s
      else if c == cXlat then s.packet g q a fl else s.decline g q c a fl
    | .ok l => fly l

/-- The requests that a core's buffer holds (R470): those on their way or with the driver; what a switch has saved, what a copy is
to move, a fetch and an EXIT's mark are none. -/
def State.buffered (s : State) (c : Nat) : Nat :=
  let held (q : Req) : Bool := q.st != .packet && !([ReqKind.cpy, .exit, .fetch].contains q.kind)
  s.groups.foldl (fun n g => if g.core == c && !g.halted then n + (g.reqs.filter held).length else n) 0

/-- The requests that a switch made packets, reissued in issue order (R345, R467) while their core's buffer has room (R470); a
translation packet that awaits the driver is none of them, and holds none of them back (R137). -/
def State.reissueAll (s : State) (gu : Nat) : List Req → State
  | [] => s
  | q :: l =>
    match s.group? gu with
    | none => s
    | some g =>
      if q.st != .packet then s.reissueAll gu l
      else if 128 ≤ s.buffered g.core then s
      else (s.reissue g q).reissueAll gu l

/-- The requests of a group in issue order. -/
def Group.inOrder (g : Group) : List Req :=
  g.reqs.foldr (fun q l => l.takeWhile (fun r => r.seq < q.seq) ++ q :: l.dropWhile fun r => r.seq < q.seq) []

/-- The same for all packets of a group. -/
def State.goOnPackets (s : State) (gu : Nat) : State :=
  match s.group? gu with
  | some g => s.reissueAll gu g.inOrder
  | none => s

/-- Whether a group has packets to reissue before what executes may issue (R467). -/
def Group.packets (g : Group) : Bool := g.reqs.any fun q => q.st == .packet && q.inv == g.handler.map (·.inv)

/-- A packet reissued in its place (R137, step 4): its access is checked again, then its sequencing follows. -/
def State.replay (s : State) (g : Group) (q : Req) : State :=
  if q.kind == .fetch then (s.putGroup (g.unpack q)).settleGroup g.uid 1
  else
    match s.recheck g q with
    | .error (c, a, fl) => if c == cXlat then s.packet g q a fl else s.decline g q c a fl
    | .ok l =>
      let wcnt := q.kind == .wcnt
      let g' := { g with
        wait := if wcnt then .wcnt q.seq else g.wait
        reqs := updIf (·.seq == q.seq) (fun q => { q with st := .flying, lanes := l, sent := false, went := !wcnt }) g.reqs }
      let s := s.putGroup g'
      (if wcnt then s else s.goOn g.uid q).goOnPackets g.uid

/-- The driver's answers that were recorded for a group take effect (R470), those for the handler or the splits that
execute. -/
def State.answers (s : State) (gu : Nat) : List Req → State
  | [] => s
  | q :: l =>
    let s' : State := match s.group? gu with
      | none => s
      | some g =>
        if q.inv != g.handler.map (·.inv) then s
        else match q.st with
          | .replayed _ _ => s.replay g q
          | .declined a fl => s.decline g q cXlat a fl
          | _ => s
    s'.answers gu l

/-- What waited while a group was halted or in a handler goes on: answers recorded and packets to reissue (R390, R470;
log 56). -/
def State.pickUp (s : State) (gu : Nat) : State :=
  match s.group? gu with
  | some g => (s.goOnPackets gu).answers gu g.inOrder
  | none => s

/-! ### Requests (R327, R235) -/

/-- The task that a `spawn` to no device queue completes (R368): its identifier and status. -/
def spawnRefused (s : State) (b : Block) (q n : Nat) : Task :=
  { uid := s.uid, part := b.part, ctx := b.ctx, queue := 128 + q, dev := true, qprio := 0, seq := 0,
    hdr := TaskHdr.of n, kd := KDesc.of 0, regions := [], run := { TaskRun.new with status := 0x18 } }

/-- The image of a `spawn` handed over (R368, R447): into the next slot of its device queue, or completed with
QUEUE_INVALID. -/
def State.submitImage (s : State) (b : Block) (q : Nat) (img : List Byte) : State :=
  match s.spawnQueue b q with
  | none => s.announce (spawnRefused s b q (leOf img)) 0
  | some d =>
    let at_ := d.ring + 768 * (d.tail % d.slots)
    let put (s : State) (k : Nat) : State :=
      (s.ctxWrite b.part b.ctx (at_ + 128 * k) ((img.drop (128 * k)).take 128)).getD s
    ((List.range 6).foldl put s).putQueue { d with tail := d.tail + 1 }

/-- Whether a `spawn` is the first of its queue in the order of issue (R369). -/
def State.spawnFirst (s : State) (b : Block) (q : Req) : Bool :=
  (s.spawnsOut b q.m.b.toNat).all fun n => q.gen ≤ n

/-- The image read of a `spawn` performed: poison is kept as for a load (R344).  It reads the homes alone (DESIGN CHOICE, log 34:
R368 does not say whether it finds bytes that only the issuing core's L1 holds). -/
def State.performSpawn (s : State) (g : Group) (b : Block) (q : Req) : State :=
  let bad := q.lanes.filter fun x => s.homeBad x.pa 128
  if bad.isEmpty then
    let img := q.lanes.flatMap fun x => s.homeRead b.part x.pa 128
    (s.putGroup (g.drop q s.now)).submitImage b (q.m.b.toNat % 16) img
  else s.putGroup (g.keepPoison q bad s.now)

/-- Whether the script lets a request of a group be performed in this cycle (log 54). -/
def State.notLate (s : State) (g : Group) (q : Req) : Bool :=
  s.late.all fun (u, n, c) => !(u == g.uid && n == q.seq) || c ≤ s.now

/-- Whether request `q` of a group can return data now (R327, R369). -/
def State.canLoad (s : State) (g : Group) (b : Block) (q : Req) : Bool :=
  [ReqKind.ld, .ldw, .atom, .spawn].contains q.kind && s.running g && g.mayPerform q && s.reqReaches g b q && s.notLate g q &&
    !(q.stores && s.behindPass g q.born) && (q.kind != .spawn || s.spawnFirst b q)

/-- R327: all checked lanes of the destination are written at once. -/
def execLoadDataReturn (g q : Nat) (s : State) : Outcome State Fault Refusal :=
  match s.group? g with
  | none => .next s
  | some x =>
    match x.reqs.find? (·.seq == q), s.block? x.block, s.taskOf x with
    | some r, some b, some t =>
      if !s.canLoad x b r then .next s
      else if r.kind == .spawn then .next ((s.performSpawn x b r).retest g)
      else .next ((s.performLoad x b t r).retest g)
    | _, _, _ => .next s

/-- Whether the accesses that a `cmtp` waits for are performed (R203). -/
def State.sharedDone (s : State) (q : Req) : Bool :=
  q.lanes.all fun x => match s.group? x.lane with
    | some g => !g.reqs.any (·.seq == x.addr)
    | none => true

/-- Whether a `cmtp` can pass now (R203): its accesses are performed, and no pass is on its way (R205). -/
def State.canPass (s : State) (b : Block) (t : Task) (q : Req) : Bool :=
  s.sharedDone q && (t.run.csent.isNone || b.blkid < t.run.commit)

/-- Whether request `q` completes without returning data now (R235); a `cmtp` first sends its pass to the mirror
(R205). -/
def State.canStore (s : State) (g : Group) (b : Block) (t : Task) (q : Req) : Bool :=
  [ReqKind.st, .stw, .red, .redo, .fence, .order, .cmtk, .cmtp, .bara, .barx, .exit].contains q.kind && s.running g &&
    g.mayPerform q && s.reqReaches g b q && s.notLate g q && !(q.stores && s.behindPass g q.born) &&
    (q.kind != .cmtp || s.canPass b t q)

/-- A `cmtp` whose accesses are performed: the pass, which where the launch has a mirror that must acknowledge first (R203,
R205). -/
def State.performPass (s : State) (g : Group) (b : Block) (t : Task) (q : Req) : State :=
  if b.blkid < t.run.commit then s.performStore g b t q
  else
    let s := s.putTask { t with run := t.run.pass (b.blkid + 1) }
    if t.run.mirror.isSome then s else (s.putGroup (g.drop q s.now)).commitTell t.uid t.run.commit

/-- R235, R203, R205. -/
def execAccessPerformed (g q : Nat) (s : State) : Outcome State Fault Refusal :=
  match s.group? g with
  | none => .next s
  | some x =>
    match x.reqs.find? (·.seq == q), s.block? x.block, s.taskOf x with
    | some r, some b, some t =>
      if !s.canStore x b t r then .next s
      else if r.kind == .cmtp then .next ((s.performPass x b t r).retest g)
      else .next ((s.performStore x b t r).retest g)
    | _, _, _ => .next s

/-- The request of a waiting `wcnt` of what executes, the handler or the splits: one that a handler has interrupted resumes
with `rte` (R343, R390). -/
def Group.wcntReq (g : Group) : Option Req := g.reqs.find? fun q => q.kind == .wcnt && q.inv == g.handler.map (·.inv)

/-- What the home reads for a `wcnt`, none where it is poisoned (R343, R506). -/
def State.wcntRead (s : State) (b : Block) (q : Req) : Option Nat :=
  match q.lanes with
  | x :: _ => if s.homeBad x.pa 8 then none else some (leOf (s.homeRead b.part x.pa 8))
  | [] => none

/-- What a read of a waiting `wcnt` finds now: every read translates anew, so that it can meet a missing entry or a page
that forbids it (R137, R138). -/
inductive WcntSees where
  | waits
  | unmet (pa : Nat)
  | met (v pa : Nat)
  | poison (q : Req)
  | faults (cause : BitVec 8) (faddr : Nat) (flane : LaneMask)

/-- See `WcntSees`; a read whose path has failed waits at its link (R390). -/
def State.wcntSees (s : State) (g : Group) (b : Block) (q : Req) : WcntSees :=
  if !s.running g || !g.mayPerform q || !s.notLate g q then .waits
  else match s.recheck g q with
    | .error (c, a, fl) => .faults c a fl
    | .ok l =>
      let q := { q with lanes := l }
      if !s.reqReaches g b q then .waits
      else match s.wcntRead b q, l with
        | none, _ => .poison q
        | some v, x :: _ => if x.x.toNat ≤ v then .met v x.pa else .unmet x.pa
        | _, [] => .waits

/-- Whether a waiting `wcnt` finds its target met, or a fault, now, or reads its home for the first time. -/
def State.wcntReady (s : State) (g : Group) (b : Block) (q : Req) : Bool :=
  match s.wcntSees g b q with
  | .waits => false
  | .unmet _ => !((g.wcntReq.map (·.read)).getD true)
  | _ => true

/-- R343: when the target is met the destination is written and the split goes on; in a DET task the value is s[B].  Of the reads
that find it unmet the first allocates its line (R133; log 19). -/
def execWcntRecheck (g : Nat) (s : State) : Outcome State Fault Refusal :=
  match s.group? g with
  | none => .next s
  | some x =>
    match x.wcntReq, s.block? x.block, s.taskOf x with
    | some r, some b, some t =>
      match s.wcntSees x b r with
      | .waits => .next s
      | .unmet pa =>
        if r.read then .next s
        else .next ((s.llcTouch b.part pa (r.m.hnt.toNat == 2)).putGroup
          { x with reqs := updIf (·.seq == r.seq) (fun q => { q with read := true }) x.reqs })
      | .poison q => .next (s.putGroup ({ x with reqs := updIf (·.seq == r.seq) (fun _ => q) x.reqs }.keepPoison q q.lanes s.now))
      | .faults c a fl => .next (if c == cXlat then s.packet x r a fl else s.decline x r c a fl)
      | .met v pa =>
        let s := s.llcTouch b.part pa (r.m.hnt.toNat == 2)
        let target := (r.lanes.head?.map (·.x)).getD 0
        let y := (x.push s.now r.seq (r.ws r.m.d.toNat (if t.hdr.det then target else dw v))).drop r s.now
        .next (((s.putGroup (y.unwait (· == .wcnt r.seq))).goOn g r).retest g)
    | _, _, _ => .next s

/-- R378. -/
def execSleepExpiry (g : Nat) (s : State) : Outcome State Fault Refusal :=
  match s.group? g with
  | none => .next s
  | some x => .next (if x.sleep != 0 && x.sleep ≤ s.now then s.putGroup { x with sleep := 0 } else s)

/-! ### Deferred faults and the watchdog (R344, R382, R390) -/

/-- Whether a deferred fault is that of an engine operation, which reaches its group at the group's next issue (R350). -/
def FaultInfo.atIssue (f : FaultInfo) : Bool := f.defer && f.req.isNone

/-- Whether a deferred fault reaches its group now: not while the handler of another fault runs for it, and not while it is
halted (R137, R385); that of an engine operation only at an issue, so not in a wait (R350).  In a handler only what that
handler issued faults, doubly (R384). -/
def State.deliverable (s : State) (g : Group) (f : FaultInfo) : Bool :=
  s.running g && g.live != 0 && !g.xlatWait && (match g.wait with | .debug _ _ => false | _ => true) &&
    (!f.atIssue || (g.wait == .none && g.sleep ≤ s.now)) &&
    (match g.handler with
     | none => true
     | some k => match f.req with
       | some n => ((g.reqs.find? (·.seq == n)).bind (·.inv)) == some k.inv
       | none => f.inv == some k.inv)

/-- A deferred fault as its delivery leaves it (R390): FPC and the split are those at which it is delivered, but for a
request, whose FPC is its instruction (R344), and for a precise fault that waited for another's handler (R171). -/
def Group.faultAt (g : Group) (f : FaultInfo) : FaultInfo :=
  match f.req, g.exec? with
  | none, some x => if f.defer then { f with fpc := x.pc, mask := x.mask, flane := x.mask, next := x.pc } else f
  | _, _ => f

/-- The deferred fault that reaches a group next: what waits for no issue comes first. -/
def State.nextFault (s : State) (g : Group) : Option FaultInfo :=
  (g.deferred.find? fun f => s.deliverable g f && !f.atIssue).or (g.deferred.find? (s.deliverable g))

/-- R382: the first deferred fault that reaches the group starts its handler. -/
def execHandlerEntry (g : Nat) (s : State) : Outcome State Fault Refusal :=
  match s.group? g with
  | none => .next s
  | some x =>
    match s.nextFault x with
    | none => .next s
    | some f => .next (s.takeFault { x with deferred := x.deferred.erase f } (x.faultAt f))

/-- Whether the watchdog of a group's context has run out (R390, R475). -/
def State.watchdogDue (s : State) (g : Group) : Bool :=
  match s.block? g.block with
  | none => false
  | some b =>
    match s.ctx? b.part b.ctx with
    | none => false
    | some c => c.watchdog != 0 && s.running g && g.live != 0 && g.lastCtx + 24000 * c.watchdog ≤ c.clk

/-- R390: WATCHDOG, delivered at the split that waits; a later one counts from here. -/
def execWatchdog (g : Nat) (s : State) : Outcome State Fault Refusal :=
  match s.group? g with
  | none => .next s
  | some x =>
    if !s.watchdogDue x then .next s
    else
      let f : FaultInfo := { cause := cWatchdog, fpc := 0, faddr := 0, flane := 0, defer := true, fetch := false,
                             mask := 0, next := 0, req := none }
      .next (s.takeFault { x with lastCtx := s.ctxClk x } (x.faultAt f))

end Sys2Proof.Machine
end

