-- ==== Sys2Proof/Machine/Control.lean ====
section
/-! DEFINITION. Control and system instructions: opcodes 0xD0 to 0xDE (spec 17 R374 to R388, 02 R41, 03 R77 to R83). -/

namespace Sys2Proof.Machine

open Host (Outcome)

/-! ### Transfers and order (R376 to R378) -/

/-- R376: BR with a long displacement and its condition in A. -/
def execBrl (h : Head) (a : XArgs) (s : State) : Outcome State Fault Refusal :=
  runSlot 0xD0 h (.x a) s fun g x =>
    let cond := (g.viewAt s.now).guard (a.a.extractLsb' 0 4)
    let target := BitVec.ofNat 57 (bundleAddr x.pc) + a.imm.signExtend 57 * 32
    .done (s.finish g.uid 0xD0 { h with nx := .br } (.x a) x cond (target.setWidth 64) (some (s.now + 1)))

/-- R377: the executing split's lc, which the instruction's own NX code sees. -/
def execLcset (h : Head) (a : XArgs) (s : State) : Outcome State Fault Refusal :=
  runSlot 0xD1 h (.x a) s fun g x =>
    let n : Word := if a.imm.getLsbD 23 then ((g.viewAt s.now).rs a.a.toNat).setWidth 32
      else (a.imm.extractLsb' 0 23).setWidth 32
    .ok (s.putGroup (g.putExec x.mask { x with lc := n })) (some (s.now + 1))

/-- The group after a `yield` of its split `x` (R41): with one active split nothing changes. -/
def Group.rotate (g : Group) (x : Split) : Group :=
  let l := sortSplits g.active
  if g.inHandler || l.length < 2 then g
  else
    let y := match l.dropWhile (fun z => z.mask != x.mask) with
      | _ :: z :: _ => z
      | _ => l.headD x
    { g with active := g.active.map fun z => { z with hold := z.mask == y.mask } }

/-- R378, R41. -/
def execYield (h : Head) (a : XArgs) (s : State) : Outcome State Fault Refusal :=
  runSlot 0xD2 h (.x a) s fun g x => .ok (s.putGroup (g.rotate x)) (some (s.now + 1))

/-- R378: `sleep 0` acts as `sleep 1`. -/
def execSleep (h : Head) (a : XArgs) (s : State) : Outcome State Fault Refusal :=
  runSlot 0xD3 h (.x a) s fun g _ =>
    .ok (s.putGroup { g with sleep := s.now + max 1 a.imm.toNat }) (some (s.now + 1))

/-! ### Traps and the handler's return (R385, R386) -/

/-- R385. -/
def execTrap (h : Head) (a : XArgs) (s : State) : Outcome State Fault Refusal :=
  runSlot 0xD4 h (.x a) s fun _ x => .fault cTrap (a.imm.setWidth 64) x.mask

/-- R386; requests and answers that waited for the handler's end go on (`State.pickUp`). -/
def execRte (h : Head) (a : XArgs) (s : State) : Outcome State Fault Refusal :=
  runSlot 0xD5 h (.x a) s fun g _ =>
    let s' := s.issued g.uid 0xD5 h (.x a) none
    match s'.group? g.uid with
    | some g' => match g'.handler with
      | some k => .done (((s'.rte g' k a.imm.toNat).settleGroup g.uid 1).pickUp g.uid)
      | none => .done s'
    | none => .done s'

/-- Whether a debugger is attached to the context of a group (R385). -/
def State.debugged (s : State) (g : Group) : Bool :=
  match s.block? g.block with
  | some b => ((s.ctx? b.part b.ctx).map (·.debug)).getD false
  | none => false

/-- R385: under a debugger the group freezes and a DEBUG record is written. -/
def execBkpt (h : Head) (a : XArgs) (s : State) : Outcome State Fault Refusal :=
  runSlot 0xD6 h (.x a) s fun g x =>
    if s.debugged g then
      .done ((s.putGroup { g with wait := .debug x.mask s.nextPc }).record
        { s.groupRec g with type := 3, cause := cBreak, rank := g.rankOf x.mask, fpc := x.pc,
                            faddr := a.imm.setWidth 64, flane := x.mask })
    else .fault cBreak (a.imm.setWidth 64) x.mask

/-! ### Special registers (R77 to R83, R379, R383) -/

/-- Lanes 32n to 32n + 31 of a mask. -/
def maskWord (m : LaneMask) (n : Nat) : Dword := (m.extractLsb' (32 * n) 32).setWidth 64

/-- The fault registers CAUSE, FPC, FADDR, FLANE0 to FLANE2 and FSPLIT (R383). -/
def Handler.reg (k : Handler) (n : Nat) : Dword :=
  match n with
  | 0x20 => k.fault.cause.setWidth 64
  | 0x21 => k.fault.fpc.setWidth 64
  | 0x22 => k.fault.faddr
  | 0x23 | 0x24 | 0x25 => maskWord k.fault.flane (n - 0x23)
  | _ => dw (2 ^ 16 * k.fault.defer.toNat + 2 ^ 8 * k.total + k.rank)

/-- The value of a special register of a group with its results landed (R77). -/
def srValue (b : Block) (t : Task) (p : Part) (v : Group) (x : Split) (n : Nat) : Dword :=
  match n with
  | 0 | 1 | 2 => maskWord v.live n
  | 3 | 4 | 5 => maskWord x.mask (n - 3)
  | 6 => dw (256 * v.active.length + v.active.length + v.parked.length)
  | 7 => x.lc.setWidth 64
  | 8 => dw v.gindex
  | 9 => dw v.gslot
  | 0x0A => dw b.blkid
  | 0x0B => dw (b.blkid % t.hdr.nx)
  | 0x0C => dw (b.blkid / t.hdr.nx % t.hdr.ny)
  | 0x0D => dw (b.blkid / (t.hdr.nx * t.hdr.ny))
  | 0x0E => dw (coreX v.core)
  | 0x0F => dw (coreY v.core)
  | 0x10 => dw (coreDie v.core)
  | 0x11 => dw b.part
  | 0x12 => dw (256 * p.genG + b.ctx)
  | 0x13 => v.edge.setWidth 64
  | 0x14 => v.frm.setWidth 64
  | 0x15 => v.status.setWidth 64
  | 0x16 => t.hdr.detseed
  | 0x17 => t.hdr.taskid
  | 0x18 => dw t.hdr.nblk
  | 0x19 => dw t.kd.ngrp
  | n => (v.handler.map (·.reg n)).getD 0

/-- R379, R77. -/
def execGetsr (h : Head) (a : XArgs) (s : State) : Outcome State Fault Refusal :=
  runSlot 0xD7 h (.x a) s fun g x =>
    match s.block? g.block with
    | none => .wait
    | some b =>
      match s.task? b.task, s.part? b.part with
      | some t, some p => uniOwn s 1 a.d.toNat (srValue b t p (g.viewAt s.now) x (a.imm.toNat % 256)) 0 g
      | _, _ => .wait

/-- The implemented bits of STATUS (R82). -/
def statusBits : BitVec 9 := 0x11F

/-- R379, R80 to R83; a value that EDGE or FRM does not take is RESERVED_FIELD (`valueBad`). -/
def execSetsr (h : Head) (a : XArgs) (s : State) : Outcome State Fault Refusal :=
  runSlot 0xD8 h (.x a) s fun g _ =>
    let y := (g.viewAt s.now).rs a.a.toNat
    let at_ := s.now + 1
    let put (w : Write) : Own := .ok (s.putGroup (g.push at_ g.seq w)) (some at_)
    match a.imm.toNat % 256 with
    | 0x13 => put (.edge (y.setWidth 2))
    | 0x14 => put (.frm (y.setWidth 3))
    | _ => put (.stClr (y.setWidth 9 &&& statusBits))

/-! ### Time and counts (R380, R381, R474, R475) -/

/-- R380: the context's time in nanoseconds. -/
def execClk (h : Head) (a : XArgs) (s : State) : Outcome State Fault Refusal :=
  runSlot 0xD9 h (.x a) s fun g _ => uniOwn s 2 a.d.toNat (dw (s.ctxClk g / 24)) 0 g

/-- A count that a partition keeps. -/
def Part.counted (p : Part) (event place : Nat) : Nat :=
  ((p.pmc.find? fun k => k.event == event && k.place == place).map (·.count)).getD 0

/-- R381: an event that is not allowed reads 0 and sets PMCDENY; CORE_CYCLES is kept per die, whose cores agree, and so is
LLC_MISS. -/
def execPmc (h : Head) (a : XArgs) (s : State) : Outcome State Fault Refusal :=
  runSlot 0xDA h (.x a) s fun g _ =>
    match (s.block? g.block).bind fun b => s.part? b.part with
    | none => .wait
    | some p =>
      let e := a.imm.toNat
      if e == 0 || 6 < e || !p.pmcAllow.getLsbD e then uniOwn s 4 a.d.toNat 0 0x100 g
      else if e == 1 then uniOwn s 4 a.d.toNat (dw g.issued) 0 g
      else uniOwn s 4 a.d.toNat (dw (p.counted e (if e == 2 || e == 4 then coreDie g.core else g.core))) 0 g

/-! ### The window and the handler rows (R387, R388) -/

/-- The row that `winld` reads at a window index; none for an index that is not listed (R387). -/
def Group.window (v : Group) (i : Nat) : Option Row :=
  if i < 0x100 then some (v.v.getD i (rowOf 0))
  else if 0x100 ≤ i && i < 0x140 then
    let x := v.s.getD (i - 0x100) 0
    some (mkRow fun L => if L == 0 then x.setWidth 32 else if L == 1 then x.extractLsb' 32 32 else 0)
  else if 0x140 ≤ i && i < 0x160 then
    let x := v.ra (i - 0x140)
    some (mkRow fun L => if L == 0 then x.base.setWidth 32 else if L == 1 then x.base.extractLsb' 32 32
      else if L == 2 then x.stride else if L == 3 then wd x.w.toNat else 0)
  else if 0x160 ≤ i && i < 0x167 then
    some (mkRow fun L => wd ((v.rp (i - 0x160)).getLsbD L).toNat)
  else if 0x200 ≤ i && i < 0x208 then
    some (mkRow fun L => wd (leOf ((List.range 4).map fun k => v.parkByte (384 * (i - 0x200) + 4 * L + k))))
  else none

/-- The write of a row to a window index; none for an index that `winst` cannot write (R387). -/
def windowWrite (i : Nat) (r : Row) : Option Write :=
  let l (n : Nat) : Word := r.getD n 0
  if i < 0x100 then some (.v i allLanes r)
  else if 0x100 ≤ i && i < 0x140 then some (.s (i - 0x100) (l 1 ++ l 0))
  else if 0x140 ≤ i && i < 0x160 then
    some (.a (i - 0x140) { base := l 1 ++ l 0, stride := l 2, w := (l 3).getLsbD 0 })
  else if 0x160 ≤ i && i < 0x167 then some (.p (i - 0x160) allLanes (maskOf fun L => (l L).getLsbD 0))
  else none

/-- R387: a register past the declared count is REGISTER_RANGE (`Group.winRange`).  All 96 lanes, readable four cycles after issue (R375). -/
def execWinld (h : Head) (a : XArgs) (s : State) : Outcome State Fault Refusal :=
  runSlot 0xDB h (.x a) s fun g x =>
    let v := g.viewAt s.now
    let i := winIndex v a
    match v.window i with
    | none => .fault cReserved 0 x.mask
    | some r =>
      if (i < 0x100 || (0x200 ≤ i && i < 0x208)) && g.poison.contains i then .ecc i x.mask
      else .ok (s.putGroup (g.push (s.now + 4) g.seq (g.wv a.d.toNat allLanes r))) (some (s.now + 4))

/-- R387 (REGISTER_RANGE: `Group.winRange`): the object is written two cycles after issue (R375); a register's poison clears (R506). -/
def execWinst (h : Head) (a : XArgs) (s : State) : Outcome State Fault Refusal :=
  runSlot 0xDC h (.x a) s fun g x =>
    let v := g.viewAt s.now
    let i := winIndex v a
    match windowWrite i (v.rv a.d.toNat) with
    | none => .fault cReserved 0 x.mask
    | some w =>
      let g := { g with poison := if i < 0x100 then g.poison.filter (· != i) else g.poison }
      .ok (s.putGroup (g.push (s.now + 2) g.seq w)) (some (s.now + 2))

/-- R388: every register is moved `count + 2` cycles after issue (R375). -/
def execHsave (h : Head) (a : XArgs) (s : State) : Outcome State Fault Refusal :=
  runSlot 0xDD h (.x a) s fun g _ =>
    let v := g.viewAt s.now
    let n := a.imm.toNat
    let at_ := s.now + n + 2
    .ok (s.putGroup ((List.range n).foldl (fun g i => g.push at_ g.seq (.h i allLanes (v.v.getD (a.a.toNat + i) []))) g))
      (some at_)

/-- R388. -/
def execHrest (h : Head) (a : XArgs) (s : State) : Outcome State Fault Refusal :=
  runSlot 0xDE h (.x a) s fun g _ =>
    let v := g.viewAt s.now
    let n := a.imm.toNat
    let at_ := s.now + n + 2
    .ok (s.putGroup ((List.range n).foldl (fun g i => g.push at_ g.seq (.v (a.a.toNat + i) allLanes (v.h.getD i []))) g))
      (some at_)

/-! ### Reserved opcodes (R246, R254) -/

/-- R254: ILLEGAL_OPCODE, precise at the slot's PC (R248). -/
def execIllegalOpcode (_op : BitVec 8) (s : State) : Outcome State Fault Refusal :=
  match s.curGroup with
  | none => .fault .noGroup
  | some g =>
    match g.exec? with
    | none => .fault .noGroup
    | some x => .next (s.takeFault g (preciseFault s x cIllegal 0 x.mask))

end Sys2Proof.Machine
end

