-- ==== Sys2Proof/Machine/Quant.lean ====
section
/-! DEFINITION. The quantiser: `qrow` and `qscale` (spec 07 R193 to R196, 13 R306 to R308). -/

namespace Sys2Proof.Machine

open Host (Outcome)

/-- x / y for a positive finite y, exactly. -/
def Num.over : Num → Num → Num
  | .fin s n d e, .fin _ m c f => .fin s (n * c) (d * m) (e - f)
  | x, _ => x

/-- The larger magnitude of a list of finite values. -/
def maxAbs (l : List Num) : Num := l.foldl (fun m x => if m.lt x.abs then x.abs else m) (.zero false)

/-- A candidate scale of a block: its code, and each lane's code with flags; `err` is none for ∞ (R194). -/
structure Cand where
  scale : Nat
  codes : List (Nat × Flags)
  err   : Option Num
  deriving DecidableEq, Repr

/-- The squared error of a lane (R194). -/
def sqErr (dec scale x : Num) : Option Num :=
  if dec.isFin then
    let d := (dec.mul scale).add false x.neg
    some (d.mul d)
  else none

/-- The candidate of a scale code and its value: `rcs` are the lanes' roundings. -/
def candidate (F : Fmt) (code : Nat) (scale : Num) (xs : List Num) (rcs : List Rc) : Cand :=
  let cs := (xs.zip rcs).map fun (x, c) => F.encode (x.over scale) c
  { scale := code, codes := cs,
    err := (xs.zip cs).foldl (fun a (x, k) => match a, sqErr (F.decode k.1) scale x with
      | some a, some b => some (a.add false b)
      | _, _ => none) (some (.zero false)) }

/-- Whether candidate `b`, of a scale no smaller, replaces `a`: its error is no larger (R194). -/
def Cand.yields (a b : Cand) : Bool :=
  match a.err, b.err with
  | some x, some y => !x.lt y
  | none, _ => true
  | some _, none => false

/-- The best of candidates in ascending order of their scales (R194). -/
def bestCand : List Cand → Option Cand
  | [] => none
  | x :: t => some (t.foldl (fun a b => if a.yields b then b else a) x)

/-- The clamp of R194. -/
def clampExp (e : Int) : Int := if e < -127 then -127 else if 127 < e then 127 else e

/-- A block of one scale code and the same code in each lane. -/
def flatBlock (scale : Nat) (c : Nat × Flags) (n : Nat) : Cand :=
  { scale := scale, codes := List.replicate n c, err := none }

/-- A block quantised under E8M0 scales (R194), or under E4M3 scales with the second level S2 (R196). -/
def quantBlock (F : Fmt) (s2 : Option Num) (xs : List Num) (rcs : List Rc) : Cand :=
  let nan := flatBlock (if s2.isSome then 0x80 else 0xFF) (F.encode .nan rne) xs.length
  let top := maxAbs xs
  if xs.any (fun x => !x.isFin) then nan
  else if top.isZero then flatBlock 0 (0, Flags.none) xs.length
  else
    match s2 with
    | none =>
      let e0 := top.log2 - (if F.max.isZero then Config.emaxOfNone else F.max.log2)
      let es := ([e0 - 1, e0, e0 + 1].map clampExp).eraseDups
      (bestCand (es.map fun e => candidate F (e + 127).toNat (.fin false 1 1 e) xs rcs)).getD nan
    | some S =>
      if !S.isFin || S.sign || S.isZero then nan
      else
        let s0 := if F.max.isZero then Config.sigmaOfNone
          else Nat.max 1 (e4m3.encode (top.over (F.max.mul S)) rne).1
        let cs := [s0 - 1, s0, s0 + 1].filter fun c => 1 ≤ c && c ≤ 0x7F
        (bestCand (cs.map fun c => candidate F c ((e4m3.decode c).mul S) xs rcs)).getD nan

/-- One beat of `qrow`: codes to D, the scale to C (R307). -/
def qrowBeat (st : State) (F : Fmt) (mode k d c src : Nat) (s2 : Option Num) (x : Split) (h : Head) (g : Group)
    (b : Nat) : Group :=
  let t := beatStart false st.now b
  let v := g.beatView st.now t
  let m := g.beatLanes x h t b
  let lanes := (List.range 32).map (32 * b + ·)
  let xs := lanes.map fun L => if m.getLsbD L then fv f32 (v.lane 32 src L) else .zero false
  let q := quantBlock F s2 xs (lanes.map fun L => st.rc g mode L k)
  let at_ := beatDone false st.now b 16
  let code (L : Nat) : Nat × Flags := q.codes.getD (L - 32 * b) (0, Flags.none)
  let g := g.pushRow at_ 32 d m fun L => dw (code L).1
  let g := g.pushRow at_ 32 c m fun _ => dw q.scale
  g.pushStatus at_ (flagsOf m fun L => { x := 0, fl := (code L).2.bits })

/-- R306, R307. -/
def execQrow (h : Head) (e : EArgs) (s : State) : Outcome State Fault Refusal :=
  runSlot 0x83 h (.e e) s fun g x =>
    let k := e.ext.toNat % 8
    let v := g.viewAt s.now
    match s.slotOf g k with
    | .unbound => .fault cUnbound (dw k) x.mask
    | .corrupt => .wait
    | .ok F =>
      match F.mode (e.ext.toNat / 8 % 8) v.frm.toNat with
      | none => .fault cReserved 0 x.mask
      | some mode =>
        if F.kind == 2 then .fault cReserved 0 x.mask
        else
          let s2 := if e.ext.getLsbD 6 then some (fv f32 (trunc 32 (v.rs e.s.toNat))) else none
          let s' := s.noteSlot g k
          let g := g.noteOp x s.nextPc k (beatDone false s.now 2 16) h.set.toNat
          .ok (s'.putGroup ((List.range 3).foldl
              (qrowBeat s F mode k e.d.toNat e.c.toNat e.b.toNat s2 x h) g))
            (some (g.vecClear x h false s.now 16))

/-- S2 of R195 for a row's largest magnitude. -/
def qscaleOf (F : Fmt) (m : Num) : Nat :=
  if m.isZero then 0
  else if !m.isFin || m.sign || F.max.isZero then f32.nanCode
  else
    let q := (f32.encode (m.over (F.max.mul (.ofInt 480))) rne).1
    if q == 0 then 1 else q

/-- R308. -/
def execQscale (h : Head) (r : RArgs) (s : State) : Outcome State Fault Refusal :=
  runSlot 0x84 h (.r r) s fun g x =>
    let k := r.c.toNat % 8
    match s.slotOf g k with
    | .unbound => .fault cUnbound (dw k) x.mask
    | .corrupt => .wait
    | .ok F =>
      let g' := g.noteOp x s.nextPc k (s.now + 8) h.set.toNat
      uniOwn (s.noteSlot g k) 8 r.d.toNat (dw (qscaleOf F (fv f32 ((g.viewAt s.now).src .none 32 r.a 0)))) 0 g'

end Sys2Proof.Machine
end

