-- ==== Sys2Proof/Machine/Engines.lean ====
section
/-! DEFINITION. Engine instructions at issue: opcodes 0xB0 to 0xB9 (spec 16 R346 to R361, 07 R175 to R188). -/

namespace Sys2Proof.Machine

open Host (Outcome)

/-! ### Descriptors -/

/-- The rows that byte ranges of a scratchpad touch, as a mask. -/
def rowMask (l : List (Nat × Nat)) : Nat :=
  l.foldl (fun m (a, n) => if n == 0 then m else m ||| ((2 ^ ((a + n - 1) / 384 - a / 384 + 1) - 1) * 2 ^ (a / 384))) 0

/-- The rows of a mask, of a scratchpad of `size` bytes. -/
def rowList (m size : Nat) : List Nat := (List.range ((size + 383) / 384)).filter m.testBit

/-- The end of the farthest of byte ranges. -/
def rangeEnd (l : List (Nat × Nat)) : Nat := l.foldl (fun m (a, n) => max m (a + n)) 0

/-! ### The copy engine (R351 to R353) -/

/-- The first global byte of copy row j, and its first scratchpad byte (R351). -/
def CDesc.gRow (d : CDesc) (j : Nat) : Int := (d.gaddr : Int) + (j : Int) * d.gstride

/-- See `CDesc.gRow`. -/
def CDesc.sRow (d : CDesc) (j : Nat) : Nat := d.saddr + j * d.sstride

/-- The scratchpad ranges of a copy. -/
def CDesc.sRanges (d : CDesc) : List (Nat × Nat) := (List.range d.nrow).map fun j => (d.sRow j, d.len)

/-- The lowest and the highest global byte of a copy (R352). -/
def CDesc.gSpan (d : CDesc) : Int × Int :=
  let z := d.gRow (d.nrow - 1)
  (if d.gstride < 0 then z else d.gaddr, (if d.gstride < 0 then (d.gaddr : Int) else z) + d.len - 1)

/-- Whether a page of a copy's global side that is mapped meets a test: every 4 KiB are met, since a mapping's pages are no
smaller and neither is what one stack homes (R128). -/
def State.copyMeets (s : State) (b : Block) (d : CDesc) (p : Page → Bool) : Bool :=
  (List.range d.nrow).any fun j =>
    let a := (d.gRow j).toNat
    (List.range ((a + d.len - 1) / 4096 - a / 4096 + 1)).any fun k =>
      (s.translate b.part b.ctx (if k == 0 then a else (a / 4096 + k) * 4096)).any p

/-- Whether a page of a copy's global side forbids the access (R138, R499). -/
def State.copyForbidden (s : State) (b : Block) (d : CDesc) : Bool :=
  s.copyMeets b d fun p => !(if d.dir then p.write else p.read) || isPeer p.pa

/-- Whether no path is left to the home of a page of a copy's global side (R390, R495). -/
def State.copyCut (s : State) (b : Block) (d : CDesc) : Bool :=
  s.copyMeets b d fun p => !isPeer p.pa && !s.reaches (coreDie b.core) (homeDie p.home p.pa)

/-- R351 to R353; a descriptor that R351 forbids is RESERVED_FIELD (`valueBad`).  A page that no entry maps is met when its
bytes move (R139).  A request of kind `cpy` stands for the copy's global accesses in the group's order until the copy completes
(R150). -/
def execCpy (h : Head) (e : EArgs) (s : State) : Outcome State Fault Refusal :=
  runSlot 0xB0 h (.e e) s fun g x =>
    match s.block? g.block, s.taskOf g with
    | some b, some t =>
      let k := s.core g.core
      if 16 ≤ s.cqLen g.core then .wait
      else
        match CDesc.of ((g.viewAt s.now).quad e.s.toNat) with
        | none => .fault cReserved 0 x.mask
        | some d =>
          let (lo, hi) := d.gSpan
          let faddr := ofI lo
          if b.scrSize < rangeEnd d.sRanges then .fault cScratch faddr x.mask
          else
            match (if lo < 0 || (2 : Int) ^ 57 ≤ hi then none else t.match_ lo.toNat hi.toNat none) with
            | none => .fault cUndeclared faddr x.mask
            | some (i, mode) =>
              if !(if d.dir then Acc.cpyWrite else Acc.cpyRead).allowed mode then .fault cMode faddr x.mask
              else if t.hdr.det && mode == .shared && !t.holds_ b then .fault cDet faddr x.mask
              else if s.copyForbidden b d then .fault cProt faddr x.mask
              else if s.copyCut b d then .fault cLink faddr x.mask
              else
                let rows := rowList (rowMask d.sRanges) b.scrSize
                let o : COp :=
                  { uid := s.uid, block := b.uid, group := g.uid, desc := d, hnt := e.ext.toNat % 4,
                    shared := mode == .shared, row := 0, byte := 0, ready := s.now + 4, rows := rows,
                    wrows := if d.dir then [] else rows, pc := x.pc, mask := x.mask, paused := none, queued := s.now,
                    inv := g.handler.map (·.inv) }
                let q : Req :=
                  { mkReq g x s 0xB0 Head.plain MArgs.zero .cpy
                      [{ LaneReq.ref 0 lo.toNat with x := ofI (hi - lo + 1), reg := i }] d.dir 0 with
                    gen := s.uid, det := t.hdr.det }
                .ok (({ s with uid := s.uid + 1 }.putCore g.core { k with cq := k.cq ++ [o] }).putGroup
                  { g with reqs := g.reqs ++ [q] }) (some (s.now + 1))
    | _, _ => .wait

/-! ### Slots of engine instructions (R169, R170) -/

/-- What the slots of an instruction give. -/
inductive SlotsSt where
  | ok (l : List Fmt)
  | unbound (k : Nat)
  | corrupt

/-- The slots of an instruction, in the order in which they are checked. -/
def State.slotsOf (s : State) (g : Group) (ks : List Nat) : SlotsSt :=
  match ks.find? (fun k => match s.slotOf g k with | .unbound => true | _ => false) with
  | some k => .unbound k
  | none =>
    let l := ks.filterMap fun k => match s.slotOf g k with | .ok F => some F | _ => none
    if l.length == ks.length then .ok l else .corrupt

/-! ### Matrix operations (R356 to R358) -/

/-- The descriptor of `mloop` and `mloopg` (R179); `wA` and `wB` are the slots' widths.  None where R179 raises
RESERVED_FIELD. -/
def MDesc.of (d wA wB : Nat) : Option MDesc :=
  let m : MDesc :=
    { abase := fld d 0 24, bbase := fld d 24 24, nstep := fld d 48 16, ars := fld d 64 16, bcs := fld d 80 16,
      ainc := fld d 96 16, binc := fld d 112 16, slay := fld d 128 2, sfmt := bitOf d 130, asbase := fld d 136 24,
      bsbase := fld d 160 24, a2base := fld d 192 24, b2base := fld d 216 24 }
  if fld d 131 5 != 0 || fld d 184 8 != 0 || fld d 240 16 != 0 || m.slay == 3 || m.nstep == 0 ||
      (m.sfmt && m.slay == 0) ||
      (m.slay == 2 && (m.ars % (4 * wA) != 0 || m.ainc % (4 * wA) != 0 || m.bcs % (4 * wB) != 0 || m.binc % (4 * wB) != 0))
  then none else some m

/-- ra(i, t) for the row index g(i), and rb(j, t) (R181). -/
def MDesc.ra (d : MDesc) (gi t : Nat) : Nat := d.abase + t * d.ainc + gi * d.ars

/-- See `MDesc.ra`. -/
def MDesc.rb (d : MDesc) (j t : Nat) : Nat := d.bbase + t * d.binc + j * d.bcs

/-- The address of the scale byte of a record at `r` (R183): `base` is the first record, `sbase` the scale array. -/
def MDesc.scaleAt (d : MDesc) (r base sbase w : Nat) : Option Nat :=
  match d.slay with
  | 1 => some (r + 4 * w)
  | 2 => some (sbase + (r - base) / (4 * w))
  | _ => none

/-- The bytes one record of step t needs: the record, its scale byte, its second-level scale (R180, R183). -/
def MDesc.recBytes (d : MDesc) (r base sbase w s2 : Nat) : List (Nat × Nat) :=
  (r, 4 * w) :: (match d.scaleAt r base sbase w with | some a => [(a, 1)] | none => []) ++ (if d.sfmt then [(s2, 4)] else [])

/-- The scratchpad ranges that step t reads (R182). -/
def MDesc.stepBytes (d : MDesc) (gs : List Nat) (wA wB t : Nat) : List (Nat × Nat) :=
  (gs.flatMap fun gi => d.recBytes (d.ra gi t) d.abase d.asbase wA (d.a2base + 4 * gi)) ++
  ((List.range 32).flatMap fun j => d.recBytes (d.rb j t) d.bbase d.bsbase wB (d.b2base + 4 * j))

/-- The rows of an operation over all its steps (R187). -/
def MDesc.rows (d : MDesc) (gs : List Nat) (wA wB : Nat) : Nat :=
  (List.range d.nstep).foldl (fun m t => m ||| rowMask (d.stepBytes gs wA wB t)) 0

/-- Queues a matrix operation of the executing group (R186, R188). -/
def State.queueM (s : State) (g : Group) (b : Block) (tile : Nat) (kind : MKind) (rows wrows : List Nat) : State :=
  let k := s.core g.core
  let o : MOp := { uid := s.uid, block := b.uid, group := g.uid, tile := tile, kind := kind, step := 0,
                   ready := s.now + 4, batch := 0, rows := rows, wrows := wrows, queued := s.now,
                   inv := g.handler.map (·.inv) }
  let b := { b with unb := if b.unb.contains g.gindex then b.unb else b.unb ++ [g.gindex] }
  ({ s with uid := s.uid + 1 }.putCore g.core { k with mq := k.mq ++ [o] }).putBlock b

/-- Whether a group holds the token of its block (R185). -/
def Block.owns (b : Block) (g : Group) : Bool := b.token == some g.gindex

/-- `mloop` and `mloopg`: slots, token, precision, descriptor, footprint, in this order (R350, R356; FADDR of an
unbound slot: log 65). -/
def mloopOwn (e : EArgs) (gather : Group → List Nat) (s : State) (g : Group) (x : Split) : Own :=
  match s.block? g.block with
  | none => .wait
  | some b =>
    let kA := e.b.toNat % 8
    let kB := e.b.toNat / 16 % 8
    if 32 ≤ s.mqLen g.core then .wait
    else
      match s.slotsOf g [kA, kB] with
      | .unbound k => .fault cUnbound (dw k) x.mask
      | .ok [A, B] =>
        if !b.owns g then .fault cEngine 0 x.mask
        else if 25 ≤ max A.precision B.precision then .fault cReserved 0 x.mask
        else
          let v := g.viewAt s.now
          match MDesc.of (v.quad e.s.toNat) A.width B.width with
          | none => .fault cReserved 0 x.mask
          | some d =>
            let gs := gather v
            if b.scrSize < rangeEnd (d.stepBytes gs A.width B.width (d.nstep - 1)) then .fault cScratch 0 x.mask
            else
              let s := (s.noteSlot g kA).noteSlot g kB
              .ok (s.queueM g b e.d.toNat (.loop d gs kA kB) (rowList (d.rows gs A.width B.width) b.scrSize) [])
                (some (s.now + 1))
      | _ => .wait

/-- R356. -/
def execMloop (h : Head) (e : EArgs) (s : State) : Outcome State Fault Refusal :=
  runSlot 0xB1 h (.e e) s (mloopOwn e (fun _ => List.range 32) s)

/-- R356, R181: row indices from lanes 0 to 31 of vC. -/
def execMloopg (h : Head) (e : EArgs) (s : State) : Outcome State Fault Refusal :=
  runSlot 0xB2 h (.e e) s
    (mloopOwn e (fun v => (List.range 32).map fun L => (v.lane 32 e.c.toNat L).toNat) s)

/-- R357 (FADDR of an unbound slot: log 65). -/
def execMout (h : Head) (e : EArgs) (s : State) : Outcome State Fault Refusal :=
  runSlot 0xB3 h (.e e) s fun g x =>
    match s.block? g.block with
    | none => .wait
    | some b =>
      let k := e.b.toNat % 8
      if 32 ≤ s.mqLen g.core then .wait
      else
        match s.slotsOf g [k] with
        | .unbound k => .fault cUnbound (dw k) x.mask
        | .ok [F] =>
          let v := g.viewAt s.now
          let d := (v.rs e.s.toNat).toNat
          let base := fld d 0 24
          let stride := fld d 32 16
          let ranges := (List.range 32).map fun i => (base + i * stride, 4 * F.width)
          if !b.owns g then .fault cEngine 0 x.mask
          else if 6 ≤ e.b.toNat / 16 || fld d 24 8 != 0 || fld d 48 16 != 0 || stride < 4 * F.width then .fault cReserved 0 x.mask
          else
            match F.mode (e.b.toNat / 16) v.frm.toNat with
            | none => .fault cReserved 0 x.mask
            | some rm =>
              if b.scrSize < rangeEnd ranges then .fault cScratch 0 x.mask
              else
                let rows := rowList (rowMask ranges) b.scrSize
                .ok ((s.noteSlot g k).queueM g b e.d.toNat (.out base stride k rm) rows rows) (some (s.now + 1))
        | _ => .wait

/-- R358. -/
def execMzero (h : Head) (e : EArgs) (s : State) : Outcome State Fault Refusal :=
  runSlot 0xB4 h (.e e) s fun g x =>
    match s.block? g.block with
    | none => .wait
    | some b =>
      if 32 ≤ s.mqLen g.core then .wait
      else if !b.owns g then .fault cEngine 0 x.mask
      else .ok (s.queueM g b e.d.toNat .zero [] []) (some (s.now + 1))

/-! ### Batches and the token (R185, R188, R359, R360) -/

/-- R359, R188. -/
def execMbat (h : Head) (a : XArgs) (s : State) : Outcome State Fault Refusal :=
  runSlot 0xB5 h (.x a) s fun g x =>
    match s.block? g.block with
    | none => .wait
    | some b =>
      if !b.owns g then .fault cEngine 0 x.mask
      else
        let n := b.batch + 1
        let k := s.core g.core
        let mq := updIf (fun o => o.block == b.uid && o.batch == 0) (fun o => { o with batch := n }) k.mq
        uniOwn ((s.putCore g.core { k with mq := mq }).putBlock { b with batch := n, unb := [] }) 2 a.d.toNat (dw n) 0 g

/-- Whether batch m of a block is complete (R188): no operation of it or of an earlier one is left. -/
def State.batchDone (s : State) (b : Block) (m : Nat) : Bool :=
  !((s.core b.core).mq.any fun o => o.block == b.uid && o.batch != 0 && o.batch ≤ m)

/-- R359: it issues when batch m is complete. -/
def execMwait (h : Head) (a : XArgs) (s : State) : Outcome State Fault Refusal :=
  runSlot 0xB6 h (.x a) s fun g x =>
    match s.block? g.block with
    | none => .wait
    | some b =>
      let m := ((g.viewAt s.now).rs a.a.toNat).toNat
      if b.batch < m then .fault cEngine 0 x.mask
      else if s.batchDone b m then .ok s (some (s.now + 1)) else .wait

/-- R360: the token is taken, or the group becomes a waiter. -/
def execMacq (h : Head) (a : XArgs) (s : State) : Outcome State Fault Refusal :=
  runSlot 0xB7 h (.x a) s fun g x =>
    match s.block? g.block with
    | none => .wait
    | some b =>
      match b.token with
      | none => .ok (s.putBlock { b with token := some g.gindex }) (some (s.now + 1))
      | some j =>
        if j == g.gindex then .fault cEngine 0 x.mask
        else .ok ((s.putBlock { b with tokWait := b.tokWait ++ [g.gindex] }).putGroup { g with wait := .token })
          (some (s.now + 1))

/-- R360. -/
def execMrel (h : Head) (a : XArgs) (s : State) : Outcome State Fault Refusal :=
  runSlot 0xB8 h (.x a) s fun g x =>
    match s.block? g.block with
    | none => .wait
    | some b =>
      if !b.owns g || b.unb.contains g.gindex then .fault cEngine 0 x.mask
      else .ok (s.passToken b) (some (s.now + 1))

/-- R361. -/
def execOwnq (h : Head) (a : XArgs) (s : State) : Outcome State Fault Refusal :=
  runSlot 0xB9 h (.x a) s fun g x =>
    match s.block? g.block with
    | none => .wait
    | some b =>
      let lo := ((g.viewAt s.now).rs a.a.toNat).toNat
      let n := a.imm.toNat
      if b.scrSize < lo + n then .fault cScratch 0 x.mask
      else uniOwn s 2 a.d.toNat (if (rowsOf lo n).any (s.engineRow b) then 1 else 0) 0 g

end Sys2Proof.Machine
end

