-- ==== Sys2Proof/Machine/EngineEvents.lean ====
section
/-! DEFINITION. The engines at work: matrix steps, the end of matrix operations, copies (spec 07 R176 to R190, 16 R353 to
R358, 05 R139, R150, 28 R506). -/

namespace Sys2Proof.Machine

open Host (Outcome)

/-! ### The queues (R187, R188, R190) -/

/-- A deferred fault of an engine operation that handler invocation `inv`, or none, issued (R350, R390): DEFER is 1. -/
def engineFault (cause : BitVec 8) (faddr : Nat) (inv : Option Nat) : FaultInfo :=
  { cause := cause, fpc := 0, faddr := dw faddr, flane := 0, defer := true, fetch := false, mask := 0, next := 0,
    req := none, inv := inv }

/-- A fault for the group that issued an engine operation. -/
def State.blame (s : State) (gu : Nat) (f : FaultInfo) : State :=
  match s.group? gu with
  | some g => s.putGroup { g with deferred := g.deferred ++ [f] }
  | none => s

/-- A matrix operation discarded with every later one of its block (R190); the fault reaches its group. -/
def State.discardM (s : State) (c : Nat) (o : MOp) (f : FaultInfo) : State :=
  (s.dropOps c (fun x => x.block == o.block && o.uid ≤ x.uid) fun _ => false).blame o.group f

/-- The request that stands for a copy's global accesses goes with it (R150). -/
def State.copyGone (s : State) (o : COp) : State :=
  match s.group? o.group with
  | some g => (s.putGroup { g with reqs := g.reqs.filter fun q => !(q.kind == .cpy && q.gen == o.uid) }).retest g.uid
  | none => s

/-- A copy discarded with every later one of its block (R190, R506). -/
def State.discardC (s : State) (c : Nat) (o : COp) (f : FaultInfo) : State :=
  let mine (x : COp) : Bool := x.block == o.block && o.uid ≤ x.uid
  let gone := (s.core c).cq.filter mine
  (gone.foldl (fun s x => s.copyGone x) (s.dropOps c (fun _ => false) mine)).blame o.group f

/-! ### Matrix operations (R176 to R186) -/

/-- The format of slot k for an engine operation of a block. -/
def State.engineFmt (s : State) (b : Block) (k : Nat) : Option Fmt :=
  (s.part? b.part).bind fun p => p.imageFmt (p.slotImg.getD k 0)

/-- The step time of the larger of two precisions (R178). -/
def stepTime (p : Nat) : Nat := if p ≤ 4 then 4 else if p ≤ 8 then 8 else if p ≤ 11 then 32 else 72

/-- The cycles of the next step of an operation (R178). -/
def State.opTime (s : State) (b : Block) (o : MOp) : Nat :=
  match o.kind with
  | .zero => 2
  | .out _ _ _ _ => 32
  | .loop _ _ kA kB =>
    stepTime (max ((s.engineFmt b kA).map (·.precision) |>.getD 1) ((s.engineFmt b kB).map (·.precision) |>.getD 1))

/-- The codes of a record of 32 elements of width w (R180). -/
def recCodes (scr : List Host.Cell) (r w : Nat) : List Nat :=
  let x := leOf (cellRead scr r (4 * w))
  (List.range 32).map fun k => fld x (k * w) w

/-- The scale of a record (R183). -/
def MDesc.scale (d : MDesc) (scr : List Host.Cell) (r base sbase w s2 : Nat) : Num :=
  match d.scaleAt r base sbase w with
  | none => .ofInt 1
  | some a =>
    let c := (cellGet a scr).toNat
    if d.sfmt then (e4m3.decode c).mul (f32.decode (leOf (cellRead scr s2 4))) else e8m0.decode c

/-- The exact sum of products of two lists of 32 values (R177). -/
def dot (a b : List Num) : Num := (a.zip b).foldl (fun s (x, y) => s.add false (x.mul y)) (.zero false)

/-- A cell after a step whose scaled sum is T (R177). -/
def cellStep (acc : BitVec 36) (T : Num) : BitVec 36 :=
  let a := accx.decode acc.toNat
  if T.isZero && !a.isNan then acc else BitVec.ofNat 36 (accx.encode (a.add false T) rne).1

/-- The cells of a tile replaced by those of a function; a cell that is +0 is not listed. -/
def setTile (cells : List (Nat × BitVec 36)) (tile : Nat) (f : Nat → BitVec 36) : List (Nat × BitVec 36) :=
  let new := (List.range 1024).filterMap fun i => if f i == 0 then none else some (1024 * tile + i, f i)
  cells.filter (fun x => x.1 < 1024 * tile) ++ new ++ cells.filter (fun x => 1024 * (tile + 1) ≤ x.1)

/-- Cell i of a tile. -/
def Block.cell (b : Block) (tile i : Nat) : BitVec 36 := getKey 0 (1024 * tile + i) b.tiles

/-- A block after step t of a loop (R177). -/
def Block.matrixStep (b : Block) (tile : Nat) (d : MDesc) (gs : List Nat) (A B : Fmt) (t : Nat) : Block :=
  let rows := gs.map fun gi =>
    let r := d.ra gi t
    ((recCodes b.scr r A.width).map A.decode, d.scale b.scr r d.abase d.asbase A.width (d.a2base + 4 * gi))
  let cols := (List.range 32).map fun j =>
    let r := d.rb j t
    ((recCodes b.scr r B.width).map B.decode, d.scale b.scr r d.bbase d.bsbase B.width (d.b2base + 4 * j))
  let sums := rows.flatMap fun (xs, sa) => cols.map fun (ys, sb) => ((dot xs ys).mul sa).mul sb
  let cells := (sums.zip (List.range 1024)).map fun (T, i) => cellStep (b.cell tile i) T
  { b with tiles := setTile b.tiles tile fun i => cells.getD i 0 }

/-- The first poison that step t of a loop reads: a scratchpad word's address, or a cell of the tile (R506). -/
def Block.stepPoison (b : Block) (tile : Nat) (ranges : List (Nat × Nat)) : Option Nat :=
  match ranges.find? (fun (a, n) => b.scrPoison a n) with
  | some (a, n) => some ((b.scrBad.find? fun w => w < a + n && a < w + 8).getD a)
  | none => if b.tileBad.any (fun c => c / 1024 == tile) then some 0 else none

/-- The step of a loop that the engine of a core works on ends (R177, R186); poison discards the operation (R506). -/
def State.endStep (s : State) (core : Nat) (o : MOp) (b : Block) : State :=
  match o.kind with
  | .loop d gs kA kB =>
    match s.engineFmt b kA, s.engineFmt b kB with
    | some A, some B =>
      match b.stepPoison o.tile (d.stepBytes gs A.width B.width o.step) with
      | some a => s.discardM core o (engineFault cEcc a o.inv)
      | none =>
        let s := (s.putBlock (b.matrixStep o.tile d gs A B o.step)).countUp b.part 5 core
        let k := s.core core
        s.putCore core { k with
          mq := updIf (·.uid == o.uid) (fun x => { x with step := o.step + 1, ready := s.now }) k.mq
          mFree := s.now, mTurn := b.lowSlot }
    | _, _ => s
  | _ => s

/-- R177, R186: the step that began its time ago ends. -/
def execMatrixStep (core : Nat) (s : State) : Outcome State Fault Refusal :=
  match s.matrixTurn core with
  | none => .next s
  | some (o, b, t0) => .next (if s.now < t0 + s.opTime b o then s else s.endStep core o b)

/-- The scratchpad after `mout` (R357): one record per row, SR by the element index 32i + j (R176). -/
def Block.outTile (b : Block) (tile base stride : Nat) (F : Fmt) (k rm : Nat) (seed : Dword) : Block :=
  (List.range 32).foldl (fun b i =>
    let codes := (List.range 32).map fun j =>
      (F.encode (accx.decode (b.cell tile (32 * i + j)).toNat)
        { mode := rm, g := if rm == 4 then srG (32 * i + j) k seed else 0 }).1
    let n := (codes.zip (List.range 32)).foldl (fun a (c, j) => a + c * 2 ^ (j * F.width)) 0
    b.scrWrite (base + i * stride) (bytesOf (4 * F.width) n)) b

/-- A block after `mzero` (R358); the poison of its cells goes with them. -/
def Block.zeroTile (b : Block) (tile : Nat) : Block :=
  { b with tiles := setTile b.tiles tile fun _ => 0, tileBad := b.tileBad.filter fun c => c / 1024 != tile }

/-- The oldest loop of a core that has taken all its steps. -/
def Core.stepped (k : Core) : Option MOp := k.mq.find? (·.stepsDone)

/-- The engine after an operation has ended (R186). -/
def State.endOp (s : State) (core : Nat) (o : MOp) (low : Nat) : State :=
  let k := s.core core
  s.putEngines core { k with mq := k.mq.filter (·.uid != o.uid), mFree := s.now, mTurn := low }

/-- The operation without steps that the engine of a core works on ends (R186, R357, R358). -/
def State.endWhole (s : State) (core : Nat) (o : MOp) (b : Block) : State :=
  match o.kind with
  | .loop _ _ _ _ => s
  | .zero => (s.putBlock (b.zeroTile o.tile)).endOp core o b.lowSlot
  | .out base stride kf rm =>
    match s.engineFmt b kf with
    | none => s
    | some F =>
      if b.tileBad.any (fun c => c / 1024 == o.tile) then s.discardM core o (engineFault cEcc 0 o.inv)
      else
        let seed := ((s.task? b.task).map (·.hdr.detseed)).getD 0
        (s.putBlock (b.outTile o.tile base stride F kf rm seed)).endOp core o b.lowSlot

/-- The step that the matrix engine of a core has begun is finished as the core clocks stop (R189, R468). -/
def State.finishStep (s : State) (core : Nat) : State :=
  match s.matrixTurn core with
  | none => s
  | some (o, b, t0) =>
    if s.now < t0 then s
    else match o.kind with
      | .loop _ _ _ _ => s.endStep core o b
      | _ => s.endWhole core o b

/-- R187, R188: an operation ends, its rows return to THREAD and its batch may be complete. -/
def execMatrixOperationComplete (core : Nat) (s : State) : Outcome State Fault Refusal :=
  match (s.core core).stepped with
  | some o =>
    let k := s.core core
    .next (s.putEngines core { k with mq := k.mq.filter (·.uid != o.uid) })
  | none =>
    match s.matrixTurn core with
    | none => .next s
    | some (o, b, t0) => .next (if s.now < t0 + s.opTime b o then s else s.endWhole core o b)

/-! ### Copies (R139, R353 to R355) -/

/-- Why a copy stops before its bytes are moved. -/
inductive CopyStop where
  | more
  | done
  | missing (va : Nat)
  | failed (cause : BitVec 8)
  | held

/-- The word of a byte at `pa` poisoned where a copy has written it: in the sector that a block's L1 holds of it, and at the home
where no sector holds it as written (R506). -/
def State.spoilAt (s : State) (b : Block) (shared : Bool) (pa : Nat) : State :=
  let c := s.l1Core b.part b.ctx b.core pa
  match (if shared then none else s.sector? b.part c pa) with
  | some x =>
    let s := s.keepSector c { x with bad := x.bad ||| BitVec.twoPow 16 (pa % 128 / 8) }
    if bm x.dirty (pa % 128) then s else s.poisonMem (pa / 8 * 8)
  | none => s.poisonMem (pa / 8 * 8)

/-- Whether a block finds the byte at `pa` poisoned: in its L1 where that holds it, else at the home. -/
def State.badByte (s : State) (b : Block) (shared : Bool) (pa : Nat) : Bool :=
  match (if shared then none else s.sector? b.part (s.l1Core b.part b.ctx b.core pa) pa) with
  | some x => x.badAt (pa % 128) 1 || (!bm x.valid (pa % 128) && s.homeBad pa 1)
  | none => s.homeBad pa 1

/-- The poison of scratchpad bytes [sa, sa + n) that a copy has moved to `pa`: it travels with the data, into the L1's sector or
to the home (R506). -/
def State.copySpoil (s : State) (b : Block) (shared : Bool) (sa pa n : Nat) : State :=
  ((List.range n).filter fun i => b.scrPoison (sa + i) 1).foldl (fun s i => s.spoilAt b shared (pa + i)) s

/-- Moves the next piece of a copy, inside one sector and one row, of at most `budget` bytes: global to scratchpad or
back, through the L1 or at the home (R353).  Poison in it travels with the bytes, and the copy fails (R506).  It is held while
no path is left to the home, or a write-back of the sector is on its way there. -/
def State.copyPiece (s : State) (o : COp) (budget : Nat) : State × COp × CopyStop × Nat :=
  match s.block? o.block with
  | none => (s, o, .held, 0)
  | some b =>
    let d := o.desc
    let va := ((d.gRow o.row) + o.byte).toNat
    let sa := d.sRow o.row + o.byte
    let n := min budget (min (d.len - o.byte) (128 - va % 128))
    match s.translate b.part b.ctx va with
    | none => (s, o, .missing va, 0)
    | some p =>
      if !(if d.dir then p.write else p.read) || isPeer p.pa then (s, o, .failed cProt, 0)
      else if !s.reaches (coreDie b.core) (homeDie p.home p.pa) || s.backPends b.part p.pa then (s, o, .held, 0)
      else
        let s := s.carry { src := coreDie b.core, dst := homeDie p.home p.pa, vc := if d.dir then 2 else 0, kind := .data }
        let byte := o.byte + n
        let o' := if byte == d.len then { o with row := o.row + 1, byte := 0 } else { o with byte := byte }
        let stop : CopyStop := if o'.row == d.nrow then .done else .more
        if d.dir then
          let x := cellRead b.scr sa n
          let s' := if o.shared then s.homeWriteBy b.part p.pa (o.hnt == 2) x else s.l1Write b.part b.ctx b.core p.pa x o.hnt none
          if b.scrPoison sa n then (s'.copySpoil b o.shared sa p.pa n, o, .failed cEcc, 0) else (s', o', stop, n)
        else
          let (x, bad, s') := if o.shared then (s.homeRead b.part p.pa n, s.homeBad p.pa n, s.llcTouch b.part p.pa (o.hnt == 2))
            else s.l1Read b.part b.ctx b.core p.pa n o.hnt none
          if bad then
            let w := (List.range n).filter fun i => s.badByte b o.shared (p.pa + i)
            (s'.putBlock (w.foldl (fun b i => b.scrSpoil (sa + i) 1) (b.scrWrite sa x)), o, .failed cEcc, 0)
          else (s'.putBlock (b.scrWrite sa x), o', stop, n)

/-- Moves pieces of a copy until its budget is spent, at most `fuel` of them. -/
def State.copyRun : Nat → State → COp → Nat → State × COp × CopyStop
  | 0, s, o, _ => (s, o, .more)
  | f + 1, s, o, budget =>
    if budget == 0 then (s, o, .more)
    else
      match s.copyPiece o budget with
      | (s', o', .more, n) => s'.copyRun f o' (budget - n)
      | (s', o', stop, _) => (s', o', stop)

/-- A copy of a core after `copyRun` has moved it on to `o`: with its last byte it completes and its rows return to THREAD; a
missing page pauses it as a packet (R139); poison or a page that forbids the access ends it (R138, R506), with FADDR the lowest
byte of its global side (R350). -/
def State.copyEnd (s : State) (core : Nat) (o : COp) (stop : CopyStop) : State :=
  let k := s.core core
  let put (o : COp) : List COp := updIf (·.uid == o.uid) (fun _ => o) k.cq
  let rest := k.cq.filter (·.uid != o.uid)
  match stop with
  | .done => (s.putEngines core { k with cq := rest }).copyGone o
  | .more | .held => s.putCore core { k with cq := put { o with ready := s.now } }
  | .missing va =>
    let id := s.uid
    let s := { s.putCore core { k with cq := put { o with paused := some id } } with uid := id + 1 }
    match s.group? o.group with
    | none => s
    | some g => s.record { s.groupRec g with
        type := 2, cause := cXlat, rank := g.rankOf o.mask, fpc := o.pc, faddr := dw va, flane := o.mask, pkt := id,
        replay := true }
  | .failed c =>
    let f := engineFault c o.desc.gSpan.1.toNat o.inv
    if c == cEcc then s.discardC core o f else ((s.putEngines core { k with cq := rest }).copyGone o).blame o.group f

/-- A copy of a core moved on by at most `n` bytes. -/
def State.copyMove (s : State) (core : Nat) (o : COp) (n : Nat) : State :=
  let r := s.copyRun (n + o.desc.nrow) o n
  r.1.copyEnd core r.2.1 r.2.2

/-- The copy that a core was moving stops at the byte it has reached, and completes where that is its last (R355, R468). -/
def State.haltCopy (s : State) (c : Nat) : State :=
  match s.copyTurn c with
  | some (o, _, t0, n) =>
    let (s', o', stop) := s.copyRun (n + o.desc.nrow) o (min n (256 * (s.now - t0)))
    (s'.putCore c { s'.core c with cFree := s.now }).copyEnd c o' (match stop with | .done => .done | _ => .more)
  | none => s

/-- R353: the turn of the copy engine of a core ends: its bytes land. -/
def execCopyComplete (core : Nat) (s : State) : Outcome State Fault Refusal :=
  match s.copyTurn core with
  | none => .next s
  | some (o, b, t0, n) =>
    .next (if s.now < t0 + (n + 255) / 256 then s
      else (s.putCore core { s.core core with cFree := s.now, cTurn := b.lowSlot }).copyMove core o n)

/-- What is left of a copy, and of those of its block before it, moved at once; nothing of one that is paused, or held back by
its group's order or by a matrix operation, nor of those behind it. -/
def State.finishCopy (s : State) (core uid : Nat) : State :=
  ((s.core core).cq.filter fun x => x.uid ≤ uid).foldl (fun s x =>
    let k := s.core core
    match k.cq.find? (·.block == x.block) with
    | some y =>
      if y.uid != x.uid || ((k.cq.find? (·.uid == uid)).map (·.block)) != some x.block || y.paused.isSome || k.cHeld y ||
        s.copyHeld y then s else s.copyMove core y y.left
    | none => s) s

end Sys2Proof.Machine
end

