-- ==== Sys2Proof/Machine/Tasks.lean ====
section
/-! DEFINITION. Tasks from their slot to their blocks' end: consumption, dependences, placement, retirement (spec 02 R22
to R32, R46, R50 to R54, 04 R96 to R99, 24 R445, R450, R453, R454).

A step that cannot happen now leaves the state as it is. -/

namespace Sys2Proof.Machine

open Host (Outcome)

/-- Whether a context is resident and no switch has been requested (R466, R467). -/
def State.ctxRuns (s : State) (part ctx : Nat) : Bool :=
  match s.part? part with
  | some p => p.resident == some ctx && p.switch.isNone
  | none => false

/-- A task changed in its running part. -/
def State.putRun (s : State) (t : Task) (r : TaskRun) : State := s.putTask { t with run := r }

/-! ### Consumption (R445, R450, R455) -/

/-- Whether the scheduler may consume the head of a queue. -/
def State.canConsume (s : State) (q : Queue) : Bool :=
  s.ctxRuns q.part q.ctx && !q.stopped && q.head < q.tail &&
    (s.tasks.filter fun t => t.part == q.part && t.ctx == q.ctx && t.queue == q.num && t.run.phase != .done).length < 32 &&
    (s.tasks.filter fun t => t.part == q.part && t.ctx == q.ctx && t.run.phase != .done).length < 64

/-- The record in the slot at the head of a queue; bytes that no mapping reads are zero (log 20). -/
def State.slotRecord (s : State) (q : Queue) : Nat :=
  leOf ((List.range 6).flatMap fun k =>
    let a := q.ring + 768 * (q.head % q.slots) + 128 * k
    (s.ctxRead q.part q.ctx a 128).getD ((List.range 128).map fun i => Config.ringByte (a + i)))

/-- R445, R450: a refused record completes at once; under REGION_INVALID and KDESC_INVALID it conflicts with nothing and
leaves no task behind.  The waits of the context are evaluated as an accepted one is consumed (log 21). -/
def execSlotConsume (part ctx queue : Nat) (s : State) : Outcome State Fault Refusal :=
  match s.queue? part ctx queue, s.part? part with
  | some q, some p =>
    if !s.canConsume q then .next s
    else
      let (st, h, k, regs) := s.submit p ctx (s.slotRecord q)
      let t : Task := { uid := s.uid, part := part, ctx := ctx, queue := queue, dev := q.dev, qprio := q.prio,
                        seq := q.head, hdr := h, kd := k, regions := regs, run := { TaskRun.new with status := st } }
      let s := ({ s with uid := s.uid + 1 }.putQueue { q with head := q.head + 1 })
      if st == 0 then .next ({ s with tasks := s.tasks ++ [t] }.reWait part ctx)
      else if st == 0x10 || st == 0x12 then .next (s.announce { t with run := { t.run with phase := .done } } 0)
      else .next ({ s with tasks := s.tasks ++ [t] }.completeTask t.uid)
  | _, _ => .next s

/-! ### Dependences (R96 to R99) -/

/-- What R96 compares: a read, a write, or a reduction with its OP, ETYPE and BASE. -/
inductive Use where
  | rd | wr | red (op ety base : Nat)
  deriving DecidableEq, Repr

/-- The areas of a task with their uses (R96): from, to, use. -/
def Task.areas (t : Task) : List (Nat × Nat × Use) :=
  (t.regions.flatMap fun r =>
    if r.mode == 0 then []
    else if r.mode == 1 then [(r.base, r.base + r.ext, .rd)]
    else if r.mode == 5 then
      [(r.base, r.base + r.ext, .red r.op r.ety r.base), (r.pbase, r.pbase + t.hdr.nblk * r.rowStride, .wr)]
    else [(r.base, r.base + r.ext, .wr)]) ++
  [(t.hdr.codeBase, t.hdr.codeBase + t.hdr.codeLen, .rd), (t.hdr.argsBase, t.hdr.argsBase + t.hdr.argsLen, .rd)]

/-- The table of R96. -/
def Use.clash (a b : Use) : Bool :=
  match a, b with
  | .rd, .rd => false
  | .red _ _ _, .red _ _ _ => a != b
  | _, _ => true

/-- Whether an earlier task conflicts with a later one (R96). -/
def Task.conflicts (a b : Task) : Bool :=
  a.areas.any fun x => b.areas.any fun y => x.2.2.clash y.2.2 && x.1 < y.2.1 && y.1 < x.2.1

/-- The earlier tasks of a task's queue (R97). -/
def State.earlier (s : State) (t : Task) : List Task :=
  s.tasks.filter fun u => u.part == t.part && u.ctx == t.ctx && u.queue == t.queue && u.seq < t.seq

/-- The earlier tasks of its queue that conflict with it; one that completed with OK is listed no more. -/
def State.blockers (s : State) (t : Task) : List Task := (s.earlier t).filter (·.conflicts t)

/-- Whether a waiting task's dependences and waits are met (R97, R453). -/
def State.canStart (s : State) (t : Task) : Bool :=
  t.run.phase == .waiting && s.ctxRuns t.part t.ctx && (s.blockers t).isEmpty && t.run.waitsMet &&
    ((s.earlier t).filter fun u => u.run.phase != .done).length < 32

/-- R453: the start actions enter the work list, in the order in which they become due; leader and mirror are chosen
(R50).  A task whose dies have all been fenced since its consumption ends with DIE_LOST (R52). -/
def execTaskStartable (t : Nat) (s : State) : Outcome State Fault Refusal :=
  match s.task? t with
  | none => .next s
  | some x =>
    if !s.canStart x then .next s
    else
      let dies := ((s.part? x.part).map fun p => s.launchDies p x.hdr).getD []
      if dies.isEmpty then .next (s.endTask t 4 0)
      else .next ({ s with uid := s.uid + 1 }.putRun x
        { x.run with phase := .starting, due := s.uid, leader := dies.headD 0, mirror := dies[1]?,
                     cursor := { record := 0, action := 0, unit := 0 } })

/-- Whether a waiting task must complete with DEP_FAILED (R99). -/
def State.depFails (s : State) (t : Task) : Bool :=
  let l := s.blockers t
  t.run.phase == .waiting && s.ctxRuns t.part t.ctx && !l.isEmpty && l.all (·.run.phase == .done)

/-- R99. -/
def execDepFailed (t : Nat) (s : State) : Outcome State Fault Refusal :=
  match s.task? t with
  | none => .next s
  | some x =>
    if !s.depFails x then .next s else .next ((s.putRun x { x.run with status := 3 }).completeTask t)

/-! ### Fitting a block (R29, R31, R460) -/

/-- What a block takes of a core: group slots, runs, accumulator tiles. -/
structure Room where
  slots : List Nat
  runs  : List (Nat × Nat)
  accs  : List Nat
  deriving DecidableEq, Repr

/-- The room that the blocks of a context hold on a core of its partition. -/
def State.held_ (s : State) (part ctx core : Nat) : Room :=
  (s.blocks.filter fun b => b.part == part && b.ctx == ctx && b.core == core).foldl
    (fun r b => { slots := r.slots ++ b.slots, runs := r.runs ++ b.runs, accs := r.accs ++ b.accs })
    { slots := [], runs := [], accs := [] }

/-- The lowest aligned row at which `n` rows fit between rows `lo` and `hi` (R29). -/
def lowestRun (occ : List (Nat × Nat)) (lo hi n : Nat) : Option Nat :=
  ((List.range ((hi - lo) / 8)).map fun i => lo + 8 * i).find? fun a =>
    a + n ≤ hi && !(occ.any fun (b, m) => a < b + m && b < a + n)

/-- Runs of the given sizes, each at the lowest aligned row at which it fits. -/
def fitRuns (lo hi : Nat) : List Nat → List (Nat × Nat) → Option (List (Nat × Nat))
  | [], _ => some []
  | n :: t, occ =>
    if n == 0 then (fitRuns lo hi t occ).map ((lo, 0) :: ·)
    else match lowestRun occ lo hi n with
      | none => none
      | some a => (fitRuns lo hi t (occ ++ [(a, n)])).map ((a, n) :: ·)

/-- The sizes of a block's runs: one per group and the scratchpad's (R29).  The spec gives no order in which they are placed:
in GINDEX order, then the scratchpad's, is the model's choice (log 21). -/
def KDesc.runSizes (k : KDesc) : List Nat :=
  List.replicate k.ngrp (roundUp k.nregs 8) ++ [roundUp (roundUp k.scratch 384 / 384) 8]

/-- What a block of a kernel takes of a core on which `r` is held, within a quota (R29): the lowest free group slots and
tiles (log 21); none where it does not fit. -/
def Quota.fit (q : Quota) (k : KDesc) (r : Room) : Option Room :=
  let slots := ((List.range q.gsCnt).map (q.gsBase + ·)).filter (!r.slots.contains ·)
  let accs := ((List.range q.accCnt).map (q.accBase + ·)).filter (!r.accs.contains ·)
  let need := k.runSizes.foldl (· + ·) 0
  let held := r.runs.foldl (fun n x => n + x.2) 0
  if slots.length < k.ngrp || accs.length < k.nacc || 8 * q.rowCnt < held + need + 256 ||
      6144 < (k.runSizes.getLastD 0) then none
  else
    (fitRuns (8 * q.rowBase) (8 * (q.rowBase + q.rowCnt)) k.runSizes r.runs).map fun runs =>
      { slots := slots.take k.ngrp, runs := runs, accs := accs.take k.nacc }

/-- Whether room lies within a quota (R472, R473). -/
def Quota.holds_ (q : Quota) (r : Room) : Bool :=
  r.slots.all (fun i => q.gsBase ≤ i && i < q.gsBase + q.gsCnt) &&
  r.accs.all (fun i => q.accBase ≤ i && i < q.accBase + q.accCnt) &&
  r.runs.all (fun (a, n) => n == 0 || (8 * q.rowBase ≤ a && a + n ≤ 8 * (q.rowBase + q.rowCnt)))

/-- Whether a core serves a partition: its die does and it is not fenced (R15, R497). -/
def State.coreOk (s : State) (p : Part) (c : Nat) : Bool := s.dieOk p (coreDie c) && !s.deadCores.contains c

/-- Room with other room added. -/
def Room.add (r x : Room) : Room := { slots := r.slots ++ x.slots, runs := r.runs ++ x.runs, accs := r.accs ++ x.accs }

/-- Room for `n` blocks of a kernel on a core on which `r` is held, in order. -/
def Quota.fitMany (q : Quota) (k : KDesc) : Nat → Room → Option (List Room)
  | 0, _ => some []
  | n + 1, r =>
    match q.fit k r with
    | none => none
    | some x => (q.fitMany k n (r.add x)).map (x :: ·)

/-- The number of blocks that core `i` of `c` cores receives (R26). -/
def shareOf (nblk c i : Nat) : Nat := if i < nblk then (nblk - 1 - i) / c + 1 else 0

/-- The cores of a cooperative task's rectangle, by ascending COREY, then COREX (R26). -/
def Task.rectCores (t : Task) : List Nat :=
  let r := t.hdr.cl
  (List.range (2 * r.h)).flatMap fun y => (List.range (4 * r.w)).map fun x => coreAt (4 * r.x + x) (2 * r.y + y)

/-- The blocks of a task that a core is to get and that are not yet placed: that for which its dispatcher has found the core
(R51), or those of a cooperative one whose ids are granted (R26). -/
def Task.coming (t : Task) (c : Nat) : Nat :=
  if t.hdr.coop then
    let cs := t.rectCores
    if t.run.phase == .ready && t.run.granted != 0 then ((cs.idxOf? c).map (shareOf t.hdr.nblk cs.length)).getD 0 else 0
  else if (t.run.ask.map (·.2)) == some c || (t.run.grant.map (·.2)) == some c then 1 else 0

/-- What is taken of a core as a block of a task looks for room: what blocks of its context hold, and what the blocks of
other tasks will hold that the core is to get (R26, R51); also the task's own such block, with `own`. -/
def State.taken (s : State) (p : Part) (t : Task) (c : Nat) (own : Bool := false) : Room :=
  (s.tasks.filter fun u => (own || u.uid != t.uid) && u.part == t.part && u.ctx == t.ctx && u.coming c != 0).foldl
    (fun r u => ((p.quota.fitMany u.kd (u.coming c) r).getD []).foldl Room.add r) (s.held_ t.part t.ctx c)

/-- Whether room on a core outlasts a resize that is waited for: no new block is placed on what it removes (R472). -/
def Part.outlasts (p : Part) (c : Nat) (r : Room) : Bool :=
  match p.resize with
  | some (dies, q, _) => dies.getLsbD (coreDie c) && q.holds_ r
  | none => true

/-- The room a block of a task gets on a core now; with `own`, one behind the block of the task that has found a core
already. -/
def State.roomFor (s : State) (p : Part) (t : Task) (c : Nat) (own : Bool := false) : Option Room :=
  if !s.coreOk p c then none else (p.quota.fit t.kd (s.taken p t c own)).filter (p.outlasts c)

/-- Whether a core is held against a task (R32), by another task of no lower priority. -/
def State.heldAgainst (s : State) (t : Task) (c : Nat) : Bool :=
  s.tasks.any fun u => u.uid != t.uid && u.part == t.part && u.ctx == t.ctx && u.run.held.contains c &&
    t.hdr.prio ≤ u.hdr.prio

/-! ### Cooperative tasks (R26, R27) -/

/-- Whether the rectangle lies in the mesh, on dies of the partition's mask, and holds no fenced core (R27). -/
def State.rectOk (s : State) (p : Part) (t : Task) : Bool :=
  let r := t.hdr.cl
  r.x + r.w ≤ 16 && r.y + r.h ≤ 12 && t.rectCores.all (s.coreOk p)

/-- The room of every block of a cooperative task: (block, core, room) where every block fits, with `held` what is taken
on a core (R27). -/
def Task.coopFit (t : Task) (q : Quota) (held : Nat → Room) : Option (List (Nat × Nat × Room)) :=
  let cs := t.rectCores
  if 16 * cs.length < t.hdr.nblk then none
  else
    (cs.zip (List.range cs.length)).foldl (fun acc (c, i) =>
      match acc, q.fitMany t.kd (shareOf t.hdr.nblk cs.length i) (held c) with
      | some l, some rs => some (l ++ (rs.zip (List.range rs.length)).map fun (r, j) => (i + j * cs.length, c, r))
      | _, _ => none) (some [])

/-- The cores of the rectangle that receive a block (R26). -/
def Task.coopCores (t : Task) : List Nat :=
  let cs := t.rectCores
  ((cs.zip (List.range cs.length)).filter fun (_, i) => shareOf t.hdr.nblk cs.length i != 0).map (·.1)

/-- The room of every block of a cooperative task beside what is taken, where there is room for all (R27). -/
def State.coopRoom (s : State) (p : Part) (t : Task) : Option (List (Nat × Nat × Room)) :=
  (t.coopFit p.quota (s.taken p t)).filter fun l => l.all fun (_, c, r) => p.outlasts c r

/-- The room of every block of a cooperative task, where all can be placed now (R27, R32). -/
def State.coopNow (s : State) (p : Part) (t : Task) : Option (List (Nat × Nat × Room)) :=
  if t.coopCores.any (s.heldAgainst t) then none else s.coopRoom p t

/-- Whether a cooperative task can never be placed (R27). -/
def State.coopUnfit (s : State) (p : Part) (t : Task) : Bool :=
  !s.rectOk p t || (t.coopFit p.quota fun _ => { slots := [], runs := [], accs := [] }).isNone

/-! ### The order of placement (R31, R454) -/

/-- The candidate cores of a non-cooperative block with their room (R31): narrowed to the hinted cores where one of them
can hold the block. -/
def State.candidates (s : State) (p : Part) (t : Task) : List (Nat × Room) :=
  let all := (s.launchDies p t.hdr).flatMap fun d => (List.range 48).filterMap fun i =>
    let c := 48 * d + i
    if s.heldAgainst t c then none else (s.roomFor p t c true).map fun r => (c, r)
  let h := t.hdr.aff
  let hinted := all.filter fun (c, _) =>
    h.x ≤ coreX c && coreX c < h.x + h.w && h.y ≤ coreY c && coreY c < h.y + h.h
  if hinted.isEmpty then all else hinted

/-- The free group slots of a partition's range on a core, for a context. -/
def State.freeSlots (s : State) (p : Part) (ctx c : Nat) : Nat := p.quota.gsCnt - (s.held_ p.num ctx c).slots.length

/-- The best of a list under a measure, ties going to the lowest COREY, then COREX (R31, R32). -/
def bestCore (m : Nat → Nat) (l : List Nat) : Option Nat :=
  l.foldl (fun b c => match b with
    | none => some c
    | some d =>
      if m d < m c || (m c == m d && (coreY c < coreY d || (coreY c == coreY d && coreX c < coreX d))) then some c else b)
    none

/-- The core to which the next block of a task goes (R31). -/
def State.coreFor (s : State) (p : Part) (t : Task) : Option Nat :=
  bestCore (s.freeSlots p t.ctx) ((s.candidates p t).map (·.1))

/-- Whether a task still has blocks to launch, one at a time (R454). -/
def Task.launching (t : Task) : Bool :=
  !t.hdr.coop && (t.run.phase == .ready || t.run.phase == .running) && !t.run.lost && t.run.granted < t.hdr.nblk

/-- The order of R454: `a` is tried before `b`. -/
def Task.outranks (a b : Task) : Bool :=
  if a.hdr.prio != b.hdr.prio then b.hdr.prio < a.hdr.prio
  else if a.qprio != b.qprio then b.qprio < a.qprio
  else if a.dev != b.dev then b.dev
  else if a.queue != b.queue then a.queue < b.queue
  else a.seq < b.seq

/-- Whether the dispatcher of die `d` could place the next block of a task, or all of a cooperative one, now; where the id of one
is on its way, the block behind it (R454). -/
def State.placeable (s : State) (p : Part) (u : Task) (d : Nat) : Bool :=
  if u.hdr.coop then
    u.run.phase == .ready && u.run.granted == 0 && !s.coopUnfit p u && (s.coopNow p u).isSome && u.coopCores.any fun c => coreDie c == d
  else u.launching && u.run.granted + u.run.ask.isSome.toNat < u.hdr.nblk && (s.coreFor p u).map coreDie == some d

/-- Whether a higher task of the context could place its next block on the die of core `c` now (R454). -/
def State.preempted (s : State) (p : Part) (t : Task) (c : Nat) : Bool :=
  s.tasks.any fun u => u.part == t.part && u.ctx == t.ctx && u.outranks t && s.placeable p u (coreDie c)

/-! ### Placement (R54, R87, R362, R51) -/

/-- A group as a placement leaves it (R37, R54); DIST of its first instruction counts from the placement's cycle (log 51). -/
def Group.placed (uid block core gslot gindex nregs entry now clk : Nat) : Group :=
  { uid := uid, block := block, core := core, gslot := gslot, gindex := gindex, v := List.replicate nregs (rowOf 0),
    a := List.replicate 32 { base := 0, stride := 0, w := false }, s := List.replicate 64 0, p := List.replicate 7 0,
    flags := 0, edge := 0, frm := 0, status := 0, live := allLanes,
    active := [{ pc := BitVec.ofNat 57 entry, mask := allLanes, lc := 0, hold := false, last := none, prev := now,
                 ready := now + 1, fetched := false }],
    parked := [], rets := [], h := List.replicate 8 (rowOf 0), hs := List.replicate 8 0, handler := none, invs := 0,
    pend := [], reqs := [], slotOps := [], seq := 0, last := none, lastCtx := clk, passed := 0, yielded := none,
    sleep := 0, issued := 0, wait := .none, deferred := [], barLast := List.replicate 16 none, poison := [],
    halted := false }

/-- A block as a placement leaves it (R118, R175, R185, R362). -/
def Block.placed (uid : Nat) (t : Task) (blkid core : Nat) (r : Room) : Block :=
  { uid := uid, task := t.uid, part := t.part, ctx := t.ctx, blkid := blkid, core := core, slots := r.slots,
    runs := r.runs, accs := r.accs, nacc := t.kd.nacc, scrSize := t.kd.scratch, scr := [], scrBad := [], stk := [],
    tiles := [], tileBad := [], token := none, tokWait := [], batch := 0, unb := [],
    bars := List.replicate 16 { pmask := BitVec.ofNat 8 (2 ^ t.kd.ngrp - 1), amask := 0, phase := 0 },
    gbar := [], rbar := [], rbarLvl := none, rbarDone := [0, 0, 0], work := none, suspended := false }

/-- A block of a task placed on a core: all its groups at once; the L1 gives its rows back first (R23, R29, R121). -/
def State.place (s : State) (t : Task) (blkid core : Nat) (r : Room) : State :=
  let bu := s.uid
  let clk := ((s.ctx? t.part t.ctx).map (·.clk)).getD 0
  let gs := (r.slots.zip (List.range t.kd.ngrp)).map fun (sl, i) =>
    Group.placed (bu + 1 + i) bu core sl i t.kd.nregs t.kd.entry s.now clk
  let s := { s with uid := bu + 1 + t.kd.ngrp, blocks := s.blocks ++ [Block.placed bu t blkid core r],
                    groups := s.groups ++ gs }
  let s := s.putCore core (s.core core)
  s.l1Fit t.part core (s.l1Cap t.part core)

/-- The cores of the cluster of a core (R13). -/
def clusterOf (c : Nat) : List Nat := (List.range 8).map fun k => coreAt (coreX c / 4 * 4 + k % 4) (coreY c / 2 * 2 + k / 4)

/-- The cores whose L1 serves a block of a context on core `c` (R100, R125): the cluster's, where it is fused. -/
def State.served (s : State) (part ctx c : Nat) : List Nat := if s.fused part ctx c then clusterOf c else [c]

/-- A task as a block of it starts on a core. -/
def TaskRun.place (r : TaskRun) (cores : List Nat) : TaskRun :=
  { r with phase := .running, cores := r.cores ++ cores.filter (!r.cores.contains ·) }

/-- R29, R31, R51: a core that has a granted id gets its block; else a die dispatcher that has found a core asks the
leader, which sends its counter to the mirror. -/
def execBlockPlace (t core : Nat) (s : State) : Outcome State Fault Refusal :=
  match s.task? t with
  | none => .next s
  | some x =>
    match s.part? x.part with
    | none => .next s
    | some p =>
      if !s.ctxRuns x.part x.ctx then .next s
      else match x.run.grant with
        | some (id, c) =>
          match s.roomFor p x core with
          | some r =>
            if c != core || s.inTransit (.grant t) then .next s
            else .next ((s.putRun x { x.run.place (s.served x.part x.ctx core) with grant := none }).place x id core r)
          | none => .next s
        | none =>
          if !x.launching || x.run.ask.isSome || s.coreFor p x != some core || s.preempted p x core then .next s
          else
            .next ((s.putRun x { x.run with
              ask := some (coreDie core, core)
              sent := x.run.mirror.map fun _ => x.run.granted + 1 }).carry
                { src := coreDie core, dst := x.run.leader, vc := 3, kind := .ask t })

/-- Whether a launch has something on its way to its mirror, or, where that is gone, to be performed without it. -/
def TaskRun.sends (r : TaskRun) : Bool := r.sent.isSome || r.csent.isSome || !r.rsent.isEmpty || r.csrSent.isSome

/-- What a launch has to tell its mirror now. -/
def TaskRun.telling (r : TaskRun) : Told := { sent := r.sent, csent := r.csent, rsent := r.rsent, csrSent := r.csrSent }

/-- A launch whose mirror has acknowledged what it was told (R51, R52, R205, R366, R456); what has been added since waits for its
own. -/
def TaskRun.acknowledged (r : TaskRun) (w : Told) : TaskRun :=
  let r := { r with told := none, acked := w.sent.getD r.acked, sent := if r.sent == w.sent then none else r.sent,
                    mirrorNew := false, cursor := w.csrSent.getD r.cursor,
                    csrSent := if r.csrSent == w.csrSent then none else r.csrSent,
                    rsent := r.rsent.filter (!w.rsent.contains ·) }
  if w.csent.isSome && r.csent == w.csent then r.passDone else r

/-- Whether what a launch's mirror has been told, or its acknowledgement, is on its way. -/
def State.telling (s : State) (t : Nat) : Bool := s.inTransit (.tell t) || s.inTransit (.ack t)

/-- R51, R205, R498: the leader tells its mirror a counter, a pass of the commit position, counts of `rbar` and the cursor, and
they are performed when it has acknowledged them; a launch without mirror performs them at once. -/
def execMirrorAck (t : Nat) (s : State) : Outcome State Fault Refusal :=
  match s.task? t with
  | none => .next s
  | some x =>
    match x.run.mirror, x.run.told with
    | some m, none =>
      .next (if s.inTransit (.ask t) then s else (s.putRun x { x.run with told := some x.run.telling }).carry { src := x.run.leader, dst := m, vc := 3, kind := .tell t })
    | _, w =>
      let w := w.getD x.run.telling
      .next (if s.telling t then s else ((s.putRun x (x.run.acknowledged w)).commitTell t x.run.commit).rbarAck x w.rsent)

/-- Whether the leader may grant (R51): the mirror, where there is one, has acknowledged the new counter. -/
def TaskRun.mayGrant (r : TaskRun) : Bool := r.sent.isNone && (r.mirror.isNone || r.acked == r.granted + 1)

/-- R51: the lowest id not yet granted goes to the die that asked; every held core is released (R32). -/
def execIdGrant (t die : Nat) (s : State) : Outcome State Fault Refusal :=
  match s.task? t with
  | none => .next s
  | some x =>
    match x.run.ask with
    | none => .next s
    | some (d, c) =>
      if d != die || !x.run.mayGrant || x.run.lost || s.inTransit (.ask t) then .next s
      else .next ((s.putRun x { x.run with granted := x.run.granted + 1, ask := none, grant := some (x.run.granted, c),
                                           held := [], waitFrom := s.now }).carry
        { src := x.run.leader, dst := die, vc := 3, kind := .grant t })

/-! ### The launch of a cooperative task (R26, R27, R125) -/

/-- The other tasks of a context whose blocks' sectors a fusion spreads over their cluster (R100, R125). -/
def State.widen (s : State) (x : Task) : State :=
  let rect := x.rectCores
  let more (t : Task) : List Nat :=
    ((s.blocks.filter fun b => b.task == t.uid && rect.contains b.core).map (·.core)).flatMap clusterOf
  let wide (t : Task) : Task :=
    let new := (more t).eraseDups.filter fun c => !t.run.cores.contains c
    { t with run := { t.run with cores := t.run.cores ++ new } }
  { s with tasks := updIf (fun t => t.part == x.part && t.ctx == x.ctx) wide s.tasks }

/-- The ids of a cooperative task granted: the leader tells the other dies that get blocks, over CTL (R51, R498), and every held
core is released (R32); what they get is kept for them (`Task.coming`). -/
def State.coopGrant (s : State) (x : Task) : State :=
  let dies := (x.coopCores.map coreDie).eraseDups
  dies.foldl (fun s d => s.carry { src := x.run.leader, dst := d, vc := 3, kind := .grant x.uid })
    (s.putRun x { x.run with granted := x.hdr.nblk, held := [], waitFrom := s.now })

/-- The blocks of a cooperative task placed, in ascending ids (R26); a fused one's L1s are emptied first (R125). -/
def State.coopPlace (s : State) (x : Task) (l : List (Nat × Nat × Room)) : State :=
  let s := if x.kd.fused then x.rectCores.foldl (fun s c => s.l1Purge c (·.part == x.part)) (s.widen x) else s
  let cores := if x.kd.fused then x.rectCores else (x.coopCores.flatMap (s.served x.part x.ctx)).eraseDups
  (List.range x.hdr.nblk).foldl (fun s b =>
    match l.find? (·.1 == b) with
    | some (_, c, r) => s.place x b c r
    | none => s) (s.putRun x (x.run.place cores))

/-- R26, R27: the task is placed whole, in ascending ids, or refused with COOP_UNFIT.  Its mirror acknowledges the counter before
its ids are granted, and the grants reach the other dies before its blocks are placed (R51, R498; log 79). -/
def execCoopLaunch (t : Nat) (s : State) : Outcome State Fault Refusal :=
  match s.task? t with
  | none => .next s
  | some x =>
    match s.part? x.part with
    | none => .next s
    | some p =>
      if !x.hdr.coop || x.run.phase != .ready || !s.ctxRuns x.part x.ctx then .next s
      else if s.coopUnfit p x then .next (s.endTask t 0x17 0)
      else if x.run.granted == 0 then
        if x.coopCores.any (s.preempted p x) || (s.coopNow p x).isNone || x.run.sent.isSome then .next s
        else if x.run.mirror.isSome && x.run.acked != x.hdr.nblk then
          .next (s.putRun x { x.run with sent := some x.hdr.nblk })
        else .next (s.coopGrant x)
      else if s.inTransit (.grant t) then .next s
      else
        match s.coopRoom p x with
        | none => .next s
        | some l => .next (s.coopPlace x l)

/-! ### Held cores (R32) -/

/-- The rows of a partition's range on a core that no run of a context holds. -/
def State.freeRows (s : State) (p : Part) (ctx c : Nat) : Nat :=
  8 * p.quota.rowCnt - (s.held_ p.num ctx c).runs.foldl (fun n x => n + x.2) 0

/-- Whether the next block of a task has waited 64 µs (R32). -/
def State.waitedLong (s : State) (t : Task) : Bool :=
  (t.launching || (t.hdr.coop && t.run.phase == .ready && t.run.granted == 0)) && t.run.held.isEmpty && t.run.grant.isNone &&
    s.ctxRuns t.part t.ctx && t.run.waitFrom + s.cyclesOfUs 64 ≤ s.now

/-- R32: each die of the launch picks the core with the most free rows; a cooperative task holds its rectangle. -/
def execHeldCore (t : Nat) (s : State) : Outcome State Fault Refusal :=
  match s.task? t with
  | none => .next s
  | some x =>
    match s.part? x.part with
    | none => .next s
    | some p =>
      if !s.waitedLong x then .next s
      else
        let pick (d : Nat) : Option Nat :=
          bestCore (s.freeRows p x.ctx) (((List.range 48).map (48 * d + ·)).filter (s.coreOk p))
        .next (s.putRun x { x.run with
          waitFrom := s.now
          held := if x.hdr.coop then x.rectCores else (s.launchDies p x.hdr).filterMap pick })

/-! ### Retirement (R46, R455, R52) -/

/-- Whether a block's retirement waits for a request (R46): a `redo` partial, and what else is to land in memory or in a queue;
not for a read or an ordering whose group has retired. -/
def Req.lands (q : Req) : Bool := q.stores || q.kind == .spawn || q.kind == .cpy

/-- Whether a block can retire (R46): its groups have retired, its copies, matrix operations and stores are complete. -/
def State.canRetire (s : State) (b : Block) : Bool :=
  let k := s.core b.core
  !b.suspended && s.ctxRuns b.part b.ctx && (s.groupsOf b.uid).all (fun g => g.live == 0 && !g.reqs.any Req.lands) &&
    !(k.mq.any (·.block == b.uid)) && !(k.cq.any (·.block == b.uid))

/-- A task whose last block is gone goes to its end actions (R455), with SLOT_SUSPECT or DIE_LOST where they hold
(R172, R52). -/
def State.lastBlock (s : State) (u : Nat) : State :=
  match s.task? u with
  | none => s
  | some t =>
    let left := s.blocks.any (·.task == u) || (t.run.lost && t.run.grant.isSome)
    if left || t.run.phase != .running then s
    else if t.run.lost then s.endTask u 4 0
    else if t.run.retired.length == t.hdr.nblk then s.endTask u (if t.run.suspect then 6 else 0) 0
    else s

/-- A block of a task has retired, as its leader learns (R46, R498): the commit position passes it in its turn (R202), barriers
count it as arrived (R365), and the task whose last it was ends. -/
def State.retired (s : State) (u blkid : Nat) : State :=
  match s.task? u with
  | none => s
  | some t =>
    if t.run.phase != .running then s
    else (((s.putRun t (t.run.retire blkid)).commitTell u t.run.commit).rbarTestTask u).lastBlock u

/-- R46: the block's runs return; its die tells the leader over CTL, where that is another (R498). -/
def execBlockRetire (b : Nat) (s : State) : Outcome State Fault Refusal :=
  match s.block? b with
  | none => .next s
  | some x =>
    if !s.canRetire x then .next s
    else
      let s := s.dropBlock x
      match s.task? x.task with
      | none => .next s
      | some t =>
        if coreDie x.core == t.run.leader then .next (s.retired t.uid x.blkid)
        else .next (s.carry { src := coreDie x.core, dst := t.run.leader, vc := 3, kind := .retire t.uid x.blkid })

end Sys2Proof.Machine
end

