-- ==== Sys2Proof/Machine/Sparge.lean ====
section
/-! DEFINITION. The edge engine Sparge and the slots' configuration (spec 04 R100 to R115, 24 R455 to R457, 06 R171 to
R173, 26 R482, R483). -/

namespace Sys2Proof.Machine

open Host (Outcome)

/-! ### The measurement logs (R483) -/

/-- Appends an entry to the module log and, where it names an existing partition, to that partition's log. -/
def State.logEntry (s : State) (kind : Nat) (part : Option Nat) (slot image : Nat) (w : BitVec 48) (d : BitVec 384) :
    State :=
  let s := { s with fleet := { s.fleet with modlog := s.fleet.modlog.add kind (part.getD 0xFF) slot image w d } }
  match part.bind s.part? with
  | some p => s.putPart { p with log := p.log.add kind p.num slot image w d }
  | none => s

/-- DIEID and core-in-die as bytes 10 to 15 of an entry. -/
def placeBytes (die core : Nat) : BitVec 48 := BitVec.ofNat 48 (die + 256 * core)

/-! ### Work-list entries (R455 to R457) -/

/-- Whether a binding waits (R114): an earlier-due binding of the slot is not done, or a task of the partition holds the
slot with another image. -/
def State.bindWaits (s : State) (t : Task) (k : Nat) : Bool :=
  s.tasks.any fun u => u.uid != t.uid && u.part == t.part &&
    ((u.run.phase == .starting && u.run.due < t.run.due && u.hdr.slotimg.getD k 0 != 0 && !u.run.holds.contains k) ||
     (u.run.phase != .done && u.run.holds.contains k && u.hdr.slotimg.getD k 0 != t.hdr.slotimg.getD k 0))

/-- Whether every earlier REDUCE task of the queue has finished its FINAL (R112, R457). -/
def State.finalTurn (s : State) (t : Task) : Bool :=
  (s.earlier t).all fun u =>
    u.run.phase == .done || !(u.regions.any (·.mode == 5)) ||
      (u.run.phase == .ending && (u.run.status != 0 ||
        !((u.regions.drop u.run.cursor.record).any (·.mode == 5))))

/-- Whether Sparge has nothing to do on an entry but to wait for another task (R112, R114): such an entry takes none of the eight
places (DESIGN CHOICE, log 82: R457 does not say). -/
def State.spargeWaits (s : State) (t : Task) : Bool :=
  let c := t.run.cursor
  if c.action == 0 then
    t.hdr.slotimg.getD c.record 0 != 0 && t.run.kiln.isNone &&
      (s.bindWaits t c.record || (s.part? t.part).any (·.config.contains c.record))
  else c.action == 5 && !s.finalTurn t

/-- The tasks of a context on whose entries Sparge works: the first eight with actions to run, in the order in which they became
due (R457). -/
def State.spargeList (s : State) (part ctx : Nat) : List Task :=
  let l := s.tasks.filter fun t =>
    t.part == part && t.ctx == ctx && (t.run.phase == .starting || t.run.phase == .ending) && !s.spargeWaits t
  l.filter fun t => (l.filter fun u => u.run.due < t.run.due).length < 8

/-- The range of region i, explicit or implicit. -/
def Task.range (t : Task) (i : Nat) : Nat × Nat :=
  if i == 16 then (t.hdr.codeBase, t.hdr.codeLen)
  else if i == 17 then (t.hdr.argsBase, t.hdr.argsLen)
  else ((t.regions[i]?).map fun r => (r.base, r.ext)).getD (0, 0)

/-- Whether write-backs of the unit at a task's cursor are on their way to their home (R100, R113, R125): the action is done when
they have landed (R488). -/
def State.unitPends (s : State) (t : Task) : Bool :=
  let c := t.run.cursor
  let b := (t.range c.record).1
  let at_ (va n : Nat) : Bool := (s.translate t.part t.ctx va).any fun g =>
    s.backs fun _ x => x.part == t.part && x.pa / n == g.pa / n
  if c.action == 3 then at_ (b + 128 * c.unit) 128
  else if c.action == 2 || c.action == 4 then at_ ((b / 512 + c.unit) * 512) 512
  else c.action == 6 && t.hdr.coop && t.kd.fused && s.backs fun k x => x.part == t.part && t.rectCores.contains k

/-- Whether Sparge can run an action of a task now (R106, R457). -/
def State.spargeOn (s : State) (t : Task) (action : Nat) : Bool :=
  t.run.csrSent.isNone && t.run.cursor.action == action && t.run.phase == (if action ≤ 2 then .starting else .ending) && s.ctxRuns t.part t.ctx &&
    (s.spargeList t.part t.ctx).any (·.uid == t.uid) && !s.spargeWaits t && !s.unitPends t

/-- A unit done, but for the write-backs that it has sent: the task goes on when none is on its way. -/
def State.unitDone (s : State) (t next : Task) : State := if s.unitPends t then s else s.putTask next

/-- The cursor as R456 lays it out. -/
def SCursor.bits (c : SCursor) : BitVec 128 :=
  BitVec.ofNat 64 c.unit ++ (0 : BitVec 48) ++ BitVec.ofNat 8 c.action ++ (0 : BitVec 3) ++ BitVec.ofNat 5 c.record

/-! ### Start actions (R113, R114) -/

/-- Whether the start actions invalidate a region (R113): ARGS always; CODE, RD and RW under STARTINV. -/
def Task.startInv (t : Task) (i : Nat) : Bool :=
  if i == 17 then true
  else t.hdr.startinv && (i == 16 || ((t.regions[i]?).map fun r => r.mode == 1 || r.mode == 3).getD false)

/-- The INVSTART cursor from region `i` on; a task with none left is ready (R113, R453). -/
def Task.startFrom (t : Task) (now : Nat) : Nat → Nat → Task
  | 0, _ => { t with run := { t.run with phase := .ready, waitFrom := now } }
  | n + 1, i => if t.startInv i then t.at_ { record := i, action := 2, unit := 0 } else t.startFrom now n (i + 1)

/-- The PINIT cursor from record `i` on: the REDUCE records with a partial area, then INVSTART. -/
def Task.pinitFrom (t : Task) (now : Nat) : Nat → Nat → Task
  | 0, _ => t.startFrom now 18 0
  | n + 1, i =>
    match t.regions[i]? with
    | some r => if r.mode == 5 then t.at_ { record := i, action := 1, unit := 0 } else t.pinitFrom now n (i + 1)
    | none => t.startFrom now 18 0

/-- A task whose binding of slot `k` is done, or is none: the next slot, or PINIT after the last (R113, R456). -/
def Task.bindNext (t : Task) (now k : Nat) : Task :=
  if k + 1 < 8 then t.at_ { record := k + 1, action := 0, unit := 0 } else t.pinitFrom now 16 0

/-- A binding done: the task holds the slot, the BIND entry is in the logs (R482, R483), the cursor moves on. -/
def State.bound (s : State) (t : Task) (p : Part) (k id : Nat) : State :=
  let s := s.putTask ({ t with run := { t.run with holds := t.run.holds ++ [k], kiln := none } }.bindNext s.now k)
  s.logEntry 3 (some p.num) k id 0 (p.imageDigest id)

/-- R113, R114: the slot at the cursor is bound, or its reconfiguration begins. -/
def execBind (t : Nat) (s : State) : Outcome State Fault Refusal :=
  match s.task? t with
  | none => .next s
  | some x =>
    match s.part? x.part with
    | none => .next s
    | some p =>
      if !s.spargeOn x 0 then .next s
      else
        let k := x.run.cursor.record
        let id := x.hdr.slotimg.getD k 0
        if id == 0 then .next (s.putTask (x.bindNext s.now k))
        else if x.run.kiln.isSome then .next s
        else if p.slotImg.getD k 0 == id && !p.bare.any (·.2 == k) then .next (s.bound x p k id)
        else
          .next ((s.putRun x { x.run with kiln := some (k, s.now + s.cyclesOfUs 40) }).putPart
            { p with config := p.config ++ [k] })

/-- The bytes of an identity in a sector of a partial area (R108, R113): every element byte of the sector. -/
def Region.identBytes (r : Region) (unit : Nat) : List Byte :=
  let sz := etySize r.ety
  let o := 128 * unit % r.rowStride
  let n := min 128 (r.ext - o)
  (List.replicate (n / sz) (bytesOf sz (redIdent r.op (etyType r.ety)).toNat)).flatten

/-- R113: one sector of a partial area. -/
def execPinit (t : Nat) (s : State) : Outcome State Fault Refusal :=
  match s.task? t with
  | none => .next s
  | some x =>
    let c := x.run.cursor
    match x.regions[c.record]? with
    | none => .next s
    | some r =>
      if !s.spargeOn x 1 then .next s
      else
        let s := match s.upPage x.part x.ctx (r.pbase + 128 * c.unit) with
          | some p => s.homeWrite x.part p.pa (r.identBytes c.unit)
          | none => s
        if 128 * (c.unit + 1) < x.hdr.nblk * r.rowStride then .next (s.putTask (x.at_ { c with unit := c.unit + 1 }))
        else .next (s.putTask (x.pinitFrom s.now (15 - c.record) (c.record + 1)))

/-- The L1s of cores that a test accepts, with the sectors of one 512-byte line written back and dropped (R100; under R113
log 58); a sector of STACK is left alone (R88). -/
def State.dropLine (s : State) (part ctx va : Nat) (p : Nat → Bool) : State :=
  match s.translate part ctx va with
  | none => s
  | some g => (s.coreNums.filter p).foldl (fun s c => s.l1Purge c fun x => x.part == part && x.stack.isNone && x.pa / 512 == g.pa / 512) s

/-- The number of lines a range touches. -/
def lineCount (base ext : Nat) : Nat := (base + ext - 1) / 512 - base / 512 + 1

/-- R113, R115: one line of a start range in every L1 of the context. -/
def execInvstart (t : Nat) (s : State) : Outcome State Fault Refusal :=
  match s.task? t with
  | none => .next s
  | some x =>
    let c := x.run.cursor
    if !s.spargeOn x 2 then .next s
    else
      let (base, ext) := x.range c.record
      let s := s.dropLine x.part x.ctx ((base / 512 + c.unit) * 512) fun _ => true
      .next (s.unitDone x (if c.unit + 1 < lineCount base ext then x.at_ { c with unit := c.unit + 1 }
        else x.startFrom s.now (17 - c.record) (c.record + 1)))

/-! ### End actions (R100 to R105) -/

/-- R100, R105: one sector of a WR or RW range, in every L1 that served the task's blocks; which of two blocks' values of
one byte then stands (R124) is free (log 46). -/
def execFlush (t : Nat) (s : State) : Outcome State Fault Refusal :=
  match s.task? t with
  | none => .next s
  | some x =>
    let c := x.run.cursor
    if !s.spargeOn x 3 then .next s
    else
      let (base, ext) := x.range c.record
      let s := match s.translate x.part x.ctx (base + 128 * c.unit) with
        | some g => ((s.coreNums.filter (x.run.cores.contains ·)).rotateLeft (Config.flushLast x.uid c.unit)).foldl
            (fun (s : State) k => s.l1Clean k fun y => y.part == x.part && y.stack.isNone && y.pa / 128 == g.pa / 128) s
        | none => s
      .next (s.unitDone x (x.at_ (if 128 * (c.unit + 1) < ext then { c with unit := c.unit + 1 }
        else { record := c.record, action := 4, unit := 0 })))

/-- R100: one line of the range in every other L1 of the context, written bytes written back first. -/
def execInval (t : Nat) (s : State) : Outcome State Fault Refusal :=
  match s.task? t with
  | none => .next s
  | some x =>
    let c := x.run.cursor
    if !s.spargeOn x 4 then .next s
    else
      let (base, ext) := x.range c.record
      let s := s.dropLine x.part x.ctx ((base / 512 + c.unit) * 512) fun k => !x.run.cores.contains k
      .next (s.unitDone x (x.at_ (if c.unit + 1 < lineCount base ext then { c with unit := c.unit + 1 }
        else x.endFrom 17 (c.record + 1))))

/-- T(lo, n) of R111 over the partials of element e: `f` is ⊕ and `g` reads a partial; `fuel` bounds the depth. -/
def finalTree (f : Dword → Dword → Dword) (g : Nat → Dword) : Nat → Nat → Nat → Dword
  | 0, lo, _ => g lo
  | d + 1, lo, n =>
    if n ≤ 1 then g lo
    else f (finalTree f g d lo ((n + 1) / 2)) (finalTree f g d (lo + (n + 1) / 2) (n / 2))

/-- The value at a virtual address at its home, a free value where no entry maps it or its die is fenced (log 21). -/
def State.valueAt (s : State) (t : Task) (va n : Nat) : Dword :=
  match s.upPage t.part t.ctx va with
  | some p => dw (leOf (s.homeRead t.part p.pa n))
  | none => Config.unmappedValue va

/-- The finalised value of the element of a region at an address (R111). -/
def State.finalValue (s : State) (t : Task) (r : Region) (a : Nat) : Dword :=
  let sz := etySize r.ety
  let ty := etyType r.ety
  let f (x y : Dword) : Dword := (redOp r.op ty x y).x
  let v := finalTree f (fun b => s.valueAt t (r.pbase + b * r.rowStride + (a - r.base)) sz) 64 0 t.hdr.nblk
  if r.init == 1 then f v (s.valueAt t a sz) else v

/-- R111, R112: one sector of a REDUCE region. -/
def execFinal (t : Nat) (s : State) : Outcome State Fault Refusal :=
  match s.task? t with
  | none => .next s
  | some x =>
    let c := x.run.cursor
    match x.regions[c.record]? with
    | none => .next s
    | some r =>
      if !s.spargeOn x 5 then .next s
      else
        let sz := etySize r.ety
        let lo := max r.base ((r.base / 128 + c.unit) * 128)
        let hi := min (r.base + r.ext) ((r.base / 128 + c.unit + 1) * 128)
        let elems := (List.range ((hi - lo) / sz)).map fun i => lo + i * sz
        let s' := elems.foldl (fun s' a =>
          match s.upPage x.part x.ctx a with
          | some p => s'.homeWrite x.part p.pa (bytesOf sz (s.finalValue x r a).toNat)
          | none => s') s
        .next (s'.putTask (x.at_ (if hi < r.base + r.ext then { c with unit := c.unit + 1 }
          else x.endFrom 17 (c.record + 1))))

/-- R103, R125: the record, the counter, and the end of fusion; a reconfiguration that has begun ends first (R114). -/
def execComplete (t : Nat) (s : State) : Outcome State Fault Refusal :=
  match s.task? t with
  | none => .next s
  | some x =>
    if !s.spargeOn x 6 || x.run.kiln.isSome then .next s
    else
      let s := if x.hdr.coop && x.kd.fused then
          x.rectCores.foldl (fun s c => s.l1Purge c (·.part == x.part)) s else s
      .next (if s.unitPends x then s else s.completeTask t)

/-! ### Fenced cores (R15, R173, R497) -/

/-- A task that has lost a block grants no further ids and will complete with DIE_LOST, once the blocks that it was granted on
other dies and cores have run (R52, R497); a cooperative one ends at once (R365). -/
def State.loseTask (s : State) (u : Nat) : State :=
  match s.task? u with
  | none => s
  | some t =>
    if t.run.phase == .ending || t.run.phase == .done then s
    else if t.hdr.coop || t.run.phase != .running then s.endTask u 4 0
    else
      let grant := t.run.grant.filter fun g => !s.deadCores.contains g.2 && !s.deadDies.contains (coreDie g.2)
      (s.putRun t { t.run with lost := true, ask := none, grant := grant, sent := none, held := [] }).lastBlock u

/-- A task ends with a status; one whose end actions run keeps on without FINAL (R104, R459): DIE_LOST and CONTEXT_LOST replace
whatever status it had (R459, R471). -/
def State.failTask (s : State) (status : Nat) (t : Task) : State :=
  if t.run.phase == Phase.ending then
    if t.run.status != 0 && status != 4 && status != 5 then s
    else
      let t := { t with run := { t.run with status := status } }
      let c := t.run.csrSent.getD t.run.cursor
      s.putTask (if c.action == 5 then t.at_ (t.endFrom 17 (c.record + 1)) else t)
  else s.endTask t.uid status 0

/-- A core fenced: its blocks are lost, no block is placed on it again, and no id is asked for it (R497). -/
def State.fenceCore (s : State) (c : Nat) (d : BitVec 384) : State :=
  if s.deadCores.contains c then s
  else
    let lost := s.blocks.filter (·.core == c)
    let grants := s.tasks.filter fun t => (t.run.grant.map (·.2)) == some c
    let asks (t : Task) : Bool := (t.run.ask.map (·.2)) == some c
    let s := { s with deadCores := s.deadCores ++ [c]
                      tasks := updIf asks (fun t => { t with run := { t.run with ask := none } }) s.tasks }
    let s := lost.foldl (fun s b => s.dropBlock b) s
    let s := s.putL1 c []
    let s := s.logEntry 5 none 0xFF 0 (placeBytes (coreDie c) (c % 48)) d
    ((lost.map (·.task)) ++ grants.map (·.uid)).eraseDups.foldl (fun s u => s.loseTask u) s

/-! ### Slots: binding ends, readback, reload (R114, R171 to R173, R482) -/

/-- R114, R482: the reconfiguration of a task ends: the slot is BOUND; a task that has ended meanwhile does not hold it.
Where the slot held the image already, only the cores that a resize had added were configured (log 60). -/
def State.slotDone (s : State) (x : Task) : State :=
  match s.part? x.part, x.run.kiln with
  | some p, some (k, _) =>
    let id := x.hdr.slotimg.getD k 0
    let p' := { p with slotImg := p.slotImg.set k id, config := p.config.filter (· != k), bare := p.bare.filter (·.2 != k) }
    let p' := if p.slotImg.getD k 0 == id then p' else
      { p' with corrupt := p.corrupt.filter fun (_, j, _) => j != k, uses := p.uses.filter fun (_, j, _) => j != k }
    if x.run.phase == .starting then (s.putPart p').bound x p' k id
    else ((s.putPart p').putRun x { x.run with kiln := none }).logEntry 3 (some p.num) k id 0 (p.imageDigest id)
  | _, _ => s

/-- R114, R482: a reconfiguration of at most 40 µs ends; the cores in `bad` mismatched twice and are fenced. -/
def execReconfigurationDone (t : Nat) (bad : List Nat) (s : State) : Outcome State Fault Refusal :=
  match s.task? t with
  | none => .next s
  | some x =>
    match s.part? x.part, x.run.kiln with
    | some p, some (k, _) =>
      .next ((bad.filter fun c => p.dies.getLsbD (coreDie c)).foldl
        (fun s c => s.fenceCore c (p.imageDigest (x.hdr.slotimg.getD k 0))) (s.slotDone x))
    | _, _ => .next s

/-- The partition whose slot k a core holds, with its image (R461: slot masks on one die do not overlap). -/
def State.slotOwner (s : State) (core k : Nat) : Option Part :=
  s.parts.find? fun p => p.dies.getLsbD (coreDie core) && p.slotMask.getLsbD k && p.slotImg.getD k 0 != 0 &&
    !p.bare.contains (coreDie core, k)

/-- The results of a group after an operation on a slot, and what its lanes issued after it, are taken back (R171). -/
def Group.unpend (g : Group) (o : SlotOp) : List Pend :=
  let m := o.split.mask
  let mine (p : Pend) : Bool := p.seq == o.seq || o.inv.isSome || o.live == m
  let cut (p : Pend) (k : LaneMask) (w : LaneMask → Write) : Option Pend :=
    if k &&& ~~~m == 0 then none else some { p with w := w (k &&& ~~~m) }
  g.pend.filterMap fun p =>
    if p.seq < o.seq || p.inv != o.inv then some p
    else match p.w with
      | .v r k x => cut p k fun k => .v r k x
      | .p r k x => cut p k fun k => .p r k x
      | .h r k x => cut p k fun k => .h r k x
      | _ => if mine p then none else some p

/-- The flags that what is taken back had set, clear (R171). -/
def Group.unflag (g : Group) (o : SlotOp) : Group :=
  let back (p : Pend) : Bool :=
    o.seq ≤ p.seq && p.inv == o.inv && (p.seq == o.seq || o.inv.isSome || o.live == o.split.mask)
  (g.pend.filter fun p => p.w.clears && back p).foldl (fun g p => g.apply p.w) g

/-- The split of an operation back among the splits, its lanes out of the others. -/
def Group.restand (g : Group) (o : SlotOp) : Group :=
  let m := o.split.mask
  let strip (l : List Split) : List Split := (l.map fun y => { y with mask := y.mask &&& ~~~m }).filter (·.mask != 0)
  let cut (l : List RetEntry) (k : LaneMask) : List RetEntry :=
    (l.map fun e => { e with mask := e.mask &&& k }).filter (·.mask != 0)
  Group.parkExtra { g with
    active := strip g.active ++ [{ o.split with fetched := true }], parked := strip g.parked, live := g.live ||| m
    rets := if g.rets == o.rets then g.rets else cut g.rets (~~~m) ++ cut o.rets m }

/-- An operation on a slot after the lanes m are taken back to an earlier one: a later one goes on in its other lanes (R171). -/
def SlotOp.less (x : SlotOp) (o : SlotOp) : Option SlotOp :=
  let k := x.split.mask &&& ~~~o.split.mask
  if x.seq < o.seq then some x
  else if x.seq == o.seq || k == 0 then none
  else some { x with split := { x.split with mask := k }, live := x.live &&& ~~~o.split.mask }

/-- A request on its way without the lanes taken back to an operation on a slot before it (R171). -/
def Req.less (q : Req) (o : SlotOp) : Req :=
  let m := o.split.mask
  if o.seq < q.seq && q.inv == o.inv && q.st == .flying && q.accesses then
    { q with lanes := if q.uni then q.lanes else q.lanes.filter fun x => !m.getLsbD x.lane,
             mask := q.mask &&& ~~~m, cond := q.cond &&& ~~~m, split := q.split &&& ~~~m }
  else q

/-- The result and the flag of an operation on a slot dropped, all else of its group as it is. -/
def Group.dropOp (g : Group) (o : SlotOp) : Group :=
  { g with pend := g.pend.filter fun p => !(p.seq == o.seq && p.inv == o.inv), slotOps := g.slotOps.filter (·.seq != o.seq) }

/-- Whether an operation belongs to a handler invocation that has ended: nothing of it can be executed again. -/
def SlotOp.ended (o : SlotOp) (g : Group) : Bool := o.inv.isSome && o.inv != g.handler.map (·.inv)

/-- A group whose lanes of an operation on a slot stand at that operation again, with what they issued after it taken back:
results, transfers, divisions and requests on their way (R171; log 57: not what has left the group). -/
def Group.takeBack (g : Group) (o : SlotOp) (now : Nat) : Group :=
  let m := o.split.mask
  let gone (q : Req) : Bool := o.seq < q.seq && q.inv == o.inv && q.st == .flying && q.accesses && q.split &&& ~~~m == 0
  let g0 : Group := { g.unflag o with pend := g.unpend o, slotOps := g.slotOps.filterMap fun x => x.less o }
  let g := (g.reqs.filter gone).foldl (fun (g : Group) q => (g.unwait (· == .wcnt q.seq)).drop q now) g0
  let g : Group := { g with reqs := g.reqs.map fun q => Req.less q o }
  match g.handler with
  | some k =>
    if o.inv == some k.inv then { g with handler := some { k with split := { o.split with fetched := true } } }
    else g.restand o
  | none => g.restand o

/-- A group whose thread instructions in flight on slot k write nothing (R171), with the fault of each and the handler
invocation it belongs to: of a lane's instructions, its first.  That of a handler that has returned reaches the group at its next
issue (log 57). -/
def Group.revoke (g : Group) (k now : Nat) : Group × List (Option Nat × FaultInfo) :=
  (g.slotOps.filter fun o => o.slot == k && now < o.due).foldl (fun (g, l) o =>
    match g.slotOps.find? (·.seq == o.seq) with
    | some o =>
      if o.ended g then (g.dropOp o, l ++ [(o.inv, engineFault cSlotError k none)])
      else (g.takeBack o now, l ++ [(o.inv,
        { cause := cSlotError, fpc := o.split.pc, faddr := dw k, flane := o.split.mask, defer := false, fetch := false,
          mask := o.split.mask, next := o.next, req := none })])
    | none => (g, l)) (g, [])

/-- The faults of a mismatch reach a group (R171): the first that its present mode can take at once, the others after its
handler. -/
def State.mismatch (s : State) (k gu : Nat) : State :=
  match s.group? gu with
  | none => s
  | some g =>
    if g.live == 0 then s
    else
      let (g, l) := g.revoke k s.now
      match l.find? fun f => f.1 == g.handler.map (·.inv) with
      | some f => (s.putGroup { g with deferred := g.deferred ++ (l.erase f).map (·.2) }).takeFault
          { g with deferred := g.deferred ++ (l.erase f).map (·.2) } f.2
      | none => s.putGroup { g with deferred := g.deferred ++ l.map (·.2) }

/-- The slots a queued matrix operation names. -/
def MOp.slots (o : MOp) : List Nat :=
  match o.kind with | .loop _ _ a b => [a, b] | .out _ _ k _ => [k] | .zero => []

/-- The engine operations of a partition on slot k of a core discarded, block by block (R171, R190). -/
def State.discardSlot (s : State) (p : Part) (core k : Nat) : State :=
  let mine (o : MOp) : Bool := o.slots.contains k && ((s.block? o.block).map (·.part)) == some p.num
  (heads (·.block) ((s.core core).mq.filter mine) []).foldl (fun s o => s.discardM core o (engineFault cSlotError k o.inv)) s

/-- R171, R172: a clean readback forgets the uses before it; a mismatch marks the slot CORRUPT, faults what is in flight,
and the tasks that used it since the last clean readback are suspect. -/
def execSlotReadback (core k : Nat) (clean : Bool) (s : State) : Outcome State Fault Refusal :=
  match s.slotOwner core k with
  | none => .next { s with scan := s.scan.filter fun u => !(u.1 == core && u.2 == k) }
  | some p =>
    let here (u : Nat × Nat × Nat) : Bool := u.1 == core && u.2.1 == k
    let s := { s with scan := s.scan.filter fun u => !(u.1 == core && u.2 == k) }
    if p.config.contains k || p.corrupt.any here then .next s
    else if clean then .next (s.putPart { p with uses := p.uses.filter (!here ·) })
    else
      let us := (p.uses.filter here).map (·.2.2)
      let s := s.putPart { p with corrupt := p.corrupt ++ [(core, k, 0)], uses := p.uses.filter (!here ·) }
      let used (t : Task) : Bool := us.contains t.uid && t.run.phase != Phase.done
      let ending := s.tasks.filter fun t => used t && t.run.phase == Phase.ending
      let s := { s with tasks := updIf used (fun t => { t with run := { t.run with suspect := true } }) s.tasks }
      let s := ending.foldl (fun s t => match s.task? t.uid with
        | some t => s.failTask 6 t
        | none => s) s
      let s := s.discardSlot p core k
      let gs := s.groups.filter fun (g : Group) => g.core == core && ((s.block? g.block).map (·.part)) == some p.num
      let s := gs.foldl (fun s g => s.mismatch k g.uid) s
      .next (s.record { type := 4, part := some p.num, core := some core, detail := Config.recordDetail 4 k (p.slotImg.getD k 0) })

/-- R171, R173, R482: a clean reload makes the slot BOUND; a second failure fences the core. -/
def execKilnReloadDone (core k : Nat) (clean : Bool) (s : State) : Outcome State Fault Refusal :=
  match s.slotOwner core k with
  | none => .next s
  | some p =>
    match p.corrupt.find? fun u => u.1 == core && u.2.1 == k with
    | none => .next s
    | some (_, _, tries) =>
      let id := p.slotImg.getD k 0
      let rest := p.corrupt.filter fun u => !(u.1 == core && u.2.1 == k)
      let log (s : State) : State := s.logEntry 4 (some p.num) k id (placeBytes (coreDie core) (core % 48)) (p.imageDigest id)
      if clean then .next (log (s.putPart { p with corrupt := rest }))
      else if tries == 0 then .next (s.putPart { p with corrupt := rest ++ [(core, k, 1)] })
      else .next ((log (s.putPart { p with corrupt := rest })).fenceCore core (p.imageDigest id))

end Sys2Proof.Machine
end

