-- ==== Sys2Proof/Machine/Packets.lean ====
section
/-! DEFINITION. Request packets answered by the driver, and requests as a switch leaves and resumes them (spec 05 R137,
R139, 15 R345, 25 R467, R468, R470). -/

namespace Sys2Proof.Machine

open Host (Outcome)

/-! ### A switch takes and gives back requests (R468, R470) -/

/-- Whether a request completes before a halt: an atomic on its way (R148, R336), a store that has left for its home (R345). -/
def Req.atomic (q : Req) : Bool := q.st == .flying && ([ReqKind.atom, .red, .redo].contains q.kind || (q.stores && q.sent))

/-- A request of a group performed at once, where its order and the paths to its homes let it be: data that returns, a store or an
ordering, the pass of a `cmtp`, the image read of a `spawn`, and what is left of a copy. -/
def State.drainOne (s : State) (g : Group) (b : Block) (t : Task) (q : Req) : State :=
  if q.st != .flying || g.held q || !s.homesUp b q || s.reqPends b q || (q.stores && s.behindPass g q.born) then s
  else match q.kind with
    | .ld | .ldw | .atom => s.performLoad g b t q
    | .st | .stw | .red | .redo | .fence | .order | .cmtk | .bara | .barx | .exit => s.performStore g b t q
    | .cmtp => if s.canPass b t q then s.performPass g b t q else s
    | .spawn => if s.spawnFirst b q then s.performSpawn g b q else s
    | .cpy => s.finishCopy g.core q.gen
    | .wcnt | .fetch => s

/-- Requests of a group performed in the given order, each where it may be. -/
def State.drain (s : State) (gu : Nat) (b : Block) (t : Task) : List Req → State
  | [] => s
  | q :: l =>
    match s.group? gu, s.task? t.uid, s.block? b.uid with
    | some g, some t, some b => (s.drainOne g b t q).drain gu b t l
    | _, _, _ => s

/-- A request of a group performed at once, also one that a switch has made a packet, under the translation of now. -/
def State.drainAny (s : State) (gu n : Nat) : State :=
  match s.group? gu with
  | none => s
  | some g =>
    match g.reqs.find? (·.seq == n), s.block? g.block, s.taskOf g with
    | some q, some b, some t =>
      if q.st == .flying then s.drainOne g b t q
      else if q.st != .packet then s
      else
        match (if !q.accesses || q.lanes.isEmpty then .ok q.lanes else s.recheck g q) with
        | .error _ => s
        | .ok l => s.drainOne g b t { q with st := .flying, lanes := l }
    | _, _, _ => s

/-- The requests of the groups of a context that were issued up to a cycle, in the order of issue. -/
def State.issuedUpTo (s : State) (part ctx born : Nat) : List (Nat × Nat) :=
  let mine (g : Group) : Bool := (s.block? g.block).any fun b => b.part == part && b.ctx == ctx
  let l := (s.groups.filter mine).flatMap fun g => (g.inOrder.filter fun q => q.born ≤ born).map fun q => (q.born, g.uid, q.seq)
  (l.foldr (fun x l => l.takeWhile (fun y => y.1 < x.1) ++ x :: l.dropWhile fun y => y.1 < x.1) []).map (·.2)

/-- The requests of a group that complete before its halt completed at the home (R148, R345, R468), and before them whatever of the
group's order holds them back: its earlier requests, in issue order.  Where a `cmtp` or a `spawn` among those waits for other
groups (R203, R369), the earlier requests of the whole context are performed, twice over: what is issued in one cycle may wait for
what stands behind it in the list. -/
def State.finishAtomics (s : State) (g : Group) (b : Block) (t : Task) : State :=
  let l := g.inOrder
  let s' := s.drain g.uid b t (l.reverse.dropWhile (!·.atomic)).reverse
  match ((s'.group? g.uid).map fun x => x.reqs.filter (·.atomic)).getD [] with
  | [] => s'
  | q :: qs =>
    let all := s.issuedUpTo b.part b.ctx (qs.foldl (fun n x => max n x.born) q.born)
    (all ++ all).foldl (fun s x => s.drainAny x.1 x.2) s'

/-- A request turned into a packet (R345); what a copy is to move stands with the copy (R355). -/
def Req.pack (q : Req) : Req := if q.st == .flying && q.kind != .cpy then { q with st := .packet } else q

/-- The requests of a group as a halt leaves them: packets; a bundle that is on its way is asked for again later (R468). -/
def Group.packed (g : Group) : List Req := (g.reqs.filter fun q => q.kind != .fetch || q.st != .flying).map Req.pack

/-- Whether a request is saved as a packet's record: an access of a memory instruction or of a `spawn` that is a packet (R470). -/
def Req.saved (q : Req) : Bool := q.st != .flying && q.accesses && q.kind != .fetch

/-- The states of a request in the last bytes of its record: the packet's id, FADDR and FLANE, and the driver's answer, of which
R470 gives no layout (log 75). -/
def ReqState.bytes (st : ReqState) : List Byte :=
  match st with
  | .flying => bytesOf 36 0
  | .packet => bytesOf 36 1
  | .xlat id a fl => bytesOf 4 2 ++ bytesOf 8 id ++ bytesOf 8 a ++ bytesOf 12 fl.toNat ++ bytesOf 4 0
  | .replayed a fl => bytesOf 4 3 ++ bytesOf 8 0 ++ bytesOf 8 a ++ bytesOf 12 fl.toNat ++ bytesOf 4 0
  | .declined a fl => bytesOf 4 4 ++ bytesOf 8 0 ++ bytesOf 8 a ++ bytesOf 12 fl.toNat ++ bytesOf 4 0
  | .poisoned => bytesOf 36 5

/-- A field of 96 lanes, 8 bytes each, of a request's accesses (R470). -/
def Req.laneBytes (q : Req) (f : LaneReq → Nat) : List Byte :=
  (List.range 96).flatMap fun L => bytesOf 8 (((q.lanes.find? (·.lane == L)).map f).getD 0)

/-- The payload of a request's instruction as encoded: of a `spawn` the E format, its S and its queue (R239, R368). -/
def Req.payload (q : Req) : BitVec 40 :=
  if q.kind == .spawn then { d := 0, s := q.m.x, b := 0, c := 0, ext := q.m.b : EArgs }.bits else q.m.bits

/-- The 1,664 bytes of a saved packet (R470): its slot, group slot, flag, issue number, lane mask, addresses, data, and what
follows (log 75). -/
def Req.record (q : Req) (gslot : Nat) : List Byte :=
  let slot : BitVec 80 := BitVec.ofNat 8 q.op ++ q.head.bits ++ q.payload
  bytesOf 10 slot.toNat ++ bytesOf 1 gslot ++ bytesOf 1 q.flag ++ bytesOf 4 q.seq ++ bytesOf 12 q.mask.toNat ++
    List.replicate 36 0 ++ q.laneBytes (·.addr) ++ q.laneBytes (·.x.toNat) ++ bytesOf 8 0 ++ q.st.bytes ++ bytesOf 20 0

/-- A group resumes with its context (R467): its packets are reissued first, then recorded answers take effect. -/
def State.resumeGroup (s : State) (gu : Nat) : State :=
  match s.group? gu with
  | none => s
  | some g => (s.putGroup { g with halted := false }).pickUp gu

/-- The packet of an id within a partition: its group and request. -/
def State.packetOf (s : State) (part id : Nat) : Option (Group × Req) :=
  (s.groups.filter fun g => ((s.block? g.block).map (·.part)) == some part).findSome? fun g =>
    (g.reqs.find? fun q => match q.st with | .xlat i _ _ => i == id | _ => false).map fun q => (g, q)

/-- The paused copy of an id within a partition: its core and operation (R139). -/
def State.pausedOf (s : State) (part id : Nat) : Option (Nat × COp) :=
  s.cores.findSome? fun (c, k) =>
    (k.cq.find? fun o => o.paused == some id && ((s.block? o.block).map (·.part)) == some part).map fun o => (c, o)

/-- Whether the record of a packet still waits for room in its event ring: the packet is not answered before it is written (R441). -/
def State.unwritten (s : State) (id : Nat) : Bool := s.fns.any fun f => f.2.store.any fun r => replayOf r id

/-- The driver's answer to a packet (R137, R470), true for FAULT_REPLAY; none where the partition has no such packet.
While the context is halted, or while a handler runs that interrupted the packet's wait, it is recorded only (R390,
R470). -/
def State.answer (s : State) (part id : Nat) (again : Bool) : Option State :=
  match s.packetOf part id with
  | some (g, q) =>
    match q.st with
    | .xlat _ a fl =>
      if s.running g && q.inv == g.handler.map (·.inv) && s.ctxRuns part (((s.block? g.block).map (·.ctx)).getD 0) then
        some (if again then s.replay g q else s.decline g q cXlat a fl)
      else
        let st : ReqState := if again then .replayed a fl else .declined a fl
        some (s.putGroup { g with reqs := updIf (·.seq == q.seq) (fun q => { q with st := st }) g.reqs })
    | _ => none
  | none =>
    match s.pausedOf part id with
    | none => none
    | some (c, o) =>
      let k := s.core c
      if again then
        some (s.putCore c { k with cq := updIf (·.uid == o.uid) (fun o => { o with paused := none, ready := s.now, queued := s.now }) k.cq })
      else
        some (((s.putEngines c { k with cq := k.cq.filter (·.uid != o.uid) }).copyGone o).blame o.group
          (engineFault cXlat o.desc.gSpan.1.toNat o.inv))

end Sys2Proof.Machine
end

