-- ==== Sys2Proof/Machine/Partitions.lean ====
section
/-! DEFINITION. Contexts in turn: ticks, saves, restores, late dies, hand-over of a launch (spec 25 R462 to R473, 02 R48,
R52). -/

namespace Sys2Proof.Machine

open Host (Outcome)

/-! ### The choice of a context (R466) -/

/-- The dies that serve a partition. -/
def State.partDies (s : State) (p : Part) : List Nat := (List.range 32).filter (s.dieOk p)

/-- Whether a context is a candidate (R466): it has an uncompleted task (as one with a pending replay has) or an
unconsumed slot. -/
def State.ctxWaits (s : State) (part c : Nat) : Bool :=
  (s.ctx? part c).isSome &&
    (s.tasks.any (fun t => t.part == part && t.ctx == c && t.run.phase != Phase.done) ||
      s.queues.any (fun q => q.part == part && q.ctx == c && q.head < q.tail))

/-- The first candidate in ascending number after `last`, wrapping at 63 (R466). -/
def State.chooseCtx (s : State) (part last : Nat) : Option Nat :=
  ((List.range 64).map fun i => (last + 1 + i) % 64).find? (s.ctxWaits part)

/-- A partition whose cores are asked to switch. -/
def Part.startSwitch (p : Part) (c : Option Nat) (now : Nat) (saved : List Nat) : Part :=
  { p with switch := some { to_ := c, tick := now, saved := saved, late := [] } }

/-- Whether a partition's tick is due, or a first candidate of an idle partition switches in at once (R466). -/
def State.tickDue (s : State) (p : Part) : Bool :=
  s.clocked && !(s.partDies p).isEmpty &&
    (p.nextTick ≤ s.now || (p.resident.isNone && p.switch.isNone && (s.chooseCtx p.num 63).isSome))

/-- The lowest healthy die of a partition raises a tick on every other one, over CTL (R466, R488). -/
def State.sendTicks (s : State) (p : Part) : State :=
  match s.partDies p with
  | [] => s
  | d :: l => l.foldl (fun s e => s.carry { src := d, dst := e, vc := 3, kind := .tick p.num }) s

/-- Whether a switch asked of a partition has reached a die. -/
def State.ticked (s : State) (part die : Nat) : Bool := !s.away.any fun m => m.kind == .tick part && m.dst == die

/-- R466: a tick during a switch only keeps the 1 ms schedule. -/
def execGangTick (part : Nat) (s : State) : Outcome State Fault Refusal :=
  match s.part? part with
  | none => .next s
  | some p =>
    if !s.tickDue p then .next s
    else
      let p := if p.nextTick ≤ s.now then { p with nextTick := p.nextTick + s.cyclesOfUs 1000 } else p
      match p.switch, p.resident, s.chooseCtx part (p.resident.getD 63) with
      | none, some r, some c =>
        .next (if c == r then s.putPart p else (s.putPart (p.startSwitch (some c) s.now [])).sendTicks p)
      | none, none, some c => .next (s.putPart (p.startSwitch (some c) s.now (s.partDies p)))
      | _, _, _ => .next (s.putPart p)

/-! ### The halt and the save (R467 to R469, R126) -/

/-- Whether a group belongs to a block of a context that is not suspended. -/
def State.groupIn (s : State) (part : Nat) (ctx : Option Nat) (g : Group) : Bool :=
  match s.block? g.block with
  | some b => b.part == part && some b.ctx == ctx && !b.suspended
  | none => false

/-- Whether the atomics of a group can complete now (R148): one whose home cannot be reached waits for its route, and one with
`rel` behind a copy that cannot be finished waits for that (`State.finishCopy`; DESIGN CHOICE, log 71: R148 wants the atomic
performed before the halt, R355 and R468 stop the copy at a byte; the copy is moved to its end first). -/
def State.atomicsEnd (s : State) (g : Group) : Bool :=
  !g.reqs.any (·.atomic) || (match s.block? g.block, s.taskOf g with
    | some b, some t => (((s.finishAtomics g b t).group? g.uid).map fun x => !x.reqs.any (·.atomic)).getD true
    | _, _ => true)

/-- Whether a group can halt now (R468): a switch is requested of its context on its die, its vector instructions have completed
their beats, and its atomics can complete. -/
def State.canHalt (s : State) (g : Group) : Bool :=
  !g.halted && (g.pend.all fun x => x.at_ ≤ s.now) &&
    (s.parts.any fun p => p.switch.isSome && p.resident.isSome && s.groupIn p.num p.resident g &&
      s.ticked p.num (coreDie g.core)) && s.atomicsEnd g

/-- A group halted: its requests are packets, and what is left of a `sleep` goes (R378, R468). -/
def State.haltGroup (s : State) (gu : Nat) : State :=
  match s.group? gu with
  | none => s
  | some x => (s.putGroup { x with
      halted := true, sleep := 0, handler := x.handler.map fun k => { k with sleep := 0 },
      reqs := x.packed }).retest gu

/-- R468: atomics complete at the home; every other request becomes a packet; what is left of a `sleep` goes (R378). -/
def execGroupHalt (g : Nat) (s : State) : Outcome State Fault Refusal :=
  match s.group? g with
  | none => .next s
  | some x =>
    match s.block? x.block, s.taskOf x with
    | some b, some t =>
      if !s.canHalt x then .next s
      else .next ((s.finishAtomics x b t).haltGroup g)
    | _, _ => .next s

/-- Whether a core's engines have stopped for a switching partition: no matrix operation is in a step (R189). -/
def State.engineStopped (s : State) (p : Part) (c : Nat) : Bool :=
  match s.matrixTurn c with
  | some (_, b, _) => !(b.part == p.num && some b.ctx == p.resident)
  | none => true

/-- A copy of the partition that a core was moving stops (R355, R468). -/
def State.stopCopy (s : State) (p : Part) (c : Nat) : State :=
  match s.copyTurn c with
  | some (_, b, _, _) => if b.part == p.num && some b.ctx == p.resident then s.haltCopy c else s
  | none => s

/-- Whether what a partition's L1s on a die have written back is on its way (R126, R488). -/
def State.backsFrom (s : State) (p : Part) (die : Nat) : Bool := s.backs fun c x => x.part == p.num && coreDie c == die

/-- Whether a die can finish its save (R467): every group of the outgoing context on it is halted and its matrix engines
have stopped, and what its L1s wrote back has reached its homes. -/
def State.canSave (s : State) (p : Part) (w : Switch) (die : Nat) : Bool :=
  s.dieOk p die && !w.saved.contains die &&
    (s.groups.all fun g => coreDie g.core != die || !s.groupIn p.num p.resident g || g.halted) &&
    (s.coreNums.all fun c => coreDie c != die || s.engineStopped p c) && !s.backsFrom p die

/-- The packets of the outgoing context on a die written into its save area there (R467, R470). -/
def State.savePackets (s : State) (p : Part) (die : Nat) : State :=
  match p.resident.bind (s.ctx? p.num) with
  | none => s
  | some x =>
    let gs := s.groups.filter fun g => coreDie g.core == die && s.groupIn p.num p.resident g
    let new := gs.flatMap fun g => (g.reqs.filter (·.saved)).map fun q => (g.uid, q.record g.gslot)
    s.putCtx { x with saved := x.saved ++ new }

/-- R467, R126: copies stop, and then, as a fused cluster's share their L1s (R125), written L1 bytes go to their homes; when they
have arrived the save area is written. -/
def execDieSaveDone (part die : Nat) (s : State) : Outcome State Fault Refusal :=
  match s.part? part with
  | none => .next s
  | some p =>
    match p.switch with
    | none => .next s
    | some w =>
      if !s.canSave p w die then .next s
      else
        let s := (s.coreNums.filter fun c => coreDie c == die).foldl (fun s c => s.stopCopy p c) s
        let s := (s.coreNums.filter fun c => coreDie c == die).foldl (fun s c => s.l1Purge c fun x => x.part == part) s
        match s.part? part with
        | none => .next s
        | some p =>
          if s.backsFrom p die then .next s
          else .next ((s.putPart { p with switch := some { w with saved := w.saved ++ [die] } }).savePackets p die)

/-! ### Hand-over of a launch (R52, R473) -/

/-- A launch whose leader copies its counter to a new mirror before it grants again (R52): the lowest of `dies` beside its own. -/
def TaskRun.copyTo (r : TaskRun) (dies : List Nat) : TaskRun :=
  let m := dies.find? (· != r.leader)
  { r with mirror := m, acked := 0, mirrorNew := m.isSome, told := none, sent := m.map fun _ => r.granted + r.ask.isSome.toNat }

/-- A launch whose leader or mirror on `die` is gone, with `dies` left (R52): the mirror leads on from the counter it has
acknowledged, and the leader copies its counter to a new mirror before it grants again.  An id acknowledged and not yet
granted goes to the die that asked, and every held core is released (R32).  A mirror that had no copy yet, or a launch without one, grants no more.  What else was
on its way (`TaskRun.sends`) goes to the new mirror, or is performed without one. -/
def TaskRun.handOver (r : TaskRun) (dies : List Nat) (die : Nat) : TaskRun :=
  let r := { r with ask := r.ask.filter fun a => a.1 != die }
  if r.leader == die then
    match r.mirror with
    | none => { r with lost := true, ask := none, sent := none }
    | some m =>
      if r.mirrorNew || r.acked < r.granted then { r with lost := true, ask := none, sent := none, leader := m, mirror := none }
      else
        match r.ask with
        | some (_, c) =>
          if r.acked == r.granted + 1 then
            { r with leader := m, granted := r.granted + 1, grant := some (r.granted, c), ask := none, held := [] }.copyTo dies
          else { r with leader := m }.copyTo dies
        | none => { r with leader := m }.copyTo dies
  else if r.mirror == some die then r.copyTo dies
  else r

/-- A launch of which a resize has removed the leader or the mirror (R473): both still answer, so that the mirror, or else the
lowest of the dies left, leads on with nothing lost, and the next one becomes its mirror; with no die left it stays. -/
def TaskRun.moveTo (r : TaskRun) (dies : List Nat) : TaskRun :=
  if (dies.contains r.leader && r.mirror.all dies.contains) || dies.isEmpty then r
  else
    let first := ([r.leader] ++ r.mirror.toList).find? dies.contains
    { r with leader := first.getD (dies.headD r.leader) }.copyTo dies

/-- The hand-over of a task in a state where `die` serves it no longer. -/
def State.handOver (s : State) (die : Nat) (t : Task) : Task :=
  let dies := ((s.part? t.part).map fun p => s.launchDies p t.hdr).getD []
  let r := t.run.handOver (dies.filter (· != die)) die
  { t with run := if r.granted == t.run.granted then r else { r with waitFrom := s.now } }

/-- Whether a task has started its launch. -/
def Task.started (t : Task) : Bool := t.run.phase != Phase.waiting && t.run.phase != Phase.done

/-- A granted id whose core no longer serves it is taken back: it is the last granted, and no block has it. -/
def TaskRun.takeBack (r : TaskRun) (ok : Nat → Bool) : TaskRun :=
  match r.grant with
  | some (_, c) => if ok c then r else { r with grant := none, granted := r.granted - 1, acked := r.granted - 1 }
  | none => r

/-! ### The restore (R462, R467, R470, R472, R473) -/

/-- Whether the blocks of a partition may stand where they do (R473). -/
def State.standsOk (s : State) (p : Part) (b : Block) : Bool :=
  s.dieOk p (coreDie b.core) && p.quota.holds_ { slots := b.slots, runs := b.runs.filter (·.2 != 0), accs := b.accs }

/-- The blocks of a partition suspended or resumed as its die mask and quota now have it (R473). -/
def State.suspendBlocks (s : State) (p : Part) : State :=
  { s with blocks := updIf (fun b => b.part == p.num) (fun b => { b with suspended := !s.standsOk p b }) s.blocks }

/-- The launches of a partition handed over from dies that no longer serve it (R473). -/
def State.handOverAll (s : State) (p : Part) : State :=
  let f (t : Task) : Task :=
    let ask := t.run.ask.filter fun a => s.coreOk p a.2
    let r := { t.run with ask := ask, held := t.run.held.filter (s.coreOk p) }.takeBack (s.coreOk p)
    { t with run := r.moveTo (s.launchDies p t.hdr) }
  { s with tasks := updIf (fun t => t.part == p.num && t.started) f s.tasks }

/-- Engine operations of a context that may begin or go on from this cycle on. -/
def State.wakeEngines (s : State) (part ctx : Nat) : State :=
  let mine (u : Nat) : Bool := match s.block? u with | some b => b.part == part && b.ctx == ctx | none => false
  let f (k : Core) : Core :=
    { k with mq := updIf (fun o => mine o.block) (·.from_ s.now) k.mq, cq := updIf (fun o => mine o.block) (·.from_ s.now) k.cq }
  { s with cores := s.cores.map fun (c, k) => (c, f k) }

/-- Whether a bump of G waits for the scrubber (R464): a row on a core still carries the value that G would take. -/
def State.bumpWaits (s : State) (p : Part) : Bool :=
  s.cores.any fun c => c.2.left.contains (p.num, (p.genG + 1) % 32)

/-- What a bump of G makes stale (R462, R463): the sectors of a partition `p`, as it stands before the bump, in every L1, which are
gone; and the rows of its cores, which keep their tag until the scrubber clears them. -/
def State.staleL1 (s : State) (p : Part) : State :=
  let rows (c : Nat) (k : Core) : List (Nat × Nat) :=
    if p.dies.getLsbD (coreDie c) && !k.left.contains (p.num, p.genG) then k.left ++ [(p.num, p.genG)] else k.left
  { s with cores := s.cores.map fun (c, k) => (c, { k with l1 := k.l1.filter (fun x => x.part != p.num), left := rows c k }) }

/-- The tags that would hold up a bump cleared: the scrubber's pass, within a reset that waits for it (R464). -/
def State.clearLeft (s : State) (p : Part) : State :=
  { s with cores := s.cores.map fun (c, k) => (c, { k with left := k.left.filter (· != (p.num, (p.genG + 1) % 32)) }) }

/-- The new die mask and quota of a resize take effect (R472, step 5; R473).  On a die that joins the slots bound before are
UNBOUND (R169; log 60). -/
def State.applyResize (s : State) (p : Part) (dies : BitVec 32) (q : Quota) : State :=
  let new := (List.range 32).filter fun d => dies.getLsbD d && !p.dies.getLsbD d
  let set := (List.range 8).filter fun k => p.slotImg.getD k 0 != 0 || p.config.contains k
  let p := { p with dies := dies, quota := q, resize := some (dies, q, true),
                    outDies := p.outDies.filter fun d => !dies.getLsbD d
                    bare := (p.bare.filter fun x => dies.getLsbD x.1) ++ new.flatMap fun d => set.map fun k => (d, k)
                    corrupt := p.corrupt.filter fun x => dies.getLsbD (coreDie x.1) }
  let s := s.putPart p
  (s.suspendBlocks p).handOverAll p

/-- A partition with G bumped (R462). -/
def Part.bump (p : Part) : Part := { p with genG := (p.genG + 1) % 32 }

/-- R467, R464: every die has saved, G is bumped, and the incoming context goes on: packets first, then recorded answers. -/
def execContextRestore (part : Nat) (s : State) : Outcome State Fault Refusal :=
  match s.part? part with
  | none => .next s
  | some p =>
    match p.switch with
    | none => .next s
    | some w =>
      if !((s.partDies p).all w.saved.contains) || s.bumpWaits p then .next s
      else
        let same := p.resident == w.to_
        let s := s.staleL1 p
        let p := { p.bump with resident := w.to_, switch := none }
        let s := s.putPart p
        let s := match p.resize, same with
          | some (d, q, false), true => s.applyResize p d q
          | _, _ => s
        match w.to_ with
        | none => .next s
        | some c =>
          let s := match s.ctx? part c with
            | some x => s.putCtx { x with saved := [] }
            | none => s
          let gs := s.groups.filter (s.groupIn part (some c))
          .next (gs.foldl (fun s g => s.resumeGroup g.uid) (s.wakeEngines part c))

/-! ### Late dies (R471) -/

/-- Whether a die is still saving `us` microseconds after the tick. -/
def State.lateBy (s : State) (p : Part) (w : Switch) (die us : Nat) : Bool :=
  s.dieOk p die && !w.saved.contains die && w.tick + s.cyclesOfUs us ≤ s.now

/-- R471: the report; DIEID names the die, and COREX and COREY some core of it (log 22). -/
def execSwitchLate (part die : Nat) (s : State) : Outcome State Fault Refusal :=
  match s.part? part with
  | none => .next s
  | some p =>
    match p.switch with
    | none => .next s
    | some w =>
      if !s.lateBy p w die 200 || w.late.contains die then .next s
      else
        let s := s.putPart { p with switch := some { w with late := w.late ++ [die] } }
        .next (s.record { type := 6, part := some part, ctx := p.resident, core := some (48 * die + Config.lateCore die % 48) })

/-- Whether a task had a block on a die, or its entry, leader or mirror (R471, R496). -/
def State.touches (s : State) (die : Nat) (t : Task) : Bool :=
  t.started && (t.run.leader == die || t.run.mirror == some die ||
    s.blocks.any fun b => b.task == t.uid && coreDie b.core == die)

/-- R471, R443: the die is out of the partition, which a LINK record says; the outgoing context's tasks on it are lost, and every other context's blocks
there stay suspended. -/
def execLateDieFence (part die : Nat) (s : State) : Outcome State Fault Refusal :=
  match s.part? part with
  | none => .next s
  | some p =>
    match p.switch with
    | none => .next s
    | some w =>
      if !s.lateBy p w die 1000 then .next s
      else
        let hit := s.tasks.filter fun t => t.part == part && some t.ctx == p.resident && s.touches die t
        let s := hit.foldl (fun s t => (s.failTask 5 t)) s
        let p := { p with outDies := p.outDies ++ [die] }
        let s := s.putPart p
        let s := s.record { type := 7, part := some part, detail := Config.recordDetail 7 die 1 }
        .next ((s.suspendBlocks p).handOverAll p)

/-! ### The scrubber (R464) -/

/-- R463, R464: stale rows, sectors and LLC lines of a die are cleared with their tags.  A bump drops a partition's sectors at once
(`staleL1`), so what is left of those is only what belongs to no partition; and a row reads as zero to its next owner in any
case (`Group.placed`, `Block.placed`). -/
def execScrubPass (die : Nat) (s : State) : Outcome State Fault Refusal :=
  let f (k : Core) : Core := { k with l1 := k.l1.filter (fun x => (s.part? x.part).isSome), left := [] }
  .next { s with cores := s.cores.map fun (c, k) => (c, if coreDie c == die then f k else k)
                 llc := s.llc.filter fun l => !(l.die == die && s.llcStale l), scrub := s.scrub.filter (· != die) }

end Sys2Proof.Machine
end

