-- ==== Sys2Proof/Machine/Links.lean ====
section
/-! DEFINITION. Die links: flits, audits, retrains, links down, messages between dies, fenced dies (spec 27 R487 to R498).  Link l joins the two
dies of `linkDies l`; its directions are 2l, from the first to the second, and 2l + 1. -/

namespace Sys2Proof.Machine

open Host (Outcome)

/-! ### Flits (R487) -/

/-- Whether a flit's payload is an audit or an audit reply (R487). -/
def Flit.audit (f : Flit) : Bool := match f.body with | .audit _ | .reply _ _ => true | _ => false

/-- The 64 bits of a flit's header (R487). -/
def Flit.header (f : Flit) : BitVec 64 :=
  f.seq ++ f.ack ++ BitVec.ofBool f.nak ++ BitVec.ofBool f.audit ++ f.vc ++ f.rvc ++ f.rcnt ++ (0 : BitVec 26)

/-- The numbers that a message's kind is carried as (log 23). -/
def MsgKind.code (k : MsgKind) : Nat × Nat × Nat :=
  match k with
  | .req g n => (0, g, n)
  | .rsp g n => (1, g, n)
  | .data => (2, 0, 0)
  | .ask t => (3, t, 0)
  | .grant t => (4, t, 0)
  | .tell t => (5, t, 0)
  | .ack t => (6, t, 0)
  | .rbar t => (7, t, 0)
  | .tick p => (8, p, 0)
  | .wback c x => (9, c, x.pa)
  | .retire t b => (10, t, b)
  | .commit t => (11, t, 0)

/-- What a write-back carries beside (R488): its partition, which of the 128 bytes it writes, the bytes, the poisoned words. -/
def MsgKind.carried (k : MsgKind) : List Byte :=
  match k with
  | .wback _ x => bytesOf 1 x.part ++ bytesOf 16 x.dirty.toNat ++ x.bytes ++ bytesOf 2 x.bad.toNat
  | _ => []

/-- What the 240 payload bytes of a flit begin with; zeros follow (log 23: R487 to R490 give no layout). -/
def Body.head (b : Body) : List Byte :=
  match b with
  | .none => []
  | .audit a => (0 : Byte) :: a.map (BitVec.ofNat 8)
  | .reply v p => (1 : Byte) :: (v ++ p).map (BitVec.ofNat 8)
  | .msg m =>
    let (k, x, y) := m.kind.code
    [2, BitVec.ofNat 8 m.src, BitVec.ofNat 8 m.dst, BitVec.ofNat 8 k] ++ bytesOf 8 x ++ bytesOf 8 y ++ m.kind.carried

/-- Bytes 0 to 247 of a flit: its header and its payload (R487). -/
def Flit.covered (f : Flit) : List Byte :=
  let b := f.body.head.take 240
  bytesOf 8 f.header.toNat ++ b ++ List.replicate (240 - b.length) 0

/-- The CRC of a flit (R487). -/
def Flit.crc (f : Flit) : BitVec 64 := crc64 f.covered

/-- The 256 bytes of a flit (R487). -/
def Flit.bytes (f : Flit) : List Byte := f.covered ++ bytesOf 8 f.crc.toNat

/-! ### Sending (R487 to R489) -/

/-- The other direction of a link. -/
def otherDir (d : Nat) : Nat := if d % 2 == 0 then d + 1 else d - 1

/-- The die to which a direction leads, and that from which it comes. -/
def dirTo (d : Nat) : Nat := if d % 2 == 0 then (linkDies (d / 2)).2 else (linkDies (d / 2)).1

/-- See `dirTo`. -/
def dirFrom (d : Nat) : Nat := dirTo (otherDir d)

/-- Whether a direction can carry flits now. -/
def Link.open_ (l : Link) : Bool := !l.down && !l.training

/-- Whether a direction takes a flit more: a full replay buffer stops all sending (R489). -/
def Link.room (l : Link) : Bool := l.open_ && l.replay.length < 1024

/-- The channel whose freed slots a flit returns, with their number (R488): the lowest with any. -/
def Link.returns (l : Link) : Nat × Nat :=
  match (List.range 4).find? fun v => 0 < l.freed.getD v 0 with
  | some v => (v, min 255 (l.freed.getD v 0))
  | none => (0, 0)

/-- A receiver whose acknowledgement, NAK and freed slots a flit back takes along; what slots are left it owes at once. -/
def Link.returned (l : Link) (now : Nat) : Link :=
  let l := { l with freed := l.freed.modify l.returns.1 (· - l.returns.2) }
  { l with owe := if l.freed.any (0 < ·) then some now else none }

/-- Puts a flit on direction `d`, with what its side's receiver returns: acknowledgement, NAK and freed slots.  It takes the next
SEQ and stays in the replay buffer, as every flit does (R489). -/
def State.transmit (s : State) (d vc : Nat) (body : Body) : State :=
  let l := s.link d
  let r := s.link (otherDir d)
  let f : Flit := { seq := l.seq, ack := r.rxSeq, nak := r.nak, vc := BitVec.ofNat 2 vc, rvc := BitVec.ofNat 2 r.returns.1,
                    rcnt := BitVec.ofNat 8 r.returns.2, body := body }
  let l := { l with wire := l.wire ++ [(f, f.crc)], seq := l.seq + 1, replay := l.replay ++ [(f, 0)], since := l.since + 1,
                    lastAck := if l.replay.isEmpty then s.now else l.lastAck }
  (s.putLink d l).putLink (otherDir d) (r.returned s.now)

/-- Whether a payload flit may be sent on a channel (R488 to R490): not while an audit waits for its reply. -/
def Link.maySend (l : Link) (vc : Nat) : Bool := l.room && l.audit.isNone && vc < 4 && 0 < l.avail.getD vc 0

/-- A sender puts a payload flit on a channel, which lowers its available count by one (R488). -/
def State.sendFlit (s : State) (d vc : Nat) (m : Msg) : State :=
  let l := s.link d
  if !l.maySend vc then s
  else (s.putLink d { l with avail := l.avail.modify vc (· - 1) }).transmit d vc (.msg m)

/-! ### Receiving (R489) -/

/-- The flits of a replay buffer after those that an acknowledgement covers. -/
def dropAcked (ack : BitVec 12) (l : List (Flit × Nat)) : List (Flit × Nat) :=
  if l.any (·.1.seq == ack) then (l.dropWhile (·.1.seq != ack)).drop 1 else l

/-- The unacknowledged flits of direction `d` sent again from ACK + 1 (R489), each with what its side's receiver acknowledges
now. -/
def State.resendAll (s : State) (d : Nat) : State :=
  let l := s.link d
  let r := s.link (otherDir d)
  let again := l.replay.map fun (f, n) => ({ f with ack := r.rxSeq, nak := r.nak }, n + 1)
  s.putLink d { l with wire := l.wire ++ again.map (fun x => (x.1, x.1.crc)), replay := again, lastAck := s.now }

/-- Whether the oldest unacknowledged flit of a direction is on the wire: it answers a NAK already. -/
def Link.onWire (l : Link) : Bool :=
  match l.replay with
  | [] => true
  | x :: _ => l.wire.any (·.1.seq == x.1.seq)

/-- What an accepted flit's header tells the sender on its side, that of direction `d`: acknowledged flits, returned slots, a
replay (R487 to R489), which after a retrain waits for its audit (R492). -/
def State.heard (s : State) (d : Nat) (f : Flit) : State :=
  let l := s.link d
  let rest := dropAcked f.ack l.replay
  let l := if rest.length < l.replay.length then { l with replay := rest, acked := f.ack, lastAck := s.now } else l
  let l := { l with avail := l.avail.modify f.rvc.toNat (· + f.rcnt.toNat) }
  let s := s.putLink d l
  if f.nak && !l.resend && !l.onWire then s.resendAll d else s

/-- An accepted flit's payload at its receiver: a message takes a slot, an audit is to be answered, and a reply reaches the sender
on this side, unless it answers an audit that was given up (R491). -/
def State.take_ (s : State) (d : Nat) (f : Flit) : State :=
  match f.body with
  | .none => s
  | .msg _ => s.putLink d { s.link d with rx := (s.link d).rx ++ [f] }
  | .audit _ => s.putLink d { s.link d with asked := (s.link d).asked + 1 }
  | .reply v p =>
    let r := s.link (otherDir d)
    s.putLink (otherDir d)
      (if 0 < r.missed then { r with missed := r.missed - 1 }
       else if r.audit.isSome then { r with reply := some (v, p) } else r)

/-- R489, R490: the flit at the end of the wire, damaged on its way or not, is accepted where its CRC fits and its SEQ is the next,
else dropped with NAK set.  An acknowledgement is owed at once for a payload or a NAK, for a header alone within half the time
of R489 (log 23). -/
def execFlitReceive (d : Nat) (crcOk : Bool) (s : State) : Outcome State Fault Refusal :=
  let l := s.link d
  match l.wire with
  | [] => .next s
  | (f, c) :: w =>
    if !l.open_ || (s.link (otherDir d)).reply.isSome then .next s
    else
      let c := if crcOk then c else c ^^^ 1
      let owe (l : Link) (t : Nat) : Link := { l with owe := some (min t (l.owe.getD t)) }
      let l := { l with wire := w }
      if c != f.crc || f.seq != l.rxSeq + 1 then
        .next (s.putLink d (if l.nak then l else owe { l with nak := true } s.now))
      else
        let due := s.now + (if f.body == .none then s.cyclesOfUs 1 / 2 else 0)
        let s := s.putLink d (owe { l with rxSeq := f.seq, nak := false } due)
        .next ((s.heard (otherDir d) f).take_ d f)

/-- Whether the oldest unacknowledged flit has waited 1 µs (R489). -/
def State.replayDue (s : State) (l : Link) : Bool :=
  l.open_ && !l.replay.isEmpty && l.lastAck + s.cyclesOfUs 1 ≤ s.now

/-- R489. -/
def execReplayTimeout (d : Nat) (s : State) : Outcome State Fault Refusal :=
  .next (if s.replayDue (s.link d) then s.resendAll d else s)

/-! ### Audits (R490, R491) -/

/-- The slots that a channel's flits occupy at the receiver: O (R490). -/
def Link.occupied (l : Link) (v : Nat) : Nat := (l.rx.filter fun f => f.vc.toNat == v).length

/-- Whether an audit is due: 65,536 flits have been sent since the last, or a retrain has ended. -/
def Link.auditDue (l : Link) : Bool := l.room && l.audit.isNone && (65536 ≤ l.since || l.resend)

/-- R490, step 1. -/
def execAuditStart (d : Nat) (s : State) : Outcome State Fault Refusal :=
  let l := s.link d
  if !l.auditDue then .next s
  else
    let s := s.transmit d 3 (.audit l.avail)
    .next (s.putLink d { s.link d with audit := some s.now, since := 0, reply := none })

/-- The receiver's answer to an audit (R490, step 2): V and P, and P is 0.  Each audit that it has accepted gets its own. -/
def State.replyAudit (s : State) (d : Nat) : State :=
  let l := s.link d
  let vs := (List.range 4).map fun v => vcSlots.getD v 0 - l.occupied v
  (s.putLink d { l with freed := [0, 0, 0, 0], asked := l.asked - 1 }).transmit (otherDir d) 3 (.reply vs l.freed)

/-- An audit given up: its reply, when it comes, answers nothing. -/
def Link.noAudit (l : Link) : Link :=
  { l with audit := none, reply := none, missed := l.missed + (l.audit.isSome && l.reply.isNone).toNat }

/-- An audit that failed (R491): A is unchanged and a new audit follows. -/
def Link.auditFail (l : Link) : Link := { l.noAudit with badAudit := l.badAudit + 1, since := 65536 }

/-- R490, step 3; R491: the reply is applied. -/
def execAuditReply (d : Nat) (s : State) : Outcome State Fault Refusal :=
  let l := s.link d
  match l.reply with
  | none => .next s
  | some (vs, ps) =>
    if !l.open_ then .next s
    else if (List.range 4).any fun v => vcSlots.getD v 0 < vs.getD v 0 then .next (s.putLink d l.auditFail)
    else
      let wrong := (List.range 4).filter fun v => l.avail.getD v 0 + ps.getD v 0 != vs.getD v 0
      let s := wrong.foldl (fun s v => s.record { type := 7, detail := Config.recordDetail 7 (d / 2) v }) s
      let s := s.putLink d { l with avail := vs, audit := none, reply := none, badAudit := 0, resend := false }
      .next (if l.resend then s.resendAll d else s)

/-- Whether an audit has waited 4 µs for its reply (R491). -/
def State.auditLate (s : State) (l : Link) : Bool :=
  l.open_ && l.reply.isNone && (match l.audit with | some t => t + s.cyclesOfUs 4 ≤ s.now | none => false)

/-- R491. -/
def execAuditTimeout (d : Nat) (s : State) : Outcome State Fault Refusal :=
  let l := s.link d
  .next (if s.auditLate l then s.putLink d l.auditFail else s)

/-! ### Retrains (R492) -/

/-- Both directions of the link of a direction changed alike. -/
def State.bothDirs (s : State) (d : Nat) (f : Link → Link) : State :=
  let e := d / 2 * 2
  (s.putLink e (f (s.link e))).putLink (e + 1) (f (s.link (e + 1)))

/-- R492: loss of lock, or eight resends of a flit: everything stays frozen, and an audit is abandoned (R491). -/
def execRetrain (d : Nat) (s : State) : Outcome State Fault Refusal :=
  if !(s.link d).open_ then .next s
  else .next (s.bothDirs d fun l => { l.noAudit with training := true })

/-- R492: a retrain that locked is followed by the audit and the resend; one that failed is retried, and counted for 1 ms. -/
def execRetrainComplete (d : Nat) (locked : Bool) (s : State) : Outcome State Fault Refusal :=
  if !(s.link d).training then .next s
  else if locked then
    .next (s.bothDirs d fun l =>
      { l with training := false, resend := true, replay := l.replay.map (fun x => (x.1, 0)), lastAck := s.now })
  else
    let ms := s.cyclesOfUs 1000
    .next (s.bothDirs d fun l => { l with fails := l.fails.filter (fun t => s.now < t + ms) ++ [s.now] })

/-! ### Routes (R493) -/

/-- The dies beside a die over up links, with the direction that leads there; vertical links first (log 24), then the
lowest. -/
def State.hops (s : State) (d : Nat) : List (Nat × Nat) :=
  ((List.range 24).map (28 + ·) ++ List.range 28).filterMap fun l =>
    let (a, b) := linkDies l
    if !s.linkUp l then none
    else if a == d then some (2 * l, b)
    else if b == d then some (2 * l + 1, a) else none

/-- Whether `t` lies within `n` hops of the dies of a mask. -/
def State.within (s : State) (t : Nat) : Nat → BitVec 32 → Bool
  | 0, m => m.getLsbD t
  | n + 1, m => m.getLsbD t || s.within t n (s.spread m)

/-- The number of hops of a shortest path, none where no path is (R493). -/
def State.distance (s : State) (d t : Nat) : Option Nat := (List.range 32).find? fun n => s.within t n (BitVec.twoPow 32 d)

/-- The first direction of the path from a die to another (R493). -/
def State.route (s : State) (d t : Nat) : Option Nat :=
  match s.distance d t with
  | none => none
  | some n => ((s.hops d).find? fun (_, e) => (s.distance e t).any fun m => m + 1 == n).map (·.1)

/-! ### Links down (R494) -/

/-- Whether a link must go down: a third failed audit in a row or a third retrain failed within 1 ms (R491, R492). -/
def State.downDue (s : State) (l : Nat) : Bool :=
  let f (x : Link) : Bool := !x.down && (3 ≤ x.badAudit || 3 ≤ x.fails.length)
  f (s.link (2 * l)) || f (s.link (2 * l + 1))

/-- R494: the record; both sides stop; what the receivers have not accepted waits at its die for new routes. -/
def execLinkDown (l : Nat) (s : State) : Outcome State Fault Refusal :=
  if !s.downDue l then .next s
  else
    let s := s.record { type := 7, detail := Config.recordDetail 7 l 0 }
    .next (s.bothDirs (2 * l) fun x =>
      { x with down := true, training := false, wire := [], audit := none, reply := none, owe := none, asked := 0,
               replay := dropAcked x.rxSeq x.replay })

/-- The message of a flit. -/
def Flit.msg (f : Flit) : Option Msg := match f.body with | .msg m => some m | _ => none

/-- R493, R494: new routes on every die: what waits at the dead links is injected again at its die, toward where it was to go. -/
def execRouteInstall (s : State) : Outcome State Fault Refusal :=
  .next ((List.range 104).foldl (fun s d =>
    let l := s.link d
    if !l.down || l.replay.isEmpty then s
    else
      let again := (l.replay.filterMap fun x => x.1.msg).map fun m => (dirFrom d, none, m)
      { s.putLink d { l with replay := [] } with msgs := s.msgs ++ again }) s)

/-! ### Messages on their way (R488, R493, R498) -/

/-- A message at the die it was sent to (R488, R498): a home answers a request and takes what is written back, a mirror
acknowledges, a leader learns of a block's retirement, and counts of `rbar` are looked at; one for a fenced die is gone (R496). -/
def State.handIn (s : State) (m : Msg) : State :=
  let dead := s.deadDies.contains m.dst
  let s := match m.kind with
    | .wback _ x => if dead then s else s.landBack m x
    | _ => s
  let s := if dead && (match m.kind with | .req _ _ => true | _ => false) then s else { s with away := s.away.erase m }
  if dead then s
  else match m.kind with
    | .req g n => s.carry { src := m.dst, dst := m.src, vc := 1, kind := .rsp g n }
    | .tell t => s.carry { src := m.dst, dst := m.src, vc := 3, kind := .ack t }
    | .rbar t => s.rbarTestTask t
    | .retire t b => s.retired t b
    | _ => s

/-- A message that waits at a die and can go on: it has arrived, or the first link of its path has room for it (R488, R493). -/
def State.waiting (s : State) : Option ((Nat × Option Nat × Msg) × Option Nat) :=
  s.msgs.findSome? fun x =>
    if x.1 == x.2.2.dst || s.deadDies.contains x.2.2.dst then some (x, none)
    else match s.route x.1 x.2.2.dst with
      | some e => if (s.link e).maySend x.2.2.vc then some (x, some e) else none
      | none => none

/-- The first flit of each channel in a receiver's slots. -/
def Link.fronts (l : Link) : List Flit := (List.range 4).filterMap fun v => l.rx.find? fun f => f.vc.toNat == v

/-- A flit in a receive slot that can go on: its message has arrived, or the next link has room for it, or no path is left for it,
so that it waits at its die.  A channel that waits blocks no other (R488).  What a link that went down has accepted goes on all
the same (R494). -/
def State.taken_ (s : State) : Option (Nat × Flit × Msg × Option (Option Nat)) :=
  s.links.findSome? fun (d, l) =>
    if l.training then none
    else l.fronts.findSome? fun f =>
      match f.msg with
      | none => none
      | some m =>
        if dirTo d == m.dst || s.deadDies.contains m.dst then some (d, f, m, none)
        else match s.route (dirTo d) m.dst with
          | none => some (d, f, m, some none)
          | some e => if (s.link e).maySend m.vc then some (d, f, m, some (some e)) else none

/-- A receiver has consumed a flit: its slot is free, and a flit back returns it (R488). -/
def Link.consume (l : Link) (f : Flit) (now : Nat) : Link :=
  { l with rx := l.rx.erase f, freed := l.freed.modify f.vc.toNat (· + 1), owe := some now }

/-- A request that can leave for homes on other dies, with those (R488). -/
def State.unsent (s : State) : Option (Group × Req × Block × List Nat) :=
  s.groups.findSome? fun g =>
    match s.block? g.block with
    | none => none
    | some b =>
      (g.reqs.find? fun q => !q.sent && s.running g && g.mayPerform q && !(s.reqDies b q).isEmpty).map fun q =>
        (g, q, b, s.reqDies b q)

/-- The virtual channel of a request (R488): reads, atomics and partials on REQ, stores on WB, commit passes on CTL. -/
def Req.channel (q : Req) : Nat := if q.kind == .cmtp then 3 else if q.kind == .st || q.kind == .stw then 2 else 0

/-- A direction whose receiver owes an audit's reply or an acknowledgement by now, where a flit back can be sent. -/
def State.owing (s : State) : Option (Nat × Bool) :=
  s.links.findSome? fun (d, l) =>
    if !(s.link (otherDir d)).room then none
    else if 0 < l.asked then some (d, true)
    else if l.owe.any (· ≤ s.now) then some (d, false) else none

/-- One move of what is on its way between dies, none where nothing can move: a receiver's flit, a message that waits at a die, a
request that leaves, an answer on a link. -/
def State.moveOne (s : State) : Option State :=
  match s.taken_ with
  | some (d, f, m, to_) =>
    let s' := s.putLink d ((s.link d).consume f s.now)
    some (match to_ with
      | none => s'.handIn m
      | some none => { s' with msgs := s'.msgs ++ [(dirTo d, none, m)] }
      | some (some e) => s'.sendFlit e m.vc m)
  | none =>
    match s.waiting with
    | some (x, to_) =>
      let s' := { s with msgs := s.msgs.erase x }
      some (match to_ with
        | none => s'.handIn x.2.2
        | some e => s'.sendFlit e x.2.2.vc x.2.2)
    | none =>
      match s.unsent, s.owing with
      | some (g, q, b, ds), _ =>
        let s' := s.putGroup { g with reqs := updIf (·.seq == q.seq) (fun q => { q with sent := true }) g.reqs }
        some (ds.foldl (fun s d =>
          s.carry { src := coreDie b.core, dst := d, vc := q.channel, kind := .req g.uid q.seq }) s')
      | none, some (d, reply) => some (if reply then s.replyAudit d else s.transmit (otherDir d) 0 .none)
      | none, none => none

/-! ### Fenced dies (R495, R496, R498) -/

/-- What a module-wide fence of `die` does to a task (R52, R459, R496): one that had a block there grants no more; the
others hand over where it led or mirrored them.  All complete with DIE_LOST. -/
def State.fenceTask (s : State) (die : Nat) (lost : Bool) (t : Task) : State :=
  let granted := t.run.grant.any fun g => coreDie g.2 == die
  let acked := t.run.leader == die && (t.run.ask.any fun a => a.1 == die) && t.run.acked == t.run.granted + 1
  if t.run.phase == Phase.ending then (s.putTask (s.handOver die t)).failTask 4 (s.handOver die t)
  else if lost || granted || acked then (s.putTask (s.handOver die t)).loseTask t.uid
  else
    let t' := s.handOver die t
    let held := t'.run.held.filter fun c => coreDie c != die
    let t' := { t' with run := { t'.run with status := 4, held := held } }
    let s := s.putTask t'
    if t'.run.lost then s.loseTask t.uid else s

/-- The dispatcher of a die that is gone asks for no id any more (R51, R52). -/
def State.dropAsks (s : State) (die : Nat) : State :=
  let asks (t : Task) : Bool := t.run.leader != die && (t.run.ask.any fun a => a.1 == die)
  { s with tasks := updIf asks (fun t => { t with run := { t.run with ask := none } }) s.tasks }

/-- The messages from and to a die that is gone (R496): a request that waits for it waits for ever, and a retirement on its way is
no loss of a block. -/
def State.dropMsgs (s : State) (die : Nat) : State :=
  let access (k : MsgKind) : Bool := match k with | .req _ _ | .rsp _ _ => true | _ => false
  let mine (m : Msg) : Bool := m.src == die || m.dst == die
  let ends := s.away.filterMap fun m => match m.kind with
    | .retire t b => if mine m then some (t, b) else none
    | _ => none
  ends.foldl (fun s (t, b) => s.retired t b)
    { s with msgs := s.msgs.filter fun x => !mine x.2.2
             away := s.away.filter fun m => access m.kind || !mine m }

/-- Whether the end actions of a task run with a die in its launch (R459): one of its dies, or one that has served its blocks. -/
def State.endsOn (s : State) (die : Nat) (t : Task) : Bool :=
  t.run.phase == .ending && (t.run.cores.any (fun c => coreDie c == die) ||
    (((s.part? t.part).map fun p => s.launchDies p t.hdr).getD []).contains die)

/-- A die fenced for the whole module (R496): its blocks are lost, its L1s and queues with them. -/
def State.fenceDie (s : State) (die : Nat) : State :=
  if s.deadDies.contains die then s
  else
    let hit := s.tasks.filter fun t =>
      s.touches die t || s.endsOn die t || (t.started && t.run.grant.any fun g => coreDie g.2 == die)
    let gone := s.blocks.filter fun b => coreDie b.core == die
    let s := gone.foldl (fun s b => s.dropBlock b) { s with deadDies := s.deadDies ++ [die] }
    let drop (k : Core) : Core := { k with l1 := [] }
    let s := { s with cores := s.cores.map fun (c, k) => (c, if coreDie c == die then drop k else k) }
    let s := s.record { type := 7, detail := Config.recordDetail 7 die 1 }
    let s := (s.dropAsks die).dropMsgs die
    hit.foldl (fun s t => match s.task? t.uid with
      | some t => s.fenceTask die (gone.any (·.task == t.uid)) t
      | none => s) s

/-- Whether a request of a group waits for the home of a fenced die, and the group for it (R390); a fetch faults instead (R496). -/
def State.waitsOnDead (s : State) (g : Group) : Bool :=
  (g.live != 0 || g.reqs.any Req.lands) && g.reqs.any fun q => q.st == .flying && q.kind != .fetch && s.away.any fun m =>
    (m.kind == .req g.uid q.seq && s.deadDies.contains m.dst) || (m.kind == .rsp g.uid q.seq && s.deadDies.contains m.src)

/-- Whether a block waits for ever for a fenced die: a request of it, or the next byte of a copy, has its home there. -/
def State.stranded (s : State) (b : Block) : Bool :=
  (s.groupsOf b.uid).any s.waitsOnDead ||
    (s.core b.core).cq.any fun o => o.block == b.uid && o.paused.isNone &&
      (match s.translate b.part b.ctx ((o.desc.gRow o.row) + o.byte).toNat with | some p => !s.homeUp p | none => false)

/-- The blocks that a fence leaves waiting are lost with it, and their tasks complete with DIE_LOST (R390; log 72). -/
def State.loseStranded (s : State) : State :=
  (s.blocks.filter s.stranded).foldl (fun s b => (s.dropBlock b).loseTask b.task) s

/-- R496, R390. -/
def execDieFence (die : Nat) (s : State) : Outcome State Fault Refusal :=
  .next (if die < 32 then (s.fenceDie die).loseStranded else s)

/-- Whether no path is left for a message that waits at a die (R495). -/
def State.cut (s : State) (x : Nat × Option Nat × Msg) : Bool :=
  x.1 != x.2.2.dst && !s.deadDies.contains x.2.2.dst && (s.route x.1 x.2.2.dst).isNone

/-- The dies of a component that are not fenced. -/
def State.live (s : State) (m : BitVec 32) : Nat :=
  ((List.range 32).filter fun d => m.getLsbD d && !s.deadDies.contains d).length

/-- The component that firmware keeps (R495): the largest, then the one with die 0, then the one with the lowest die. -/
def State.keptComponent (s : State) : BitVec 32 :=
  (List.range 32).foldl (fun m d => let c := s.component d; if s.live m < s.live c then c else m) 0

/-- Whether the messages that wait are to be looked at (R495): one has lost its path or found one, or has had none for 1 ms. -/
def State.splitDue (s : State) : Bool :=
  s.msgs.any fun x => match x.2.1 with
    | none => s.cut x
    | some t => !s.cut x || t + s.cyclesOfUs 1000 ≤ s.now

/-- R495: each message is timed from when it has lost its last path; one held for 1 ms splits the mesh, and every die outside the
component that is kept is fenced. -/
def execMeshSplit (s : State) : Outcome State Fault Refusal :=
  let time (x : Nat × Option Nat × Msg) : Nat × Option Nat × Msg :=
    (x.1, if s.cut x then some (x.2.1.getD s.now) else none, x.2.2)
  let s := { s with msgs := s.msgs.map time }
  if !s.msgs.any fun x => x.2.1.any fun t => t + s.cyclesOfUs 1000 ≤ s.now then .next s
  else
    let keep := s.keptComponent
    let out := (List.range 32).filter fun d => !keep.getLsbD d
    .next (out.foldl (fun s d => s.fenceDie d) s).loseStranded

end Sys2Proof.Machine
end

