-- ==== Sys2Proof/Machine/Host.lean ====
section
/-! DEFINITION. The host's side: registers, rings, doorbells, interrupts, BAR4, resets (spec 23 R430 to R441, R444). -/

namespace Sys2Proof.Machine

open Host (Outcome)

/-- Whether a function exists: PF0, or a VF whose partition does (R430). -/
def State.fnExists (s : State) (f : Nat) : Bool := f == 0 || (f ≤ 8 && (s.part? (f - 1)).isSome)

/-! ### BAR0 (R431 to R433) -/

/-- Whether a function's command ring is empty. -/
def Fn.cmdEmpty (f : Fn) : Bool := f.cmdTail == f.cmdHead

/-- Whether a function's event ring is empty. -/
def Fn.evtEmpty (f : Fn) : Bool := f.evtTail == f.evtHead

/-- A register write (R431): ignored while its ring is not empty, for a value out of range, and for a register that is
read-only. -/
def Fn.write (f : Fn) (off : Nat) (x : Dword) : Fn :=
  let n := x.toNat
  if off == 0x10 then (if f.cmdEmpty && n % 4096 == 0 then { f with cmdBase := x } else f)
  else if off == 0x18 then (if f.cmdEmpty && (n == 0 || (4 ≤ n && n ≤ 12)) then { f with cmdSize := x } else f)
  else if off == 0x30 then (if f.evtEmpty && n % 4096 == 0 then { f with evtBase := x } else f)
  else if off == 0x38 then (if f.evtEmpty && (n == 0 || (6 ≤ n && n ≤ 16)) then { f with evtSize := x } else f)
  else if off == 0x50 then { f with intctl := x &&& 0x3FFFF }
  else f

/-- R431. -/
def execRegisterWrite (fn off : Nat) (value : BitVec 64) (s : State) : Outcome State Fault Refusal :=
  .next (if s.fnExists fn then s.putFn fn ((s.fn fn).write off value) else s)

/-- FWSTATE as a function reads it (R432). -/
def State.fwState (s : State) (fn : Nat) : Dword :=
  let f := s.fn fn
  dw (s.fleet.ready.toNat + 2 * s.fleet.thermhalt.toNat + 4 * f.cmdErr.toNat + 8 * f.evtOvf.toNat + 16 * s.fleet.op)

/-- IDENT and the RESULT of IDENTIFY (R431, R436). -/
def identOf (fn : Nat) : Dword :=
  dw (Config.arith + 2 ^ 16 * Config.fwRelease + 2 ^ 32 * Config.revisionId + 2 ^ 40 * (if fn == 0 then 0xFF else fn - 1))

/-- A read of a BAR0 register (R431); another access reads 0. -/
def State.readReg (s : State) (fn off : Nat) : Dword :=
  let f := s.fn fn
  match off with
  | 0x00 => identOf fn
  | 0x08 => s.fwState fn
  | 0x10 => f.cmdBase
  | 0x18 => f.cmdSize
  | 0x20 => f.cmdTail
  | 0x28 => f.cmdHead
  | 0x30 => f.evtBase
  | 0x38 => f.evtSize
  | 0x40 => f.evtTail
  | 0x48 => f.evtHead
  | 0x50 => f.intctl
  | 0x58 => f.evtDrop
  | _ => 0

/-- What the host finds at an access of BAR0 of a function: a register where it is aligned and 8 bytes wide, else zeros
(R431); none of a function that does not exist. -/
def State.readBar0 (s : State) (fn off width : Nat) : State :=
  s.putFn fn { s.fn fn with
    reply := if !s.fnExists fn then none
      else some (bytesOf width (if width == 8 && off % 8 == 0 then (s.readReg fn off).toNat else 0)) }

/-- The step that a write of BAR0 is: none for an access that is ignored (R431). -/
def bar0Step (fn off width : Nat) (value : Option Dword) : Option Instr :=
  match value with
  | none => none
  | some v =>
    if width != 8 || off % 8 != 0 then none
    else if off == 0x20 then some (.cmdtail fn v)
    else if off == 0x48 then some (.evthead fn v)
    else some (.registerWrite fn off v)

/-! ### Configuration space (R2, R429) -/

/-- A byte of the configuration space of every function (R429): the registers stand where PCIe has them, and every other byte
is a free value (log 61). -/
def configAt (fn off : Nat) : Byte :=
  if off < 2 then BitVec.ofNat 8 (Config.vendorId / 256 ^ off)
  else if off < 4 then BitVec.ofNat 8 (Config.deviceId / 256 ^ (off - 2))
  else if off == 8 then BitVec.ofNat 8 Config.revisionId
  else if 9 ≤ off && off < 12 then BitVec.ofNat 8 (Config.classCode / 256 ^ (off - 9))
  else Config.configByte fn off

/-- A read of the configuration space of a function. -/
def State.readConfig (s : State) (fn off width : Nat) : State :=
  s.putFn fn { s.fn fn with reply := if s.fnExists fn then some ((List.range width).map fun i => configAt fn (off + i)) else none }

/-! ### The command ring (R433, R435) -/

/-- R433, R435: entries are taken in ring order, after those that other writes handed over before; a count out of range
stops the ring, but for a command that is already in execution.  The register holds what was written in any case (R431). -/
def execCmdtail (fn : Nat) (value : BitVec 64) (s : State) : Outcome State Fault Refusal :=
  let f := s.fn fn
  let run := s.fleet.busy.toNat
  if !s.fnExists fn then .next s
  else if f.cmdErr || f.cmdSize == 0 then .next (s.putFn fn { f with cmdTail := value })
  else if 2 ^ f.cmdSize.toNat < (value - f.cmdHead).toNat then
    .next { s.putFn fn { f with cmdTail := value, cmdErr := true } with
      cmdq := s.cmdq.take run ++ (s.cmdq.drop run).filter (fun c => c.1 != fn) }
  else
    let old := s.cmdq.take run ++
      (s.cmdq.drop run).filter fun c => !(c.1 == fn && (value - f.cmdHead).toNat ≤ (c.2 - f.cmdHead).toNat)
    let start := match (old.filter (·.1 == fn)).getLast? with | some c => c.2 + 1 | none => f.cmdHead
    let n := (value - start).toNat
    let new := if n ≤ 2 ^ f.cmdSize.toNat then (List.range n).map fun i => (fn, start + BitVec.ofNat 64 i) else []
    .next { s.putFn fn { f with cmdTail := value } with cmdq := old ++ new }

/-- R441: EVTHEAD, a free-running count. -/
def execEvthead (fn : Nat) (value : BitVec 64) (s : State) : Outcome State Fault Refusal :=
  .next (if s.fnExists fn then s.putFn fn { s.fn fn with evtHead := value } else s)

/-- R441: the oldest stored record goes to the ring when it has room. -/
def execEventStoreDrain (fn : Nat) (s : State) : Outcome State Fault Refusal :=
  let f := s.fn fn
  match f.store with
  | [] => .next s
  | r :: t => .next (if f.evtRoom then (s.putFn fn { f with store := t }).ringRecord fn r else s)

/-- R440: the vectors held until now are signalled. -/
def execInterruptCoalesceExpiry (fn : Nat) (s : State) : Outcome State Fault Refusal :=
  let f := s.fn fn
  let now := f.due.filter fun d => d.2 ≤ s.now
  let f := { f with due := f.due.filter fun d => !(d.2 ≤ s.now) }
  .next (s.putFn fn (now.foldl (fun f d => { f.raise d.1 with sentAt := setKey d.1 s.now f.sentAt }) f))

/-! ### Doorbells (R438, R439) -/

/-- QUEUE_ERROR for a doorbell (R439). -/
def State.queueError (s : State) (part ctx q : Nat) : State :=
  s.record { type := 9, part := some part, ctx := some ctx, detail := Config.recordDetail 9 ctx q }

/-- What a doorbell does to its queue (R439). -/
def State.ring (s : State) (part ctx q T : Nat) : State :=
  match (s.queue? part ctx q).filter (!·.dev) with
  | none => s.queueError part ctx q
  | some x =>
    let ahead := (dw T - dw x.head).toNat
    if x.stopped then s
    else if x.slots < ahead || ahead < x.tail - x.head then
      (s.putQueue { x with stopped := true }).queueError part ctx q
    else s.putQueue { x with tail := x.head + ahead }

/-- R438, R439: any doorbell write evaluates the counter waits again, those of every context (R98). -/
def execDoorbell (fn off : Nat) (value : BitVec 64) (s : State) : Outcome State Fault Refusal :=
  if fn == 0 || !s.fnExists fn || 262144 ≤ off || off % 8 != 0 then .next s
  else
    let s := s.ring (fn - 1) (off / 4096) (off % 4096 / 8) value.toNat
    .next (s.ctxs.foldl (fun s c => s.reWait c.part c.num) s)

/-- What the host reads of BAR2 of a function: the head count of a host queue (R445), elsewhere a free value (log 61). -/
def State.readBar2 (s : State) (fn off width : Nat) : State :=
  let q := (s.queue? (fn - 1) (off / 4096) (off % 4096 / 8)).filter (!·.dev)
  let x := match q with
    | some q => if width == 8 && off % 8 == 0 then dw q.head else Config.doorbellValue fn off
    | none => Config.doorbellValue fn off
  s.putFn fn { s.fn fn with reply := if fn == 0 || !s.fnExists fn then none else some (bytesOf width x.toNat) }

/-- The step that a write of BAR2 is: none for one that is not 64 bits (R438). -/
def bar2Step (fn off width : Nat) (value : Option Dword) : Option Instr :=
  match value with
  | none => none
  | some v => if width == 8 && off % 8 == 0 then some (.doorbell fn off v) else none

/-! ### BAR4 (R430, R502, R506) -/

/-- Bytes [pa, pa + n) of a sector, as a mask. -/
def sectorMask (sec pa n : Nat) : BitVec 128 :=
  let lo := max pa (128 * sec)
  bmRange (lo - 128 * sec) (min (pa + n) (128 * sec + 128) - lo)

/-- What the host has written of the poisoned sectors by a write of `n` bytes: a sector all of whose bytes it has written since
its poison loses it (R506). -/
def State.cleanSectors (s : State) (pa n : Nat) : State :=
  let secs := ((s.bad.map (· / 128)).eraseDups).filter fun k => 128 * k < pa + n && pa < 128 * k + 128
  secs.foldl (fun s k =>
    let m := getKey 0 k s.cured ||| sectorMask k pa n
    if m == BitVec.allOnes 128 then
      { s with bad := s.bad.filter (· / 128 != k), cured := s.cured.filter (·.1 != k) }
    else { s with cured := setKey k m s.cured }) s

/-- R430: an access through the aperture at the homes, by translation only; an Unsupported Request where an entry is
missing or forbids it, or where the home is fenced, is logged; in OP4 and OFF it is refused without a record (R502).  FADDR of its
record is the virtual address, and without an aperture, when no context is named, the offset (DESIGN CHOICE, log 81: R430 does
not say what the record holds). -/
def execBar4Access (fn off size : Nat) (data : Option (List (BitVec 8))) (s : State) : Outcome State Fault Refusal :=
  let f := s.fn fn
  let fail (s : State) : State := s.putFn fn { s.fn fn with reply := none }
  if !s.fnExists fn then .next s
  else if 4 ≤ s.fleet.op then .next (fail s)
  else
    match f.apert with
    | none => .next (fail (s.record { type := 10, part := if fn == 0 then none else some (fn - 1), faddr := dw off }))
    | some (part, c, base) =>
      let va := base + off
      let refuse : State := fail (s.record { type := 10, part := some part, ctx := some c, faddr := dw va })
      if 2 ^ 32 < off + size then .next refuse
      else
        match s.translate part c va, s.translate part c (va + size - 1) with
        | some p, some q =>
          let ok := (if data.isSome then p.write && q.write else p.read && q.read) && q.pa == p.pa + size - 1 && s.homeUp p
          if !ok then .next refuse
          else
            match data with
            | none => .next (s.putFn fn { f with reply := some (s.homeRead part p.pa size) })
            | some b => .next (((s.homeWrite part p.pa (b.take size)).cleanSectors p.pa size).putFn fn { f with reply := some [] })
        | _, _ => .next refuse

/-! ### Resets (R431, R444, R502, R504) -/

/-- Contexts of a partition ended with their queues, tasks and blocks (R436, R444): every uncompleted task completes with
ABORTED, after its written L1 bytes are at their homes (R104), those on their way too (log 23); a reconfiguration that has begun
is finished (R114). -/
def State.endCtx (s : State) (part ctx : Nat) : State :=
  let ts := s.tasks.filter fun t => t.part == part && t.ctx == ctx && t.run.phase != Phase.done
  let s := ts.foldl (fun s t => (s.stopBlocks t.uid).slotDone t) s
  let s := s.coreNums.foldl (fun s c => s.l1Purge c fun x => x.part == part && x.ctx == ctx) s
  let s := s.landBacks (fun _ x => x.part == part && x.ctx == ctx) s.away
  let fail (s : State) (t : Task) : State :=
    match s.task? t.uid with
    | some t =>
      let t := { t with run := { t.run with status := 2 } }
      (s.putTask t).completeTask t.uid
    | none => s
  let s := ts.foldl fail s
  { s with tasks := s.tasks.filter (fun t => !(t.part == part && t.ctx == ctx))
           queues := s.queues.filter (fun q => !(q.part == part && q.ctx == ctx))
           ctxs := s.ctxs.filter fun c => !(c.part == part && c.num == ctx) }

/-- A switch under way given up: the resident context stays, and goes on (R466). -/
def State.cancelSwitch (s : State) (p : Part) : State :=
  let s := s.putPart { p with switch := none }
  match p.resident with
  | none => s
  | some c =>
    let s := match s.ctx? p.num c with
      | some x => s.putCtx { x with saved := [] }
      | none => s
    (s.groups.filter (s.groupIn p.num (some c))).foldl (fun s g => s.resumeGroup g.uid) (s.wakeEngines p.num c)

/-- The residency of a partition after context `ctx` is gone (R462, R466): where it was resident G is bumped and the next candidate
counted from its number switches in at once.  A switch under way toward it chooses again, from the resident context on, and is
given up where that gives no other. -/
def State.afterCtx (s : State) (part ctx : Nat) : State :=
  match s.part? part with
  | none => s
  | some p =>
    if p.resident == some ctx then
      let s := (s.clearLeft p).staleL1 p
      let p := { p.bump with resident := none, switch := none }
      s.putPart (match s.chooseCtx part ctx with
        | some c => p.startSwitch (some c) s.now (s.partDies p)
        | none => p)
    else
      match p.switch with
      | none => s
      | some w =>
        if w.to_ != some ctx then s
        else
          let next := s.chooseCtx part (p.resident.getD ctx)
          if next.isNone || next == p.resident then s.cancelSwitch p
          else s.putPart { p with switch := some { w with to_ := next } }

/-- R444: a VF loses its contexts, queues, tasks and registers; its partition and images remain. -/
def State.resetVf (s : State) (fn : Nat) : State :=
  let part := fn - 1
  let cs := (s.ctxs.filter (·.part == part)).map (·.num)
  let s := cs.foldl (fun s c => (s.endCtx part c).afterCtx part c) s
  let mine := (s.cmdq.head?.map (·.1)) == some fn
  { s.putFn fn Fn.idle with cmdq := s.cmdq.filter fun c => c.1 != fn
                            fleet := { s.fleet with busy := s.fleet.busy && !mine } }

/-- The module after a reset (R431, R444, R496, R504): as `State.reset`, but for what lies outside it or outlasts it: the
environment and the host's memory, the error log, the side-band's address and EID, and the model's own counters. -/
def State.moduleReset (s : State) : State :=
  { State.reset with
    now := s.now, script := s.script, fresh := s.fresh, uid := s.uid, hmem := s.hmem, peer := s.peer,
    fleet := { Fleet.reset with sensors := s.fleet.sensors.filter (fun x => x.1 < 0x180), platform := s.fleet.platform,
                                i3cAddr := s.fleet.i3cAddr, eid := s.fleet.eid, errlog := s.fleet.errlog,
                                errNext := s.fleet.errNext, out := s.fleet.out } }

/-- R444: FLR. -/
def execFunctionLevelReset (fn : Nat) (s : State) : Outcome State Fault Refusal :=
  if fn == 0 then .next s.moduleReset
  else .next (if s.fnExists fn then s.resetVf fn else s)

/-- R431: a reset of the module from outside. -/
def execModuleReset (s : State) : Outcome State Fault Refusal := .next s.moduleReset

end Sys2Proof.Machine
end

