-- ==== Sys2Proof/Machine/Commands.lean ====
section
/-! DEFINITION. The Malthouse commands over ports, partitions, contexts, queues, mappings, packets, debuggers and apertures
(spec 23 R434 to R437, 25 R460 to R474, 05 R136, R137, 17 R385, R387).  The command in execution is `State.cmd`, the entry
at the head of `State.cmdq`. -/

namespace Sys2Proof.Machine

open Host (Outcome)

/-! ### Entries and statuses (R433 to R437) -/

/-- BAD_ARG. -/
def stBadArg : Nat := 2
/-- NOT_PERMITTED. -/
def stNotPermitted : Nat := 3
/-- BUSY. -/
def stBusy : Nat := 4
/-- NOT_FOUND. -/
def stNotFound : Nat := 5
/-- EXISTS. -/
def stExists : Nat := 6
/-- NO_RESOURCE. -/
def stNoResource : Nat := 7
/-- COOP_BUSY. -/
def stCoopBusy : Nat := 8
/-- THERMAL. -/
def stThermal : Nat := 12

/-- The address of an entry of a function's ring. -/
def Fn.entryAddr (f : Fn) (c : Dword) : Nat := f.cmdBase.toNat + 64 * (c.toNat % 2 ^ f.cmdSize.toNat)

/-- The command at the head completes (R433, R434): its fields are written, CMDHEAD advances, vector 0 is signalled
(R440).  A CMDTAIL that a later write has moved back to the entry in execution then lies behind CMDHEAD (R433). -/
def State.finishCmd (s : State) (status : Nat) (result : Dword) : State :=
  match s.cmdq with
  | [] => s
  | (f, c) :: rest =>
    let x := s.fn f
    let s := s.hostWrite f (x.entryAddr c + 48) (bytesOf 2 status ++ List.replicate 6 0 ++ bytesOf 8 result.toNat)
    let x := { x with cmdHead := x.cmdHead + 1, cmdErr := x.cmdErr || x.cmdTail == x.cmdHead }
    { s.putFn f (if x.intctl.getLsbD 16 then x.raise 0 else x) with cmdq := rest, fleet := { s.fleet with busy := false } }

/-- A command that has begun and waits (R435). -/
def State.waitCmd (s : State) : Outcome State Fault Refusal := .next { s with fleet := { s.fleet with busy := true } }

/-- A command that completes with OK and a RESULT. -/
def State.okCmd (s : State) (result : Nat) : Outcome State Fault Refusal := .next (s.finishCmd 0 (dw result))

/-- A command refused: it changes no state (R437). -/
def State.refuse (s : State) (status : Nat) : Outcome State Fault Refusal := .next (s.finishCmd status 0)

/-- Who may issue a command (R436). -/
inductive From where
  | any | pf0 | vf
  deriving DecidableEq, Repr

/-- R436: the status that a command's issuer and header give it, or the partition it acts for (0 where it acts for none);
`ok` says that the arguments it does not define are zero (log 26). -/
def State.issuer (s : State) (who : From) (ok : Bool) : Except Nat Nat :=
  let c := s.cmd
  if c.rsvd || !ok then .error stBadArg
  else
    match who with
    | .any => if c.pv || c.part != 0 then .error stBadArg else .ok (c.fn - 1)
    | .pf0 =>
      if c.fn != 0 then .error stNotPermitted
      else if c.pv || c.part != 0 then .error stBadArg else .ok 0
    | .vf =>
      if c.fn == 0 then
        if !c.pv then .error stNotPermitted
        else if (s.part? c.part.toNat).isNone then .error stNotFound else .ok c.part.toNat
      else if c.pv || c.part != 0 then .error stBadArg
      else if (s.part? (c.fn - 1)).isNone then .error stNotFound else .ok (c.fn - 1)

/-- The same for a command that THERMHALT refuses (R503). -/
def State.entitled (s : State) (who : From) (ok : Bool) : Except Nat Nat :=
  if s.fleet.thermhalt && !s.fleet.busy then .error stThermal else s.issuer who ok

/-- A command on a partition that its argument A0 names, from PF0. -/
def State.onPart (s : State) (ok : Bool) (f : Part → Outcome State Fault Refusal) : Outcome State Fault Refusal :=
  match s.entitled .pf0 ok with
  | .error e => s.refuse e
  | .ok _ =>
    if 8 ≤ s.cmd.a0.toNat then s.refuse stBadArg
    else match s.part? s.cmd.a0.toNat with
      | none => s.refuse stNotFound
      | some p => f p

/-- A command on a context that its argument A0 names. -/
def State.onCtx (s : State) (ok : Bool) (f : Nat → Ctx → Outcome State Fault Refusal) : Outcome State Fault Refusal :=
  match s.entitled .vf ok with
  | .error e => s.refuse e
  | .ok n =>
    if 64 ≤ s.cmd.a0.toNat then s.refuse stBadArg
    else match s.ctx? n s.cmd.a0.toNat with
      | none => s.refuse stNotFound
      | some c => f n c

/-! ### The module and its ports -/

/-- R436, R503: it completes in THERMHALT too. -/
def execIdentify (s : State) : Outcome State Fault Refusal :=
  let c := s.cmd
  match s.issuer .any (c.a0 == 0 && c.a1 == 0 && c.a2 == 0 && c.a3 == 0 && c.a4 == 0) with
  | .error e => s.refuse e
  | .ok _ => .next (s.finishCmd 0 (identOf c.fn))

/-- R19, R436: the status of a refusal is not named (log 25). -/
def execPortConfig (s : State) : Outcome State Fault Refusal :=
  let c := s.cmd
  match s.entitled .pf0 (c.a2 == 0 && c.a3 == 0 && c.a4 == 0) with
  | .error e => s.refuse e
  | .ok _ =>
    let n := c.a0.toNat
    if 32 ≤ n || 2 < c.a1.toNat then s.refuse stBadArg
    else if s.ports.getD n .idle == .host then s.refuse (Config.refusedStatus 0).toNat
    else if s.fleet.parted then s.refuse (Config.refusedStatus 1).toNat
    else if c.a1 == 1 && 16 ≤ ((s.ports.set n .idle).filter (· == .cxl)).length then
      s.refuse (Config.refusedStatus 2).toNat
    else { s with ports := s.ports.set n (if c.a1 == 0 then .idle else if c.a1 == 1 then .cxl else .peer) }.okCmd 0

/-- R437. -/
def execBadOpcode (s : State) : Outcome State Fault Refusal := s.refuse 1

/-! ### Partitions (R460 to R464, R472 to R474) -/

/-- The quota of argument A2, none where R460 gives BAD_ARG. -/
def Quota.of (n : Nat) : Option Quota :=
  let q : Quota := { gsBase := fld n 0 4, gsCnt := fld n 8 5, rowBase := fld n 16 10, rowCnt := fld n 32 10,
                     accBase := fld n 48 3, accCnt := fld n 56 4 }
  if fld n 4 4 != 0 || fld n 13 3 != 0 || fld n 26 6 != 0 || fld n 42 6 != 0 || fld n 51 5 != 0 || fld n 60 4 != 0 then none
  else if q.gsCnt < 1 || 16 < q.gsBase + q.gsCnt || q.rowCnt < 32 || 992 < q.rowBase + q.rowCnt || 8 < q.accBase + q.accCnt
  then none else some q

/-- Whether two ranges meet: an empty one meets none. -/
def meet (a n b m : Nat) : Bool := max a b < min (a + n) (b + m)

/-- Whether two quotas overlap in slots, rows or tiles (R461). -/
def Quota.overlaps (a b : Quota) : Bool :=
  meet a.gsBase a.gsCnt b.gsBase b.gsCnt || meet a.rowBase a.rowCnt b.rowBase b.rowCnt ||
    meet a.accBase a.accCnt b.accBase b.accCnt

/-- Whether a partition that takes dies, a quota, slots and ways collides with partition `p` (R461). -/
def Part.collides (p : Part) (dies : BitVec 32) (q : Quota) (slots : BitVec 8) (ways : BitVec 16) : Bool :=
  (dies &&& p.dies != 0 && (q.overlaps p.quota || slots &&& p.slotMask != 0)) || ways &&& p.ways != 0

/-- The 40 bytes of a command's arguments (R483). -/
def cmdArgs (c : Cmd) : List Byte :=
  bytesOf 8 c.a0.toNat ++ bytesOf 8 c.a1.toNat ++ bytesOf 8 c.a2.toNat ++ bytesOf 8 c.a3.toNat ++ bytesOf 8 c.a4.toNat

/-- A partition at its creation (R381, R461, R474, R483). -/
def Part.new (s : State) (n : Nat) (dies : BitVec 32) (q : Quota) (slots : BitVec 8) (ways : BitVec 16) (root : Dword) :
    Part :=
  let (g, e) := getKey (0, 0) n s.gens
  { num := n, dies := dies, quota := q, slotMask := slots, ways := ways, root := root, maps := [], handler := none,
    pmcAllow := 0, pmc := [], tenantOk := false, pinned := 0, keys := [], images := [], slotImg := List.replicate 8 0,
    config := [], bare := [], corrupt := [], uses := [], log := MLog.start, genG := g, genE := e, resident := none, created := s.now,
    nextTick := s.now + s.cyclesOfUs 1000, switch := none, outDies := [], resize := none }

/-- R460, R461, R483. -/
def execPartCreate (s : State) : Outcome State Fault Refusal :=
  let c := s.cmd
  match s.entitled .pf0 (c.a1.toNat < 2 ^ 32 && c.a3.toNat < 2 ^ 24) with
  | .error e => s.refuse e
  | .ok _ =>
    let n := c.a0.toNat
    let dies : BitVec 32 := c.a1.setWidth 32
    let slots : BitVec 8 := c.a3.setWidth 8
    let ways : BitVec 16 := c.a3.extractLsb' 8 16
    match Quota.of c.a2.toNat with
    | none => s.refuse stBadArg
    | some q =>
      if 8 ≤ n || dies == 0 || ways == 0 then s.refuse stBadArg
      else if (s.part? n).isSome then s.refuse stExists
      else if s.parts.any fun p => p.collides dies q slots ways then s.refuse stNoResource
      else
        let p := Part.new s n dies q slots ways c.a4
        let s := { s with parts := s.parts ++ [p], fleet := { s.fleet with parted := true } }
        ((s.putFn (n + 1) Fn.idle).logEntry 6 (some n) 0xFF 0 0 (sha384 (cmdArgs c))).okCmd 0

/-- R462, R483: the partition and its log are gone; G and E are bumped, and the measurement log of the module keeps the
entry.  The bumps wait for the scrubber while a line or a row carries the value that E or G would take (R464). -/
def execPartDestroy (s : State) : Outcome State Fault Refusal :=
  let c := s.cmd
  s.onPart (c.a1 == 0 && c.a2 == 0 && c.a3 == 0 && c.a4 == 0) fun p =>
    if s.ctxs.any (·.part == p.num) then s.refuse stBusy
    else if s.llc.any (fun l => l.part == p.num && l.epoch == (p.genE + 1) % 32) || s.bumpWaits p then s.waitCmd
    else
      let log := s.fleet.modlog.add 6 p.num 0xFF 0 1 (sha384 (cmdArgs c))
      let s := { s.staleL1 p with
        parts := s.parts.filter fun x => x.num != p.num
        gens := setKey p.num ((p.genG + 1) % 32, (p.genE + 1) % 32) s.gens
        fleet := { s.fleet with modlog := log }
        fns := s.fns.filter fun f => f.1 != p.num + 1
        cmdq := s.cmdq.filter fun x => x.1 != p.num + 1 }
      s.okCmd 0

/-- The size of a save area per die (R465). -/
def Quota.saveArea (q : Quota) : Nat := 48 * (8192 * q.gsCnt + 3072 * q.rowCnt + 4608 * q.accCnt + 217088) + 65536

/-- The pieces of a range that other ranges leave. -/
def piecesLeft (l : List (Nat × Nat)) (a n : Nat) : List (Nat × Nat) :=
  l.foldl (fun ps (b, m) => ps.flatMap fun (x, k) =>
    if meet x k b m then
      (if x < b then [(x, b - x)] else []) ++ (if b + m < x + k then [(b + m, x + k - (b + m))] else [])
    else [(x, k)]) [(a, n)]

/-- The bytes of a die's HBM that a list of second-stage mappings covers (R128, R465): the 4 KiB granules that the die homes, each
counted once; what a mapping covers beyond the HBM is no part of it. -/
def hbmCovered (die : Nat) : List Mapping → Nat
  | [] => 0
  | m :: l =>
    let upTo (n r : Nat) : Nat := (n + 63 - r) / 64
    let granules (a n : Nat) : Nat :=
      if m.home < 32 then (if m.home == die then n / 4096 else 0)
      else [2 * die, 2 * die + 1].foldl (fun k r => k + upTo ((a + n) / 4096) r - upTo (a / 4096) r) 0
    let len := min (m.to_ + m.len) Config.hbmBytes - m.to_
    let new := if isPeer m.to_ then [] else piecesLeft (l.map fun x => (x.to_, x.len)) m.to_ len
    new.foldl (fun n x => n + 4096 * granules x.1 x.2) (hbmCovered die l)

/-- The bytes of a die's HBM that MAP2 has mapped (R465). -/
def State.hbmMapped (s : State) (die : Nat) : Nat := hbmCovered die (s.parts.flatMap (·.maps))

/-- The bytes of the save areas on a die, when partition `n` has quota `q`, these dies and `k` contexts (R465). -/
def State.saveBytes (s : State) (n : Nat) (dies : BitVec 32) (q : Quota) (k d : Nat) : Nat :=
  s.parts.foldl (fun a p =>
    if p.num == n || !p.dies.getLsbD d then a else a + p.quota.saveArea * (s.ctxs.filter (·.part == p.num)).length)
    (if dies.getLsbD d then k * q.saveArea else 0)

/-- Whether every die of a mask has room for the save areas of all contexts, when partition `n` has quota `q`, these dies and
`k` contexts (R465): two stacks, less what is mapped (R10; log 12). -/
def State.saveRoom (s : State) (n : Nat) (dies : BitVec 32) (q : Quota) (k : Nat) : Bool :=
  (List.range 32).all fun d =>
    !dies.getLsbD d || s.saveBytes n dies q k d + s.hbmMapped d ≤ 2 * Config.stackBytes

/-- Whether a mapping more leaves the save areas that exist their room: none of it is mapped (R465). -/
def State.sparesAreas (s : State) (p : Part) (m : Mapping) : Bool :=
  (List.range 32).all fun d =>
    let areas := s.saveBytes p.num p.dies p.quota ((s.ctxs.filter (·.part == p.num)).length) d
    areas == 0 || areas + hbmCovered d (m :: s.parts.flatMap (·.maps)) ≤ 2 * Config.stackBytes

/-- Whether a block stands on what a new die mask and quota keep (R472). -/
def Block.kept (b : Block) (dies : BitVec 32) (q : Quota) : Bool :=
  dies.getLsbD (coreDie b.core) && q.holds_ { slots := b.slots, runs := b.runs, accs := b.accs }

/-- Steps 3 to 5 of R472: without FORCE the blocks that a resize removes are waited for; under FORCE they halt with the switch
to itself, and are suspended as the new values take effect (`suspendBlocks`). -/
def State.resizeStep (s : State) (p : Part) (dies : BitVec 32) (q : Quota) : Outcome State Fault Refusal :=
  let out := s.blocks.any fun b => b.part == p.num && !b.suspended && !b.kept dies q
  if (out && s.cmd.a3 != 1) || p.switch.isSome then s.waitCmd
  else if p.resident.isNone then (if s.bumpWaits p then s else (s.staleL1 p).applyResize p.bump dies q).waitCmd
  else (s.putPart (p.startSwitch p.resident s.now [])).waitCmd

/-- R472: the checks, then the steps, of which the command waits for each; it completes once the new values have taken
effect (log 68). -/
def execPartResize (s : State) : Outcome State Fault Refusal :=
  let c := s.cmd
  s.onPart (c.a1.toNat < 2 ^ 32 && c.a3.toNat < 2 && c.a4 == 0) fun p =>
    match p.resize with
    | some (_, _, true) => if p.switch.isSome then s.waitCmd else (s.putPart { p with resize := none }).okCmd 0
    | some (dies, q, false) => s.resizeStep p dies q
    | none =>
      let dies : BitVec 32 := c.a1.setWidth 32
      match Quota.of c.a2.toNat with
      | none => s.refuse stBadArg
      | some q =>
        let mine := s.blocks.filter fun b => b.part == p.num && !b.suspended && !b.kept dies q
        let coop (b : Block) : Bool := ((s.task? b.task).map (·.hdr.coop)).getD false
        if dies == 0 then s.refuse stBadArg
        else if s.parts.any fun x => x.num != p.num && x.collides dies q p.slotMask 0 then s.refuse stNoResource
        else if !s.saveRoom p.num dies q ((s.ctxs.filter (·.part == p.num)).length) then s.refuse stNoResource
        else if c.a3 == 0 && mine.any coop then s.refuse stCoopBusy
        else
          let p := { p with resize := some (dies, q, false) }
          (s.putPart p).resizeStep p dies q

/-- R382, R436: a range and an entry of 57-bit addresses; A0 = 0 removes the handler. -/
def execSetHandler (s : State) : Outcome State Fault Refusal :=
  let c := s.cmd
  match s.entitled .vf (c.a3 == 0 && c.a4 == 0) with
  | .error e => s.refuse e
  | .ok n =>
    match s.part? n with
    | none => s.refuse stNotFound
    | some p =>
      if c.a0 == 0 then (s.putPart { p with handler := none }).okCmd 0
      else if 2 ^ 57 ≤ c.a0.toNat || 2 ^ 57 < c.a1.toNat + c.a2.toNat then s.refuse stBadArg
      else (s.putPart { p with handler := some (c.a0.toNat, c.a1.toNat, c.a2.toNat) }).okCmd 0

/-- R381, R474: a bit beyond the events of R381 is not defined. -/
def execSetPmc (s : State) : Outcome State Fault Refusal :=
  let c := s.cmd
  s.onPart (c.a1 &&& ~~~0x7E == 0 && c.a2 == 0 && c.a3 == 0 && c.a4 == 0) fun p =>
    (s.putPart { p with pmcAllow := c.a1 }).okCmd 0

/-! ### Contexts and queues (R436, R462, R465) -/

/-- R465, R462: RESULT is G. -/
def execCtxCreate (s : State) : Outcome State Fault Refusal :=
  let c := s.cmd
  match s.entitled .vf (c.a3 == 0 && c.a4 == 0) with
  | .error e => s.refuse e
  | .ok n =>
    match s.part? n with
    | none => s.refuse stNotFound
    | some p =>
      let k := c.a0.toNat
      if 64 ≤ k then s.refuse stBadArg
      else if (s.ctx? n k).isSome then s.refuse stExists
      else if !s.saveRoom n p.dies p.quota ((s.ctxs.filter (·.part == n)).length + 1) then s.refuse stNoResource
      else
        let x : Ctx := { part := n, num := k, root := c.a1, maps := [], watchdog := c.a2.toNat, clk := 0, debug := false, saved := [] }
        { s with ctxs := s.ctxs ++ [x] }.okCmd p.genG

/-- R436, R462, R464, R466: BUSY while a task is uncompleted, unless FORCE ends those tasks with ABORTED. -/
def execCtxDestroy (s : State) : Outcome State Fault Refusal :=
  let c := s.cmd
  s.onCtx (c.a1.toNat < 2 && c.a2 == 0 && c.a3 == 0 && c.a4 == 0) fun n x =>
    if c.a1 == 0 && s.tasks.any (fun t => t.part == n && t.ctx == x.num && t.run.phase != Phase.done) then s.refuse stBusy
    else if (s.part? n).any fun p => p.resident == some x.num && s.bumpWaits p then s.waitCmd
    else ((s.endCtx n x.num).afterCtx n x.num).okCmd 0

/-- R436. -/
def execQueueCreate (s : State) : Outcome State Fault Refusal :=
  let c := s.cmd
  s.onCtx (c.a4.toNat < 2 ^ 24 && fld c.a4.toNat 1 7 == 0) fun n x =>
    let q := c.a1.toNat
    let k := c.a3.toNat
    let vec := fld c.a4.toNat 16 8
    if 16 ≤ q || c.a2.toNat % 4096 != 0 || !((List.range 16).any fun i => k == 2 ^ (i + 1)) || vec < 2 || 65 < vec then
      s.refuse stBadArg
    else if (s.queue? n x.num q).isSome then s.refuse stExists
    else
      let y : Queue := { part := n, ctx := x.num, num := q, ring := c.a2.toNat, slots := k, dev := bitOf c.a4.toNat 0,
                         prio := fld c.a4.toNat 8 8, vec := vec, head := 0, tail := 0, stopped := false }
      { s with queues := s.queues ++ [y] }.okCmd 0

/-- R436, R439. -/
def execQueueDestroy (s : State) : Outcome State Fault Refusal :=
  let c := s.cmd
  s.onCtx (c.a2 == 0 && c.a3 == 0 && c.a4 == 0) fun n x =>
    match s.queue? n x.num c.a1.toNat with
    | none => if 16 ≤ c.a1.toNat then s.refuse stBadArg else s.refuse stNotFound
    | some q =>
      let mine (t : Task) : Bool := t.part == n && t.ctx == x.num && t.queue == q.num
      if s.tasks.any (fun t => mine t && t.run.phase != Phase.done) || (!q.stopped && q.head < q.tail) then s.refuse stBusy
      else
        { s with queues := s.queues.filter (fun y => !(y.part == n && y.ctx == x.num && y.num == q.num))
                 tasks := s.tasks.filter fun t => !mine t }.okCmd 0

/-! ### Mappings (R128, R135, R136, R436) -/

/-- The page size of a code. -/
def pageSize (code : Nat) : Nat := [65536, 2 ^ 21, 2 ^ 30].getD code 0

/-- The mapping that A1 to A4 of MAP and MAP2 give, none for BAD_ARG. -/
def Mapping.of (c : Cmd) : Option Mapping :=
  let f := c.a3.toNat
  let size := pageSize (fld f 10 2)
  let home := fld f 4 6
  if 2 ^ 12 ≤ f || bitOf f 3 || size == 0 || (32 ≤ home && home ≤ 0x3E) then none
  else if c.a2 == 0 || c.a1.toNat % size != 0 || c.a2.toNat % size != 0 || c.a4.toNat % size != 0 ||
    2 ^ 57 < c.a1.toNat + c.a2.toNat then none
  else some { from_ := c.a1.toNat, len := c.a2.toNat, to_ := c.a4.toNat, read := bitOf f 0, write := bitOf f 1,
              exec := bitOf f 2, home := home, size := size }

/-- Whether a page of a range of intermediate addresses is a second-tier page, as the second stage maps it now. -/
def Part.tierAt (p : Part) (ia n : Nat) : Bool :=
  p.maps.any fun y =>
    meet ia n y.from_ y.len &&
      isTier (y.to_ + (ia - y.from_)) (min (ia + n) (y.from_ + y.len) - max ia y.from_)

/-- R436: first stage.  INTERLEAVE is refused for second-tier pages (R128), which those of the second stage show; the status is
free (log 59). -/
def execMap (s : State) : Outcome State Fault Refusal :=
  s.onCtx true fun n x =>
    match Mapping.of s.cmd with
    | none => s.refuse stBadArg
    | some m =>
      if m.home == 63 && (s.part? n).any (·.tierAt m.to_ m.len) then s.refuse (Config.refusedStatus 3).toNat
      else if x.maps.any fun y => meet m.from_ m.len y.from_ y.len then s.refuse stExists
      else (s.putCtx { x with maps := x.maps ++ [m] }).okCmd 0

/-- R436: second stage.  INTERLEAVE is refused for second-tier pages (R128), and so are pages where no memory is and those of a
save area (R465); the spec names no status (log 59).  HOME = d is accepted for addresses beyond the two stacks that die d
has of its own (R10): the bound is the module's (DESIGN CHOICE, log 12: the spec names no refusal for them). -/
def execMap2 (s : State) : Outcome State Fault Refusal :=
  s.onPart true fun p =>
    match Mapping.of s.cmd with
    | none => s.refuse stBadArg
    | some m =>
      if isTier m.to_ m.len && m.home == 63 then s.refuse (Config.refusedStatus 3).toNat
      else if !isPeer m.to_ && s.memEnd < m.to_ + m.len then s.refuse (Config.refusedStatus 4).toNat
      else if p.maps.any fun y => meet m.from_ m.len y.from_ y.len then s.refuse stExists
      else if !s.sparesAreas p m then s.refuse (Config.refusedStatus 5).toNat
      else (s.putPart { p with maps := p.maps ++ [m] }).okCmd 0

/-- A mapping without the pages of a range. -/
def Mapping.cut (m : Mapping) (a n : Nat) : List Mapping :=
  if !(meet a n m.from_ m.len) then [m]
  else
    (if m.from_ < a then [{ m with len := a - m.from_ }] else []) ++
    (if a + n < m.from_ + m.len then
      [{ m with from_ := a + n, len := m.from_ + m.len - (a + n), to_ := m.to_ + (a + n - m.from_) }] else [])

/-- The virtual addresses that a request's accesses translate. -/
def Req.vas (q : Req) (b : Block) (t : Task) : List Nat :=
  q.lanes.map fun x => let (lo, _, _) := accRange q.op q.m x.addr (idxOf q.op x); xlatAddr t b q.op x.reg lo

/-- Whether an access that translated an address which `p` accepts is not yet performed (R136): a packet translates again when
it is reissued, and a `wcnt` at every read (log 31). -/
def State.inUse (s : State) (part : Nat) (p : Nat → Nat → Bool) : Bool :=
  s.groups.any fun g => match s.block? g.block, s.taskOf g with
    | some b, some t => b.part == part && g.reqs.any fun q =>
        (q.st == .flying || q.st == .poisoned) && q.accesses && q.kind != .wcnt && (q.vas b t).any (p b.ctx)
    | _, _ => false

/-- Whether what an invalidation waits for is outstanding (R136, R140): an access that used an entry, or a write-back of the
partition on its way. -/
def State.unsettled (s : State) (part : Nat) (p : Nat → Nat → Bool) : Bool :=
  s.inUse part p || s.backs fun _ x => x.part == part

/-- R136, R436: the mapping is removed, and the command completes when no access uses it and what they have written is in memory
(R140). -/
def execUnmap (s : State) : Outcome State Fault Refusal :=
  let c := s.cmd
  s.onCtx (c.a3 == 0 && c.a4 == 0) fun n x =>
    let a := c.a1.toNat
    let k := c.a2.toNat
    let hit := x.maps.filter fun m => meet a k m.from_ m.len
    if k == 0 || a % 65536 != 0 || k % 65536 != 0 || hit.any (fun m => a % m.size != 0 || k % m.size != 0) then
      s.refuse stBadArg
    else
      let s := s.putCtx { x with maps := x.maps.flatMap fun m => m.cut a k }
      if s.unsettled n fun ctx va => ctx == x.num && a ≤ va && va < a + k then s.waitCmd else (s.llcClean n).okCmd 0

/-- R136: translations of the range are dropped from every cache, which changes nothing here; the command completes when no
access uses an affected one.  From PF0, A0 names a partition and the range is intermediate (log 28).  A length of 0, and an address
or a length that is no multiple of the smallest page, give BAD_ARG as for UNMAP (DESIGN CHOICE, log 28: R436 states no
condition here). -/
def execInvalCommand (s : State) : Outcome State Fault Refusal :=
  let c := s.cmd
  let a := c.a1.toNat
  let k := c.a2.toNat
  match s.entitled .any (c.a3 == 0 && c.a4 == 0) with
  | .error e => s.refuse e
  | .ok n =>
    if k == 0 || a % 65536 != 0 || k % 65536 != 0 then s.refuse stBadArg
    else if c.fn == 0 then
      match s.part? c.a0.toNat with
      | none => s.refuse (if 8 ≤ c.a0.toNat then stBadArg else stNotFound)
      | some p =>
        let mid (ctx va : Nat) : Bool :=
          match (s.ctx? p.num ctx).bind fun x => findMap va x.maps with
          | some m => let ia := m.to_ + (va - m.from_); a ≤ ia && ia < a + k
          | none => true
        if s.unsettled p.num mid then s.waitCmd else (s.llcClean p.num).okCmd 0
    else
      match s.ctx? n c.a0.toNat with
      | none => s.refuse (if 64 ≤ c.a0.toNat then stBadArg else stNotFound)
      | some x =>
        if s.unsettled n fun ctx va => ctx == x.num && a ≤ va && va < a + k then s.waitCmd else (s.llcClean n).okCmd 0

/-! ### Packets (R137, R470) -/

/-- The status of a packet id that a partition does not have (R437): another's object, or none's. -/
def State.noPacket (s : State) (id : Nat) : Nat :=
  if s.parts.any fun p => (s.packetOf p.num id).isSome || (s.pausedOf p.num id).isSome then stNotPermitted else stNotFound

/-- The driver's answer to a packet (R137): a command for one whose record still waits for room in its event ring waits for
that (R441; log 80). -/
def State.answerCmd (s : State) (again : Bool) : Outcome State Fault Refusal :=
  let c := s.cmd
  match s.entitled .vf (c.a1 == 0 && c.a2 == 0 && c.a3 == 0 && c.a4 == 0) with
  | .error e => s.refuse e
  | .ok n => match s.answer n c.a0.toNat again with
    | some s' => if s.unwritten c.a0.toNat then s.waitCmd else s'.okCmd 0
    | none => s.refuse (s.noPacket c.a0.toNat)

/-- R137, step 4. -/
def execFaultReplay (s : State) : Outcome State Fault Refusal := s.answerCmd true

/-- R137, step 5. -/
def execFaultDecline (s : State) : Outcome State Fault Refusal := s.answerCmd false

/-! ### Debuggers and apertures (R385, R387, R430) -/

/-- R385, R436. -/
def execDebugAttach (s : State) : Outcome State Fault Refusal :=
  let c := s.cmd
  s.onCtx (c.a1 == 0 && c.a2 == 0 && c.a3 == 0 && c.a4 == 0) fun _ x => (s.putCtx { x with debug := true }).okCmd 0

/-- A group frozen by `bkpt` resumes at the next PC of the `bkpt` (R385). -/
def State.thaw (s : State) (g : Group) : State :=
  match g.wait, g.exec? with
  | .debug m next, some x =>
    let y := { (if g.inHandler then x else ((g.active ++ g.parked).find? (·.mask == m)).getD x) with
      last := some x.pc, pc := next, fetched := false, prev := s.now, ready := s.now + 1 }
    (s.putGroup ({ g with wait := .none }.putExec m y)).settleGroup g.uid 1
  | _, _ => s

/-- Whether a group is frozen by `bkpt`. -/
def Group.frozen (g : Group) : Bool := match g.wait with | .debug _ _ => true | _ => false

/-- R436: frozen groups resume. -/
def execDebugDetach (s : State) : Outcome State Fault Refusal :=
  let c := s.cmd
  s.onCtx (c.a1 == 0 && c.a2 == 0 && c.a3 == 0 && c.a4 == 0) fun n x =>
    let gs := s.groups.filter fun g => g.frozen && (match s.block? g.block with
      | some b => b.part == n && b.ctx == x.num
      | none => false)
    (gs.foldl (fun s g => s.thaw g) (s.putCtx { x with debug := false })).okCmd 0

/-- The frozen group of a partition that A0 of DEBUG_RESUME names: die, core in die, group slot; BAD_ARG, NOT_PERMITTED for
another partition's group, or NOT_FOUND (R437).  Where several contexts of the partition have a frozen group in that slot, the one
listed first is meant, resident or not (DESIGN CHOICE, log 81: A0 names no context). -/
def State.frozenAt (s : State) (part n : Nat) : Except Nat Group :=
  if 2 ^ 15 ≤ n || 48 ≤ fld n 5 6 then .error stBadArg
  else
    let there := s.groups.filter fun g => g.core == 48 * fld n 0 5 + fld n 5 6 && g.gslot == fld n 11 4
    let mine (g : Group) : Bool := ((s.block? g.block).map (·.part)) == some part
    match there.find? fun g => g.frozen && mine g with
    | some g => .ok g
    | none => .error (if there.any fun g => !mine g then stNotPermitted else stNotFound)

/-- R385. -/
def execDebugResume (s : State) : Outcome State Fault Refusal :=
  let c := s.cmd
  match s.entitled .vf (c.a1 == 0 && c.a2 == 0 && c.a3 == 0 && c.a4 == 0) with
  | .error e => s.refuse e
  | .ok n => match s.frozenAt n c.a0.toNat with
    | .ok g => (s.thaw g).okCmd 0
    | .error e => s.refuse e

/-- R387, R436: one row of the window of a frozen group, to or from the issuing function's memory. -/
def execDebugWindow (s : State) : Outcome State Fault Refusal :=
  let c := s.cmd
  match s.entitled .vf (c.a3.toNat < 2 && c.a4 == 0) with
  | .error e => s.refuse e
  | .ok n => match s.frozenAt n c.a0.toNat with
    | .error e => s.refuse e
    | .ok g =>
      let i := c.a1.toNat
      if i < 0x100 && g.nregs ≤ i then s.refuse stBadArg
      else if c.a3 == 0 then
        match (g.viewAt s.now).window i with
        | none => s.refuse stBadArg
        | some r => (s.hostWrite c.fn c.a2.toNat (r.flatMap fun x => bytesOf 4 x.toNat)).okCmd 0
      else
        let b := s.hostRead c.fn c.a2.toNat 384
        match windowWrite i (mkRow fun L => wd (leOf ((b.drop (4 * L)).take 4))) with
        | none => s.refuse stBadArg
        | some w =>
          let g := { g.push s.now g.seq w with
            seq := g.seq + 1, poison := if i < 0x100 then g.poison.filter (· != i) else g.poison }
          (s.putGroup g).okCmd 0

/-- R430, R436: BAR4 of the function that issues the command (log 29). -/
def execAperture (s : State) : Outcome State Fault Refusal :=
  let c := s.cmd
  s.onCtx (c.a2 == 0 && c.a3 == 0 && c.a4 == 0) fun n x =>
    if c.a1.toNat % 2 ^ 32 != 0 then s.refuse stBadArg
    else (s.putFn c.fn { s.fn c.fn with apert := some (n, x.num, c.a1.toNat) }).okCmd 0

end Sys2Proof.Machine
end

