-- ==== Sys2Proof/Machine/Fleet.lean ====
section
/-! DEFINITION. Operating points, sensors, the side-band, soft errors found by the scrubber (spec 28 R500 to R505). -/

namespace Sys2Proof.Machine

open Host (Outcome)

/-! ### Operating points (R502, R503) -/

/-- Whether a sensor is a DIETEMP or HBMTEMP (R501). -/
def isTemp (id : Nat) : Bool := 0x100 ≤ id && id < 0x180

/-- The reading that a sensor last had, 0 before its first refresh (log 6). -/
def Fleet.sensor (f : Fleet) (id : Nat) : Int := getKey 0 id f.sensors

/-- Whether every die and stack reads below 100 °C (R503). -/
def Fleet.cool (f : Fleet) : Bool := f.sensors.all fun x => !isTemp x.1 || x.2 < 100

/-- The groups that run now. -/
def State.runningGroups (s : State) : List Nat := (s.groups.filter s.running).map (·.uid)

/-- The results in flight of a group written at once: its vector instructions complete their beats (R468). -/
def Group.endBeats (g : Group) (now : Nat) : Group :=
  { g with pend := g.pend.map fun p => { p with at_ := min p.at_ now } }

/-- The core clocks stop in the halt state of R468 (R502, R503), which is reached at once (log 32): beats and matrix steps that
have begun end, copies stop at a byte, atomics complete at the home, and every other request of a running group becomes a
packet. -/
def State.standStill (s : State) : State :=
  let s := s.coreNums.foldl (fun s c => (s.finishStep c).haltCopy c) s
  s.runningGroups.foldl (fun s u => match s.group? u with
    | some g => match s.block? g.block, s.taskOf g with
      | some b, some t =>
        let s := s.finishAtomics g b t
        match s.group? u with
        | some g => (s.putGroup { g.endBeats s.now with reqs := g.packed }).retest u
        | none => s
      | _, _ => s
    | none => s) s

/-- The core clocks go on: packets are reissued, and answers recorded meanwhile take effect (R467). -/
def State.goOnAll (s : State) : State := s.runningGroups.foldl (fun s u => s.pickUp u) s

/-- R502, R503: the transition begins as the command completes; a transition under way is waited for.  A transition that R502's
table does not list, from OP4 to OP3 or from OFF to OP3 or OP4, is accepted like the others (DESIGN CHOICE, log 32: R436 takes
any A0 of 0 to 5, and the spec names no refusal). -/
def execSetOp (s : State) : Outcome State Fault Refusal :=
  let c := s.cmd
  let n := c.a0.toNat
  match s.issuer .pf0 (c.a1 == 0 && c.a2 == 0 && c.a3 == 0 && c.a4 == 0) with
  | .error e => s.refuse e
  | .ok _ =>
    if 5 < n then s.refuse stBadArg
    else if s.fleet.opTarget.isSome then s.waitCmd
    else if s.fleet.thermhalt && n != 5 && !s.fleet.cool then s.refuse stThermal
    else
      let on := s.fleet.thermhalt && s.fleet.op ≤ 2
      let s := { s with fleet := { s.fleet with thermhalt := false } }
      let s := if on then s.goOnAll else s
      if n == s.fleet.op then s.okCmd 0 else { s with fleet := { s.fleet with opTarget := some n } }.okCmd 0

/-- R502: everything is kept, but for OFF: the module is then as after a reset, and its error log is empty (R504); so it is again
as it leaves OFF, whatever a command has done there.  From OP0 to OP2 the way to OP4 leads through OP3. -/
def execOpTransitionDone (s : State) : Outcome State Fault Refusal :=
  match s.fleet.opTarget with
  | none => .next s
  | some n =>
    if n == 5 then
      let s := s.moduleReset
      .next { s with fleet := { s.fleet with op := 5, errlog := [], errNext := 0 } }
    else if s.fleet.op == 5 then
      let s := s.moduleReset
      .next { s with fleet := { s.fleet with op := n } }
    else if s.fleet.op ≤ 2 && 3 ≤ n then
      .next { s with fleet := { s.fleet with op := 3, opTarget := if n == 3 then none else some n } }.standStill
    else
      let t := { s with fleet := { s.fleet with op := n, opTarget := none } }
      .next (if 3 ≤ s.fleet.op && n ≤ 2 then t.goOnAll else t)

/-- R503, R504. -/
def execThermhalt (id : Nat) (s : State) : Outcome State Fault Refusal :=
  if !isTemp id || s.fleet.sensor id < 110 || s.fleet.thermhalt || s.fleet.op == 5 then .next s
  else .next ({ s with fleet := { s.fleet with thermhalt := true } }.standStill.record { type := 8, detail := dw id })

/-! ### Sensors (R501) -/

/-- The thresholds between two readings: false the upper warning at 95 °C, true the upper critical at 105 °C. -/
def crossings (a b : Int) : List Bool :=
  (if (a < 95) != (b < 95) then [false] else []) ++ (if (a < 105) != (b < 105) then [true] else [])

/-- R501: INLET, MODPWR and the temperatures take what is measured; CECNT and OPSTATE are the module's own. -/
def execSensorRefresh (id : Nat) (value : Int) (s : State) : Outcome State Fault Refusal :=
  if !(id == 1 || id == 2 || (0x100 ≤ id && id < 0x120) || (0x140 ≤ id && id < 0x180)) then .next s
  else
    let ev := if isTemp id then (crossings (s.fleet.sensor id) value).map fun c => (id, c) else []
    .next { s with fleet := { s.fleet with sensors := setKey id value s.fleet.sensors,
                                           platform := s.fleet.platform ++ ev } }

/-- What a sensor reads, none where it is unavailable: those of a fenced die, and an id that is none (R501). -/
def State.reading (s : State) (id : Nat) : Option Int :=
  if id == 0x200 then some (if s.fleet.thermhalt then 6 else s.fleet.op)
  else if id == 1 || id == 2 then some (s.fleet.sensor id)
  else if 0x100 ≤ id && id < 0x120 then (if s.deadDies.contains (id - 0x100) then none else some (s.fleet.sensor id))
  else if 0x140 ≤ id && id < 0x180 then (if s.deadDies.contains ((id - 0x140) / 2) then none else some (s.fleet.sensor id))
  else if 0x180 ≤ id && id < 0x1A0 then (if s.deadDies.contains (id - 0x180) then none else some (s.fleet.sensor id))
  else none

/-! ### The side-band (R500, R501, R504) -/

/-- A reply sent over a path. -/
def State.reply (s : State) (v : Via) (b : List Byte) : State :=
  { s with fleet := { s.fleet with out := s.fleet.out ++ [(v, b)] } }

/-- A message of an MCTP type over the side-band (R500). -/
def mctpMessage (type : Nat) (b : List Byte) : List Byte := BitVec.ofNat 8 type :: b

/-- A vendor defined message of the module (R500, R504): its vendor ID, its command and its data. -/
def vendorMessage (cmd : Nat) (b : List Byte) : List Byte :=
  mctpMessage Config.mctpVendor (BitVec.ofNat 8 (Config.vendorId / 256) :: BitVec.ofNat 8 Config.vendorId ::
    BitVec.ofNat 8 cmd :: b)

/-- What a message over the side-band asks (R500, R504): by its MCTP type and, of a vendor message, its vendor ID and command;
nothing for a type that the module does not answer. -/
def sideOf (type : BitVec 8) (b : List Byte) : Option (Sum SideMsg SpdmReq) :=
  if type.toNat == Config.mctpControl then some (.inl (.mctp (Config.mctpEid b)))
  else if type.toNat == Config.mctpPldm then some (.inl (.sensor (Config.pldmSensor b)))
  else if type.toNat == Config.mctpSpdm then
    some (.inr { via := .mctp, code := (Config.spdmFields b).1, param := (Config.spdmFields b).2 })
  else if type.toNat == Config.mctpVendor && 256 * (b.getD 0 0).toNat + (b.getD 1 0).toNat == Config.vendorId then
    if (b.getD 2 0).toNat == Config.cmdReadErrlog then some (.inl (.errlog (BitVec.ofNat 32 (leOf ((b.drop 3).take 4)))))
    else if (b.getD 2 0).toNat == Config.cmdErrlogInfo then some (.inl .errlogInfo)
    else none
  else none

/-- R500: the module sends its provisioned ID, which carries its vendor value, most significant byte first (log 11), and takes the
address. -/
def execEntdaa (s : State) : Outcome State Fault Refusal :=
  match s.side with
  | .daa a => .next ({ s with fleet := { s.fleet with i3cAddr := some a } }.reply .mctp
      (bytesOf 6 Config.provisionedId.toNat).reverse)
  | _ => .next s

/-- R500: the reply's bytes are MCTP's (log 11). -/
def execMctpControl (s : State) : Outcome State Fault Refusal :=
  match s.side with
  | .mctp e => .next ({ s with fleet := { s.fleet with eid := e.getD s.fleet.eid } }.reply .mctp
      (mctpMessage Config.mctpControl (Config.mctpBody e)))
  | _ => .next s

/-- R501: the reply's bytes are PLDM's (log 11). -/
def execPldmSensorRead (s : State) : Outcome State Fault Refusal :=
  match s.side with
  | .sensor id => .next (s.reply .mctp (mctpMessage Config.mctpPldm (Config.pldmBody id (s.reading id))))
  | _ => .next s

/-- SEQ of a record (R442). -/
def recordSeq (r : Record) : Nat := (r.extractLsb' 32 32).toNat

/-- R504: up to 8 records from a SEQ on, oldest first. -/
def execReadErrlog (s : State) : Outcome State Fault Refusal :=
  match s.side with
  | .errlog start =>
    let l := (s.fleet.errlog.filter fun r => start.toNat ≤ recordSeq r).take 8
    .next (s.reply .mctp (vendorMessage Config.cmdReadErrlog (l.flatMap fun r => bytesOf 64 r.toNat)))
  | _ => .next s

/-- R504: the oldest and the newest SEQ held. -/
def execErrlogInfo (s : State) : Outcome State Fault Refusal :=
  match s.side with
  | .errlogInfo =>
    match s.fleet.errlog.head?, s.fleet.errlog.getLast? with
    | some a, some b =>
      .next (s.reply .mctp (vendorMessage Config.cmdErrlogInfo (bytesOf 4 (recordSeq a) ++ bytesOf 4 (recordSeq b))))
    | _, _ => .next (s.reply .mctp (vendorMessage Config.cmdErrlogInfo Config.emptyErrlog))
  | _ => .next s

/-! ### Soft errors (R505) -/

/-- A correction counted at a die, with its ECC record (R505). -/
def State.corrected (s : State) (die : Nat) : State :=
  let id := 0x180 + die
  { s with fleet := { s.fleet with sensors := setKey id (s.fleet.sensor id + 1) s.fleet.sensors } }.record
    { type := 5, detail := 0 }

/-- R505: what the patrol scrubber finds in the 8-byte word of an address. -/
def execPatrolScrub (addr : Nat) (found : SoftError) (s : State) : Outcome State Fault Refusal :=
  match found with
  | .clean => .next s
  | .correctable => .next (s.corrected (homeDie (s.homeOf addr) addr))
  | .uncorrectable => .next ((s.poisonMem (addr / 8 * 8)).record { type := 5, detail := 1 })

/-- A soft error strikes (R505, R506): 0 poisons a varying register of a group, 5 a handler row and 6 a park row of it, 1 a
scratchpad word, 2 a cell of a tile of a block, 4 a word of the UBS that core `u` holds as an L1 sector; 3 is one that a store
of die `place` corrects. -/
def State.upset (s : State) (kind u place : Nat) : State :=
  let rec_ (s : State) : State := s.record { type := 5, detail := 1 }
  if kind == 3 then s.corrected place
  else if kind == 0 || kind == 5 || kind == 6 then
    let row := if kind == 0 then place % 256 else (if kind == 5 then poisonedH else poisonedPark) + place % 8
    match s.group? u with
    | some g => rec_ (s.putGroup { g with poison := g.poison.filter (· != row) ++ [row] })
    | none => s
  else if kind == 4 then
    match (s.core u).l1[place / 16]? with
    | some x => rec_ (s.keepSector u { x with bad := x.bad ||| BitVec.twoPow 16 (place % 16) })
    | none => s
  else
    match s.block? u with
    | none => s
    | some b =>
      if kind == 1 then rec_ (s.putBlock { b with scrBad := b.scrBad.filter (· != place / 8 * 8) ++ [place / 8 * 8] })
      else rec_ (s.putBlock { b with tileBad := b.tileBad.filter (· != place) ++ [place] })

end Sys2Proof.Machine
end

