-- ==== Sys2Proof/Machine/Signatures.lean ====
section
/-! DEFINITION. The two signatures of a format image (spec 26 R476 to R479): RSASSA-PSS as RFC 8017 gives it, with SHA-384, MGF1
with SHA-384 and a 48-byte salt, and SLH-DSA-SHA2-192s as FIPS 205 gives it, pure, with an empty context (log 10). -/

namespace Sys2Proof.Machine

/-! ### Bytes and digests -/

/-- A byte string as a big-endian number. -/
def beOf (b : List Byte) : Nat := b.foldl (fun a x => 256 * a + x.toNat) 0

/-- A number in `n` bytes, most significant first. -/
def beBytes : Nat → Nat → List Byte
  | 0, _ => []
  | n + 1, x => beBytes n (x / 256) ++ [BitVec.ofNat 8 x]

/-- The words of a digest as bytes, `n` to a word. -/
def digestBytes {w : Nat} (n : Nat) (h : List (BitVec w)) : List Byte := h.flatMap fun x => beBytes n x.toNat

/-- The initial state of SHA-512. -/
def sha512Iv : List (BitVec 64) :=
  [0x6A09E667F3BCC908, 0xBB67AE8584CAA73B, 0x3C6EF372FE94F82B, 0xA54FF53A5F1D36F1, 0x510E527FADE682D1,
   0x9B05688C2B3E6C1F, 0x1F83D9ABFB41BD6B, 0x5BE0CD19137E2179]

/-- SHA-512 of a byte string, in bytes. -/
def sha512Bytes (m : List Byte) : List Byte :=
  digestBytes 8 (shaBlocks (m.length / 128 + 2) sha512Iv (m ++ shaPad m.length))

/-- SHA-384 of a byte string, in bytes. -/
def sha384Bytes (m : List Byte) : List Byte :=
  digestBytes 8 ((shaBlocks (m.length / 128 + 2) shaIv (m ++ shaPad m.length)).take 6)

/-- The padding of SHA-256 after a message of `n` bytes. -/
def sha256Pad (n : Nat) : List Byte := (0x80 : Byte) :: List.replicate ((119 - n % 64) % 64) 0 ++ beBytes 8 (8 * n)

/-- The first `k` 32-bit words of a block. -/
def sha256Words : Nat → List Byte → List (BitVec 32)
  | 0, _ => []
  | k + 1, b => BitVec.ofNat 32 (beOf (b.take 4)) :: sha256Words k (b.drop 4)

/-- Extends the schedule of SHA-256, kept newest first, by `k` words. -/
def sha256Schedule : Nat → List (BitVec 32) → List (BitVec 32)
  | 0, w => w
  | k + 1, w =>
    let x := w.getD 14 0
    let y := w.getD 1 0
    let s0 := x.rotateRight 7 ^^^ x.rotateRight 18 ^^^ x >>> 3
    let s1 := y.rotateRight 17 ^^^ y.rotateRight 19 ^^^ y >>> 10
    sha256Schedule k ((w.getD 15 0 + s0 + w.getD 6 0 + s1) :: w)

/-- One round of SHA-256. -/
def sha256Round (h : List (BitVec 32)) (kw : BitVec 32 × BitVec 32) : List (BitVec 32) :=
  match h with
  | [a, b, c, d, e, f, g, x] =>
    let s1 := e.rotateRight 6 ^^^ e.rotateRight 11 ^^^ e.rotateRight 25
    let ch := (e &&& f) ^^^ (~~~e &&& g)
    let t1 := x + s1 + ch + kw.1 + kw.2
    let s0 := a.rotateRight 2 ^^^ a.rotateRight 13 ^^^ a.rotateRight 22
    let mj := (a &&& b) ^^^ (a &&& c) ^^^ (b &&& c)
    [t1 + s0 + mj, a, b, c, d + t1, e, f, g]
  | h => h

/-- The upper half of a word: the constants of SHA-256 are those of SHA-512, cut (FIPS 180-4). -/
def upper32 (x : BitVec 64) : BitVec 32 := x.extractLsb' 32 32

/-- One block of 64 bytes. -/
def sha256Block (h : List (BitVec 32)) (b : List Byte) : List (BitVec 32) :=
  let w := (sha256Schedule 48 (sha256Words 16 b).reverse).reverse
  List.zipWith (· + ·) h ((((shaK1 ++ shaK2).map upper32).zip w).foldl sha256Round h)

/-- The blocks of a padded message, at most `k`. -/
def sha256Blocks : Nat → List (BitVec 32) → List Byte → List (BitVec 32)
  | 0, h, _ => h
  | k + 1, h, b => if b.isEmpty then h else sha256Blocks k (sha256Block h (b.take 64)) (b.drop 64)

/-- SHA-256 of a byte string, in bytes. -/
def sha256Bytes (m : List Byte) : List Byte :=
  digestBytes 4 (sha256Blocks (m.length / 64 + 2) (sha512Iv.map upper32) (m ++ sha256Pad m.length))

/-- MGF1 (RFC 8017): `n` bytes of the digests of a seed with a counter. -/
def mgf1 (hash : List Byte → List Byte) (blocks : Nat) (seed : List Byte) (n : Nat) : List Byte :=
  ((List.range blocks).flatMap fun i => hash (seed ++ beBytes 4 i)).take n

/-! ### RSASSA-PSS (R476, R477) -/

/-- x to the power e, modulo n, from the lowest bit of e on: at most `fuel` bits. -/
def powMod (n : Nat) : Nat → Nat → Nat → Nat → Nat
  | 0, _, _, a => a
  | fuel + 1, x, e, a => if e == 0 then a else powMod n fuel (x * x % n) (e / 2) (if e % 2 == 1 then a * x % n else a)

/-- EMSA-PSS-VERIFY of RFC 8017 for a modulus of 3,072 bits, SHA-384 and a 48-byte salt. -/
def pssOk (m em : List Byte) : Bool :=
  let masked := em.take 335
  let h := (em.drop 335).take 48
  let db := List.zipWith (· ^^^ ·) masked (mgf1 sha384Bytes 7 h 335)
  let db := match db with | [] => [] | x :: t => (x &&& 0x7F) :: t
  em.length == 384 && em.getLastD 0 == 0xBC && !((masked.headD 0).getLsbD 7) &&
    (db.take 286).all (· == 0) && db.getD 286 0 == 1 &&
    sha384Bytes (List.replicate 8 0 ++ sha384Bytes m ++ db.drop 287) == h

/-- Whether an RSASSA-PSS signature of a message verifies under bytes 4 to 439 of a key block (R476, R477, R479). -/
def rsaVerify (key m sig : List Byte) : Bool :=
  let e := beOf (key.take 4).reverse
  let n := beOf ((key.drop 4).take 384)
  let s := beOf sig
  sig.length == 384 && s < n && pssOk m (beBytes 384 (powMod n 32 s e 1))

/-! ### SLH-DSA-SHA2-192s (R476, R477) -/

/-- The address of a hash call (FIPS 205): layer, tree, type, key pair, and the two words that the type uses. -/
structure SlhAdrs where
  layer : Nat
  tree  : Nat
  kind  : Nat
  pair  : Nat
  high  : Nat
  index : Nat
  deriving DecidableEq, Repr

/-- The compressed address: 22 bytes. -/
def SlhAdrs.bytes (a : SlhAdrs) : List Byte :=
  beBytes 1 a.layer ++ beBytes 8 a.tree ++ beBytes 1 a.kind ++ beBytes 4 a.pair ++ beBytes 4 a.high ++ beBytes 4 a.index

/-- The hash of one value: F. -/
def slhF (seed : List Byte) (a : SlhAdrs) (m : List Byte) : List Byte :=
  (sha256Bytes (seed ++ List.replicate 40 0 ++ a.bytes ++ m)).take 24

/-- The hash of several values: H and T. -/
def slhT (seed : List Byte) (a : SlhAdrs) (m : List Byte) : List Byte :=
  (sha512Bytes (seed ++ List.replicate 104 0 ++ a.bytes ++ m)).take 24

/-- The first `n` digits of `b` bits of a byte string, most significant first. -/
def slhDigits (x : List Byte) (b n : Nat) : List Nat :=
  (List.range n).map fun i => beOf x / 2 ^ (8 * x.length - b * (i + 1)) % 2 ^ b

/-- The n-byte value at place i of a byte string. -/
def slhAt (x : List Byte) (i : Nat) : List Byte := (x.drop (24 * i)).take 24

/-- A chain of `n` steps from place `i`. -/
def slhChain (seed : List Byte) (a : SlhAdrs) (i : Nat) : Nat → List Byte → List Byte
  | 0, x => x
  | n + 1, x => slhChain seed a (i + 1) n (slhF seed { a with index := i } x)

/-- The WOTS+ public key that a signature of a value gives. -/
def slhWots (seed : List Byte) (a : SlhAdrs) (sig m : List Byte) : List Byte :=
  let d := slhDigits m 4 48
  let sum := d.foldl (fun s x => s + (15 - x)) 0
  let d := d ++ slhDigits (beBytes 2 (sum * 16)) 4 3
  slhT seed { a with kind := 1, high := 0, index := 0 }
    ((d.zip (List.range 51)).flatMap fun (x, i) =>
      slhChain seed { a with kind := 0, high := i, index := 0 } x (15 - x) (slhAt sig i))

/-- The root that a leaf at `index` and its path give, from height `k` on. -/
def slhPath (seed : List Byte) (a : SlhAdrs) (k index : Nat) : List (List Byte) → List Byte → List Byte
  | [], node => node
  | y :: l, node =>
    let a' := { a with high := k + 1, index := index / 2 }
    slhPath seed a (k + 1) (index / 2) l (slhT seed a' (if index % 2 == 0 then node ++ y else y ++ node))

/-- The `n` values of a byte string from place `i` on. -/
def slhList (x : List Byte) (i n : Nat) : List (List Byte) := (List.range n).map fun k => slhAt x (i + k)

/-- The root of an XMSS tree that a signature of a value gives. -/
def slhXmss (seed : List Byte) (layer tree leaf : Nat) (sig m : List Byte) : List Byte :=
  let a : SlhAdrs := { layer := layer, tree := tree, kind := 0, pair := leaf, high := 0, index := 0 }
  slhPath seed { a with kind := 2, pair := 0 } 0 leaf (slhList sig 51 9) (slhWots seed a sig m)

/-- The root of the hypertree that a signature of a value gives, over the layers from `j` on. -/
def slhTree (seed sig : List Byte) : Nat → Nat → Nat → Nat → List Byte → List Byte
  | 0, _, _, _, m => m
  | n + 1, j, tree, leaf, m =>
    slhTree seed sig n (j + 1) (tree / 512) (tree % 512) (slhXmss seed j tree leaf (sig.drop (1440 * j)) m)

/-- The FORS public key that a signature of a digest gives. -/
def slhFors (seed : List Byte) (tree leaf : Nat) (sig md : List Byte) : List Byte :=
  let a : SlhAdrs := { layer := 0, tree := tree, kind := 3, pair := leaf, high := 0, index := 0 }
  slhT seed { a with kind := 4 }
    (((slhDigits md 14 17).zip (List.range 17)).flatMap fun (x, i) =>
      let at_ := i * 2 ^ 14 + x
      slhPath seed a 0 at_ (slhList sig (15 * i + 1) 14) (slhF seed { a with index := at_ } (slhAt sig (15 * i))))

/-- Whether a pure SLH-DSA-SHA2-192s signature with an empty context verifies under bytes 4 to 439 of a key block (R476, R477,
R479). -/
def slhVerify (key m sig : List Byte) : Bool :=
  let pk := (key.drop 388).take 48
  let seed := pk.take 24
  let root := pk.drop 24
  let r := sig.take 24
  let d := mgf1 sha512Bytes 1 (r ++ seed ++ sha512Bytes (r ++ seed ++ root ++ [0, 0] ++ m)) 39
  let tree := beOf ((d.drop 30).take 7) % 2 ^ 54
  let leaf := beOf ((d.drop 37).take 2) % 2 ^ 9
  let fors := slhFors seed tree leaf (sig.drop 24) (d.take 30)
  sig.length == 16224 && slhTree seed (sig.drop 6144) 7 0 tree leaf fors == root

end Sys2Proof.Machine
end

