-- ==== Sys2Proof/Machine/Images.lean ====
section
/-! DEFINITION. Images, keys, measurement logs and SPDM (spec 26 R476 to R486, 23 R436). -/

namespace Sys2Proof.Machine

open Host (Outcome)

/-! ### Keys (R478 to R480) -/

/-- KEYID of bytes 4 to 439 of a key block (R479). -/
def keyIdOf (b : List Byte) : Dword := (sha384 b).setWidth 64

/-- Bytes 4 to 439 of a key block. -/
def keyBody (b : List Byte) : List Byte := (b.drop 4).take 436

/-- R480: whether a key block gives BAD_ARG. -/
def keyBad (b : List Byte) : Bool :=
  leOf (b.take 4) != 0x4B594649 || leOf ((b.drop 4).take 4) % 2 == 0 || leOf ((b.drop 4).take 4) < 3 ||
    !((b.getD 8 0).getLsbD 7) || (b.drop 440).any (· != 0)

/-- R480, R483. -/
def execKeyEnroll (s : State) : Outcome State Fault Refusal :=
  let c := s.cmd
  s.onPart (c.a2 == 0 && c.a3 == 0 && c.a4 == 0) fun p =>
    let b := s.hostRead 0 c.a1.toNat 448
    let id := keyIdOf (keyBody b)
    if keyBad b then s.refuse stBadArg
    else if p.keys.any (·.id == id) then s.refuse stExists
    else if 4 ≤ p.keys.length then s.refuse stNoResource
    else
      let s := s.putPart { p with keys := p.keys ++ [{ id := id, bytes := b }] }
      (s.logEntry 1 (some p.num) 0xFF 0 0 (sha384 (keyBody b))).okCmd 0

/-! ### Images (R476, R477, R481) -/

/-- The parts of an image that R481 reads, from its bytes. -/
structure Container where
  bytes  : List Byte
  hdr    : Nat
  tablen : Nat
  paylen : Nat
  totlen : Nat
  keyid  : Dword
  signer : Nat
  deriving DecidableEq, Repr

/-- A container of a byte string (R476, R477). -/
def containerOf (b : List Byte) : Container :=
  let h := leOf (b.take 64)
  { bytes := b, hdr := h, tablen := fld h 272 16, paylen := fld h 288 32, totlen := fld h 352 32, keyid := dw (fld h 448 64),
    signer := fld h 48 8 }

/-- R481, order 1. -/
def Container.bad (c : Container) (len : Nat) : Bool :=
  len != c.totlen || c.totlen != 16736 + c.tablen + c.paylen || fld c.hdr 0 32 != 0x544D4649 || fld c.hdr 32 16 != 1 ||
    1 < c.signer || fld c.hdr 56 216 != 0 || fld c.hdr 384 64 != 0 || c.paylen < 16 || 4194304 < c.paylen ||
    c.paylen % 16 != 0

/-- The payload. -/
def Container.payload (c : Container) : List Byte := (c.bytes.drop (128 + c.tablen)).take c.paylen

/-- The signed message (R476). -/
def Container.message (c : Container) : List Byte := c.bytes.take (128 + c.tablen + c.paylen)

/-- The key that a container names, of the ROM or enrolled (R481, order 2). -/
def Container.key (c : Container) (p : Part) : Option (List Byte) :=
  if c.signer == 0 then (if c.keyid == keyIdOf Config.finranKey then some Config.finranKey else none)
  else (p.keys.find? (·.id == c.keyid)).map fun k => keyBody k.bytes

/-- R481, order 3; R476, R477. -/
def Container.signed (c : Container) (key : List Byte) : Bool :=
  let o := 128 + c.tablen + c.paylen
  rsaVerify key c.message ((c.bytes.drop o).take 384) && slhVerify key c.message ((c.bytes.drop (o + 384)).take 16224)

/-- The descriptor's bits and the format of a container (R157). -/
def Container.desc (c : Container) : Nat × Fmt :=
  let d := leOf ((c.bytes.drop 64).take 64)
  (d, Fmt.ofDesc d ((List.range (c.tablen / 4)).map fun i => wd (leOf ((c.bytes.drop (128 + 4 * i)).take 4))))

/-- R481, order 4. -/
def Container.descBad (c : Container) : Bool :=
  let (d, F) := c.desc
  !descValid d F || c.tablen != (if F.kind == 2 then 4 * 2 ^ F.width else 0)

/-- R481: the image's checks in order, the first failure deciding the status. -/
def execImageLoad (s : State) : Outcome State Fault Refusal :=
  let c := s.cmd
  match s.entitled .vf (c.a2 == 0 && c.a3 == 0 && c.a4 == 0) with
  | .error e => s.refuse e
  | .ok n =>
    match s.part? n with
    | none => s.refuse stNotFound
    | some p =>
      let len := c.a1.toNat
      let x := containerOf (s.hostRead c.fn c.a0.toNat (if 16736 + 4 * 2 ^ 16 + 4194304 < len then 64 else len))
      if c.a0.toNat % 16 != 0 || x.bad len then s.refuse stBadArg
      else
        match x.key p with
        | none => s.refuse 0xB
        | some key =>
          if !x.signed key then s.refuse 9
          else if x.descBad then s.refuse 0xA
          else if (crc32c x.payload).toNat != fld x.hdr 320 32 then s.refuse stBadArg
          else if 64 ≤ p.images.length then s.refuse stNoResource
          else
            let d := sha384 x.bytes
            match p.images.find? (·.digest == d) with
            | some i => s.okCmd i.id
            | none =>
              let id := ((List.range 64).map (0x1000 + ·)).find? (fun i => !p.images.any (·.id == i)) |>.getD 0x103F
              let s := s.putPart { p with
                images := p.images ++ [{ id := id, tenant := x.signer == 1, fmt := x.desc.2, digest := d }] }
              (s.logEntry 2 (some n) 0xFF id 0 d).okCmd id

/-- R436. -/
def execImagePolicy (s : State) : Outcome State Fault Refusal :=
  let c := s.cmd
  s.onPart (c.a1.toNat < 2 ^ 16 && fld c.a1.toNat 1 7 == 0 && c.a2 == 0 && c.a3 == 0 && c.a4 == 0) fun p =>
    (s.putPart { p with tenantOk := c.a1.getLsbD 0, pinned := c.a1.extractLsb' 8 8 }).okCmd 0

/-! ### The measurement logs (R484) -/

/-- The buffer that MEASURE_LOG fills (R484). -/
def MLog.buffer (l : MLog) : List Byte :=
  bytesOf 4 l.entries.length ++ bytesOf 4 ((l.entries.head?.map (·.seq)).getD 0) ++ List.replicate 8 0 ++
    bytesOf 48 l.m0.toNat ++ l.entries.flatMap fun e => bytesOf 64 e.bits.toNat

/-- R484, R503: a log copied to the issuing function's memory; RESULT is its length. -/
def execMeasureLog (s : State) : Outcome State Fault Refusal :=
  let c := s.cmd
  match s.issuer .any (c.a2 == 0 && c.a3 == 0 && c.a4 == 0) with
  | .error e => s.refuse e
  | .ok n =>
    let l := if c.fn == 0 then some s.fleet.modlog else (s.part? n).map (·.log)
    match l with
    | none => s.refuse stNotFound
    | some l =>
      let b := l.buffer
      if c.a1.toNat < b.length then .next (s.finishCmd stNoResource (dw b.length))
      else (s.hostWrite c.fn c.a0.toNat b).okCmd b.length

/-! ### SPDM (R485, R486) -/

/-- The bytes of a measurement, as far as its index names one (R486); none where the path may not see it. -/
def State.measurement (s : State) (v : Via) (i : Nat) : Option (List Byte) :=
  let all : Bool := match v with | .mctp => true | .doe f => f == 0
  if i == 1 then some (bytesOf 48 Config.romDigest.toNat)
  else if i == 2 then some (bytesOf 2 Config.arith ++ bytesOf 2 Config.fwRelease ++ bytesOf 1 Config.revisionId)
  else if i == 3 then (if all then some (bytesOf 48 s.fleet.modlog.m.toNat) else none)
  else if 0x10 ≤ i && i < 0x18 then
    if all || v == .doe (i - 0x10 + 1) then
      some (bytesOf 48 (((s.part? (i - 0x10)).map (fun (p : Part) => p.log.m)).getD 0).toNat)
    else none
  else none

/-- A message over the path of the SPDM request: on the side-band, one of the MCTP type of SPDM (R500). -/
def State.spdmSend (s : State) (b : List Byte) : State :=
  s.reply s.spdm.via (match s.spdm.via with | .mctp => mctpMessage Config.mctpSpdm b | .doe _ => b)

/-- A response that carries the SPDM version and the values that R485 and R486 give it; its other bytes are those of SPDM 1.3 and
the device's certificate (log 11). -/
def State.spdmReply (s : State) (value : List Byte) : Outcome State Fault Refusal :=
  .next (s.spdmSend (BitVec.ofNat 8 Config.spdmVersion :: value ++ Config.spdmBody s.spdm.code s.spdm.param value))

/-- R485: version 1.3. -/
def execGetVersion (s : State) : Outcome State Fault Refusal := s.spdmReply [BitVec.ofNat 8 Config.spdmVersion]

/-- R485: neither sessions nor KEY_EXCHANGE, PSK or mutual authentication. -/
def execGetCapabilities (s : State) : Outcome State Fault Refusal := s.spdmReply (bytesOf 4 Config.spdmFlags)

/-- R485: ECDSA P-384, SHA-384, SHA-384 for measurements. -/
def execNegotiateAlgorithms (s : State) : Outcome State Fault Refusal :=
  s.spdmReply (bytesOf 4 Config.spdmMeasHash ++ bytesOf 4 Config.spdmAsym ++ bytesOf 4 Config.spdmHash)

/-- R485: the chain of slot 0. -/
def execGetDigests (s : State) : Outcome State Fault Refusal := s.spdmReply (bytesOf 1 Config.spdmSlots)

/-- An SPDM request about a certificate slot: slot 0, the only one, is answered; another gets ERROR (R485). -/
def State.slotReply (s : State) : Outcome State Fault Refusal :=
  if s.spdm.param.toNat % 16 == 0 then s.spdmReply (bytesOf 1 0) else .next (s.spdmSend (Config.spdmError false))

/-- R485: of slot 0. -/
def execGetCertificate (s : State) : Outcome State Fault Refusal := s.slotReply

/-- R485: with the key of slot 0. -/
def execChallenge (s : State) : Outcome State Fault Refusal := s.slotReply

/-- R486: index 0 asks for the count of the indices and 0xFF for all that the path may see, as in SPDM 1.3 (log 11); an
index the path may not see gets ERROR. -/
def execGetMeasurements (s : State) : Outcome State Fault Refusal :=
  let v := s.spdm.via
  let i := s.spdm.param.toNat
  let seen := ((List.range 0x18).filter fun i => (s.measurement v i).isSome)
  if i == 0 then s.spdmReply (bytesOf 1 seen.length)
  else if i == 0xFF then s.spdmReply (seen.flatMap fun i => (s.measurement v i).getD [])
  else
    match s.measurement v i with
    | some b => s.spdmReply b
    | none => .next (s.spdmSend (Config.spdmError false))

/-- R485. -/
def execUnsupportedRequest (s : State) : Outcome State Fault Refusal :=
  .next (s.spdmSend (Config.spdmError true))

end Sys2Proof.Machine
end

