-- ==== Sys2Proof/Machine/Dispatch.lean ====
section
/-! DEFINITION. Which meaning each instruction has: one arm per constructor. -/

namespace Sys2Proof.Machine

open Host (Outcome)

/-- The meaning of one step of the part (R228 to R509): each arm calls the meaning of its instruction. -/
def exec (i : Instr) (s : State) : Host.Outcome State Fault Refusal :=
  match i with
  | .nop h r => Sys2Proof.Machine.execNop h r s
  | .iaddV h r => Sys2Proof.Machine.execIaddV h r s
  | .iaddA h r => Sys2Proof.Machine.execIaddA h r s
  | .iaddS h r => Sys2Proof.Machine.execIaddS h r s
  | .isubV h r => Sys2Proof.Machine.execIsubV h r s
  | .isubA h r => Sys2Proof.Machine.execIsubA h r s
  | .isubS h r => Sys2Proof.Machine.execIsubS h r s
  | .imulV h r => Sys2Proof.Machine.execImulV h r s
  | .imulA h r => Sys2Proof.Machine.execImulA h r s
  | .imulS h r => Sys2Proof.Machine.execImulS h r s
  | .imulhV h r => Sys2Proof.Machine.execImulhV h r s
  | .imulhS h r => Sys2Proof.Machine.execImulhS h r s
  | .imadV h r => Sys2Proof.Machine.execImadV h r s
  | .imadA h r => Sys2Proof.Machine.execImadA h r s
  | .imadS h r => Sys2Proof.Machine.execImadS h r s
  | .imulwV h r => Sys2Proof.Machine.execImulwV h r s
  | .imulwS h r => Sys2Proof.Machine.execImulwS h r s
  | .iabsV h r => Sys2Proof.Machine.execIabsV h r s
  | .iabsS h r => Sys2Proof.Machine.execIabsS h r s
  | .iminV h r => Sys2Proof.Machine.execIminV h r s
  | .iminS h r => Sys2Proof.Machine.execIminS h r s
  | .imaxV h r => Sys2Proof.Machine.execImaxV h r s
  | .imaxS h r => Sys2Proof.Machine.execImaxS h r s
  | .iaddsatV h r => Sys2Proof.Machine.execIaddsatV h r s
  | .iaddsatS h r => Sys2Proof.Machine.execIaddsatS h r s
  | .andV h r => Sys2Proof.Machine.execAndV h r s
  | .andS h r => Sys2Proof.Machine.execAndS h r s
  | .orV h r => Sys2Proof.Machine.execOrV h r s
  | .orS h r => Sys2Proof.Machine.execOrS h r s
  | .xorV h r => Sys2Proof.Machine.execXorV h r s
  | .xorS h r => Sys2Proof.Machine.execXorS h r s
  | .notV h r => Sys2Proof.Machine.execNotV h r s
  | .notS h r => Sys2Proof.Machine.execNotS h r s
  | .shlV h r => Sys2Proof.Machine.execShlV h r s
  | .shlA h r => Sys2Proof.Machine.execShlA h r s
  | .shlS h r => Sys2Proof.Machine.execShlS h r s
  | .shrV h r => Sys2Proof.Machine.execShrV h r s
  | .shrS h r => Sys2Proof.Machine.execShrS h r s
  | .sarV h r => Sys2Proof.Machine.execSarV h r s
  | .sarS h r => Sys2Proof.Machine.execSarS h r s
  | .rolV h r => Sys2Proof.Machine.execRolV h r s
  | .rolS h r => Sys2Proof.Machine.execRolS h r s
  | .bfxV h r => Sys2Proof.Machine.execBfxV h r s
  | .bfxS h r => Sys2Proof.Machine.execBfxS h r s
  | .bfiV h r => Sys2Proof.Machine.execBfiV h r s
  | .bfiS h r => Sys2Proof.Machine.execBfiS h r s
  | .popcV h r => Sys2Proof.Machine.execPopcV h r s
  | .popcS h r => Sys2Proof.Machine.execPopcS h r s
  | .clzV h r => Sys2Proof.Machine.execClzV h r s
  | .clzS h r => Sys2Proof.Machine.execClzS h r s
  | .brevV h r => Sys2Proof.Machine.execBrevV h r s
  | .brevS h r => Sys2Proof.Machine.execBrevS h r s
  | .extV h r => Sys2Proof.Machine.execExtV h r s
  | .extS h r => Sys2Proof.Machine.execExtS h r s
  | .iselV h r => Sys2Proof.Machine.execIselV h r s
  | .iselS h r => Sys2Proof.Machine.execIselS h r s
  | .icmpVarying h r => Sys2Proof.Machine.execIcmpVarying h r s
  | .icmpUniform h r => Sys2Proof.Machine.execIcmpUniform h r s
  | .leaV h r => Sys2Proof.Machine.execLeaV h r s
  | .leaA h r => Sys2Proof.Machine.execLeaA h r s
  | .leaS h r => Sys2Proof.Machine.execLeaS h r s
  | .movV h r => Sys2Proof.Machine.execMovV h r s
  | .movA h r => Sys2Proof.Machine.execMovA h r s
  | .movS h r => Sys2Proof.Machine.execMovS h r s
  | .moviV h y => Sys2Proof.Machine.execMoviV h y s
  | .moviS h y => Sys2Proof.Machine.execMoviS h y s
  | .amake h r => Sys2Proof.Machine.execAmake h r s
  | .alane h r => Sys2Proof.Machine.execAlane h r s
  | .promUniformToAffine h r => Sys2Proof.Machine.execPromUniformToAffine h r s
  | .promUniformToVarying h r => Sys2Proof.Machine.execPromUniformToVarying h r s
  | .promAffineToVarying h r => Sys2Proof.Machine.execPromAffineToVarying h r s
  | .atest h r => Sys2Proof.Machine.execAtest h r s
  | .vfirst h r => Sys2Proof.Machine.execVfirst h r s
  | .vuni h r => Sys2Proof.Machine.execVuni h r s
  | .faddF32V h r => Sys2Proof.Machine.execFaddF32V h r s
  | .faddF32S h r => Sys2Proof.Machine.execFaddF32S h r s
  | .faddF64V h r => Sys2Proof.Machine.execFaddF64V h r s
  | .faddF64S h r => Sys2Proof.Machine.execFaddF64S h r s
  | .fsubF32V h r => Sys2Proof.Machine.execFsubF32V h r s
  | .fsubF32S h r => Sys2Proof.Machine.execFsubF32S h r s
  | .fsubF64V h r => Sys2Proof.Machine.execFsubF64V h r s
  | .fsubF64S h r => Sys2Proof.Machine.execFsubF64S h r s
  | .fmulF32V h r => Sys2Proof.Machine.execFmulF32V h r s
  | .fmulF32S h r => Sys2Proof.Machine.execFmulF32S h r s
  | .fmulF64V h r => Sys2Proof.Machine.execFmulF64V h r s
  | .fmulF64S h r => Sys2Proof.Machine.execFmulF64S h r s
  | .ffmaF32V h r => Sys2Proof.Machine.execFfmaF32V h r s
  | .ffmaF32S h r => Sys2Proof.Machine.execFfmaF32S h r s
  | .ffmaF64V h r => Sys2Proof.Machine.execFfmaF64V h r s
  | .ffmaF64S h r => Sys2Proof.Machine.execFfmaF64S h r s
  | .fminF32V h r => Sys2Proof.Machine.execFminF32V h r s
  | .fminF32S h r => Sys2Proof.Machine.execFminF32S h r s
  | .fminF64V h r => Sys2Proof.Machine.execFminF64V h r s
  | .fminF64S h r => Sys2Proof.Machine.execFminF64S h r s
  | .fmaxF32V h r => Sys2Proof.Machine.execFmaxF32V h r s
  | .fmaxF32S h r => Sys2Proof.Machine.execFmaxF32S h r s
  | .fmaxF64V h r => Sys2Proof.Machine.execFmaxF64V h r s
  | .fmaxF64S h r => Sys2Proof.Machine.execFmaxF64S h r s
  | .fcmpF32V h r => Sys2Proof.Machine.execFcmpF32V h r s
  | .fcmpF32S h r => Sys2Proof.Machine.execFcmpF32S h r s
  | .fcmpF64V h r => Sys2Proof.Machine.execFcmpF64V h r s
  | .fcmpF64S h r => Sys2Proof.Machine.execFcmpF64S h r s
  | .fdivF32V h r => Sys2Proof.Machine.execFdivF32V h r s
  | .fdivF32S h r => Sys2Proof.Machine.execFdivF32S h r s
  | .fdivF64V h r => Sys2Proof.Machine.execFdivF64V h r s
  | .fdivF64S h r => Sys2Proof.Machine.execFdivF64S h r s
  | .fsqrtF32V h r => Sys2Proof.Machine.execFsqrtF32V h r s
  | .fsqrtF32S h r => Sys2Proof.Machine.execFsqrtF32S h r s
  | .fsqrtF64V h r => Sys2Proof.Machine.execFsqrtF64V h r s
  | .fsqrtF64S h r => Sys2Proof.Machine.execFsqrtF64S h r s
  | .frcp h r => Sys2Proof.Machine.execFrcp h r s
  | .frsq h r => Sys2Proof.Machine.execFrsq h r s
  | .flog2 h r => Sys2Proof.Machine.execFlog2 h r s
  | .fexp2 h r => Sys2Proof.Machine.execFexp2 h r s
  | .fsin h r => Sys2Proof.Machine.execFsin h r s
  | .fcos h r => Sys2Proof.Machine.execFcos h r s
  | .fcvtV h r => Sys2Proof.Machine.execFcvtV h r s
  | .fcvtS h r => Sys2Proof.Machine.execFcvtS h r s
  | .frndV h r => Sys2Proof.Machine.execFrndV h r s
  | .frndS h r => Sys2Proof.Machine.execFrndS h r s
  | .fclass h r => Sys2Proof.Machine.execFclass h r s
  | .fldexp h r => Sys2Proof.Machine.execFldexp h r s
  | .xunpk h r => Sys2Proof.Machine.execXunpk h r s
  | .xpack h r => Sys2Proof.Machine.execXpack h r s
  | .xcvt h r => Sys2Proof.Machine.execXcvt h r s
  | .qrow h e => Sys2Proof.Machine.execQrow h e s
  | .qscale h r => Sys2Proof.Machine.execQscale h r s
  | .shfl h r => Sys2Proof.Machine.execShfl h r s
  | .shfx h r => Sys2Proof.Machine.execShfx h r s
  | .lredS h r => Sys2Proof.Machine.execLredS h r s
  | .lredV h r => Sys2Proof.Machine.execLredV h r s
  | .lscan h r => Sys2Proof.Machine.execLscan h r s
  | .ballot h r => Sys2Proof.Machine.execBallot h r s
  | .rng h r => Sys2Proof.Machine.execRng h r s
  | .hshV h r => Sys2Proof.Machine.execHshV h r s
  | .hshS h r => Sys2Proof.Machine.execHshS h r s
  | .argmx h r => Sys2Proof.Machine.execArgmx h r s
  | .ldV h m => Sys2Proof.Machine.execLdV h m s
  | .ldS h m => Sys2Proof.Machine.execLdS h m s
  | .stV h m => Sys2Proof.Machine.execStV h m s
  | .stS h m => Sys2Proof.Machine.execStS h m s
  | .lds h m => Sys2Proof.Machine.execLds h m s
  | .sts h m => Sys2Proof.Machine.execSts h m s
  | .ldw h m => Sys2Proof.Machine.execLdw h m s
  | .stw h m => Sys2Proof.Machine.execStw h m s
  | .atomV h m => Sys2Proof.Machine.execAtomV h m s
  | .atomS h m => Sys2Proof.Machine.execAtomS h m s
  | .red h m => Sys2Proof.Machine.execRed h m s
  | .redo h m => Sys2Proof.Machine.execRedo h m s
  | .prf h m => Sys2Proof.Machine.execPrf h m s
  | .fence h m => Sys2Proof.Machine.execFence h m s
  | .cmtk h m => Sys2Proof.Machine.execCmtk h m s
  | .cmtp h m => Sys2Proof.Machine.execCmtp h m s
  | .wcnt h m => Sys2Proof.Machine.execWcnt h m s
  | .cpy h e => Sys2Proof.Machine.execCpy h e s
  | .mloop h e => Sys2Proof.Machine.execMloop h e s
  | .mloopg h e => Sys2Proof.Machine.execMloopg h e s
  | .mout h e => Sys2Proof.Machine.execMout h e s
  | .mzero h e => Sys2Proof.Machine.execMzero h e s
  | .mbat h x => Sys2Proof.Machine.execMbat h x s
  | .mwait h x => Sys2Proof.Machine.execMwait h x s
  | .macq h x => Sys2Proof.Machine.execMacq h x s
  | .mrel h x => Sys2Proof.Machine.execMrel h x s
  | .ownq h x => Sys2Proof.Machine.execOwnq h x s
  | .bari h x => Sys2Proof.Machine.execBari h x s
  | .bara h x => Sys2Proof.Machine.execBara h x s
  | .barx h x => Sys2Proof.Machine.execBarx h x s
  | .barw h x => Sys2Proof.Machine.execBarw h x s
  | .gbar h x => Sys2Proof.Machine.execGbar h x s
  | .rbar h x => Sys2Proof.Machine.execRbar h x s
  | .work h e => Sys2Proof.Machine.execWork h e s
  | .spawn h e => Sys2Proof.Machine.execSpawn h e s
  | .brl h x => Sys2Proof.Machine.execBrl h x s
  | .lcset h x => Sys2Proof.Machine.execLcset h x s
  | .yield h x => Sys2Proof.Machine.execYield h x s
  | .sleep h x => Sys2Proof.Machine.execSleep h x s
  | .trap h x => Sys2Proof.Machine.execTrap h x s
  | .rte h x => Sys2Proof.Machine.execRte h x s
  | .bkpt h x => Sys2Proof.Machine.execBkpt h x s
  | .getsr h x => Sys2Proof.Machine.execGetsr h x s
  | .setsr h x => Sys2Proof.Machine.execSetsr h x s
  | .clk h x => Sys2Proof.Machine.execClk h x s
  | .pmc h x => Sys2Proof.Machine.execPmc h x s
  | .winld h x => Sys2Proof.Machine.execWinld h x s
  | .winst h x => Sys2Proof.Machine.execWinst h x s
  | .hsave h x => Sys2Proof.Machine.execHsave h x s
  | .hrest h x => Sys2Proof.Machine.execHrest h x s
  | .bundleFetch g y => Sys2Proof.Machine.execBundleFetch g y s
  | .loadDataReturn g q => Sys2Proof.Machine.execLoadDataReturn g q s
  | .accessPerformed g q => Sys2Proof.Machine.execAccessPerformed g q s
  | .wcntRecheck g => Sys2Proof.Machine.execWcntRecheck g s
  | .sleepExpiry g => Sys2Proof.Machine.execSleepExpiry g s
  | .handlerEntry g => Sys2Proof.Machine.execHandlerEntry g s
  | .watchdog g => Sys2Proof.Machine.execWatchdog g s
  | .matrixStep core => Sys2Proof.Machine.execMatrixStep core s
  | .matrixOperationComplete core => Sys2Proof.Machine.execMatrixOperationComplete core s
  | .copyComplete core => Sys2Proof.Machine.execCopyComplete core s
  | .blockPlace t core => Sys2Proof.Machine.execBlockPlace t core s
  | .idGrant t die => Sys2Proof.Machine.execIdGrant t die s
  | .mirrorAck t => Sys2Proof.Machine.execMirrorAck t s
  | .heldCore t => Sys2Proof.Machine.execHeldCore t s
  | .blockRetire b => Sys2Proof.Machine.execBlockRetire b s
  | .coopLaunch t => Sys2Proof.Machine.execCoopLaunch t s
  | .slotConsume part ctx queue => Sys2Proof.Machine.execSlotConsume part ctx queue s
  | .taskStartable t => Sys2Proof.Machine.execTaskStartable t s
  | .depFailed t => Sys2Proof.Machine.execDepFailed t s
  | .bind t => Sys2Proof.Machine.execBind t s
  | .pinit t => Sys2Proof.Machine.execPinit t s
  | .invstart t => Sys2Proof.Machine.execInvstart t s
  | .flush t => Sys2Proof.Machine.execFlush t s
  | .inval t => Sys2Proof.Machine.execInval t s
  | .final t => Sys2Proof.Machine.execFinal t s
  | .complete t => Sys2Proof.Machine.execComplete t s
  | .slotReadback core k clean => Sys2Proof.Machine.execSlotReadback core k clean s
  | .kilnReloadDone core k clean => Sys2Proof.Machine.execKilnReloadDone core k clean s
  | .gangTick part => Sys2Proof.Machine.execGangTick part s
  | .groupHalt g => Sys2Proof.Machine.execGroupHalt g s
  | .dieSaveDone part die => Sys2Proof.Machine.execDieSaveDone part die s
  | .contextRestore part => Sys2Proof.Machine.execContextRestore part s
  | .switchLate part die => Sys2Proof.Machine.execSwitchLate part die s
  | .lateDieFence part die => Sys2Proof.Machine.execLateDieFence part die s
  | .scrubPass die => Sys2Proof.Machine.execScrubPass die s
  | .patrolScrub addr found => Sys2Proof.Machine.execPatrolScrub addr found s
  | .sensorRefresh id value => Sys2Proof.Machine.execSensorRefresh id value s
  | .thermhalt id => Sys2Proof.Machine.execThermhalt id s
  | .interruptCoalesceExpiry fn => Sys2Proof.Machine.execInterruptCoalesceExpiry fn s
  | .eventStoreDrain fn => Sys2Proof.Machine.execEventStoreDrain fn s
  | .flitReceive link crcOk => Sys2Proof.Machine.execFlitReceive link crcOk s
  | .replayTimeout link => Sys2Proof.Machine.execReplayTimeout link s
  | .auditStart link => Sys2Proof.Machine.execAuditStart link s
  | .auditReply link => Sys2Proof.Machine.execAuditReply link s
  | .auditTimeout link => Sys2Proof.Machine.execAuditTimeout link s
  | .retrain link => Sys2Proof.Machine.execRetrain link s
  | .retrainComplete link locked => Sys2Proof.Machine.execRetrainComplete link locked s
  | .linkDown link => Sys2Proof.Machine.execLinkDown link s
  | .dieFence die => Sys2Proof.Machine.execDieFence die s
  | .bar4Access fn off size data => Sys2Proof.Machine.execBar4Access fn off size data s
  | .registerWrite fn off value => Sys2Proof.Machine.execRegisterWrite fn off value s
  | .cmdtail fn value => Sys2Proof.Machine.execCmdtail fn value s
  | .evthead fn value => Sys2Proof.Machine.execEvthead fn value s
  | .doorbell fn off value => Sys2Proof.Machine.execDoorbell fn off value s
  | .functionLevelReset fn => Sys2Proof.Machine.execFunctionLevelReset fn s
  | .illegalOpcode op => Sys2Proof.Machine.execIllegalOpcode op s
  | .reconfigurationDone t bad => Sys2Proof.Machine.execReconfigurationDone t bad s
  | .opTransitionDone => Sys2Proof.Machine.execOpTransitionDone s
  | .routeInstall => Sys2Proof.Machine.execRouteInstall s
  | .meshSplit => Sys2Proof.Machine.execMeshSplit s
  | .identify => Sys2Proof.Machine.execIdentify s
  | .portConfig => Sys2Proof.Machine.execPortConfig s
  | .partCreate => Sys2Proof.Machine.execPartCreate s
  | .partDestroy => Sys2Proof.Machine.execPartDestroy s
  | .partResize => Sys2Proof.Machine.execPartResize s
  | .setHandler => Sys2Proof.Machine.execSetHandler s
  | .setPmc => Sys2Proof.Machine.execSetPmc s
  | .ctxCreate => Sys2Proof.Machine.execCtxCreate s
  | .ctxDestroy => Sys2Proof.Machine.execCtxDestroy s
  | .queueCreate => Sys2Proof.Machine.execQueueCreate s
  | .queueDestroy => Sys2Proof.Machine.execQueueDestroy s
  | .map => Sys2Proof.Machine.execMap s
  | .unmap => Sys2Proof.Machine.execUnmap s
  | .map2 => Sys2Proof.Machine.execMap2 s
  | .invalCommand => Sys2Proof.Machine.execInvalCommand s
  | .imageLoad => Sys2Proof.Machine.execImageLoad s
  | .imagePolicy => Sys2Proof.Machine.execImagePolicy s
  | .keyEnroll => Sys2Proof.Machine.execKeyEnroll s
  | .faultReplay => Sys2Proof.Machine.execFaultReplay s
  | .faultDecline => Sys2Proof.Machine.execFaultDecline s
  | .setOp => Sys2Proof.Machine.execSetOp s
  | .measureLog => Sys2Proof.Machine.execMeasureLog s
  | .debugAttach => Sys2Proof.Machine.execDebugAttach s
  | .debugDetach => Sys2Proof.Machine.execDebugDetach s
  | .debugResume => Sys2Proof.Machine.execDebugResume s
  | .debugWindow => Sys2Proof.Machine.execDebugWindow s
  | .aperture => Sys2Proof.Machine.execAperture s
  | .entdaa => Sys2Proof.Machine.execEntdaa s
  | .mctpControl => Sys2Proof.Machine.execMctpControl s
  | .pldmSensorRead => Sys2Proof.Machine.execPldmSensorRead s
  | .getVersion => Sys2Proof.Machine.execGetVersion s
  | .getCapabilities => Sys2Proof.Machine.execGetCapabilities s
  | .negotiateAlgorithms => Sys2Proof.Machine.execNegotiateAlgorithms s
  | .getDigests => Sys2Proof.Machine.execGetDigests s
  | .getCertificate => Sys2Proof.Machine.execGetCertificate s
  | .challenge => Sys2Proof.Machine.execChallenge s
  | .getMeasurements => Sys2Proof.Machine.execGetMeasurements s
  | .readErrlog => Sys2Proof.Machine.execReadErrlog s
  | .errlogInfo => Sys2Proof.Machine.execErrlogInfo s
  | .badOpcode => Sys2Proof.Machine.execBadOpcode s
  | .unsupportedRequest => Sys2Proof.Machine.execUnsupportedRequest s
  | .moduleReset => Sys2Proof.Machine.execModuleReset s

end Sys2Proof.Machine
end

