-- ==== Sys2Proof/Machine/Scheduler.lean ====
section
/-! DEFINITION. What moves next: issue (spec 02 R33 to R35, 10 R231), the steps that the part takes of itself, the passing
of a cycle, the script (log 1, log 2).  A fixed order of the part's own steps is the model's choice where the spec
gives none (log 2). -/

namespace Sys2Proof.Machine

open Host (Outcome)

/-! ### Issue (R33 to R35) -/

/-- What a group would issue next. -/
structure Ready where
  group : Group
  head  : Head
  dec   : Except DecodeError Instr
  raw   : Option Instr
  port  : Option PortK
  next  : Pc
  yld   : Bool

/-- The port of a slot (R33): its opcode's, also where its literal is missing or a field of it is reserved (R248); none
for an opcode that no port lists. -/
def portAt (w : BitVec 80) (d : Except DecodeError Instr) : Option PortK :=
  match d with
  | .ok i => i.slot.map fun y => portOf y.op.toNat y.pl
  | .error _ => some (opPort (slotOp w).toNat)

/-- The head of a slot: a literal slot has none (R234, R246). -/
def headAt (w : BitVec 80) : Head := if slotOp w == 0xFF then Head.plain else Head.ofSlot w

/-- The candidate instruction at a bundle. -/
def Ready.of (g : Group) (x : Split) (b : BitVec 256) : Ready :=
  let w := bundleSlot b (slotIndex x.pc)
  { group := g, head := headAt w, dec := decodeAt b (slotIndex x.pc), raw := rawSlot w, port := portAt w (decodeAt b (slotIndex x.pc)),
    next := nextPc b x.pc, yld := bundleYld b (slotIndex x.pc) }

/-- Whether a group may issue at all: its context runs (R453, R467), and nothing holds it (R46, R349, R378, R382, R467); its first
instruction waits until what the L1 gave up for its block has landed (R121). -/
def State.groupRuns (s : State) (g : Group) : Bool :=
  s.running g && g.live != 0 && g.wait == .none && !g.xlatWait && g.sleep ≤ s.now && g.last != some s.now && !g.handlerHeld s.now &&
    !g.packets && (match s.block? g.block with
      | some b => s.ctxRuns b.part b.ctx &&
          (g.issued != 0 || !s.backs fun c x => x.part == b.part && (s.served b.part b.ctx g.core).contains c)
      | none => false)

/-- R34, but for the port: the distance from the previous instruction and the completion flags. -/
def Ready.due (c : Ready) (x : Split) (now : Nat) : Bool :=
  let f := (c.group.viewAt now).curFlags
  x.ready ≤ now && x.prev + max c.head.dist.toNat 1 ≤ now && f &&& c.head.wait == 0 &&
    (c.head.set == 0 || 12 < c.head.set.toNat || !f.getLsbD (c.head.set.toNat - 1))

/-- The candidate instruction of a group that is eligible, but for its port (R34). -/
def State.cand (s : State) (g : Group) : Option Ready :=
  if !s.groupRuns g then none
  else
    match g.exec? with
    | none => none
    | some x =>
      if !x.fetched then none
      else
        match s.bundleAt g x with
        | none => none
        | some b => if (Ready.of g x b).due x s.now then some (Ready.of g x b) else none

/-- Whether a port of a core is free in this cycle (R33, R470). -/
def State.portFree (s : State) (c : Nat) (p : Option PortK) : Bool :=
  let k := s.core c
  match p with
  | none => true
  | some .scalar => k.scaUsed != some s.now
  | some .vector => k.vecFree ≤ s.now
  | some .memory => k.memUsed != some s.now && s.buffered c < 128

/-- The order of choice for one port of one core (R35): a passed count of 16 first, then the group not held back by YLD
(R231), then the one that issued longest ago, then the lowest group slot. -/
def Ready.before (now : Nat) (a b : Ready) : Bool :=
  let pa := 16 ≤ a.group.passed
  let pb := 16 ≤ b.group.passed
  let ya := a.group.yielded == some now
  let yb := b.group.yielded == some now
  if pa != pb then pa
  else if !pa && ya != yb then yb
  else match a.group.last, b.group.last with
    | none, none => a.group.gslot ≤ b.group.gslot
    | none, some _ => true
    | some _, none => false
    | some t, some u => t < u || (t == u && a.group.gslot ≤ b.group.gslot)

/-- A candidate put among others in the order of choice; those of another core or port keep their places. -/
def insertCand (now : Nat) (x : Ready) : List Ready → List Ready
  | [] => [x]
  | y :: t => if x.group.core == y.group.core && x.port == y.port && y.before now x then y :: insertCand now x t
    else if x.group.core == y.group.core && x.port == y.port then x :: y :: t
    else y :: insertCand now x t

/-- The candidates of this cycle whose port is free, in the order of choice. -/
def State.cands (s : State) : List Ready :=
  (s.groups.filterMap fun g => (s.cand g).filter fun c => s.portFree g.core c.port).foldl
    (fun l c => insertCand s.now c l) []

/-- What the fetch of an instruction gives, latched. -/
def State.latch (s : State) (c : Ready) : State :=
  { s with cur := c.group.uid, nextPc := c.next, yld := c.yld, stall := false }

/-- The fault of a slot that decodes to no instruction (R247, R248). -/
def decodeFault (e : DecodeError) (s : State) : Outcome State Fault Refusal :=
  match s.curGroup with
  | none => .fault .noGroup
  | some g =>
    match g.exec? with
    | none => .fault .noGroup
    | some x =>
      .next (s.takeFault g (preciseFault s x (match e with | .literalMissing => cLiteral | .reservedField => cReserved)
        0 x.mask))

/-- A slot that decodes to no instruction, issued: it faults, unless its opcode's own wait keeps it from being eligible (R186, R188,
R248). -/
def State.issueBad (s : State) (c : Ready) (e : DecodeError) : Outcome State Fault Refusal :=
  match c.raw.map fun i => exec i s with
  | some (.next s') => if s'.stall then .next { s with stall := true } else decodeFault e s
  | _ => decodeFault e s

/-- A candidate issued: the instruction its slot decodes to.  A fault of an engine operation of its group reaches the group in
its place (R350). -/
def State.issue (s : State) (c : Ready) : Outcome State Fault Refusal :=
  let o := match c.dec with
    | .ok i => exec i (s.latch c)
    | .error e => (s.latch c).issueBad c e
  match o with
  | .next s' =>
    if !s'.stall && c.group.deferred.any (s.deliverable c.group) then exec (.handlerEntry c.group.uid) (s.latch c) else o
  | o => o

/-- The first candidate that can issue; one whose own condition holds it back is passed over. -/
def State.issueFirst (s : State) : List Ready → Option (Outcome State Fault Refusal)
  | [] => none
  | c :: t =>
    match s.issue c with
    | .next s' => if s'.stall then s.issueFirst t else some (.next s')
    | o => some o

/-! ### The part's own steps -/

/-- The next step of a group of itself. -/
def State.groupEvent (s : State) (g : Group) : Option Instr :=
  match s.block? g.block, s.taskOf g with
  | some b, some t =>
    if g.deferred.any (fun f => !f.atIssue && s.deliverable g f) then some (.handlerEntry g.uid)
    else if s.watchdogDue g then some (.watchdog g.uid)
    else if g.sleep != 0 && g.sleep ≤ s.now then some (.sleepExpiry g.uid)
    else if s.canHalt g then some (.groupHalt g.uid)
    else
      match g.reqs.find? (s.canLoad g b), g.reqs.find? (s.canStore g b t) with
      | some q, _ => some (.loadDataReturn g.uid q.seq)
      | none, some q => some (.accessPerformed g.uid q.seq)
      | none, none =>
        if (match g.wcntReq with | some q => s.wcntReady g b q | none => false) then some (.wcntRecheck g.uid)
        else if s.running g && !g.xlatWait && s.ctxRuns b.part b.ctx then
          ((s.awaiting g).findIdx? fun y => !s.fetchWaits g y).map fun i => .bundleFetch g.uid i
        else none
  | _, _ => none

/-- The next step of a core's engines of itself (R186, R353). -/
def State.coreEvent (s : State) (c : Nat) : Option Instr :=
  if (s.core c).stepped.isSome then some (.matrixOperationComplete c)
  else
    let m := match s.matrixTurn c with
      | some (o, b, t0) =>
        if s.now < t0 + s.opTime b o then none
        else match o.kind with
          | .loop _ _ kA kB =>
            if (s.engineFmt b kA).isSome && (s.engineFmt b kB).isSome then some (.matrixStep c) else none
          | .out _ _ k _ => if (s.engineFmt b k).isSome then some (.matrixOperationComplete c) else none
          | .zero => some (.matrixOperationComplete c)
      | none => none
    match m with
    | some i => some i
    | none =>
      match s.copyTurn c with
      | some (_, _, t0, n) => if t0 + (n + 255) / 256 ≤ s.now then some (.copyComplete c) else none
      | none => none

/-- The next action of Sparge on a task's entry (R455 to R457). -/
def State.spargeEvent (s : State) (t : Task) : Option Instr :=
  let c := t.run.cursor
  if !s.spargeOn t c.action then none
  else
    match c.action with
    | 0 =>
      let id := t.hdr.slotimg.getD c.record 0
      if id == 0 || (t.run.kiln.isNone && !s.bindWaits t c.record &&
          !(((s.part? t.part).map (·.config)).getD []).contains c.record) then some (.bind t.uid) else none
    | 1 => if (t.regions[c.record]?).isSome then some (.pinit t.uid) else none
    | 2 => some (.invstart t.uid)
    | 3 => some (.flush t.uid)
    | 4 => some (.inval t.uid)
    | 5 => if (t.regions[c.record]?).isSome && s.finalTurn t then some (.final t.uid) else none
    | 6 => if t.run.kiln.isNone then some (.complete t.uid) else none
    | _ => none

/-- Whether a cooperative task can be placed, or must be refused, now (R27). -/
def State.canCoop (s : State) (p : Part) (t : Task) : Bool :=
  t.hdr.coop && t.run.phase == .ready && s.ctxRuns t.part t.ctx &&
    (s.coopUnfit p t ||
      (if t.run.granted == 0 then t.run.sent.isNone && (s.coopNow p t).isSome && !t.coopCores.any (s.preempted p t)
       else !s.inTransit (.grant t.uid) && (s.coopRoom p t).isSome))

/-- The next step of a task's launch (R51, R454). -/
def State.launchEvent (s : State) (p : Part) (t : Task) : Option Instr :=
  if t.run.sends && !s.inTransit (.ask t.uid) && !(t.run.mirror.isSome && t.run.told.isSome && s.telling t.uid) then
    some (.mirrorAck t.uid)
  else
    match t.run.grant, t.run.ask with
    | some (_, c), _ =>
      if s.ctxRuns t.part t.ctx && !s.inTransit (.grant t.uid) && (s.roomFor p t c).isSome then some (.blockPlace t.uid c) else none
    | none, some (d, _) =>
      if t.run.mayGrant && !t.run.lost && !s.inTransit (.ask t.uid) then some (.idGrant t.uid d) else none
    | none, none =>
      if s.canCoop p t then some (.coopLaunch t.uid)
      else if t.launching && s.ctxRuns t.part t.ctx then
        match s.coreFor p t with
        | some c => if s.preempted p t c then none else some (.blockPlace t.uid c)
        | none => none
      else none

/-- The next step of a task of itself. -/
def State.taskEvent (s : State) (t : Task) : Option Instr :=
  match s.part? t.part with
  | none => none
  | some p =>
    if s.canStart t then some (.taskStartable t.uid)
    else if s.depFails t then some (.depFailed t.uid)
    else if t.run.kiln.any (fun k => k.2 ≤ s.now) then some (.reconfigurationDone t.uid [])
    else
      match s.spargeEvent t with
      | some i => some i
      | none =>
        match s.launchEvent p t with
        | some i => some i
        | none => if s.waitedLong t then some (.heldCore t.uid) else none

/-- The next step of the background work on every die: the readback of the slots (R171) and the scrubber (R464). -/
def State.choreEvent (s : State) : Option Instr :=
  match s.scan, s.scrub with
  | (c, k) :: _, _ => some (.slotReadback c k true)
  | [], d :: _ => some (.scrubPass d)
  | [], [] => none

/-- The next step of a partition's switching, or of a slot that reloads (R171, R466 to R471). -/
def State.partEvent (s : State) (p : Part) : Option Instr :=
  if s.tickDue p then some (.gangTick p.num)
  else
    match p.switch with
    | some w =>
      if (s.partDies p).all w.saved.contains then
        if s.bumpWaits p then none else some (.contextRestore p.num)
      else
        match (s.partDies p).find? (s.canSave p w) with
        | some d => some (.dieSaveDone p.num d)
        | none =>
          match (s.partDies p).find? fun d => s.lateBy p w d 1000 with
          | some d => some (.lateDieFence p.num d)
          | none =>
            ((s.partDies p).find? fun d => s.lateBy p w d 200 && !w.late.contains d).map fun d => .switchLate p.num d
    | none =>
      match p.corrupt with
      | (c, k, _) :: _ => some (.kilnReloadDone c k true)
      | [] => none

/-- The next step of a link direction of itself (R489 to R492). -/
def State.linkEvent (s : State) (d : Nat) (l : Link) : Option Instr :=
  if s.downDue (d / 2) then some (.linkDown (d / 2))
  else if l.training then some (.retrainComplete d true)
  else if !l.open_ then none
  else if l.replay.any (8 ≤ ·.2) then some (.retrain d)
  else if l.reply.isSome then some (.auditReply d)
  else if !l.wire.isEmpty && (s.link (otherDir d)).reply.isNone then some (.flitReceive d true)
  else if l.auditDue then some (.auditStart d)
  else if s.auditLate l then some (.auditTimeout d)
  else if s.replayDue l then some (.replayTimeout d)
  else none

/-- Whether flits wait at a dead link for new routes (R494). -/
def State.canReroute (s : State) : Bool := s.links.any fun x => x.2.down && !x.2.replay.isEmpty

/-- A temperature sensor at the thermal trip, of a module that is not in THERMHALT or OFF (R21, R503). -/
def Fleet.trip (f : Fleet) : Option Nat :=
  if f.thermhalt || f.op == 5 then none
  else (f.sensors.find? fun x => isTemp x.1 && 110 ≤ f.sensor x.1).map (·.1)

/-- The next step of the firmware by itself (R21, R440, R441, R502, R503). -/
def State.firmwareEvent (s : State) : Option Instr :=
  if s.fleet.opTarget.isSome then some .opTransitionDone
  else if s.fleet.trip.isSome then s.fleet.trip.map fun id => .thermhalt id
  else
    match s.fns.find? fun f => f.2.evtRoom && !f.2.store.isEmpty with
    | some f => some (.eventStoreDrain f.1)
    | none => (s.fns.find? fun f => f.2.due.any fun d => d.2 ≤ s.now).map fun f => .interruptCoalesceExpiry f.1

/-- The next step that the part takes of itself in this cycle: only the firmware's where no core clock runs (R502, R503). -/
def State.nextEvent (s : State) : Option Instr :=
  match s.firmwareEvent with
  | some i => some i
  | none =>
    if !s.clocked then none
    else
      match (s.parts.findSome? s.partEvent).or s.choreEvent with
      | some i => some i
      | none =>
        match s.groups.findSome? s.groupEvent with
        | some i => some i
        | none =>
          match s.cores.findSome? fun c => s.coreEvent c.1 with
          | some i => some i
          | none =>
            match s.tasks.findSome? s.taskEvent with
            | some i => some i
            | none =>
              match s.blocks.find? s.stranded, s.blocks.find? s.canRetire, s.queues.find? s.canConsume with
              | some _, _, _ => some (.dieFence (s.deadDies.headD 0))
              | none, some b, _ => some (.blockRetire b.uid)
              | none, none, some q => some (.slotConsume q.part q.ctx q.num)
              | none, none, none =>
                match s.links.findSome? fun d => s.linkEvent d.1 d.2 with
                | some i => some i
                | none =>
                  if s.canReroute then some .routeInstall
                  else if s.splitDue then some .meshSplit
                  else none

/-! ### Commands (R433, R435) -/

/-- The command at the head taken from its ring, unless it is in execution already. -/
def State.loadCmd (s : State) : State :=
  match s.cmdq with
  | [] => s
  | (f, c) :: _ =>
    if s.fleet.busy then s
    else { s with cmd := Cmd.ofEntry f (BitVec.ofNat 512 (leOf (s.hostRead f ((s.fn f).entryAddr c) 64))) }

/-- The command at the head executed. -/
def State.runCmd (s : State) : Outcome State Fault Refusal := exec s.loadCmd.cmd.instr s.loadCmd

/-! ### The passing of a cycle -/

/-- Whether a group stalls on ENGINE rows (R381). -/
def State.ownerStalled (s : State) (g : Group) : Bool :=
  match s.cand g, g.exec?, s.block? g.block with
  | some c, some x, some b =>
    match c.dec with
    | .ok (.lds h m) => s.engineStall b (scrAccesses 0x9C h m s.now g x).2
    | .ok (.sts h m) => s.engineStall b (scrAccesses 0x9D h m s.now g x).2
    | _ => false
  | _, _, _ => false

/-- Whether a candidate finds itself unable to issue: it waits by its own rule (16, 17), so that it is not eligible. -/
def State.stalls (s : State) (c : Ready) : Bool :=
  match s.issue c with
  | .next s' => s'.stall
  | _ => false

/-- A group at the end of a cycle: the results readable in it are in their registers, and its passed count goes up where it
had an eligible instruction that was not issued, or starts again (R35). -/
def State.tickGroup (s : State) (g : Group) : Group :=
  let passed := match s.cand g with
    | some c => if (s.portFree g.core c.port || c.port == some .vector && (s.core g.core).vecUsed == some s.now ||
        c.port == some .scalar || c.port == some .memory && (s.core g.core).memUsed == some s.now) && !s.stalls c
        then g.passed + 1 else 0
    | none => 0
  { g.land s.now with passed := passed, slotOps := g.slotOps.filter fun o => s.now < o.due }

/-- Whether the time of a context goes on (R475): it is resident, and no switch that removes it has halted it. -/
def State.clockRuns (s : State) (part ctx : Nat) : Bool :=
  match s.part? part with
  | none => false
  | some p =>
    p.resident == some ctx && (match p.switch with
      | none => true
      | some w => w.to_ == some ctx || s.groups.any fun g => s.groupIn part (some ctx) g && !g.halted)

/-- The counts of a partition at the end of a cycle (R381, R474): CORE_CYCLES by die, OWNER_STALL by core. -/
def State.tickCounts (s : State) (p : Part) : State :=
  match p.resident with
  | none => s
  | some c =>
    if !s.clockRuns p.num c then s
    else
      let s' := (s.partDies p).foldl (fun s' d => s'.countUp p.num 2 d) s
      let stalled := s.groups.filter fun g => s.groupIn p.num (some c) g && s.ownerStalled g
      (stalled.map (·.core)).eraseDups.foldl (fun s' k => s'.countUp p.num 6 k) s'

/-- A core at the end of a cycle: a copy that its group's order holds back begins in the next one at the earliest (R150). -/
def State.tickCore (s : State) (k : Core) : Core :=
  { k with cq := updIf s.copyHeld (·.from_ (s.now + 1)) k.cq }

/-- The cores and slots that hold an image (R171). -/
def State.boundSlots (s : State) : List (Nat × Nat) :=
  s.parts.flatMap fun p => ((List.range 32).filter p.dies.getLsbD).flatMap fun d => (List.range 48).flatMap fun i =>
    ((List.range 8).filter fun k => p.slotMask.getLsbD k && p.slotImg.getD k 0 != 0 && !p.bare.contains (d, k)).map
      fun k => (48 * d + i, k)

/-- The background work of a cycle: every 1 ms a readback of every slot begins (R171), every 40 µs a pass over the dies with
stale LLC lines or UBS rows (R464). -/
def State.tickChores (s : State) : State :=
  let s := if s.now < s.scanAt then s else { s with scanAt := s.now + s.cyclesOfUs 1000, scan := s.boundSlots }
  if s.now < s.scrubAt then s
  else { s with scrubAt := s.now + s.cyclesOfUs 40, scrub := ((s.llc.filter s.llcStale).map (·.die) ++
      (s.cores.filter fun c => !c.2.left.isEmpty).map fun c => coreDie c.1).eraseDups }

/-- The packets that found no room in their core's buffer, tried again (R470). -/
def State.moreRoom (s : State) : State :=
  (s.groups.filter fun g => s.running g && g.reqs.any (·.st == .packet)).foldl (fun s g => s.goOnPackets g.uid) s

/-- A cycle passes (log 1): the time of resident contexts goes on (R380, R475). -/
def State.advance (s : State) : State :=
  let gs := s.groups.map s.tickGroup
  let ks := s.cores.map fun c => (c.1, s.tickCore c.2)
  let s' := s.parts.foldl (fun s' p => s'.tickCounts p) s
  let cs := updIf (fun c => s.clockRuns c.part c.num) (fun c => { c with clk := c.clk + s.tickLen }) s.ctxs
  { s'.tickChores with groups := gs, cores := ks, ctxs := cs, now := s.now + 1
                       late := s.late.filter fun (_, _, c) => s.now < c : State }.moreRoom

/-! ### The script (log 2) -/

/-- The step of an SPDM request by its code (log 11). -/
def spdmInstr (code : BitVec 8) : Instr :=
  match code.toNat with
  | 0x84 => .getVersion
  | 0xE1 => .getCapabilities
  | 0xE3 => .negotiateAlgorithms
  | 0x81 => .getDigests
  | 0x82 => .getCertificate
  | 0x83 => .challenge
  | 0xE0 => .getMeasurements
  | _ => .unsupportedRequest

/-- The step of a side-band message. -/
def sideInstr (m : SideMsg) : Instr :=
  match m with
  | .daa _ => .entdaa
  | .mctp _ => .mctpControl
  | .sensor _ => .pldmSensorRead
  | .errlog _ => .readErrlog
  | .errlogInfo => .errlogInfo

/-- One step of the part by itself: a command that has not begun, its own next step, a move between dies, an issue, else the cycle
passes, and a command that waits is looked at again. -/
def State.selfStep (s : State) : Outcome State Fault Refusal :=
  if !s.fleet.ready then .next { s with fleet := { s.fleet with ready := true } }
  else if !s.cmdq.isEmpty && !s.fleet.busy then s.runCmd
  else
    match s.nextEvent with
    | some i => exec i s
    | none =>
      let wait (s : State) : Outcome State Fault Refusal := if s.fleet.busy && !s.cmdq.isEmpty then s.runCmd else .next s
      if !s.clocked then wait s
      else
        match s.moveOne with
        | some s' => .next s'
        | none =>
          match s.issueFirst s.cands with
          | some o => o
          | none => wait s.advance

/-- Whether a step runs only on what the part has received or fetched: a command, an SPDM request, a side-band message, a
slot.  The script has its own turns for those. -/
def received (i : Instr) : Bool :=
  match i with
  | .illegalOpcode _ | .identify | .portConfig | .partCreate | .partDestroy | .partResize | .setHandler | .setPmc
  | .ctxCreate | .ctxDestroy | .queueCreate | .queueDestroy | .map | .unmap | .map2 | .invalCommand | .imageLoad
  | .imagePolicy | .keyEnroll | .faultReplay | .faultDecline | .setOp | .measureLog | .debugAttach | .debugDetach
  | .debugResume | .debugWindow | .aperture | .entdaa | .mctpControl | .pldmSensorRead | .getVersion | .getCapabilities
  | .negotiateAlgorithms | .getDigests | .getCertificate | .challenge | .getMeasurements | .readErrlog | .errlogInfo
  | .badOpcode | .unsupportedRequest => true
  | i => i.slot.isSome

/-- One turn of the script. -/
def State.turn (s : State) (t : Turn) : Outcome State Fault Refusal :=
  match t with
  | .op i => if received i then .next s else exec i s
  | .host f a b => .next (s.hostWrite f a b)
  | .spdm r => exec (spdmInstr r.code) { s with spdm := r }
  | .side m => exec (sideInstr m) { s with side := m }
  | .message k b => match sideOf k b with
    | some (.inl m) => exec (sideInstr m) { s with side := m }
    | some (.inr r) => exec (spdmInstr r.code) { s with spdm := r }
    | none => .next s
  | .send a b vc => .next (s.carry { src := a, dst := b, vc := vc, kind := .data })
  | .peer pa b => .next { s with peer := cellWrite s.peer pa b }
  | .until_ _ => .next s
  | .hold g n c => .next { s with late := s.late ++ [(g, n, c)] }
  | .config f o w => .next (s.readConfig f o w)
  | .bar0 f o w v => match bar0Step f o w v with
    | some i => exec i s
    | none => .next (if v.isNone then s.readBar0 f o w else s)
  | .bar2 f o w v => match bar2Step f o w v with
    | some i => exec i s
    | none => .next (if v.isNone then s.readBar2 f o w else s)
  | .upset k u p => .next (s.upset k u p)

/-- One step of the machine: the script's next turn, or, while it waits for a later cycle, the part's own. -/
def State.stepOnce (s : State) : Outcome State Fault Refusal :=
  match s.script with
  | [] => s.selfStep
  | .until_ c :: t => if s.now < c && s.clocked then s.selfStep else .next { s with script := t }
  | x :: t => { s with script := t }.turn x

end Sys2Proof.Machine
end

