-- ==== Sys2Proof/Machine/Program.lean ====
section
/-! DEFINITION. A program placed from outside the machine (log 33): partition 0 on die 0 with context 0 resident, one task
with one block of one group on core 0, its code in one page. -/

namespace Sys2Proof.Machine

/-- The address, virtual and physical, of the code that `withProgram` places. -/
def codeAddr : Nat := 0x10000

/-- The bundle whose first two slots are the words of an instruction and what follows it. -/
def wordBundle (w : Nat) : BitVec 256 :=
  bundleOf [BitVec.ofNat 80 w, BitVec.ofNat 80 (w / 2 ^ 80), 0]

/-- The quota of the partition placed: every slot, 992 granules, every tile. -/
def demoQuota : Quota := { gsBase := 0, gsCnt := 16, rowBase := 0, rowCnt := 992, accBase := 0, accCnt := 8 }

/-- The header of the task placed. -/
def demoHdr : TaskHdr :=
  { kdesc := codeAddr, codeBase := codeAddr, codeLen := 0x1000, argsBase := codeAddr + 0x1000, argsLen := 64, det := false,
    coop := false, startinv := false, nx := 1, ny := 1, nz := 1, prio := 0, reqarith := 0, detseed := 0, taskid := 1,
    stackBase := 0, stackSz := 0, cplAddr := 0, sigctr := 0, waits := [], slotimg := List.replicate 8 0, dieset := 1,
    aff := { x := 0, y := 0, w := 0, h := 0 }, cl := { x := 0, y := 0, w := 0, h := 0 } }

/-- The kernel of the task placed: 64 registers, one group, four tiles, 4,096 bytes of scratchpad. -/
def demoKernel : KDesc :=
  { entry := codeAddr, nregs := 64, ngrp := 1, nacc := 4, scratch := 4096, slotmask := 0, stkmin := 0, det := false,
    coop := false, fused := false }

/-- The region of the task placed: SHARED, behind its code and arguments in the same page. -/
def demoRegion : Region :=
  { base := codeAddr + 0x2000, ext := 0x1000, mode := 4, op := 0, ety := 0, init := 0, pbase := 0 }

/-- The task placed, running: its one block is granted. -/
def demoTask : Task :=
  { uid := 1, part := 0, ctx := 0, queue := 0, dev := false, qprio := 0, seq := 0, hdr := demoHdr, kd := demoKernel,
    regions := demoRegion :: List.replicate 15 { base := 0, ext := 0, mode := 0, op := 0, ety := 0, init := 0, pbase := 0 },
    run := { TaskRun.new with phase := .running, waitsMet := true, granted := 1, acked := 1, cores := [0] } }

/-- The page placed, in either stage. -/
def demoMap : Mapping :=
  { from_ := 0x10000, len := 0x10000, to_ := 0x10000, read := true, write := true, exec := true, home := 0, size := 0x10000 }

/-- The partition placed. -/
def demoPart (s : State) : Part :=
  { Part.new s 0 1 demoQuota 0xFF 1 0 with maps := [demoMap], resident := some 0 }

/-- The block placed. -/
def demoBlock : Block := Block.placed 2 demoTask 0 0 { slots := [0], runs := [(0, 64), (64, 16)], accs := [0, 1, 2, 3] }

/-- The group placed, its first bundle fetched. -/
def demoGroup (s : State) : Group :=
  let g := Group.placed 3 2 0 0 0 64 codeAddr s.now 0
  { g with active := g.active.map fun x => { x with fetched := true, ready := s.now } }

/-- The machine with a program of one bundle about to run at OP0: 16 cycles after its placement, so that no DIST holds its first
instruction back. -/
def State.withProgram (s : State) (b : BitVec 256) : State :=
  { s with
    now := s.now + 16, script := [], cmdq := [], uid := 4
    fleet := { s.fleet with op := 0, opTarget := none, thermhalt := false, ready := true, parted := true, sensors := [] }
    parts := [demoPart s]
    ctxs := [{ part := 0, num := 0, root := 0, maps := [demoMap], watchdog := 0, clk := 0, debug := false, saved := [] }]
    queues := [], tasks := [demoTask], blocks := [demoBlock], groups := [demoGroup s]
    llc := [], scan := [], scrub := [], late := [], links := [], msgs := [], away := [], mem := cellWrite s.mem codeAddr (leBytes 32 b.toNat) }

end Sys2Proof.Machine
end

