-- ==== Sys2Proof/Machine/Step.lean ====
section
/-! DEFINITION. The step of the machine. -/

namespace Sys2Proof.Machine

/-- One step (log 2): the script's next turn, else the part's own. -/
def step (s : State) : Host.Outcome State Fault Refusal := s.stepOnce

/-- The machine with an instruction about to be fetched and run (log 33): a partition, a context, a task, a block and a
group stand placed, as a host and the scheduler would place them, and the words stand at the group's PC. -/
def State.withFetchWord (s : State) (_nbits w : Nat) : State := s.withProgram (wordBundle w)

end Sys2Proof.Machine
end

