-- ==== Sys2Proof/Safety.lean ====
section
/-! DEFINITION. What counts as a safe run, and the words that the statements are made of: when a slot instruction passes
its checks (`Runs`), what its completion adds to its own effect (`State.done`), which states a run can be in (`Inv`,
`Distinct`). -/

namespace Sys2Proof.Machine

open Host (Outcome)

/-- A step that goes on: neither a fault nor a refusal. -/
def Goes (s : State) : Prop := ∃ t, step s = .next t

/-- A safe run of `n` steps: every one goes on. -/
def SafeRun : Nat → State → Prop
  | 0, _ => True
  | n + 1, s => ∃ t, step s = .next t ∧ SafeRun n t

/-- Memory in canonical form: the module's, the peers' and the host's. -/
def State.MemOk (s : State) : Prop := cellsWf s.mem = true ∧ cellsWf s.peer = true ∧ cellsWf s.hmem = true

/-- No two groups share a uid: the key under which the model holds them. -/
def State.Distinct (s : State) : Prop := (s.groups.map fun g : Group => g.uid).Nodup

/-- The same, and the next uid to be given is above all of them. -/
def State.UidsOk (s : State) : Prop := s.Distinct ∧ ∀ g ∈ s.groups, g.uid < s.uid

/-- The slot instruction `w` of group `g`, split `x`, passes the checks that come before its own effect (R60, R373, R384)
and reads no poisoned register (R506). -/
structure Runs (s : State) (g : Group) (x : Split) (w : Slot) : Prop where
  group  : s.curGroup = some g
  split  : g.exec? = some x
  checks : precheck s g x w.op.toNat w.head w.pl = none
  clean  : g.poisoned w.op.toNat w.pl = none

/-- The state after the slot instruction `w` whose own effect led from `s` to `s'`: it is issued with its flags, ages and
port (R33 to R35, R235), its split goes on as NX says (R372), the bundle it goes to is fetched (R93) and the merge test
runs (R39).  Guard and target are those of the state at issue. -/
def State.done (s : State) (g : Group) (x : Split) (w : Slot) (s' : State) (clear : Option Nat) : State :=
  s'.finish g.uid w.op.toNat w.head w.pl x ((g.viewAt s.now).guard w.head.gp) (nxTarget (g.viewAt s.now) x.pc w.head) clear

/-- The same for an own effect that changes the group alone. -/
def State.doneBy (s : State) (g : Group) (x : Split) (w : Slot) (g' : Group) (clear : Nat) : State :=
  s.done g x w (s.putGroup g') (some clear)

/-- The group after the three beats of a vector instruction that gives `f` of the registers as each beat finds them to
every lane it writes (R36, R55): `lat` its latency, `w` the width of its result, `d` its destination. -/
def Group.beats (g : Group) (x : Split) (h : Head) (wide : Bool) (now lat w d : Nat) (f : Group → Nat → LaneOut) : Group :=
  (List.range 3).foldl (vecBeat x h wide now lat w d f) g

/-- The group after the three beats of a vector compare into predicate `d` (R65, R276). -/
def Group.predBeats (g : Group) (x : Split) (h : Head) (wide : Bool) (now lat d : Nat) (sub : BitVec 2)
    (f : Group → Nat → Bool × BitVec 9) : Group :=
  (List.range 3).foldl (predBeat x h wide now lat d sub f) g

/-- The group with a uniform result on its way, and the STATUS bits it raises (R36, R263). -/
def Group.uni (g : Group) (now lat d : Nat) (x : Dword) (fl : BitVec 9) : Group :=
  (g.push (now + lat) g.seq (g.ws d x)).pushStatus (now + lat) fl

/-- The group with an affine result on its way. -/
def Group.aff (g : Group) (now lat d : Nat) (x : AReg) : Group := g.push (now + lat) g.seq (.a d x)

end Sys2Proof.Machine
end

