-- ==== Sys2Proof/Certificates/Slice0/Obligations.lean ====
section
/-! DEFINITION. The statements for the provers.  Helper definitions stand under Sys2Proof.Claims: tables that list the
instructions a statement speaks of, each with what its rule gives it. -/

namespace Sys2Proof.Claims

open Sys2Proof.Machine

/-- A varying R-format instruction: its constructor, its opcode, its latency, the width of its result, and what a lane
gets from the lane's operands. -/
structure Varying where
  form : Head → RArgs → Instr
  op   : BitVec 8
  lat  : RArgs → Nat
  w    : RArgs → Nat
  lane : RArgs → LaneIn → LaneOut

/-- A uniform R-format instruction: its constructor, its opcode, its latency, the width of its result, whether its suffix is
signed (R66), and its result from the operands. -/
structure Uniform where
  form : Head → RArgs → Instr
  op   : BitVec 8
  lat  : RArgs → Nat
  w    : RArgs → Nat
  sgn  : RArgs → Bool
  res  : RArgs → LaneIn → LaneOut

/-- A varying instruction that passes its checks completes: the lanes of its split whose guard is true get its lane
function, beat by beat, of the operands as each beat finds them (R36, R55, R262), and nothing else of its own. -/
def Varying.Completes (k : Varying) : Prop :=
  ∀ (s : State) (g : Group) (x : Split) (h : Head) (r : RArgs),
    Runs s g x ⟨k.op, h, .r r⟩ →
      exec (k.form h r) s = .next (s.doneBy g x ⟨k.op, h, .r r⟩
        (g.beats x h (isWide k.op.toNat (.r r)) s.now (k.lat r) (k.w r) r.d.toNat
          (fun v L => k.lane r (rIn k.op.toNat r v L)))
        (g.vecClear x h (isWide k.op.toNat (.r r)) s.now (k.lat r)))

/-- A uniform instruction that passes its checks completes: its destination gets its result, filled as its suffix says
(R66), from the operands as they are at issue. -/
def Uniform.Completes (k : Uniform) : Prop :=
  ∀ (s : State) (g : Group) (x : Split) (h : Head) (r : RArgs),
    Runs s g x ⟨k.op, h, .r r⟩ →
      exec (k.form h r) s = .next (s.doneBy g x ⟨k.op, h, .r r⟩
        (g.uni s.now (k.lat r) r.d.toNat
          (fill (k.sgn r) (k.w r) (k.res r (uIn k.op.toNat r (g.viewAt s.now))).x)
          (k.res r (uIn k.op.toNat r (g.viewAt s.now))).fl)
        (s.now + k.lat r))

/-- An affine R-format instruction: its constructor, its opcode, its latency, which of B and C it reads, and its formula on
the lane values of A, B and C (R270). -/
structure Affine where
  form : Head → RArgs → Instr
  op  : BitVec 8
  lat : Nat
  b   : Bool
  c   : Bool
  f   : Int → Int → Int → Int

/-- An affine instruction that passes its checks completes: base, stride and W of its destination follow from its formula
in lanes 0 and 1 and from the W of its sources (R68, R70). -/
def Affine.Completes (k : Affine) : Prop :=
  ∀ (s : State) (g : Group) (x : Split) (h : Head) (r : RArgs),
    Runs s g x ⟨k.op, h, .r r⟩ →
      let v := g.viewAt s.now
      let at_ (L : Nat) : Int :=
        k.f (v.affSrc r.n r.a L) (if k.b then v.affSrc r.n r.b L else 0) (if k.c then v.affSrc r.n (.ar r.c) L else 0)
      let wIn := v.srcW r.a || (k.b && v.srcW r.b) || (k.c && v.srcW (.ar r.c))
      exec (k.form h r) s = .next (s.doneBy g x ⟨k.op, h, .r r⟩
        (g.aff s.now k.lat r.d.toNat (affResult r.n (at_ 0) (at_ 1) wIn)) (s.now + k.lat))

/-- A lane result without flags. -/
def just (x : Dword) : LaneOut := { x := x, fl := 0 }

/-- Latency of a varying multiply (R265). -/
def mulLat (r : RArgs) : Nat := if r.n == 64 then 6 else 4

/-- The clamp of R266 to the range of the suffix. -/
def clamp (n : Nat) (sgn : Bool) (y : Int) : Int :=
  let lo : Int := if sgn then -(2 ^ (n - 1) : Nat) else 0
  let hi : Int := if sgn then (2 ^ (n - 1) : Nat) - 1 else (2 ^ n : Nat) - 1
  if y < lo then lo else if hi < y then hi else y

/-- R266: add, subtract, multiply, the high half of a product, minimum, maximum and saturating add at width n, on values
read under the suffix. -/
def arith : List ((RArgs → LaneIn → LaneOut) × Nat) :=
  [(fun r i => just (trunc r.n (i.a + i.b)), 0),
   (fun r i => just (trunc r.n (i.a - i.b)), 1),
   (fun r i => just (trunc r.n (i.a * i.b)), 2),
   (fun r i => just (trunc r.n (BitVec.ofInt 64 (valOf r.sgn r.n i.a * valOf r.sgn r.n i.b / (2 ^ r.n : Nat)))), 3),
   (fun r i => just (if valOf r.sgn r.n i.b < valOf r.sgn r.n i.a then i.b else i.a), 4),
   (fun r i => just (if valOf r.sgn r.n i.a < valOf r.sgn r.n i.b then i.b else i.a), 5),
   (fun r i => just (trunc r.n (BitVec.ofInt 64 (clamp r.n r.sgn (valOf r.sgn r.n i.a + valOf r.sgn r.n i.b)))), 6)]

/-- The n-th formula of R266. -/
def arithF (n : Nat) : RArgs → LaneIn → LaneOut := (arith.getD n (fun _ _ => just 0, 0)).1

/-- The varying forms of R266. -/
def arithVarying : List Varying :=
  [⟨.iaddV, 0x01, fun _ => 2, RArgs.n, arithF 0⟩, ⟨.isubV, 0x04, fun _ => 2, RArgs.n, arithF 1⟩,
   ⟨.imulV, 0x07, mulLat, RArgs.n, arithF 2⟩, ⟨.imulhV, 0x0A, mulLat, RArgs.n, arithF 3⟩,
   ⟨.iminV, 0x13, fun _ => 2, RArgs.n, arithF 4⟩, ⟨.imaxV, 0x15, fun _ => 2, RArgs.n, arithF 5⟩,
   ⟨.iaddsatV, 0x17, fun _ => 2, RArgs.n, arithF 6⟩]

/-- The uniform forms of R266. -/
def arithUniform : List Uniform :=
  [⟨.iaddS, 0x03, fun _ => 1, RArgs.n, RArgs.sgn, arithF 0⟩, ⟨.isubS, 0x06, fun _ => 1, RArgs.n, RArgs.sgn, arithF 1⟩,
   ⟨.imulS, 0x09, fun _ => 3, RArgs.n, RArgs.sgn, arithF 2⟩, ⟨.imulhS, 0x0B, fun _ => 3, RArgs.n, RArgs.sgn, arithF 3⟩,
   ⟨.iminS, 0x14, fun _ => 1, RArgs.n, RArgs.sgn, arithF 4⟩, ⟨.imaxS, 0x16, fun _ => 1, RArgs.n, RArgs.sgn, arithF 5⟩,
   ⟨.iaddsatS, 0x18, fun _ => 1, RArgs.n, RArgs.sgn, arithF 6⟩]

/-- R267: the low n bits of x × y + c.  R268: the exact 64-bit product of two 32-bit values.  R269: the absolute value of
the signed reading, truncated. -/
def multiplyVarying : List Varying :=
  [⟨.imadV, 0x0C, mulLat, RArgs.n, fun r i => just (trunc r.n (i.a * i.b + i.c))⟩,
   ⟨.imulwV, 0x0F, fun _ => 6, fun _ => 64, fun r i => just (BitVec.ofInt 64 (valOf r.sgn 32 i.a * valOf r.sgn 32 i.b))⟩,
   ⟨.iabsV, 0x11, fun _ => 2, RArgs.n, fun r i => just (trunc r.n (BitVec.ofInt 64 (valOf true r.n i.a).natAbs))⟩]

/-- The uniform forms of R267 to R269. -/
def multiplyUniform : List Uniform :=
  [⟨.imadS, 0x0E, fun _ => 3, RArgs.n, RArgs.sgn, fun r i => just (trunc r.n (i.a * i.b + i.c))⟩,
   ⟨.imulwS, 0x10, fun _ => 3, fun _ => 64, RArgs.sgn,
     fun r i => just (BitVec.ofInt 64 (valOf r.sgn 32 i.a * valOf r.sgn 32 i.b))⟩,
   ⟨.iabsS, 0x12, fun _ => 1, RArgs.n, fun _ => true,
     fun r i => just (trunc r.n (BitVec.ofInt 64 (valOf true r.n i.a).natAbs))⟩]

/-- R271: and, or, exclusive or and not, bit by bit. -/
def logicVarying : List Varying :=
  [⟨.andV, 0x19, fun _ => 2, RArgs.n, fun _ i => just (i.a &&& i.b)⟩, ⟨.orV, 0x1B, fun _ => 2, RArgs.n, fun _ i => just (i.a ||| i.b)⟩,
   ⟨.xorV, 0x1D, fun _ => 2, RArgs.n, fun _ i => just (i.a ^^^ i.b)⟩,
   ⟨.notV, 0x1F, fun _ => 2, RArgs.n, fun r i => just (trunc r.n (~~~i.a))⟩]

/-- The uniform forms of R271. -/
def logicUniform : List Uniform :=
  [⟨.andS, 0x1A, fun _ => 1, RArgs.n, fun _ => false, fun _ i => just (i.a &&& i.b)⟩,
   ⟨.orS, 0x1C, fun _ => 1, RArgs.n, fun _ => false, fun _ i => just (i.a ||| i.b)⟩,
   ⟨.xorS, 0x1E, fun _ => 1, RArgs.n, fun _ => false, fun _ i => just (i.a ^^^ i.b)⟩,
   ⟨.notS, 0x20, fun _ => 1, RArgs.n, fun _ => false, fun r i => just (trunc r.n (~~~i.a))⟩]

/-- R272: the count is the low 32 bits of B, unsigned; shl, shr, sar and rol. -/
def shiftF (n : Nat) : RArgs → LaneIn → LaneOut :=
  match n with
  | 0 => fun r i => just (if r.n ≤ (i.b.setWidth 32).toNat then 0 else trunc r.n (i.a <<< (i.b.setWidth 32).toNat))
  | 1 => fun r i => just (if r.n ≤ (i.b.setWidth 32).toNat then 0 else i.a >>> (i.b.setWidth 32).toNat)
  | 2 => fun r i => just (trunc r.n (BitVec.ofInt 64 (valOf true r.n i.a / (2 ^ min (i.b.setWidth 32).toNat r.n : Nat))))
  | _ => fun r i =>
    let k := (i.b.setWidth 32).toNat % r.n
    just (trunc r.n (i.a <<< k ||| i.a >>> (r.n - k)))

/-- The varying shifts. -/
def shiftVarying : List Varying :=
  [⟨.shlV, 0x21, fun _ => 2, RArgs.n, shiftF 0⟩, ⟨.shrV, 0x24, fun _ => 2, RArgs.n, shiftF 1⟩,
   ⟨.sarV, 0x26, fun _ => 2, RArgs.n, shiftF 2⟩, ⟨.rolV, 0x28, fun _ => 2, RArgs.n, shiftF 3⟩]

/-- The uniform shifts. -/
def shiftUniform : List Uniform :=
  [⟨.shlS, 0x23, fun _ => 1, RArgs.n, fun _ => false, shiftF 0⟩, ⟨.shrS, 0x25, fun _ => 1, RArgs.n, fun _ => false, shiftF 1⟩,
   ⟨.sarS, 0x27, fun _ => 1, RArgs.n, fun _ => true, shiftF 2⟩, ⟨.rolS, 0x29, fun _ => 1, RArgs.n, fun _ => false, shiftF 3⟩]

/-- The low `len` bits of x, sign- or zero-extended to n bits. -/
def field (n len : Nat) (sgn : Bool) (x : Nat) : Dword :=
  trunc n (if sgn then BitVec.ofInt 64 (if x % 2 ^ len < 2 ^ (len - 1) then ((x % 2 ^ len : Nat) : Int)
    else ((x % 2 ^ len : Nat) : Int) - (2 ^ len : Nat)) else BitVec.ofNat 64 (x % 2 ^ len))

/-- R273: extract, insert and extend, of C bits at the position that the low 32 bits of B give; at or past the width nothing
is there. -/
def bitField (n : Nat) : RArgs → LaneIn → LaneOut :=
  match n with
  | 0 => fun r i => just (field r.n r.c.toNat r.sgn
      (if r.n ≤ (i.b.setWidth 32).toNat then 0 else i.a.toNat / 2 ^ (i.b.setWidth 32).toNat))
  | 1 => fun r i =>
    let k := (i.b.setWidth 32).toNat
    let m := trunc r.n (BitVec.ofNat 64 ((2 ^ r.c.toNat - 1) * 2 ^ k))
    just (if r.n ≤ k then i.d else (i.d &&& ~~~m) ||| (i.a <<< k &&& m))
  | _ => fun r i => just (field r.n r.c.toNat r.sgn i.a.toNat)

/-- R274: population count, leading zeros and bit reversal of the n bits. -/
def bitCount (n : Nat) : RArgs → LaneIn → LaneOut :=
  match n with
  | 0 => fun r i => just (BitVec.ofNat 64 ((List.range r.n).filter fun k => i.a.getLsbD k).length)
  | 1 => fun r i => just (BitVec.ofNat 64 (((List.range r.n).find? fun k => i.a.getLsbD (r.n - 1 - k)).getD r.n))
  | _ => fun r i => just (BitVec.ofNat 64 ((List.range r.n).foldl (fun a k => 2 * a + (i.a.getLsbD k).toNat) 0))

/-- The varying forms of R273 and R274. -/
def bitVarying : List Varying :=
  [⟨.bfxV, 0x2A, fun _ => 2, RArgs.n, bitField 0⟩, ⟨.bfiV, 0x2C, fun _ => 2, RArgs.n, bitField 1⟩,
   ⟨.extV, 0x34, fun _ => 2, RArgs.n, bitField 2⟩, ⟨.popcV, 0x2E, fun _ => 3, RArgs.n, bitCount 0⟩,
   ⟨.clzV, 0x30, fun _ => 3, RArgs.n, bitCount 1⟩, ⟨.brevV, 0x32, fun _ => 3, RArgs.n, bitCount 2⟩]

/-- The uniform forms of R273 and R274. -/
def bitUniform : List Uniform :=
  [⟨.bfxS, 0x2B, fun _ => 1, RArgs.n, RArgs.sgn, bitField 0⟩,
   ⟨.extS, 0x35, fun _ => 1, RArgs.n, RArgs.sgn, bitField 2⟩, ⟨.popcS, 0x2F, fun _ => 1, RArgs.n, fun _ => false, bitCount 0⟩,
   ⟨.clzS, 0x31, fun _ => 1, RArgs.n, fun _ => false, bitCount 1⟩, ⟨.brevS, 0x33, fun _ => 1, RArgs.n, fun _ => false, bitCount 2⟩]

/-- R277: A + SignExt(B, 32) × 2^k + the signed offset C.  R279, R283: the operand A. -/
def moveVarying : List Varying :=
  [⟨.leaV, 0x3A, fun _ => 2, fun _ => 64,
     fun r i => just (BitVec.ofInt 64 (i.a.toInt + valOf true 32 i.b * (2 ^ r.sub.toNat : Nat) + r.c.toInt))⟩,
   ⟨.movV, 0x40, fun _ => 2, RArgs.n, fun _ i => just i.a⟩,
   ⟨.promUniformToVarying, 0x48, fun _ => 2, RArgs.n, fun _ i => just i.a⟩,
   ⟨.promAffineToVarying, 0x49, fun _ => 2, RArgs.n, fun _ i => just i.a⟩]

/-- The uniform forms of R277 and R279. -/
def moveUniform : List Uniform :=
  [⟨.leaS, 0x3C, fun _ => 1, fun _ => 64, fun _ => false,
     fun r i => just (BitVec.ofInt 64 (i.a.toInt + valOf true 32 i.b * (2 ^ r.sub.toNat : Nat) + r.c.toInt))⟩,
   ⟨.movS, 0x42, fun _ => 1, RArgs.n, fun _ => false, fun _ i => just i.a⟩]

/-- R270, R279: the affine forms of add, subtract, multiply, multiply-add and move. -/
def affineForms : List Affine :=
  [⟨.iaddA, 0x02, 1, true, false, fun a b _ => a + b⟩, ⟨.isubA, 0x05, 1, true, false, fun a b _ => a - b⟩,
   ⟨.imulA, 0x08, 3, true, false, fun a b _ => a * b⟩, ⟨.imadA, 0x0D, 3, true, true, fun a b c => a * b + c⟩,
   ⟨.movA, 0x41, 1, false, false, fun a _ _ => a⟩]

end Sys2Proof.Claims

open Sys2Proof Sys2Proof.Machine

/-! ### Integer and affine instructions -/

/-- R266.  Constructors: iaddV, isubV, imulV, imulhV, iminV, imaxV, iaddsatV; iaddS, isubS, imulS, imulhS, iminS, imaxS,
iaddsatS. -/
def Sys2Proof.Claims.IntegerTwoSources : Prop :=
  (∀ k ∈ Claims.arithVarying, k.Completes) ∧ ∀ k ∈ Claims.arithUniform, k.Completes

/-- R267, R268, R269.  Constructors: imadV, imulwV, iabsV; imadS, imulwS, iabsS. -/
def Sys2Proof.Claims.IntegerMultiplyAddAndAbsolute : Prop :=
  (∀ k ∈ Claims.multiplyVarying, k.Completes) ∧ ∀ k ∈ Claims.multiplyUniform, k.Completes

/-- R266 to R269: integer arithmetic, varying and uniform. -/
def Obligations.IntegerArithmetic : Prop :=
  Claims.IntegerTwoSources ∧ Claims.IntegerMultiplyAddAndAbsolute

/-- R271, R272.  Constructors: andV, orV, xorV, notV, shlV, shrV, sarV, rolV; andS, orS, xorS, notS, shlS, shrS, sarS,
rolS. -/
def Obligations.LogicAndShifts : Prop :=
  (∀ k ∈ Claims.logicVarying ++ Claims.shiftVarying, k.Completes) ∧
    ∀ k ∈ Claims.logicUniform ++ Claims.shiftUniform, k.Completes

/-- R273.  Constructor: bfiS.  At a position below the width the field replaces its bits of the destination, zero-filled to 64
bits; at or past it the destination keeps all 64. -/
def Sys2Proof.Claims.UniformInsert : Prop :=
  ∀ (s : State) (g : Group) (x : Split) (h : Head) (r : RArgs), Runs s g x ⟨0x2D, h, .r r⟩ →
    let v := g.viewAt s.now
    let i := uIn 0x2D r v
    exec (.bfiS h r) s = .next (s.doneBy g x ⟨0x2D, h, .r r⟩
      (g.uni s.now 1 r.d.toNat
        (if r.n ≤ (i.b.setWidth 32).toNat then v.rs r.d.toNat else fill false r.n (Claims.bitField 1 r i).x) 0) (s.now + 1))

/-- R273, R274.  Constructors: bfxV, bfiV, extV, popcV, clzV, brevV; bfxS, bfiS, extS, popcS, clzS, brevS. -/
def Obligations.BitFieldsAndCounts : Prop :=
  (∀ k ∈ Claims.bitVarying, k.Completes) ∧ (∀ k ∈ Claims.bitUniform, k.Completes) ∧ Claims.UniformInsert

/-- R277, R279, R283.  Constructors: leaV, movV, promUniformToVarying, promAffineToVarying; leaS, movS. -/
def Obligations.AddressesAndMoves : Prop :=
  (∀ k ∈ Claims.moveVarying, k.Completes) ∧ ∀ k ∈ Claims.moveUniform, k.Completes

/-- R270, R279.  Constructors: iaddA, isubA, imulA, imadA, movA.  That `movA` gives W by R68's formula, where R279 copies it, is
log 62's reading. -/
def Sys2Proof.Claims.AffineArithmetic : Prop := ∀ k ∈ Claims.affineForms, k.Completes

/-- R272, R277, R281, R282, R283: the other instructions with an affine result.  Constructors: shlA, leaA, amake, alane,
promUniformToAffine. -/
def Sys2Proof.Claims.AffineMakers : Prop :=
  ∀ (s : State) (g : Group) (x : Split) (h : Head) (r : RArgs),
    let v := g.viewAt s.now
    let done (op : BitVec 8) (y : AReg) : State :=
      s.doneBy g x ⟨op, h, .r r⟩ (g.aff s.now 1 r.d.toNat y) (s.now + 1)
    (Runs s g x ⟨0x22, h, .r r⟩ →
      exec (.shlA h r) s = .next (done 0x22 (affResult r.n
        (v.affSrc r.n r.a 0 * (2 ^ ((v.src .none r.n r.b 0).setWidth 32).toNat : Nat))
        (v.affSrc r.n r.a 1 * (2 ^ ((v.src .none r.n r.b 0).setWidth 32).toNat : Nat)) (v.srcW r.a)))) ∧
    (Runs s g x ⟨0x3B, h, .r r⟩ →
      let at_ (L : Nat) : Int := v.affSrc 64 r.a L + v.affSrc 32 r.b L * (2 ^ r.sub.toNat : Nat) + r.c.toInt
      let wraps (L : Nat) : Bool := v.affSrc 32 r.b L < -(2 ^ 31 : Nat) || v.affSrc 32 r.b L > (2 ^ 31 : Nat) - 1
      exec (.leaA h r) s = .next (done 0x3B
        (affResult 64 (at_ 0) (at_ 1) (v.srcW r.a || v.srcW r.b || wraps 0 || wraps 95)))) ∧
    (Runs s g x ⟨0x45, h, .r r⟩ →
      exec (.amake h r) s = .next (done 0x45
        (affResult 64 (v.affSrc 64 r.a 0) (v.affSrc 64 r.a 0 + v.affSrc 64 r.b 0) false))) ∧
    (Runs s g x ⟨0x46, h, .r r⟩ →
      exec (.alane h r) s = .next (done 0x46 { base := BitVec.ofNat 64 (96 * g.gindex), stride := 1, w := false })) ∧
    (Runs s g x ⟨0x47, h, .r r⟩ →
      exec (.promUniformToAffine h r) s = .next (done 0x47 { base := v.src .none 64 r.a 0, stride := 0, w := false }))

/-- R270, R272, R277, R279, R281 to R283: every instruction with an affine result (W of `movA`: log 62).  Constructors: iaddA, isubA, imulA,
imadA, movA, shlA, leaA, amake, alane, promUniformToAffine. -/
def Obligations.AffineResults : Prop :=
  Claims.AffineArithmetic ∧ Claims.AffineMakers

/-- R275, R276, R278, R280, R284, R285, R286.  Constructors: nop, iselV, iselS, icmpVarying, icmpUniform, moviV, moviS, atest,
vfirst, vuni.  A scalar-port compare that is guarded off in every lane writes nothing (R235). -/
def Obligations.SelectCompareMoveImmediateAndReads : Prop :=
  ∀ (s : State) (g : Group) (x : Split) (h : Head) (r : RArgs) (i : IArgs),
    let v := g.viewAt s.now
    let n := if i.sub.getLsbD 1 then 64 else 32
    (Runs s g x ⟨0x00, h, .r r⟩ → exec (.nop h r) s = .next (s.done g x ⟨0x00, h, .r r⟩ s (some (s.now + 1)))) ∧
    (Runs s g x ⟨0x36, h, .r r⟩ → exec (.iselV h r) s = .next (s.doneBy g x ⟨0x36, h, .r r⟩
      (g.beats x h (isWide 0x36 (.r r)) s.now 2 r.n r.d.toNat (fun v L =>
        Claims.just (if (v.rp r.c.toNat).getLsbD L then (rIn 0x36 r v L).a else (rIn 0x36 r v L).b)))
      (g.vecClear x h (isWide 0x36 (.r r)) s.now 2))) ∧
    (Runs s g x ⟨0x37, h, .r r⟩ → exec (.iselS h r) s = .next (s.doneBy g x ⟨0x37, h, .r r⟩
      (g.uni s.now 1 r.d.toNat (fill false r.n (if v.rs r.c.toNat = 0 then (uIn 0x37 r v).b else (uIn 0x37 r v).a)) 0)
      (s.now + 1))) ∧
    (Runs s g x ⟨0x38, h, .r r⟩ → exec (.icmpVarying h r) s = .next (s.doneBy g x ⟨0x38, h, .r r⟩
      (g.predBeats x h (isWide 0x38 (.r r)) s.now 2 r.d.toNat r.sub (fun v L =>
        (icmpOf r.c (rIn 0x38 r v L).a (rIn 0x38 r v L).b, 0)))
      (g.vecClear x h (isWide 0x38 (.r r)) s.now 2))) ∧
    (Runs s g x ⟨0x39, h, .r r⟩ → x.mask &&& g.guardAt h s.now ≠ 0 →
      exec (.icmpUniform h r) s = .next (s.doneBy g x ⟨0x39, h, .r r⟩
        (g.push (s.now + 1) g.seq (.p r.d.toNat (x.mask &&& g.guardAt h s.now) (combine r.sub (v.rp r.d.toNat)
          (if icmpOf r.c (uIn 0x39 r v).a (uIn 0x39 r v).b then allLanes else 0)))) (s.now + 1))) ∧
    (Runs s g x ⟨0x39, h, .r r⟩ → x.mask &&& g.guardAt h s.now = 0 →
      exec (.icmpUniform h r) s = .next (s.done g x ⟨0x39, h, .r r⟩ s (some (s.now + 1)))) ∧
    (Runs s g x ⟨0x43, h, .i i⟩ → exec (.moviV h i) s = .next (s.doneBy g x ⟨0x43, h, .i i⟩
      (g.beats x h (n == 64) s.now 2 n i.d.toNat (fun _ _ => Claims.just (trunc n i.imm.value)))
      (g.vecClear x h (n == 64) s.now 2))) ∧
    (Runs s g x ⟨0x44, h, .i i⟩ → exec (.moviS h i) s = .next (s.doneBy g x ⟨0x44, h, .i i⟩
      (g.uni s.now 1 i.d.toNat (fill (!i.sub.getLsbD 0) n (trunc n i.imm.value)) 0) (s.now + 1))) ∧
    (Runs s g x ⟨0x4A, h, .r r⟩ → x.mask &&& g.guardAt h s.now ≠ 0 →
      exec (.atest h r) s = .next (s.doneBy g x ⟨0x4A, h, .r r⟩
        (g.push (s.now + 1) g.seq (.p r.d.toNat (x.mask &&& g.guardAt h s.now) (if v.srcW r.a then allLanes else 0)))
        (s.now + 1))) ∧
    (Runs s g x ⟨0x4A, h, .r r⟩ → x.mask &&& g.guardAt h s.now = 0 →
      exec (.atest h r) s = .next (s.done g x ⟨0x4A, h, .r r⟩ s (some (s.now + 1)))) ∧
    (Runs s g x ⟨0x4B, h, .r r⟩ → exec (.vfirst h r) s = .next (s.doneBy g x ⟨0x4B, h, .r r⟩
      (g.uni s.now 2 r.d.toNat (v.src r.nb r.n r.a (lowLane x.mask)) 0) (s.now + 2))) ∧
    (Runs s g x ⟨0x4C, h, .r r⟩ → (∀ L < 96, x.mask.getLsbD L → v.src r.nb r.n r.a L = v.src r.nb r.n r.a (lowLane x.mask)) →
      exec (.vuni h r) s = .next (s.doneBy g x ⟨0x4C, h, .r r⟩
        (g.uni s.now 2 r.d.toNat (v.src r.nb r.n r.a (lowLane x.mask)) 0) (s.now + 2)))

/-- R286, whole.  Constructor: vuni.  With equal lanes, it writes as `vfirst` does: the lowest lane's value; else it raises
UNIFORM_CHECK and writes nothing, with FLANE the lanes that differ from the lowest, FADDR zero, FPC the instruction, precise.
A beat read early takes part with its previous contents: the lanes are those of the registers as they are at issue. -/
def Obligations.VuniComparesTheLanes : Prop :=
  ∀ (s : State) (g : Group) (x : Split) (h : Head) (r : RArgs), Runs s g x ⟨0x4C, h, .r r⟩ →
    let v := g.viewAt s.now
    let low := v.src r.nb r.n r.a (lowLane x.mask)
    let f := preciseFault s x 0x05 0 (maskOf fun L => x.mask.getLsbD L && v.src r.nb r.n r.a L != low)
    ((∀ L < 96, x.mask.getLsbD L → v.src r.nb r.n r.a L = low) →
      exec (.vuni h r) s = .next (s.doneBy g x ⟨0x4C, h, .r r⟩ (g.uni s.now 2 r.d.toNat low 0) (s.now + 2))) ∧
    ((∃ L < 96, x.mask.getLsbD L ∧ v.src r.nb r.n r.a L ≠ low) →
      exec (.vuni h r) s = .next (s.takeFault g f) ∧ f.fpc = x.pc ∧ f.faddr = 0 ∧ f.defer = false)
/-! ### Floating-point instructions -/

namespace Sys2Proof.Claims

open Sys2Proof.Machine

/-- A varying instruction that rounds: constructor, opcode, latency, rounding field, width of the result, lane function. -/
structure Rounded where
  form : Head → RArgs → Instr
  op   : BitVec 8
  lat  : RArgs → Nat
  code : RArgs → Nat
  w    : RArgs → Nat
  lane : RArgs → LaneIn → Rc → LaneOut

/-- A uniform instruction that rounds; `sgn` says whether its result is sign-filled (R287). -/
structure RoundedS where
  form : Head → RArgs → Instr
  op   : BitVec 8
  lat  : RArgs → Nat
  code : RArgs → Nat
  w    : RArgs → Nat
  sgn  : RArgs → Bool
  lane : RArgs → LaneIn → Rc → LaneOut

/-- A varying instruction that rounds and passes its checks completes: each lane rounds in the mode of the rounding field,
with the lane's own stochastic word (R289). -/
def Rounded.Completes (k : Rounded) : Prop :=
  ∀ (s : State) (g : Group) (x : Split) (h : Head) (r : RArgs),
    Runs s g x ⟨k.op, h, .r r⟩ →
      exec (k.form h r) s = .next (s.doneBy g x ⟨k.op, h, .r r⟩
        (g.beats x h (isWide k.op.toNat (.r r)) s.now (k.lat r) (k.w r) r.d.toNat
          (fun v L => k.lane r (rIn k.op.toNat r v L) (s.rc g (fixMode (k.code r) (g.viewAt s.now).frm.toNat) L 8)))
        (g.vecClear x h (isWide k.op.toNat (.r r)) s.now (k.lat r)))

/-- A uniform instruction that rounds and passes its checks completes, computed as for lane 0 (R287, R289). -/
def RoundedS.Completes (k : RoundedS) : Prop :=
  ∀ (s : State) (g : Group) (x : Split) (h : Head) (r : RArgs),
    Runs s g x ⟨k.op, h, .r r⟩ →
      let v := g.viewAt s.now
      let o := k.lane r (uIn k.op.toNat r v) (s.rc g (fixMode (k.code r) v.frm.toNat) 0 8)
      exec (k.form h r) s = .next (s.doneBy g x ⟨k.op, h, .r r⟩
        (g.uni s.now (k.lat r) r.d.toNat (fill (k.sgn r) (k.w r) o.x) o.fl) (s.now + k.lat r))

/-- The rounding field of an instruction whose RM field it is (R257). -/
def rm (r : RArgs) : Nat := r.c.toNat % 8

/-- The rounding field of a fused multiply-add: RNE, RTZ, DYN, SR (R256). -/
def rmFma (r : RArgs) : Nat := match r.sub.toNat with | 0 => 0 | 1 => 1 | 2 => 5 | _ => 4

/-- A varying form of a format's width, opcode and latency. -/
def fv32 (form : Head → RArgs → Instr) (op : BitVec 8) (lat : Nat) (f : LaneIn → Rc → LaneOut) : Rounded :=
  ⟨form, op, fun _ => lat, rm, fun _ => 32, fun _ => f⟩

/-- See `fv32`. -/
def fv64 (form : Head → RArgs → Instr) (op : BitVec 8) (lat : Nat) (f : LaneIn → Rc → LaneOut) : Rounded :=
  ⟨form, op, fun _ => lat, rm, fun _ => 64, fun _ => f⟩

/-- See `fv32`. -/
def fs32 (form : Head → RArgs → Instr) (op : BitVec 8) (lat : Nat) (f : LaneIn → Rc → LaneOut) : RoundedS :=
  ⟨form, op, fun _ => lat, rm, fun _ => 32, fun _ => false, fun _ => f⟩

/-- See `fv32`. -/
def fs64 (form : Head → RArgs → Instr) (op : BitVec 8) (lat : Nat) (f : LaneIn → Rc → LaneOut) : RoundedS :=
  ⟨form, op, fun _ => lat, rm, fun _ => 64, fun _ => false, fun _ => f⟩

/-- R293: the varying arithmetic, with the latencies of R292. -/
def fArithVarying : List Rounded :=
  [fv32 .faddF32V 0x50 4 (fadd f32), fv64 .faddF64V 0x52 6 (fadd f64), fv32 .fsubF32V 0x54 4 (fsub f32),
   fv64 .fsubF64V 0x56 6 (fsub f64), fv32 .fmulF32V 0x58 4 (fmul f32), fv64 .fmulF64V 0x5A 6 (fmul f64),
   fv32 .fdivF32V 0x6C 12 (fdiv f32), fv64 .fdivF64V 0x6E 24 (fdiv f64)]

/-- R293: the uniform arithmetic. -/
def fArithUniform : List RoundedS :=
  [fs32 .faddF32S 0x51 4 (fadd f32), fs64 .faddF64S 0x53 6 (fadd f64), fs32 .fsubF32S 0x55 4 (fsub f32),
   fs64 .fsubF64S 0x57 6 (fsub f64), fs32 .fmulF32S 0x59 4 (fmul f32), fs64 .fmulF64S 0x5B 6 (fmul f64),
   fs32 .fdivF32S 0x6D 20 (fdiv f32), fs64 .fdivF64S 0x6F 36 (fdiv f64)]

/-- R294: the fused multiply-add. -/
def fmaVarying : List Rounded :=
  [⟨.ffmaF32V, 0x5C, fun _ => 4, rmFma, fun _ => 32, fun _ => ffma f32⟩,
   ⟨.ffmaF64V, 0x5E, fun _ => 6, rmFma, fun _ => 64, fun _ => ffma f64⟩]

/-- See `fmaVarying`. -/
def fmaUniform : List RoundedS :=
  [⟨.ffmaF32S, 0x5D, fun _ => 4, rmFma, fun _ => 32, fun _ => false, fun _ => ffma f32⟩,
   ⟨.ffmaF64S, 0x5F, fun _ => 6, rmFma, fun _ => 64, fun _ => false, fun _ => ffma f64⟩]

/-- R295: the functions of one source. -/
def fFunctionVarying : List Rounded :=
  [fv32 .fsqrtF32V 0x70 12 (fsqrt f32), fv64 .fsqrtF64V 0x72 24 (fsqrt f64), fv32 .frcp 0x74 16 frcp,
   fv32 .frsq 0x75 16 frsq, fv32 .flog2 0x76 16 flog2, fv32 .fexp2 0x77 16 fexp2, fv32 .fsin 0x78 16 fsin,
   fv32 .fcos 0x79 16 fcos]

/-- R295: the uniform square roots. -/
def fFunctionUniform : List RoundedS := [fs32 .fsqrtF32S 0x71 20 (fsqrt f32), fs64 .fsqrtF64S 0x73 36 (fsqrt f64)]

/-- The format of a type of R298: F32 of 12, F64 of 13, and so on. -/
def typeOf (r : RArgs) : Nat := r.c.toNat / 16

/-- Width of a result of type t. -/
def typeW (t : Nat) : Nat := if tyWide t then 64 else 32

/-- R298, R299, R301: the varying conversions. -/
def fConvertVarying : List Rounded :=
  [⟨.fcvtV, 0x7A, fun r => if isWide 0x7A (.r r) then 6 else 4, rm, fun r => typeW (typeOf r),
     fun r => fcvt (typeOf r) r.b.code⟩,
   ⟨.frndV, 0x7C, fun r => if isWide 0x7C (.r r) then 6 else 4, rm, fun r => typeW (typeOf r),
     fun r => frnd (cvtFmt (typeOf r))⟩,
   ⟨.fldexp, 0x7F, fun r => if r.n == 64 then 6 else 4, rm, RArgs.n,
     fun r => fldexp (if r.n == 64 then f64 else f32)⟩]

/-- R298, R299: the uniform conversions; a signed integer result is sign-filled (R287). -/
def fConvertUniform : List RoundedS :=
  [⟨.fcvtS, 0x7B, fun r => if tyWide (typeOf r) || tyWide r.b.code then 6 else 4, rm, fun r => typeW (typeOf r),
     fun r => typeOf r == 2 || typeOf r == 3, fun r => fcvt (typeOf r) r.b.code⟩,
   ⟨.frndS, 0x7D, fun r => if tyWide (typeOf r) then 6 else 4, rm, fun r => typeW (typeOf r), fun _ => false,
     fun r => frnd (cvtFmt (typeOf r))⟩]

/-- R296, R300: minimum, maximum and class. -/
def fExactVarying : List Varying :=
  [⟨.fminF32V, 0x60, fun _ => 4, fun _ => 32, fun _ i => fminmax f32 true i.a i.b⟩,
   ⟨.fminF64V, 0x62, fun _ => 6, fun _ => 64, fun _ i => fminmax f64 true i.a i.b⟩,
   ⟨.fmaxF32V, 0x64, fun _ => 4, fun _ => 32, fun _ i => fminmax f32 false i.a i.b⟩,
   ⟨.fmaxF64V, 0x66, fun _ => 6, fun _ => 64, fun _ i => fminmax f64 false i.a i.b⟩,
   ⟨.fclass, 0x7E, fun r => if r.n == 64 then 6 else 4, fun _ => 32,
     fun r => fclass (if r.n == 64 then f64 else f32)⟩]

/-- R296: the uniform minimum and maximum. -/
def fExactUniform : List Uniform :=
  [⟨.fminF32S, 0x61, fun _ => 4, fun _ => 32, fun _ => false, fun _ i => fminmax f32 true i.a i.b⟩,
   ⟨.fminF64S, 0x63, fun _ => 6, fun _ => 64, fun _ => false, fun _ i => fminmax f64 true i.a i.b⟩,
   ⟨.fmaxF32S, 0x65, fun _ => 4, fun _ => 32, fun _ => false, fun _ i => fminmax f32 false i.a i.b⟩,
   ⟨.fmaxF64S, 0x67, fun _ => 6, fun _ => 64, fun _ => false, fun _ i => fminmax f64 false i.a i.b⟩]

/-- A floating-point compare: constructor, opcode, latency, format. -/
structure Compare where
  form : Head → RArgs → Instr
  op   : BitVec 8
  lat  : Nat
  F    : Fmt

/-- A varying compare that passes its checks completes into its predicate (R65, R297). -/
def Compare.CompletesV (k : Compare) : Prop :=
  ∀ (s : State) (g : Group) (x : Split) (h : Head) (r : RArgs), Runs s g x ⟨k.op, h, .r r⟩ →
    exec (k.form h r) s = .next (s.doneBy g x ⟨k.op, h, .r r⟩
      (g.predBeats x h (isWide k.op.toNat (.r r)) s.now k.lat r.d.toNat r.sub (fun v L =>
        fcmpOf k.F (r.c.toNat % 8) (rIn k.op.toNat r v L).a (rIn k.op.toNat r v L).b))
      (g.vecClear x h (isWide k.op.toNat (.r r)) s.now k.lat))

/-- A uniform compare that passes its checks completes: one value in every lane whose guard is true (R65, R297), and nothing
where there is no such lane (R235). -/
def Compare.CompletesS (k : Compare) : Prop :=
  ∀ (s : State) (g : Group) (x : Split) (h : Head) (r : RArgs), Runs s g x ⟨k.op, h, .r r⟩ →
    let v := g.viewAt s.now
    let m := x.mask &&& g.guardAt h s.now
    let y := fcmpOf k.F (r.c.toNat % 8) (uIn k.op.toNat r v).a (uIn k.op.toNat r v).b
    (m = 0 → exec (k.form h r) s = .next (s.done g x ⟨k.op, h, .r r⟩ s (some (s.now + 1)))) ∧
    (m ≠ 0 → exec (k.form h r) s = .next (s.doneBy g x ⟨k.op, h, .r r⟩
      ((g.push (s.now + k.lat) g.seq (.p r.d.toNat m (combine r.sub (v.rp r.d.toNat) (if y.1 then allLanes else 0)))).pushStatus
        (s.now + k.lat) y.2) (s.now + k.lat)))

end Sys2Proof.Claims

namespace Sys2Proof.Claims

open Sys2Proof.Machine

/-- The rational value of a number; an infinity and a NaN have none. -/
def ratOf : Machine.Num → Rat
  | .fin s n d e => mkRat ((if s then -1 else 1) * (n * 2 ^ e.toNat : Nat)) (d * 2 ^ (-e).toNat)
  | _ => 0

/-- The result is the rounding (R161 to R164) of a number whose value is exactly q, whose sign is `neg` where q is zero. -/
def RoundsExact (F : Fmt) (c : Rc) (q : Rat) (neg : Bool) (o : LaneOut) : Prop :=
  ∃ z : Machine.Num, z.isFin = true ∧ ratOf z = q ∧ (q = 0 → z.sign = neg) ∧
    o = { x := dw (F.encode z c).1, fl := (F.encode z c).2.bits }

/-- R293, R294: on finite sources, in both formats and in every rounding, the sum, the difference, the product, the quotient by
a nonzero value and the fused multiply-add are each the rounding of the exact result of the decoded sources, rounded once; an
exact zero of a sum is −0 for two negative zeros, and under RDN where the signs differ (R288). -/
def FloatExactness : Prop :=
  ∀ F ∈ [f32, f64], ∀ (i : LaneIn) (c : Rc),
    let a := fv F i.a
    let b := fv F i.b
    let d := fv F i.c
    let down := c.mode == 3
    let zeroSum (s t : Bool) (none : Bool) : Bool := if none && s == t then s else down
    a.isFin = true → b.isFin = true →
      RoundsExact F c (ratOf a + ratOf b) (zeroSum a.sign b.sign (a.isZero && b.isZero)) (fadd F i c) ∧
      RoundsExact F c (ratOf a - ratOf b) (zeroSum a.sign (!b.sign) (a.isZero && b.isZero)) (fsub F i c) ∧
      RoundsExact F c (ratOf a * ratOf b) (a.sign != b.sign) (fmul F i c) ∧
      (b.isZero = false → RoundsExact F c (ratOf a / ratOf b) (a.sign != b.sign) (fdiv F i c)) ∧
      (d.isFin = true → RoundsExact F c (ratOf a * ratOf b + ratOf d)
        (zeroSum (a.sign != b.sign) d.sign ((a.isZero || b.isZero) && d.isZero)) (ffma F i c))

/-- A lane's result without a flag: a signed zero, an infinity, a one. -/
def signedCode (F : Fmt) (code : Nat) (neg : Bool) (fl : Flags) : LaneOut :=
  { x := dw (code + if neg then 2 ^ (F.width - 1) else 0), fl := fl.bits }

/-- 2 ^ k. -/
def pow2 (k : Int) : Rat := ratOf (.fin false 1 1 k)

/-- The result is the rounding of a value y that no rational may equal, given by how its square compares: `below q` says q² is
below y², `meets q` that it equals it.  The value rounded lies on the same side as y of every q of at most 100 significant
bits, among which are all the boundaries of Round (R161, R162, R208). -/
def RoundsRoot (F : Fmt) (c : Rc) (below meets : Rat → Prop) (o : LaneOut) : Prop :=
  ∃ z : Machine.Num, z.isFin = true ∧ z.sign = false ∧ o = { x := dw (F.encode z c).1, fl := (F.encode z c).2.bits } ∧
    ∀ (k : Nat) (j : Int), k < 2 ^ 100 →
      let q := ratOf (.fin false k 1 j)
      (below q ↔ q < ratOf z) ∧ (meets q ↔ q = ratOf z)

/-- R295: the square root in both formats, the reciprocal, the reciprocal square root; and of `flog2` and `fexp2` the values that
are exact.  (Of the other elementary results nothing is claimed: log 17.) -/
def FunctionExactness : Prop :=
  ∀ (i : LaneIn) (c : Rc),
    let a := fv f32 i.a
    (∀ F ∈ [f32, f64], let y := fv F i.a
      y.isFin = true → y.isZero = false → y.sign = false →
        RoundsRoot F c (fun q => q * q < ratOf y) (fun q => q * q = ratOf y) (fsqrt F i c)) ∧
    (a.isFin = true → a.isZero = false →
      RoundsExact f32 c (1 / ratOf a) a.sign (frcp i c) ∧
      (a.sign = false → RoundsRoot f32 c (fun q => q * q * ratOf a < 1) (fun q => q * q * ratOf a = 1) (frsq i c))) ∧
    (∀ j : Int, a.isFin = true → ratOf a = pow2 j → RoundsExact f32 c (j : Rat) false (flog2 i c)) ∧
    (∀ j : Int, a.isFin = true → j.natAbs < 512 → ratOf a = (j : Rat) → RoundsExact f32 c (pow2 j) false (fexp2 i c))

/-- R295: the special results of the table. -/
def FunctionSpecials : Prop :=
  ∀ (i : LaneIn) (c : Rc),
    let a := fv f32 i.a
    let nan (F : Fmt) (nv : Bool) : LaneOut := signedCode F F.nanCode false { nv := nv }
    let zero (F : Fmt) (neg : Bool) : LaneOut := signedCode F 0 neg {}
    let inf (neg : Bool) (fl : Flags) : LaneOut := signedCode f32 f32.infIdx neg fl
    let one : LaneOut := signedCode f32 0x3F800000 false {}
    (∀ F ∈ [f32, f64], let y := fv F i.a
      (y.isNan → fsqrt F i c = nan F (sNan F i.a)) ∧
      (y.isNan = false → y.isZero = false → y.sign = true → fsqrt F i c = nan F true) ∧
      (y.isZero → fsqrt F i c = zero F y.sign) ∧
      (y = .inf false → fsqrt F i c = signedCode F F.infIdx false {})) ∧
    (a.isNan → ∀ f ∈ [frcp, frsq, flog2, fexp2, fsin, fcos], f i c = nan f32 (sNan f32 i.a)) ∧
    (a.isZero → frcp i c = inf a.sign { dz := true } ∧ frsq i c = inf a.sign { dz := true } ∧
      flog2 i c = inf true { dz := true } ∧ fexp2 i c = one ∧ fsin i c = zero f32 a.sign ∧ fcos i c = one) ∧
    (a.isNan = false → a.isZero = false → a.sign = true → frsq i c = nan f32 true ∧ flog2 i c = nan f32 true) ∧
    (∀ t, a = .inf t → frcp i c = zero f32 t ∧ fsin i c = nan f32 true ∧ fcos i c = nan f32 true ∧
      fexp2 i c = (if t then zero f32 false else inf false {})) ∧
    (a = .inf false → frsq i c = zero f32 false ∧ flog2 i c = inf false {})

/-- R298: a number of any source type is rounded into the destination, a NaN becomes the canonical NaN or, in an integer type, 0
with NV. -/
def ConversionExactness : Prop :=
  ∀ t ∈ [2, 3, 6, 7, 10, 11, 12, 13], ∀ u ∈ [2, 3, 6, 7, 10, 11, 12, 13], ∀ (i : LaneIn) (c : Rc),
    let T := cvtFmt t
    let a := (cvtFmt u).decode i.a.toNat
    (a.isFin = true → RoundsExact T c (ratOf a) a.sign (fcvt t u i c)) ∧
    (a.isNan = true → fcvt t u i c =
      if T.kind == 1 then { x := 0, fl := ({ nv := true } : Flags).bits }
      else signedCode T T.nanCode false { nv := sNan (cvtFmt u) i.a }) ∧
    (∀ neg, a = .inf neg → fcvt t u i c =
      if T.kind == 1 then
        { x := dw (truncInt (if neg then T.bounds.1 else T.bounds.2) T.width), fl := ({ nv := true } : Flags).bits }
      else signedCode T T.infIdx neg {})

/-- |q|. -/
def magnitude (q : Rat) : Rat := if q < 0 then -q else q

/-- R299: n is what the mode makes of q on the grid of the integers; SR takes one of the two neighbours. -/
def IntegerOf (mode : Nat) (q : Rat) (n : Int) : Prop :=
  magnitude ((n : Rat) - q) < 1 ∧
  (mode = 0 → magnitude ((n : Rat) - q) ≤ 1 / 2 ∧ (magnitude ((n : Rat) - q) = 1 / 2 → n % 2 = 0)) ∧
  (mode = 1 → magnitude (n : Rat) ≤ magnitude q) ∧ (mode = 2 → q ≤ n) ∧ (mode = 3 → (n : Rat) ≤ q)

/-- R299: `frnd` in both formats.  (That the tie goes to the even integer, and no UF: log 73.) -/
def IntegralExactness : Prop :=
  ∀ F ∈ [f32, f64], ∀ (i : LaneIn) (c : Rc),
    let a := fv F i.a
    (a.isFin = true → ((2 ^ F.fbits : Nat) : Rat) ≤ magnitude (ratOf a) → frnd F i c = { x := dw (i.a.toNat % 2 ^ F.width) }) ∧
    (a.isFin = true → magnitude (ratOf a) < ((2 ^ F.fbits : Nat) : Rat) → ∃ (n : Int) (z : Machine.Num),
      IntegerOf c.mode (ratOf a) n ∧ z.isFin = true ∧ ratOf z = n ∧ z.sign = a.sign ∧ (frnd F i c).x = dw (F.encode z rne).1 ∧
      (frnd F i c).fl = ({ nx := decide ((n : Rat) ≠ ratOf a) } : Flags).bits) ∧
    (a.isNan = true → frnd F i c = signedCode F F.nanCode false { nv := sNan F i.a }) ∧
    (∀ neg, a = .inf neg → frnd F i c = signedCode F F.infIdx neg {})

/-- R301: `fldexp` in both formats, for every k. -/
def ScaledExactness : Prop :=
  ∀ F ∈ [f32, f64], ∀ (i : LaneIn) (c : Rc),
    let a := fv F i.a
    (a.isFin = true → RoundsExact F c (ratOf a * pow2 (valOf true 32 i.b)) a.sign (fldexp F i c)) ∧
    (a.isNan = true → fldexp F i c = signedCode F F.nanCode false { nv := sNan F i.a }) ∧
    (∀ neg, a = .inf neg → fldexp F i c = signedCode F F.infIdx neg {})

end Sys2Proof.Claims

/-- R293, R294.  Constructors: faddF32V, faddF64V, fsubF32V, fsubF64V, fmulF32V, fmulF64V, fdivF32V, fdivF64V, ffmaF32V,
ffmaF64V and the same with S for V.  They complete with lane functions that, on finite sources, round the exact result. -/
def Obligations.FloatArithmetic : Prop :=
  (∀ k ∈ Claims.fArithVarying ++ Claims.fmaVarying, k.Completes) ∧
    (∀ k ∈ Claims.fArithUniform ++ Claims.fmaUniform, k.Completes) ∧ Claims.FloatExactness

/-- R295.  Constructors: fsqrtF32V, fsqrtF64V, frcp, frsq, flog2, fexp2, fsin, fcos; fsqrtF32S, fsqrtF64S. -/
def Sys2Proof.Claims.FloatFunctions : Prop :=
  (∀ k ∈ Claims.fFunctionVarying, k.Completes) ∧ (∀ k ∈ Claims.fFunctionUniform, k.Completes) ∧
    Claims.FunctionExactness ∧ Claims.FunctionSpecials

/-- R298, R299, R301.  Constructors: fcvtV, frndV, fldexp; fcvtS, frndS. -/
def Sys2Proof.Claims.FloatConversions : Prop :=
  (∀ k ∈ Claims.fConvertVarying, k.Completes) ∧ (∀ k ∈ Claims.fConvertUniform, k.Completes) ∧
    Claims.ConversionExactness ∧ Claims.IntegralExactness ∧ Claims.ScaledExactness

/-- R295, R298, R299, R301.  Constructors: fsqrtF32V, fsqrtF64V, frcp, frsq, flog2, fexp2, fsin, fcos, fcvtV, frndV, fldexp;
fsqrtF32S, fsqrtF64S, fcvtS, frndS.  They complete with lane functions of which `fsqrt`, `frcp`, `frsq`, `fcvt`, `frnd` and
`fldexp` round the exact result; of `flog2`, `fexp2`, `fsin` and `fcos` only the special and some exact results are stated, the
others are those of the model's series (log 17). -/
def Obligations.FloatFunctionsAndConversions : Prop :=
  Claims.FloatFunctions ∧ Claims.FloatConversions

/-- R296, R297, R300.  Constructors: fminF32V, fminF64V, fmaxF32V, fmaxF64V, fclass, fminF32S, fminF64S, fmaxF32S, fmaxF64S;
fcmpF32V, fcmpF64V, fcmpF32S, fcmpF64S. -/
def Obligations.FloatMinimumMaximumAndCompare : Prop :=
  (∀ k ∈ Claims.fExactVarying, k.Completes) ∧ (∀ k ∈ Claims.fExactUniform, k.Completes) ∧
    (Claims.Compare.mk .fcmpF32V 0x68 4 f32).CompletesV ∧ (Claims.Compare.mk .fcmpF64V 0x6A 6 f64).CompletesV ∧
    (Claims.Compare.mk .fcmpF32S 0x69 4 f32).CompletesS ∧ (Claims.Compare.mk .fcmpF64S 0x6B 6 f64).CompletesS

/-- R293, R294: the special values of the arithmetic, in both formats, in every rounding.  A NaN source gives the canonical
NaN, with NV exactly where a source is signalling; ∞ − ∞, 0 × ∞, 0 / 0 and ∞ / ∞ give it with NV, and 0 × ∞ in `ffma` whatever
the addend; a nonzero finite value over zero gives ∞ with DZ, a finite value over ∞ a zero; every other sum and product with an
infinity is the infinity, with no flag.  (An infinity over a finite value: the model's choice, log 83.) -/
def Obligations.FloatSpecialValues : Prop :=
  ∀ F ∈ [f32, f64], ∀ (i : LaneIn) (c : Rc),
    let a := fv F i.a
    let b := fv F i.b
    let d := fv F i.c
    let nan (nv : Bool) : LaneOut := Claims.signedCode F F.nanCode false { nv := nv }
    let inf (neg : Bool) : LaneOut := Claims.signedCode F F.infIdx neg {}
    let bad : Prop := (a.isZero ∧ ∃ t, b = .inf t) ∨ (b.isZero ∧ ∃ t, a = .inf t)
    ((a.isNan || b.isNan) → ∀ f ∈ [fadd, fsub, fmul, fdiv], f F i c = nan (sNan F i.a || sNan F i.b)) ∧
    (∀ t, a = .inf t → b = .inf (!t) → fadd F i c = nan true) ∧
    (∀ t, a = .inf t → b = .inf t → fsub F i c = nan true) ∧
    (a.isZero → ∀ t, b = .inf t → fmul F i c = nan true) ∧
    (b.isZero → ∀ t, a = .inf t → fmul F i c = nan true) ∧
    (a.isZero → b.isZero → fdiv F i c = nan true) ∧
    (∀ t u, a = .inf t → b = .inf u → fdiv F i c = nan true) ∧
    (a.isFin → a.isZero = false → b.isZero →
      fdiv F i c = Claims.signedCode F F.infIdx (a.sign != b.sign) { dz := true }) ∧
    (a.isFin → ∀ t, b = .inf t → fdiv F i c = Claims.signedCode F 0 (a.sign != t) {}) ∧
    (b.isFin → ∀ t, a = .inf t → fdiv F i c = inf (t != b.sign)) ∧
    (∀ t, a = .inf t → (b.isFin ∨ b = .inf t) → fadd F i c = inf t) ∧
    (∀ t, b = .inf t → a.isFin → fadd F i c = inf t) ∧
    (∀ t, a = .inf t → (b.isFin ∨ b = .inf (!t)) → fsub F i c = inf t) ∧
    (∀ t, b = .inf t → a.isFin → fsub F i c = inf (!t)) ∧
    (∀ t, a = .inf t → b.isNan = false → b.isZero = false → fmul F i c = inf (t != b.sign)) ∧
    (∀ t, b = .inf t → a.isFin → a.isZero = false → fmul F i c = inf (a.sign != t)) ∧
    (bad → ffma F i c = nan true) ∧
    (¬ bad → (a.isNan || b.isNan || d.isNan) → ffma F i c = nan (sNan F i.a || sNan F i.b || sNan F i.c)) ∧
    (∀ t u, a.mul b = .inf t → d = .inf u → ffma F i c = if t = u then inf t else nan true) ∧
    (∀ t, a.mul b = .inf t → d.isFin → ffma F i c = inf t) ∧
    (∀ t, a.isFin → b.isFin → d = .inf t → ffma F i c = inf t)

/-! ### Instructions on format slots -/

/-- R302 to R308: with every slot BOUND and its rounding field permitted, a slot instruction completes.  Constructors: xunpk,
xpack, xcvt, qrow, qscale. -/
def Obligations.SlotInstructions : Prop :=
  ∀ (s : State) (g : Group) (x : Split) (h : Head) (r : RArgs) (e : EArgs) (F G : Fmt) (mode : Nat),
    let k := r.c.toNat % 8
    let j := r.b.code % 8
    let frm := (g.viewAt s.now).frm.toNat
    let due := beatDone false s.now 2 6
    let one := s.noteSlot g k
    let note := g.noteOp x s.nextPc k due h.set.toNat
    (Runs s g x ⟨0x80, h, .r r⟩ → s.slotOf g k = .ok F →
      exec (.xunpk h r) s = .next (s.done g x ⟨0x80, h, .r r⟩
        (one.putGroup (note.beats x h false s.now 6 32 r.d.toNat fun v L => unpack F (rIn 0x80 r v L).a))
        (some (note.vecClear x h false s.now 6)))) ∧
    (Runs s g x ⟨0x81, h, .r r⟩ → s.slotOf g k = .ok F → F.mode (r.c.toNat / 16 % 8) frm = some mode →
      exec (.xpack h r) s = .next (s.done g x ⟨0x81, h, .r r⟩
        (one.putGroup (note.beats x h false s.now 6 32 r.d.toNat fun v L =>
          fOut F (fv f32 (rIn 0x81 r v L).a) { nv := sNan f32 (rIn 0x81 r v L).a } (one.rc note mode L k)))
        (some (note.vecClear x h false s.now 6)))) ∧
    (Runs s g x ⟨0x82, h, .r r⟩ → s.slotOf g j = .ok F → s.slotOf g k = .ok G →
      G.mode (r.c.toNat / 16 % 8) frm = some mode →
      let two := (s.noteSlot g j).noteSlot g k
      let note2 := (g.noteOp x s.nextPc j due h.set.toNat).noteOp x s.nextPc k due h.set.toNat
      exec (.xcvt h r) s = .next (s.done g x ⟨0x82, h, .r r⟩
        (two.putGroup (note2.beats x h false s.now 6 32 r.d.toNat fun v L =>
          fOut G (F.decode (rIn 0x82 r v L).a.toNat) Flags.none (two.rc note2 mode L k)))
        (some (note2.vecClear x h false s.now 6)))) ∧
    (Runs s g x ⟨0x83, h, .e e⟩ → s.slotOf g (e.ext.toNat % 8) = .ok F →
      F.mode (e.ext.toNat / 8 % 8) frm = some mode → F.kind ≠ 2 →
      let s2 := if e.ext.getLsbD 6 then some (fv f32 (trunc 32 ((g.viewAt s.now).rs e.s.toNat))) else none
      let noteQ := g.noteOp x s.nextPc (e.ext.toNat % 8) (beatDone false s.now 2 16) h.set.toNat
      exec (.qrow h e) s = .next (s.done g x ⟨0x83, h, .e e⟩
        ((s.noteSlot g (e.ext.toNat % 8)).putGroup ((List.range 3).foldl
          (qrowBeat s F mode (e.ext.toNat % 8) e.d.toNat e.c.toNat e.b.toNat s2 x h) noteQ))
        (some (noteQ.vecClear x h false s.now 16)))) ∧
    (Runs s g x ⟨0x84, h, .r r⟩ → s.slotOf g k = .ok F →
      let y := fv f32 ((g.viewAt s.now).src .none 32 r.a 0)
      exec (.qscale h r) s = .next (s.done g x ⟨0x84, h, .r r⟩
        (one.putGroup ((g.noteOp x s.nextPc k (s.now + 8) h.set.toNat).uni s.now 8 r.d.toNat (dw (qscaleOf F y)) 0))
        (some (s.now + 8))))

/-- R169, R302: an instruction that names a slot that is not BOUND raises FORMAT_SLOT_UNBOUND with the slot in FADDR, the source
slot of `xcvt` first.  (FADDR of the matrix instructions: log 65.) -/
def Sys2Proof.Claims.UnboundSlotFaults : Prop :=
  ∀ (s : State) (g : Group) (x : Split) (h : Head) (r : RArgs) (e : EArgs),
    let k := r.c.toNat % 8
    let j := r.b.code % 8
    let fault (k : Nat) : Host.Outcome State Fault Refusal := .next (s.takeFault g (preciseFault s x cUnbound (dw k) x.mask))
    (s.slotOf g k = .unbound →
      (Runs s g x ⟨0x80, h, .r r⟩ → exec (.xunpk h r) s = fault k) ∧
      (Runs s g x ⟨0x81, h, .r r⟩ → exec (.xpack h r) s = fault k) ∧
      (Runs s g x ⟨0x84, h, .r r⟩ → exec (.qscale h r) s = fault k)) ∧
    (Runs s g x ⟨0x82, h, .r r⟩ → s.slotOf g j = .unbound → exec (.xcvt h r) s = fault j) ∧
    (Runs s g x ⟨0x82, h, .r r⟩ → s.slotOf g j ≠ .unbound → s.slotOf g k = .unbound → exec (.xcvt h r) s = fault k) ∧
    (Runs s g x ⟨0x83, h, .e e⟩ → s.slotOf g (e.ext.toNat % 8) = .unbound →
      exec (.qrow h e) s = fault (e.ext.toNat % 8)) ∧
    (∀ b i, s.block? g.block = some b → s.mqLen g.core < 32 →
      (s.slotsOf g [e.b.toNat % 8, e.b.toNat / 16 % 8] = .unbound i →
        (Runs s g x ⟨0xB1, h, .e e⟩ → exec (.mloop h e) s = fault i) ∧
        (Runs s g x ⟨0xB2, h, .e e⟩ → exec (.mloopg h e) s = fault i)) ∧
      (s.slotsOf g [e.b.toNat % 8] = .unbound i → Runs s g x ⟨0xB3, h, .e e⟩ → exec (.mout h e) s = fault i))

/-- R166, R307: a rounding mode that the slot does not permit, and `qrow` on a TABLE slot, raise RESERVED_FIELD; an instruction
on a CORRUPT slot stays unissued (R170). -/
def Sys2Proof.Claims.SlotModesAndCorruptSlots : Prop :=
  ∀ (s : State) (g : Group) (x : Split) (h : Head) (r : RArgs) (e : EArgs) (F G : Fmt),
    let k := r.c.toNat % 8
    let j := r.b.code % 8
    let i := e.ext.toNat % 8
    let frm := (g.viewAt s.now).frm.toNat
    let fault : Host.Outcome State Fault Refusal := .next (s.takeFault g (preciseFault s x cReserved 0 x.mask))
    let stays : Host.Outcome State Fault Refusal := .next { s with stall := true }
    (s.slotOf g k = .ok F → F.mode (r.c.toNat / 16 % 8) frm = none →
      (Runs s g x ⟨0x81, h, .r r⟩ → exec (.xpack h r) s = fault) ∧
      (Runs s g x ⟨0x82, h, .r r⟩ → s.slotOf g j = .ok G → exec (.xcvt h r) s = fault)) ∧
    (s.slotOf g i = .ok F → (F.mode (e.ext.toNat / 8 % 8) frm = none ∨ F.kind = 2) →
      Runs s g x ⟨0x83, h, .e e⟩ → exec (.qrow h e) s = fault) ∧
    (s.slotOf g k = .corrupt →
      (Runs s g x ⟨0x80, h, .r r⟩ → exec (.xunpk h r) s = stays) ∧
      (Runs s g x ⟨0x81, h, .r r⟩ → exec (.xpack h r) s = stays) ∧
      (Runs s g x ⟨0x84, h, .r r⟩ → exec (.qscale h r) s = stays)) ∧
    (s.slotOf g i = .corrupt → Runs s g x ⟨0x83, h, .e e⟩ → exec (.qrow h e) s = stays)

/-! ### Cross-lane instructions -/

/-- R314 to R323.  Constructors: shfl, shfx, lredS, lredV, lscan, ballot, rng, hshV, hshS, argmx.  The lanes that contribute to
`lredS`, `ballot` and `argmx` are the group's live lanes, in a handler too: log 47's reading of R64. -/
def Obligations.CrossLaneInstructions : Prop :=
  ∀ (s : State) (g : Group) (x : Split) (h : Head) (r : RArgs),
    let v0 := g.viewAt s.now
    let a := vNum r.a
    let t := r.c.toNat / 16
    let o := r.c.toNat % 16
    let f := redNode o t
    let w := Claims.typeW t
    let vec (op : BitVec 8) (wide : Bool) (lat w : Nat) (y : Group → Nat → LaneOut) : State :=
      s.doneBy g x ⟨op, h, .r r⟩ (g.beats x h wide s.now lat w r.d.toNat y) (g.vecClear x h wide s.now lat)
    let uni (op : BitVec 8) (lat : Nat) (y : Dword) (fl : BitVec 9) : State :=
      s.doneBy g x ⟨op, h, .r r⟩ (g.uni s.now lat r.d.toNat y fl) (s.now + lat)
    (Runs s g x ⟨0x88, h, .r r⟩ → exec (.shfl h r) s = .next (vec 0x88 (isWide 0x88 (.r r)) 4 r.n fun v L =>
      Claims.just (edgeRead v0 r.n a (v.src .none 32 r.b L).toNat))) ∧
    (Runs s g x ⟨0x89, h, .r r⟩ → exec (.shfx h r) s = .next (vec 0x89 (isWide 0x89 (.r r)) 4 r.n fun v L =>
      Claims.just (edgeRead v0 r.n a (L ^^^ (v.src .none 32 r.b L).toNat)))) ∧
    (Runs s g x ⟨0x8A, h, .r r⟩ →
      let wide := isWide 0x8A (.r r)
      let y := laneTotal f (contributors o t g.live (g.gather wide s.now w a))
      exec (.lredS h r) s = .next (uni 0x8A (beatDone wide 0 2 (redLat t)) (fill (t == 2 || t == 3) w y.x) y.fl)) ∧
    (Runs s g x ⟨0x91, h, .r r⟩ →
      let wide := isWide 0x91 (.r r)
      exec (.lredV h r) s = .next (vec 0x91 wide (redLat t) w fun _ _ =>
        laneTotal f (contributors o t (g.writes x h wide s.now) (g.gather wide s.now w a)))) ∧
    (Runs s g x ⟨0x8B, h, .r r⟩ →
      let wide := isWide 0x8B (.r r)
      let xs := contributors o t (g.writes x h wide s.now) (g.gather wide s.now w a)
      exec (.lscan h r) s = .next (vec 0x8B wide (redLat t) w fun _ L =>
        canonOut t (lanePrefix f xs (laneTree f xs 0 5) (f (laneTree f xs 0 5) (laneTree f xs 32 5)) L))) ∧
    (Runs s g x ⟨0x8C, h, .r r⟩ → exec (.ballot h r) s = .next (uni 0x8C 4
      ((((g.viewAt (s.now + r.c.toNat)).rp a &&& g.live).extractLsb' (32 * r.c.toNat) 32).setWidth 64) 0)) ∧
    (Runs s g x ⟨0x8D, h, .r r⟩ → exec (.rng h r) s = .next (vec 0x8D true 8 32 fun v L =>
      let c := v.src .none 64 r.a L
      let y := steep (c.setWidth 32, c.extractLsb' 32 32, 0x524E0000#32 + (r.c >>> 2).setWidth 32, 0)
        ((s.seedOf g).setWidth 32) ((s.seedOf g).extractLsb' 32 32)
      Claims.just ((match r.c.toNat % 4 with | 0 => y.1 | 1 => y.2.1 | 2 => y.2.2.1 | _ => y.2.2.2).setWidth 64))) ∧
    (Runs s g x ⟨0x8E, h, .r r⟩ → exec (.hshV h r) s = .next (vec 0x8E (isWide 0x8E (.r r)) 4 32 fun v L =>
      hashOf r.n (rIn 0x8E r v L))) ∧
    (Runs s g x ⟨0x8F, h, .r r⟩ → exec (.hshS h r) s = .next (uni 0x8F 3 (trunc 32 (hashOf r.n (uIn 0x8F r v0)).x) 0)) ∧
    (Runs s g x ⟨0x90, h, .r r⟩ →
      let wide := isWide 0x90 (.r r)
      let xs := g.gather wide s.now w a
      let nan (L : Nat) : Bool := (tyFloat t).any fun F => (fv F (xs.getD L 0)).isNan
      let sig (L : Nat) : Bool := (tyFloat t).any fun F => sNan F (xs.getD L 0)
      let better (p q : Nat × Dword) : Nat × Dword :=
        if selBeats t (r.c.getLsbD 0) ((s.seedOf g).setWidth 32) p q then q else p
      let best := match ((lanesOf g.live).filter fun L => !nan L).map fun L => (L, xs.getD L 0) with
        | [] => 0x7F
        | y :: l => (l.foldl better y).1
      exec (.argmx h r) s = .next (uni 0x90 (beatDone wide 0 2 (redLat t)) (dw best)
        ({ nv := (lanesOf g.live).any sig } : Flags).bits))

/-! ### Memory instructions -/

namespace Sys2Proof.Claims

open Sys2Proof.Machine

/-- An instruction that accesses global memory: constructor, opcode, kind of its request, kind of access (R92), whether it is
of the uniform class, whether it makes one access (R326), and whether that one has the data of the highest lane (R331). -/
structure Access where
  form    : Head → MArgs → Instr
  op      : BitVec 8
  kind    : ReqKind
  acc     : Acc
  uniform : Bool
  one     : MArgs → Bool
  last    : Bool

/-- Whether an operand is uniform: one access for the instruction (R326). -/
def uniX (m : MArgs) : Bool := m.xk == .unif

/-- The global accesses of R330 to R339. -/
def accesses : List Access :=
  [⟨.ldV, 0x98, .ld, .read, false, uniX, false⟩, ⟨.ldS, 0x99, .ld, .read, true, fun _ => true, false⟩,
   ⟨.stV, 0x9A, .st, .write, false, uniX, true⟩, ⟨.stS, 0x9B, .st, .write, false, uniX, true⟩,
   ⟨.ldw, 0x9E, .ldw, .read, false, fun _ => false, false⟩, ⟨.stw, 0x9F, .stw, .write, false, fun _ => false, false⟩,
   ⟨.atomV, 0xA0, .atom, .atomic, false, fun _ => false, false⟩, ⟨.atomS, 0xA1, .atom, .atomic, true, fun _ => true, false⟩,
   ⟨.red, 0xA2, .red, .atomic, false, fun _ => false, false⟩, ⟨.redo, 0xA3, .redo, .redo, false, fun _ => false, false⟩]

/-- The checks of the accesses of an instruction (R90 to R94, R328). -/
def checks (k : Access) (s : State) (g : Group) (x : Split) (b : Block) (t : Task) (h : Head) (m : MArgs) :
    List (LaneReq × Except (BitVec 8 × Nat) LaneReq) :=
  s.checkLanes g b t k.op.toNat m k.acc false
    (Machine.accesses (g.viewAt s.now) k.op.toNat m (lanesOf (g.checked x h k.uniform s.now)) (k.one m) k.last)

/-- Every check passes and some lane is checked: the access is on its way, with the region and the physical address of each
lane, and the instruction completes (R326, R327); with no checked lane it makes no access, and it waits for the order it asks
for (R147). -/
def Access.Completes (k : Access) : Prop :=
  ∀ (s : State) (g : Group) (x : Split) (h : Head) (m : MArgs) (b : Block) (t : Task),
    let mask := g.checked x h k.uniform s.now
    let send (q : Req) : State := s.done g x ⟨k.op, h, .m m⟩ (s.putGroup { g with reqs := g.reqs ++ [q] }) none
    Runs s g x ⟨k.op, h, .m m⟩ → s.block? g.block = some b → s.taskOf g = some t →
    affineBad (g.viewAt s.now) m = false →
      (lanesOf mask ≠ [] → firstFault m mask (checks k s g x b t h m) = none →
        exec (k.form h m) s = .next (send
          { mkReq g x s k.op.toNat h m k.kind (passed (checks k s g x b t h m)) (k.one m) mask with det := t.hdr.det })) ∧
      (lanesOf mask = [] → m.ord ≠ .none →
        exec (k.form h m) s = .next (send (mkReq g x s k.op.toNat h m .order [] false 0))) ∧
      (lanesOf mask = [] → m.ord = .none →
        exec (k.form h m) s = .next (s.done g x ⟨k.op, h, .m m⟩ s (some (s.now + 1))))

/-- A check fails: the first cause in R328's order that any lane has, with its address and lanes, is taken as a fault; a
missing translation makes a packet (R94, R137). -/
def Access.Faults (k : Access) : Prop :=
  ∀ (s : State) (g : Group) (x : Split) (h : Head) (m : MArgs) (b : Block) (t : Task) (c : BitVec 8) (a : Nat)
      (l : LaneMask),
    let mask := g.checked x h k.uniform s.now
    Runs s g x ⟨k.op, h, .m m⟩ → s.block? g.block = some b → s.taskOf g = some t →
    affineBad (g.viewAt s.now) m = false → lanesOf mask ≠ [] →
    firstFault m mask (checks k s g x b t h m) = some (c, a, l) → c ≠ cXlat →
      exec (k.form h m) s = .next (s.takeFault g (preciseFault s x c (dw a) l))

/-- A missing translation is a packet: the instruction has issued, its request waits for the driver with its sequencing, and
its group halts (R137). -/
def Access.Packets (k : Access) : Prop :=
  ∀ (s : State) (g : Group) (x : Split) (h : Head) (m : MArgs) (b : Block) (t : Task) (a : Nat) (l : LaneMask),
    let v := g.viewAt s.now
    let mask := g.checked x h k.uniform s.now
    let s1 := s.issued g.uid k.op.toNat h (.m m) none
    let q := mkReq g x s k.op.toNat h m k.kind
      (t.packed g k.op.toNat m (Machine.accesses v k.op.toNat m (lanesOf mask) (k.one m) k.last)) (k.one m) mask
    Runs s g x ⟨k.op, h, .m m⟩ → s.block? g.block = some b → s.taskOf g = some t →
    affineBad v m = false → lanesOf mask ≠ [] →
    firstFault m mask (checks k s g x b t h m) = some (cXlat, a, l) →
      exec (k.form h m) s = .next (s1.packet ((s1.group? g.uid).getD g)
        { q with cond := v.guard h.gp, target := nxTarget v x.pc h, went := false, det := t.hdr.det } a l)

end Sys2Proof.Claims

/-- R326, R330, R331, R333, R334, R336, R338, R339.  Constructors: ldV, ldS, stV, stS, ldw, stw, atomV, atomS, red, redo. -/
def Obligations.GlobalAccessesIssue : Prop := ∀ k ∈ Claims.accesses, k.Completes

/-- R94, R137, R328: a global access whose checks fail takes the first cause, and issues nothing; but a missing translation
makes a packet. -/
def Obligations.GlobalAccessesFault : Prop := ∀ k ∈ Claims.accesses, k.Faults ∧ k.Packets

/-- R71, R94, R390: a memory instruction whose address operand is affine and has W set raises AFFINE_RANGE, with the checked
lanes, and makes no access: no request is on its way, and the rest of the machine is as the fault leaves it.  FADDR is the lowest
checked lane's address, as R94 and R328 have it for every cause they list (log 53), and 0 where no lane is checked.  `lds` and `sts`
do so once they may issue: no engine row met, no earlier ordering in the way.
Constructors: ldV, stV, stS, ldw, stw, atomV, red, redo, prf, lds, sts. -/
def Obligations.AffineAddressWithWFaults : Prop :=
  ∀ (s : State) (g : Group) (x : Split) (h : Head) (m : MArgs),
    m.xk = .aff → ((g.viewAt s.now).ra m.x.toNat).w = true →
      let v := g.viewAt s.now
      let mask := g.checked x h false s.now
      let fault (op : BitVec 8) : Host.Outcome State Fault Refusal := .next (s.takeFault g (preciseFault s x 0x04
        (((lanesOf mask).head?.map fun L => dw (v.addrOf m (mSize op.toNat m) L)).getD 0) mask))
      (∀ k ∈ (Claims.accesses.filter (!·.uniform)).map (fun k => (k.form, k.op)) ++ [(Instr.prf, 0xA4)],
        Runs s g x ⟨k.2, h, .m m⟩ → exec (k.1 h m) s = fault k.2) ∧
      (∀ k ∈ [(Instr.lds, (0x9C : BitVec 8)), (.sts, 0x9D)], ∀ b, s.block? g.block = some b →
        s.engineStall b (scrAccesses k.2.toNat h m s.now g x).2 = false → g.mayIssue k.2.toNat m = true →
        (k.2 = 0x9D → s.behindPass g s.now = false) → Runs s g x ⟨k.2, h, .m m⟩ → exec (k.1 h m) s = fault k.2)

/-- R329, R332.  Constructors: lds, sts.  With every scratchpad check passed, no engine row met and no earlier ordering in the
way, `lds` writes the bytes at each lane's address, extended, 6 or 8 cycles after issue, or nothing where no lane is checked, and
both stall on a row that an engine operation holds (R150); `sts` stores each lane's low bytes at its address, and stalls behind a
`cmtp` of its block that waits (R203).  The first check
that fails is taken as a fault (R328), and `lds` of a poisoned word raises ECC_UNCORRECTABLE before it issues (R506). -/
def Obligations.ScratchpadAccesses : Prop :=
  ∀ (s : State) (g : Group) (x : Split) (h : Head) (m : MArgs) (b : Block),
    s.block? g.block = some b → affineBad (g.viewAt s.now) m = false →
    (let q := scrAccesses 0x9C h m s.now g x
     let n := mSize 0x9C m
     let w := tyWidth (mTy m.b)
     let at_ := s.now + if w == 64 then 8 else 6
     let value (L : Nat) : Dword :=
       match (if m.xk == .unif then q.2.head? else q.2.find? fun y => y.lane == L) with
       | some y => extendTy (mTy m.b) w (cellRead b.scr y.addr n)
       | none => 0
     Runs s g x ⟨0x9C, h, .m m⟩ → q.1 ≠ 0 → firstFault m q.1 (scrChecks b n q.2) = none →
     s.engineStall b q.2 = false → g.mayIssue 0x9C m = true → (∀ y ∈ q.2, b.scrPoison y.addr n = false) →
       exec (.lds h m) s = .next (s.done g x ⟨0x9C, h, .m m⟩ (s.putGroup (g.pushRow at_ w m.d.toNat q.1 value)) (some at_))) ∧
    (Runs s g x ⟨0x9C, h, .m m⟩ → (scrAccesses 0x9C h m s.now g x).1 = 0 → g.mayIssue 0x9C m = true →
       exec (.lds h m) s = .next (s.done g x ⟨0x9C, h, .m m⟩ s (some (s.now + 1)))) ∧
    (let q := scrAccesses 0x9C h m s.now g x
     Runs s g x ⟨0x9C, h, .m m⟩ → s.engineStall b q.2 = true → exec (.lds h m) s = .next { s with stall := true }) ∧
    (let q := scrAccesses 0x9D h m s.now g x
     Runs s g x ⟨0x9D, h, .m m⟩ → (s.engineStall b q.2 = true ∨ s.behindPass g s.now = true) →
       exec (.sts h m) s = .next { s with stall := true }) ∧
    (let q := scrAccesses 0x9D h m s.now g x
     let n := mSize 0x9D m
     Runs s g x ⟨0x9D, h, .m m⟩ → firstFault m q.1 (scrChecks b n q.2) = none →
     s.engineStall b q.2 = false → g.mayIssue 0x9D m = true → s.behindPass g s.now = false →
       exec (.sts h m) s = .next (s.done g x ⟨0x9D, h, .m m⟩
         (s.putBlock (b.scrWrites (q.2.map fun y => (y.addr, bytesOf n y.x.toNat)))) (some (s.now + 1)))) ∧
    (∀ c y l, let q := scrAccesses 0x9C h m s.now g x
     Runs s g x ⟨0x9C, h, .m m⟩ → s.engineStall b q.2 = false → g.mayIssue 0x9C m = true →
     firstFault m q.1 (scrChecks b (mSize 0x9C m) q.2) = some (c, y, l) →
       exec (.lds h m) s = .next (s.takeFault g (preciseFault s x c (dw y) l))) ∧
    (∀ c y l, let q := scrAccesses 0x9D h m s.now g x
     Runs s g x ⟨0x9D, h, .m m⟩ → s.engineStall b q.2 = false → g.mayIssue 0x9D m = true → s.behindPass g s.now = false →
     firstFault m q.1 (scrChecks b (mSize 0x9D m) q.2) = some (c, y, l) →
       exec (.sts h m) s = .next (s.takeFault g (preciseFault s x c (dw y) l))) ∧
    (∀ y rest, let q := scrAccesses 0x9C h m s.now g x
     Runs s g x ⟨0x9C, h, .m m⟩ → firstFault m q.1 (scrChecks b (mSize 0x9C m) q.2) = none → s.engineStall b q.2 = false →
     g.mayIssue 0x9C m = true → q.2.filter (fun z => b.scrPoison z.addr (mSize 0x9C m)) = y :: rest →
       exec (.lds h m) s = .next (s.takeFault g
         (eccFault x y.addr (if m.xk == .unif then q.1 else lanesMask ((y :: rest).map (·.lane))))))

/-- What accesses of a partition to physical addresses `pas` may change in the memory system, but for the bytes that they store
(R122, R123, R133): only what the lines they use and the lines these displace need.  A byte of module memory or of a peer
reads as before, but for one that a sector of the partition's L1 had written, which may have been written back; what
memory holds below the LLC moves towards what the partition reads.  A sector of its L1 was there before, or is one of those
used, clean; other partitions' sectors stay, and of their LLC lines only a stale one may go. -/
def Sys2Proof.Claims.MemoryKeeps (s s' : State) (part : Nat) (pas : List Nat) (stored : Nat → Prop) : Prop :=
  let written (a : Nat) (y : Byte) : Prop := ∃ c, ∃ z ∈ (s.core c).l1, z.part = part ∧ z.pa ≤ a ∧ a < z.pa + 128 ∧
    bm z.dirty (a - z.pa) = true ∧ y = z.bytes.getD (a - z.pa) 0
  s'.hmem = s.hmem ∧
  (∀ a, ¬ stored a → (s'.homeByte part a = s.homeByte part a ∨ written a (s'.homeByte part a)) ∧
    (cellGet a s'.mem = cellGet a s.mem ∨ cellGet a s'.mem = s.homeByte part a ∨ written a (cellGet a s'.mem)) ∧
    (cellGet a s'.peer = cellGet a s.peer ∨ written a (cellGet a s'.peer))) ∧
  (∀ c, ∀ y ∈ (s'.core c).l1,
    (∃ z ∈ (s.core c).l1, y.pa = z.pa ∧ y.part = z.part ∧ ∀ i < 128, ¬ stored (y.pa + i) → bm y.dirty i = bm z.dirty i ∧
      (bm z.valid i = true → y.bytes.getD i 0 = z.bytes.getD i 0)) ∨
    (y.part = part ∧ (∀ i < 128, ¬ stored (y.pa + i) → bm y.dirty i = false) ∧ ∃ a ∈ pas, y.pa = a / 128 * 128)) ∧
  (∀ c, (s'.core c).l1.filter (·.part != part) = (s.core c).l1.filter (·.part != part)) ∧
  (∀ l ∈ s'.llc, l ∈ s.llc ∨ (l.part = part ∧
    ∃ a, l.line = a / 512 ∧ (a ∈ pas ∨ ∃ c, ∃ z ∈ (s.core c).l1, z.part = part ∧ z.pa ≤ a ∧ a < z.pa + 128 ∧
      bm z.dirty (a - z.pa) = true))) ∧
  ∀ l ∈ s.llc, l.part ≠ part → l ∈ s'.llc ∨ s.llcStale l = true

/-- What a prefetch of physical addresses `pas` by a partition may change: no register, scratchpad or task, and of memory only
what `MemoryKeeps` allows, with no byte stored (R340). -/
def Sys2Proof.Claims.PrefetchKeeps (s s' : State) (part : Nat) (pas : List Nat) : Prop :=
  s'.groups = s.groups ∧ s'.blocks = s.blocks ∧ s'.tasks = s.tasks ∧ s'.now = s.now ∧
    Claims.MemoryKeeps s s' part pas fun _ => False

/-- Where a prefetch of `n` bytes leaves what it reads, at the page of the address (R340): the bytes of an L1-cached range are valid in the L1,
unless the hint allocates nothing there (R133); the sector of a SHARED range is in the LLC, unless its line is stale, which a read leaves
so (R463), or every place of the partition's ways stays taken (log 19). -/
def Sys2Proof.Claims.PrefetchFills (s s' : State) (b : Block) (p : Page) (mode : RMode) (n hnt : Nat) : Prop :=
  (mode ≠ .shared → hnt ≠ 1 → hnt ≠ 2 → ∃ y ∈ (s'.core (s.l1Core b.part b.ctx b.core p.pa)).l1, y.part = b.part ∧
    y.pa = p.pa / 128 * 128 ∧ ∀ i < n, bm y.valid (p.pa % 128 + i) = true) ∧
  (mode = .shared → hnt ≠ 2 →
    (∃ l, s'.llcLine? b.part p.pa = some l ∧ (l.holds p.pa = true ∨ s'.llcStale l = true)) ∨
    ∀ q, s'.part? b.part = some q → s'.llcFree q (homeDie (s'.homeOf p.pa) p.pa) (llcSlice p.pa) = none)

/-- R203, R340 to R343.  Constructors: prf, fence, cmtk, cmtp, wcnt.  A prefetch reads lines into the L1 and the LLC, the last one it reads
stands there then (`PrefetchFills`), and it writes nothing else but what they displace there; it waits for a sector that is being written
back; `fence` orders; `cmtk` and `cmtp` have no effect outside a DET task, and in one that holds the token they order, while `cmtk` waits for
the token, which the leader tells its die (R498); `wcnt` with its checks passed issues, and its group waits, its split with it, until the counter is met. -/
def Obligations.PrefetchFenceCommitAndCounterWait : Prop :=
  ∀ (s : State) (g : Group) (x : Split) (h : Head) (m : MArgs) (b : Block) (t : Task),
    s.block? g.block = some b → s.taskOf g = some t →
    let w (op : BitVec 8) : Slot := ⟨op, h, .m m⟩
    let order (op : BitVec 8) (kind : ReqKind) (l : List LaneReq) : State :=
      s.done g x (w op) (s.putGroup { g with reqs := g.reqs ++ [mkReq g x s op.toNat h m kind l false 0] }) none
    (Runs s g x (w 0xA4) → affineBad (g.viewAt s.now) m = false → s.MemOk →
      let n := mSize 0xA4 m
      let read := Machine.accesses (g.viewAt s.now) 0xA4 m (lanesOf (g.checked x h false s.now)) (m.xk == .unif) false
      let reg (q : LaneReq) := t.match_ q.addr (q.addr + n - 1) (if m.xk == .unif then none else some (g.slice q.lane))
      let back := ∃ q ∈ read, ∃ p, s.translate b.part b.ctx q.addr = some p ∧ s.backPends b.part p.pa = true
      (back → exec (.prf h m) s = .next { s with stall := true }) ∧
      (¬ back → ∃ s', exec (.prf h m) s = .next (s.done g x (w 0xA4) s' (some (s.now + 1))) ∧
        Claims.PrefetchKeeps s s' b.part (read.filterMap fun q => (s.translate b.part b.ctx q.addr).map (·.pa)) ∧
        ∀ q p i mode, read.getLast? = some q → q.addr % n = 0 → reg q = some (i, mode) → mode ≠ .reduce →
          (mode = .shared → t.hdr.det = false) → (m.xk = .aff → ∀ a ∈ read.head?, reg a = reg q) →
          s.translate b.part b.ctx q.addr = some p → p.read = true → isPeer p.pa = false →
          s.reaches (coreDie b.core) (homeDie p.home p.pa) = true →
            Claims.PrefetchFills s s' b p mode n m.hnt.toNat)) ∧
    (Runs s g x (w 0xA5) → exec (.fence h m) s = .next (order 0xA5 .fence [])) ∧
    (Runs s g x (w 0xA6) → t.hdr.det = false → exec (.cmtk h m) s = .next (s.done g x (w 0xA6) s (some (s.now + 1)))) ∧
    (Runs s g x (w 0xA6) → t.hdr.det = true → (t.run.commit < b.blkid ∨ t.run.commit = b.blkid ∧ s.inTransit (.commit t.uid) = true) →
      exec (.cmtk h m) s = .next { s with stall := true }) ∧
    (Runs s g x (w 0xA6) → t.hdr.det = true → t.run.commit = b.blkid → s.inTransit (.commit t.uid) = false →
      exec (.cmtk h m) s = .next (order 0xA6 .cmtk [])) ∧
    (Runs s g x (w 0xA7) → t.hdr.det = false → exec (.cmtp h m) s = .next (s.done g x (w 0xA7) s (some (s.now + 1)))) ∧
    (Runs s g x (w 0xA7) → t.hdr.det = true → t.run.commit = b.blkid →
      exec (.cmtp h m) s = .next (order 0xA7 .cmtp (s.sharedOut b t))) ∧
    (let k : Claims.Access := ⟨.wcnt, 0xA8, .wcnt, .read, true, fun _ => true, false⟩
     let mask := g.checked x h true s.now
     let v := g.viewAt s.now
     let q := mkReq g x s 0xA8 h m .wcnt (passed (Claims.checks k s g x b t h m)) true mask
     let s1 := s.issued g.uid 0xA8 h (.m m) none
     let g1 := (s1.group? g.uid).getD g
     Runs s g x (w 0xA8) → affineBad v m = false → lanesOf mask ≠ [] →
     firstFault m mask (Claims.checks k s g x b t h m) = none →
       exec (.wcnt h m) s = .next (s1.putGroup { g1 with
         reqs := g1.reqs ++ [{ q with cond := v.guard h.gp, target := nxTarget v x.pc h, went := false, det := t.hdr.det }]
         wait := .wcnt g.seq }))

/-- R202, R203: in a DET task a `cmtk` whose position is passed, and a `cmtp` without the token, raise DET_VIOLATION. -/
def Sys2Proof.Claims.CommitViolations : Prop :=
  ∀ (s : State) (g : Group) (x : Split) (h : Head) (m : MArgs) (b : Block) (t : Task),
    s.block? g.block = some b → s.taskOf g = some t → t.hdr.det = true →
    (Runs s g x ⟨0xA6, h, .m m⟩ → b.blkid < t.run.commit →
      exec (.cmtk h m) s = .next (s.takeFault g (preciseFault s x cDet 0 x.mask))) ∧
    (Runs s g x ⟨0xA7, h, .m m⟩ → t.run.commit ≠ b.blkid →
      exec (.cmtp h m) s = .next (s.takeFault g (preciseFault s x cDet 0 x.mask)))

/-! ### Requests performed -/

namespace Sys2Proof.Claims

open Sys2Proof.Machine

/-- A request of a group, with the group's block and task. -/
structure Held (s : State) (g : Group) (b : Block) (t : Task) (q : Req) : Prop where
  group : s.group? g.uid = some g
  block : s.block? g.block = some b
  task  : s.taskOf g = some t
  req   : g.reqs.find? (·.seq == q.seq) = some q
  mem   : s.MemOk

/-- Request `q` is performed: it is gone from its group, its results are written in this cycle, and its completion flag, where it has
one, clears in it (R235, R327). -/
def Gone (s s' : State) (g : Group) (q : Req) (ws : List Write) : Prop :=
  ∃ g', s'.group? g.uid = some g' ∧ g'.reqs = g.reqs.filter (fun r => r.seq != q.seq) ∧
    (∀ w ∈ ws, ∃ i, { at_ := s.now, seq := q.seq, inv := i, w := w } ∈ g'.pend) ∧
    (q.flag ≠ 0 → ∃ i, { at_ := s.now, seq := q.seq, inv := i, w := match q.inv with
      | some j => .hflag j q.flag
      | none => .flag q.flag } ∈ g'.pend)

/-- Every byte of module memory outside those stored reads as before for the partition, and below the LLC memory moves only towards
what it reads there; a peer's memory and the host's stay. -/
def HomeKeeps (s s' : State) (part : Nat) (stored : Nat → Prop) : Prop :=
  s'.peer = s.peer ∧ s'.hmem = s.hmem ∧ ∀ a, ¬ stored a → s'.homeByte part a = s.homeByte part a ∧
    (cellGet a s'.mem = cellGet a s.mem ∨ cellGet a s'.mem = s.homeByte part a)

/-- The byte that a core's L1 gives a partition at a physical address: its own where it is valid, else the home's (R123). -/
def seen (s : State) (part c a : Nat) : Byte :=
  match s.sector? part c a with
  | some x => if bm x.valid (a % 128) then x.bytes.getD (a % 128) 0 else s.homeByte part a
  | none => s.homeByte part a

/-- The varying destination of a request from the values of its accesses: each checked lane its own, or all the one of a uniform access;
of 64 bits, a pair (R330). -/
def destination (q : Req) (w : Nat) (val : LaneReq → Dword) : List Write :=
  let at_ (L : Nat) : Dword :=
    match (if q.uni then q.lanes.head? else q.lanes.find? fun y => y.lane == L) with
    | some y => val y
    | none => 0
  q.wv q.m.d.toNat q.mask (mkRow fun L => (at_ L).setWidth 32) ::
    if w = 64 then [q.wv (q.m.d.toNat + 1) q.mask (mkRow fun L => (at_ L).extractLsb' 32 32)] else []

/-- The destination of `ld` (0x98 varying, 0x99 uniform), of `ldw` and of `atom` (0xA0, 0xA1). -/
def result (q : Req) (val : LaneReq → Dword) : List Write :=
  let w := tyWidth (mTy q.m.b)
  if q.op = 0x99 ∨ q.op = 0xA1 then
    [q.ws q.m.d.toNat (match q.lanes.head? with
      | some y => if q.op = 0xA1 then fill (mTy q.m.b ≤ 2) w (val y) else val y
      | none => if q.op = 0xA1 then fill (mTy q.m.b ≤ 2) w 0 else 0)]
  else destination q (if q.op = 0x9E then 32 else w) val

/-- A loaded value of size bytes (R330), or, of `ldw`, the element of its index in the sector, zero-extended (R131, R333): from the
bytes at a physical address and on. -/
def loaded (q : Req) (bytes : Nat → Nat → List Byte) (y : LaneReq) : Dword :=
  let w := q.m.b.toNat % 64
  if q.op = 0x9E then dw (leOf (bytes (y.pa / 128 * 128) 128) / 2 ^ (y.x.toNat * w) % 2 ^ w)
  else extendTy (mTy q.m.b) (if q.op = 0x99 then 64 else tyWidth (mTy q.m.b)) (bytes y.pa (mSize q.op q.m))

/-- The first byte and the length of an access at its physical address: of `ldw` and `stw` the bytes of its element (R90). -/
def bytesOf_ (q : Req) (y : LaneReq) : Nat × Nat := (y.pa, (accRange q.op q.m y.addr (idxOf q.op y)).2.1)

/-- An access as the checks at issue leave it (R132, R135): in module memory, aligned, its element inside its sector. -/
def Sound (q : Req) (y : LaneReq) : Prop :=
  let w := q.m.b.toNat % 64
  let i := idxOf q.op y
  isPeer y.pa = false ∧
    if q.op = 0x9E ∨ q.op = 0x9F then
      2 ≤ w ∧ w ≤ 32 ∧ i < 1024 / w ∧ y.addr % 128 = 0 ∧ y.pa % 128 = i * w / 8
    else y.pa % mSize q.op q.m = 0

/-- R235, R327, R330, R333, R131: a load of any type or an element load, of any number of lanes, from a SHARED region returns: every
checked lane of the destination holds what is at its address; where one meets poison, the request is kept, and the fault is deferred
(R344). -/
def SharedLoads : Prop :=
  ∀ (s : State) (g : Group) (b : Block) (t : Task) (q : Req), Held s g b t q →
    (q.kind = .ld ∧ (q.op = 0x98 ∨ q.op = 0x99) ∨ q.kind = .ldw ∧ q.op = 0x9E) → s.canLoad g b q = true →
    (∀ y ∈ q.lanes, Sound q y ∧ t.modeOf y.reg = some .shared) →
    let bad := q.lanes.filter fun y => s.homeBad (bytesOf_ q y).1 (bytesOf_ q y).2
    ∃ s', exec (.loadDataReturn g.uid q.seq) s = .next s' ∧ HomeKeeps s s' b.part (fun _ => False) ∧
      (bad = [] → Gone s s' g q (result q (loaded q (s.homeRead b.part)))) ∧
      ∀ y l, bad = y :: l → g.live ≠ 0 → ∃ g' f, s'.group? g.uid = some g' ∧ g'.pend = g.pend ∧
        g'.deferred = g.deferred ++ [f] ∧ (∃ r ∈ g'.reqs, r.seq = q.seq ∧ r.st = .poisoned) ∧
        f.cause = cEcc ∧ f.faddr = dw y.addr ∧ f.flane = (if q.uni then q.mask else lanesMask (bad.map (·.lane))) ∧
        f.defer = true ∧ f.fpc = q.pc ∧ f.req = some q.seq

/-- R122, R123, R133, R330, R333, R88: a load by one lane from a region that the L1 caches (RD, WR, RW, CODE, ARGS, STACK) returns what
the L1 has valid and the home where it has not; unless the hint is NA or BYP, the L1 then holds it.  STACK bytes are those that the
block has stored. -/
def CachedLoads : Prop :=
  ∀ (s : State) (g : Group) (b : Block) (t : Task) (q : Req) (y : LaneReq) (mode : RMode), Held s g b t q →
    (q.kind = .ld ∧ (q.op = 0x98 ∨ q.op = 0x99) ∨ q.kind = .ldw ∧ q.op = 0x9E) → s.canLoad g b q = true → q.sys = false →
    q.lanes = [y] → Sound q y → t.modeOf y.reg = some mode → mode ≠ .shared → mode ≠ .reduce →
    let c := s.l1Core b.part b.ctx b.core y.pa
    let r := accRange q.op q.m y.addr (idxOf q.op y)
    (mode = .stack → ∀ i < r.2.1, r.1 + i ∈ b.stk) → s.homeBad (y.pa / 128 * 128) 128 = false →
    (∀ z, s.sector? b.part c y.pa = some z → z.bad = 0) →
    ∃ s', exec (.loadDataReturn g.uid q.seq) s = .next s' ∧
      Gone s s' g q (result q (loaded q fun a n => (List.range n).map fun i => seen s b.part c (a + i))) ∧
      MemoryKeeps s s' b.part [y.pa] (fun _ => False) ∧
      (q.m.hnt ≠ 1 → q.m.hnt ≠ 2 → ∃ z ∈ (s'.core c).l1, z.part = b.part ∧ z.pa = y.pa / 128 * 128 ∧
        ∀ i < r.2.1, bm z.valid (y.pa % 128 + i) = true)

/-- R327, R330, R333. -/
def LoadsReturn : Prop := SharedLoads ∧ CachedLoads

/-- The byte of a store's lane at physical address `a`, where it stores there (R331). -/
def storedByte (n : Nat) (a : Nat) (old : Byte) (y : LaneReq) : Byte :=
  if y.pa ≤ a ∧ a < y.pa + n then (bytesOf n y.x.toNat).getD (a - y.pa) 0 else old

/-- R100, R142, R235, R331: a store of any size, by any number of lanes, to a SHARED region is performed: its bytes stand at
the home, of lanes that write one byte those of the last, and nothing else there changes; a release at the scope sys has them in
memory (R140). -/
def SharedStores : Prop :=
  ∀ (s : State) (g : Group) (b : Block) (t : Task) (q : Req), Held s g b t q →
    q.kind = .st → (q.op = 0x9A ∨ q.op = 0x9B) → s.canStore g b t q = true →
    (∀ y ∈ q.lanes, Sound q y ∧ t.modeOf y.reg = some .shared) →
    let n := mSize q.op q.m
    let stored (a : Nat) : Prop := ∃ y ∈ q.lanes, y.pa ≤ a ∧ a < y.pa + n
    ∃ s', exec (.accessPerformed g.uid q.seq) s = .next s' ∧ Gone s s' g q [] ∧ HomeKeeps s s' b.part stored ∧
      (∀ a, stored a → s'.homeByte b.part a = q.lanes.foldl (storedByte n a) (s.homeByte b.part a)) ∧
      (q.sys = true → ∀ a, stored a → cellGet a s'.mem = s'.homeByte b.part a)

/-- The sector, read as one 1,024-bit integer, after an `stw` of element `i` of width `w` (R131, R132): the element has the low bits
of the datum, the trailing bits are zero, every other bit is as it was. -/
def afterStw (w i x old new : Nat) : Prop :=
  ∀ j < 1024, new.testBit j =
    if i * w ≤ j ∧ j < i * w + w then x.testBit (j - i * w) else if 1024 / w * w ≤ j then false else old.testBit j

/-- R132, R334: `stw` to a SHARED region, lane after lane: what each leaves of its sector is what the next finds there. -/
def SharedElementStores : Prop :=
  ∀ (s : State) (g : Group) (b : Block) (t : Task) (q : Req), Held s g b t q →
    q.kind = .stw → q.op = 0x9F → s.canStore g b t q = true →
    (∀ y ∈ q.lanes, Sound q y ∧ t.modeOf y.reg = some .shared) →
    ∃ s', exec (.accessPerformed g.uid q.seq) s = .next s' ∧ Gone s s' g q [] ∧
      HomeKeeps s s' b.part (fun a => ∃ y ∈ q.lanes, y.pa / 128 = a / 128) ∧
      ∀ sec, sec % 128 = 0 → (∃ y ∈ q.lanes, y.pa / 128 * 128 = sec) →
        let l := q.lanes.filter fun y => y.pa / 128 * 128 == sec
        ∃ v : Nat → Nat, v 0 = leOf (s.homeRead b.part sec 128) ∧ v l.length = leOf (s'.homeRead b.part sec 128) ∧
          ∀ k y, l[k]? = some y → afterStw (q.m.b.toNat % 64) y.y.toNat y.x.toNat (v k) (v (k + 1))

/-- R122, R123, R133, R331, R334, R88: a store or an element store by one lane to a region that the L1 caches: the core then finds
its bytes, or its element, in the L1 where that keeps the sector, and at the home; a sector that the L1 has written them into is
dirty there; under NA and BYP a miss, and under BYP an unwritten sector, is written through to the home.  Nothing else changes
but what is displaced, and a STACK byte is stored from then on. -/
def CachedStores : Prop :=
  ∀ (s : State) (g : Group) (b : Block) (t : Task) (q : Req) (y : LaneReq) (mode : RMode), Held s g b t q →
    (q.kind = .st ∧ (q.op = 0x9A ∨ q.op = 0x9B) ∨ q.kind = .stw ∧ q.op = 0x9F) → s.canStore g b t q = true → q.sys = false →
    q.lanes = [y] → Sound q y → t.modeOf y.reg = some mode → mode ≠ .shared → mode ≠ .reduce →
    let c := s.l1Core b.part b.ctx b.core y.pa
    (∀ z ∈ (s.core c).l1, z.pa % 128 = 0) →
    let r := accRange q.op q.m y.addr (idxOf q.op y)
    let n := r.2.1
    let sec := y.pa / 128 * 128
    let hit := s.sector? b.part c y.pa
    let through := q.m.hnt = 1 ∧ hit = none ∨ q.m.hnt = 2 ∧ ∀ z, hit = some z → z.dirty = 0
    let stored (a : Nat) : Prop := if q.kind = .st then y.pa ≤ a ∧ a < y.pa + n else a / 128 = y.pa / 128
    let bytes (s : State) : List Byte := (List.range 128).map fun i => seen s b.part c (sec + i)
    ∃ s', exec (.accessPerformed g.uid q.seq) s = .next s' ∧ Gone s s' g q [] ∧ MemoryKeeps s s' b.part [y.pa] stored ∧
      (q.kind = .st → ∀ i < n, seen s' b.part c (y.pa + i) = (bytesOf n y.x.toNat).getD i 0) ∧
      (q.kind = .stw → afterStw (q.m.b.toNat % 64) y.y.toNat y.x.toNat (leOf (bytes s)) (leOf (bytes s'))) ∧
      (through → ∀ i < n, s'.homeByte b.part (y.pa + i) = seen s' b.part c (y.pa + i)) ∧
      (¬ through → ∃ z ∈ (s'.core c).l1, z.part = b.part ∧ z.pa = sec ∧ ∀ i < n, bm z.dirty (y.pa % 128 + i) = true) ∧
      (mode = .stack → ∀ i < n, ∃ b', s'.block? b.uid = some b' ∧ r.1 + i ∈ b'.stk)

/-- The new value of R335 from the old one, the operand and, of CAS, the second operand. -/
def atomNew (op ty : Nat) (x y z : Dword) : Dword :=
  let n := if ty = 3 ∨ ty = 7 ∨ ty = 9 ∨ ty = 13 then 64 else 32
  let sgn := ty = 2 ∨ ty = 3
  let i : LaneIn := { a := x, b := y, c := 0, d := 0 }
  let F := if ty = 13 then f64 else f32
  if op = 6 then y
  else if op = 7 then (if x = y then z else x)
  else if ty = 12 ∨ ty = 13 then
    (if op = 0 then fadd F i rne else fminmax F (op == 1) x y).x
  else match op with
    | 0 => trunc n (x + y)
    | 1 => if valOf sgn n y < valOf sgn n x then y else x
    | 2 => if valOf sgn n x < valOf sgn n y then y else x
    | 3 => x &&& y
    | 4 => x ||| y
    | _ => x ^^^ y

/-- R335 to R338, R148: `atom` and `red` of any number of lanes: at each location the lanes that address it apply one after another in
ascending order, each to what the ones below it have left; `atom` returns to each lane the value it found.  No lane meets poison
(log 76). -/
def AtomicsApply : Prop :=
  ∀ (s : State) (g : Group) (b : Block) (t : Task) (q : Req), Held s g b t q →
    (q.kind = .atom ∧ (q.op = 0xA0 ∧ q.uni = false ∨ q.op = 0xA1 ∧ q.lanes.length = 1) ∧ s.canLoad g b q = true ∨
      q.kind = .red ∧ q.op = 0xA2 ∧ s.canStore g b t q = true) →
    mTy q.m.b ∈ [2, 3, 6, 7, 8, 9, 12, 13] → q.m.b.toNat / 16 ≤ 7 → (q.lanes.map (·.lane)).Nodup →
    let n := mSize q.op q.m
    (∀ y ∈ q.lanes, Sound q y ∧ t.modeOf y.reg = some .shared ∧ s.homeBad y.pa n = false) →
    let step (x : Dword) (y : LaneReq) : Dword := trunc (8 * n) (atomNew (q.m.b.toNat / 16) (mTy q.m.b) x y.x y.y)
    let left (l : List LaneReq) (pa : Nat) : Dword := (l.filter fun y => y.pa == pa).foldl step (dw (leOf (s.homeRead b.part pa n)))
    ∃ s', exec (if q.kind = .red then .accessPerformed g.uid q.seq else .loadDataReturn g.uid q.seq) s = .next s' ∧
      HomeKeeps s s' b.part (fun a => ∃ y ∈ q.lanes, y.pa ≤ a ∧ a < y.pa + n) ∧
      (∀ y ∈ q.lanes, leOf (s'.homeRead b.part y.pa n) = (left q.lanes y.pa).toNat) ∧
      Gone s s' g q (if q.kind = .red then [] else result q fun y => left (q.lanes.takeWhile (· != y)) y.pa)

/-- R108, R206, R339: `redo`: at each element's partial, the lane tree over the data of the lanes that address it, the identity for the
others, is combined into what the partial held, once. -/
def PartialsTakeTheLanes : Prop :=
  ∀ (s : State) (g : Group) (b : Block) (t : Task) (q : Req) (i : Nat) (r : Region), Held s g b t q →
    q.kind = .redo → q.op = 0xA3 → s.canStore g b t q = true → t.part = b.part → t.regions[i]? = some r →
    (∀ y ∈ q.lanes, Sound q y ∧ y.reg = i ∧ t.modeOf y.reg = some .reduce ∧ ∀ z ∈ q.lanes, y.addr = z.addr ↔ y.pa = z.pa) →
    let n := mSize q.op q.m
    let ty := mTy q.m.b
    n = 4 ∨ n = 8 →
    ∃ s', exec (.accessPerformed g.uid q.seq) s = .next s' ∧ Gone s s' g q [] ∧
      HomeKeeps s s' b.part (fun a => ∃ y ∈ q.lanes, y.pa ≤ a ∧ a < y.pa + n) ∧
      ∀ y ∈ q.lanes,
        let data (L : Nat) : LaneOut := { x := trunc (tyN ty) (match q.lanes.find? fun z => z.pa == y.pa && z.lane == L with
          | some z => z.x
          | none => redIdent r.op ty) }
        leOf (s'.homeRead b.part y.pa n) = (trunc (8 * n) (redOp r.op ty (dw (leOf (s.homeRead b.part y.pa n)))
          (laneTotal (redNode r.op ty) ((List.range 96).map data)).x).x).toNat

end Sys2Proof.Claims

/-- R88, R122, R123, R131, R133, R235, R327, R330, R333, R344: loads performed, of every type and of elements: from SHARED regions by
any number of lanes, from those that the L1 caches by one lane. -/
def Obligations.LoadsReturn : Prop := Claims.LoadsReturn

/-- R88, R100, R108, R122, R123, R131 to R133, R142, R235, R331, R334 to R339: stores, element stores, atomics and reductions performed, in every
mode that permits them. -/
def Obligations.StoresAndAtomicsPerformed : Prop :=
  Claims.SharedStores ∧ Claims.SharedElementStores ∧ Claims.CachedStores ∧ Claims.AtomicsApply ∧ Claims.PartialsTakeTheLanes

/-! ### Engine, barrier, distributor and spawn instructions -/

/-- R351 to R353.  Constructor: cpy.  With room in the queue, a good descriptor, its scratchpad side inside the block, its
global side in one region whose mode allows it, no page that forbids it, and every page's home reached, the copy is queued, and stands in its group's
order of accesses (R150). -/
def Sys2Proof.Claims.CopyQueues : Prop :=
  ∀ (s : State) (g : Group) (x : Split) (h : Head) (e : EArgs) (b : Block) (t : Task) (d : CDesc) (i : Nat) (mode : RMode),
    let k := s.core g.core
    let rows := rowList (rowMask d.sRanges) b.scrSize
    Runs s g x ⟨0xB0, h, .e e⟩ → s.block? g.block = some b → s.taskOf g = some t → s.cqLen g.core < 16 →
    CDesc.of ((g.viewAt s.now).quad e.s.toNat) = some d → rangeEnd d.sRanges ≤ b.scrSize →
    0 ≤ d.gSpan.1 → d.gSpan.2 < (2 : Int) ^ 57 → t.match_ d.gSpan.1.toNat d.gSpan.2.toNat none = some (i, mode) →
    (if d.dir then Acc.cpyWrite else Acc.cpyRead).allowed mode = true →
    (t.hdr.det = false ∨ mode ≠ .shared ∨ t.run.commit = b.blkid) → s.copyForbidden b d = false → s.copyCut b d = false →
      exec (.cpy h e) s = .next (s.done g x ⟨0xB0, h, .e e⟩
        ((({ s with uid := s.uid + 1 } : State).putCore g.core { k with cq := k.cq ++
          [{ uid := s.uid, block := b.uid, group := g.uid, desc := d, hnt := e.ext.toNat % 4, shared := mode == .shared,
             row := 0, byte := 0, ready := s.now + 4, rows := rows, wrows := if d.dir then [] else rows, pc := x.pc,
             mask := x.mask, paused := none, queued := s.now, inv := g.handler.map (·.inv) }] }).putGroup
          { g with reqs := g.reqs ++ [{ mkReq g x s 0xB0 Head.plain MArgs.zero .cpy
              [{ LaneReq.ref 0 d.gSpan.1.toNat with x := ofI (d.gSpan.2 - d.gSpan.1 + 1), reg := i }] d.dir 0 with
            gen := s.uid, det := t.hdr.det }] })
        (some (s.now + 1)))

/-- R356 to R358.  Constructors: mloop, mloopg, mout, mzero.  With room in the queue, the token held, the slots BOUND, a
good descriptor and its bytes inside the scratchpad, the operation is queued; `mloopg` takes its row indices from lanes 0 to 31
of its register. -/
def Sys2Proof.Claims.MatrixOperationsQueue : Prop :=
  ∀ (s : State) (g : Group) (x : Split) (h : Head) (e : EArgs) (b : Block) (A B : Fmt) (d : MDesc) (rm : Nat),
    s.block? g.block = some b → b.token = some g.gindex → s.mqLen g.core < 32 →
    let v := g.viewAt s.now
    let kA := e.b.toNat % 8
    let kB := e.b.toNat / 16 % 8
    let noted := (s.noteSlot g kA).noteSlot g kB
    let loop (op : BitVec 8) (i : Instr) (gs : List Nat) : Prop :=
      Runs s g x ⟨op, h, .e e⟩ → s.slotsOf g [kA, kB] = .ok [A, B] → max A.precision B.precision < 25 →
      MDesc.of (v.quad e.s.toNat) A.width B.width = some d →
      rangeEnd (d.stepBytes gs A.width B.width (d.nstep - 1)) ≤ b.scrSize →
        exec i s = .next (s.done g x ⟨op, h, .e e⟩
          (noted.queueM g b e.d.toNat (.loop d gs kA kB) (rowList (d.rows gs A.width B.width) b.scrSize) [])
          (some (s.now + 1)))
    loop 0xB1 (.mloop h e) (List.range 32) ∧
    loop 0xB2 (.mloopg h e) ((List.range 32).map fun L => (v.lane 32 e.c.toNat L).toNat) ∧
    (let w := (v.rs e.s.toNat).toNat
     let base := fld w 0 24
     let stride := fld w 32 16
     let ranges := (List.range 32).map fun i => (base + i * stride, 4 * A.width)
     let rows := rowList (rowMask ranges) b.scrSize
     Runs s g x ⟨0xB3, h, .e e⟩ → s.slotsOf g [kA] = .ok [A] → fld w 24 8 = 0 → fld w 48 16 = 0 →
     4 * A.width ≤ stride → e.b.toNat / 16 < 6 → A.mode (e.b.toNat / 16) v.frm.toNat = some rm → rangeEnd ranges ≤ b.scrSize →
       exec (.mout h e) s = .next (s.done g x ⟨0xB3, h, .e e⟩
         ((s.noteSlot g kA).queueM g b e.d.toNat (.out base stride kA rm) rows rows) (some (s.now + 1)))) ∧
    (Runs s g x ⟨0xB4, h, .e e⟩ →
      exec (.mzero h e) s = .next (s.done g x ⟨0xB4, h, .e e⟩ (s.queueM g b e.d.toNat .zero [] []) (some (s.now + 1))))

/-- R186, R353: a full queue of the core keeps an operation from issuing. -/
def Sys2Proof.Claims.FullQueuesHold : Prop :=
  ∀ (s : State) (g : Group) (x : Split) (h : Head) (e : EArgs) (b : Block) (t : Task),
    let stays : Host.Outcome State Fault Refusal := .next { s with stall := true }
    s.block? g.block = some b → s.taskOf g = some t →
    (16 ≤ s.cqLen g.core → Runs s g x ⟨0xB0, h, .e e⟩ → exec (.cpy h e) s = stays) ∧
    (32 ≤ s.mqLen g.core →
      (Runs s g x ⟨0xB1, h, .e e⟩ → exec (.mloop h e) s = stays) ∧
      (Runs s g x ⟨0xB2, h, .e e⟩ → exec (.mloopg h e) s = stays) ∧
      (Runs s g x ⟨0xB3, h, .e e⟩ → exec (.mout h e) s = stays) ∧
      (Runs s g x ⟨0xB4, h, .e e⟩ → exec (.mzero h e) s = stays))

/-- R351 to R353, R356 to R358.  Constructors: cpy, mloop, mloopg, mout, mzero. -/
def Obligations.EngineOperationsQueue : Prop :=
  Claims.CopyQueues ∧ Claims.MatrixOperationsQueue ∧ Claims.FullQueuesHold

/-- R185, R188, R350, R360: a matrix instruction, `mbat` or `mrel` of a group that does not hold the token raises
ENGINE_CONFLICT; so do `mrel` with an operation in no batch, `mwait` of a batch not yet formed, and `macq` of the holder. -/
def Sys2Proof.Claims.EngineConflictFaults : Prop :=
  ∀ (s : State) (g : Group) (x : Split) (h : Head) (e : EArgs) (a : XArgs) (b : Block) (A B : Fmt),
    let fault : Host.Outcome State Fault Refusal := .next (s.takeFault g (preciseFault s x cEngine 0 x.mask))
    let kA := e.b.toNat % 8
    s.block? g.block = some b →
    (b.token ≠ some g.gindex →
      (s.mqLen g.core < 32 →
        (s.slotsOf g [kA, e.b.toNat / 16 % 8] = .ok [A, B] →
          (Runs s g x ⟨0xB1, h, .e e⟩ → exec (.mloop h e) s = fault) ∧
          (Runs s g x ⟨0xB2, h, .e e⟩ → exec (.mloopg h e) s = fault)) ∧
        (s.slotsOf g [kA] = .ok [A] → Runs s g x ⟨0xB3, h, .e e⟩ → exec (.mout h e) s = fault) ∧
        (Runs s g x ⟨0xB4, h, .e e⟩ → exec (.mzero h e) s = fault)) ∧
      (Runs s g x ⟨0xB5, h, .x a⟩ → exec (.mbat h a) s = fault) ∧
      (Runs s g x ⟨0xB8, h, .x a⟩ → exec (.mrel h a) s = fault)) ∧
    (g.gindex ∈ b.unb → Runs s g x ⟨0xB8, h, .x a⟩ → exec (.mrel h a) s = fault) ∧
    (b.batch < ((g.viewAt s.now).rs a.a.toNat).toNat → Runs s g x ⟨0xB6, h, .x a⟩ → exec (.mwait h a) s = fault) ∧
    (b.token = some g.gindex → Runs s g x ⟨0xB7, h, .x a⟩ → exec (.macq h a) s = fault)

/-- R139, R178, R179, R182, R352, R353, R357, R495: the further faults of `cpy`, `mloop`, `mloopg` and `mout`, in the order of
R350. -/
def Sys2Proof.Claims.CopyAndMatrixFaults : Prop :=
  ∀ (s : State) (g : Group) (x : Split) (h : Head) (e : EArgs) (b : Block) (t : Task),
    s.block? g.block = some b → s.taskOf g = some t →
    let v := g.viewAt s.now
    let fault (c : BitVec 8) (a : Dword) : Host.Outcome State Fault Refusal := .next (s.takeFault g (preciseFault s x c a x.mask))
    (Runs s g x ⟨0xB0, h, .e e⟩ → s.cqLen g.core < 16 →
      ∀ d, CDesc.of (v.quad e.s.toNat) = some d →
        let lo := d.gSpan.1
        let match_ := if 0 ≤ lo ∧ d.gSpan.2 < (2 : Int) ^ 57 then t.match_ lo.toNat d.gSpan.2.toNat none else none
        (b.scrSize < rangeEnd d.sRanges → exec (.cpy h e) s = fault cScratch (ofI lo)) ∧
        (rangeEnd d.sRanges ≤ b.scrSize →
          (match_ = none → exec (.cpy h e) s = fault cUndeclared (ofI lo)) ∧
          ∀ i mode, match_ = some (i, mode) →
            let ok := (if d.dir then Acc.cpyWrite else Acc.cpyRead).allowed mode
            let det := t.hdr.det = true ∧ mode = .shared ∧ t.run.commit ≠ b.blkid
            (ok = false → exec (.cpy h e) s = fault cMode (ofI lo)) ∧
            (ok = true → det → exec (.cpy h e) s = fault cDet (ofI lo)) ∧
            (ok = true → ¬ det → s.copyForbidden b d = true → exec (.cpy h e) s = fault cProt (ofI lo)) ∧
            (ok = true → ¬ det → s.copyForbidden b d = false → s.copyCut b d = true →
              exec (.cpy h e) s = fault cLink (ofI lo)))) ∧
    (∀ A B, s.mqLen g.core < 32 → b.token = some g.gindex →
      let kA := e.b.toNat % 8
      let loop (op : BitVec 8) (i : Instr) (gs : List Nat) : Prop :=
        Runs s g x ⟨op, h, .e e⟩ → s.slotsOf g [kA, e.b.toNat / 16 % 8] = .ok [A, B] →
          ((25 ≤ max A.precision B.precision ∨ MDesc.of (v.quad e.s.toNat) A.width B.width = none) →
            exec i s = fault cReserved 0) ∧
          ∀ d, max A.precision B.precision < 25 → MDesc.of (v.quad e.s.toNat) A.width B.width = some d →
            b.scrSize < rangeEnd (d.stepBytes gs A.width B.width (d.nstep - 1)) → exec i s = fault cScratch 0
      loop 0xB1 (.mloop h e) (List.range 32) ∧
      loop 0xB2 (.mloopg h e) ((List.range 32).map fun L => (v.lane 32 e.c.toNat L).toNat) ∧
      (let w := (v.rs e.s.toNat).toNat
       let bad := 6 ≤ e.b.toNat / 16 ∨ fld w 24 8 ≠ 0 ∨ fld w 48 16 ≠ 0 ∨ fld w 32 16 < 4 * A.width ∨
         A.mode (e.b.toNat / 16) v.frm.toNat = none
       Runs s g x ⟨0xB3, h, .e e⟩ → s.slotsOf g [kA] = .ok [A] →
         (bad → exec (.mout h e) s = fault cReserved 0) ∧
         (¬ bad → b.scrSize < rangeEnd ((List.range 32).map fun i => (fld w 0 24 + i * fld w 32 16, 4 * A.width)) →
           exec (.mout h e) s = fault cScratch 0)))

/-- R182, R191, R361: `ownq` past the scratchpad raises SCRATCH_RANGE, and a first `work` without tiles or iterations
RESERVED_FIELD. -/
def Sys2Proof.Claims.RangeAndWorkFaults : Prop :=
  ∀ (s : State) (g : Group) (x : Split) (h : Head) (e : EArgs) (a : XArgs) (b : Block) (t : Task),
    let v := g.viewAt s.now
    let n := (v.rs e.s.toNat).toNat
    let fault (c : BitVec 8) : Host.Outcome State Fault Refusal := .next (s.takeFault g (preciseFault s x c 0 x.mask))
    s.block? g.block = some b → s.taskOf g = some t →
    (Runs s g x ⟨0xB9, h, .x a⟩ → b.scrSize < (v.rs a.a.toNat).toNat + a.imm.toNat → exec (.ownq h a) s = fault cScratch) ∧
    (Runs s g x ⟨0xC0, h, .e e⟩ → b.work = none → (fld n 0 32 = 0 ∨ fld n 32 32 = 0) → exec (.work h e) s = fault cReserved)

/-- R188, R359 to R361.  Constructors: mbat, mwait, macq, mrel, ownq. -/
def Obligations.BatchesTokenAndOwnership : Prop :=
  ∀ (s : State) (g : Group) (x : Split) (h : Head) (a : XArgs) (b : Block),
    s.block? g.block = some b →
    let v := g.viewAt s.now
    let k := s.core g.core
    let w (op : BitVec 8) : Slot := ⟨op, h, .x a⟩
    let m := (v.rs a.a.toNat).toNat
    (Runs s g x (w 0xB5) → b.token = some g.gindex →
      exec (.mbat h a) s = .next (s.done g x (w 0xB5)
        ((((s.putCore g.core { k with mq := k.mq.map fun o =>
            if o.block == b.uid && o.batch == 0 then { o with batch := b.batch + 1 } else o }).putBlock
          { b with batch := b.batch + 1, unb := [] }).putGroup (g.uni s.now 2 a.d.toNat (dw (b.batch + 1)) 0)))
        (some (s.now + 2)))) ∧
    (Runs s g x (w 0xB6) → m ≤ b.batch →
      (∀ o ∈ (s.core b.core).mq, o.block = b.uid → o.batch = 0 ∨ m < o.batch) →
      exec (.mwait h a) s = .next (s.done g x (w 0xB6) s (some (s.now + 1)))) ∧
    (Runs s g x (w 0xB6) → m ≤ b.batch → (∃ o ∈ (s.core b.core).mq, o.block = b.uid ∧ o.batch ≠ 0 ∧ o.batch ≤ m) →
      exec (.mwait h a) s = .next { s with stall := true }) ∧
    (Runs s g x (w 0xB7) → b.token = none →
      exec (.macq h a) s = .next (s.done g x (w 0xB7) (s.putBlock { b with token := some g.gindex }) (some (s.now + 1)))) ∧
    (∀ j, Runs s g x (w 0xB7) → b.token = some j → j ≠ g.gindex →
      exec (.macq h a) s = .next (s.done g x (w 0xB7)
        ((s.putBlock { b with tokWait := b.tokWait ++ [g.gindex] }).putGroup { g with wait := .token }) (some (s.now + 1)))) ∧
    (Runs s g x (w 0xB8) → b.token = some g.gindex → g.gindex ∉ b.unb →
      exec (.mrel h a) s = .next (s.done g x (w 0xB8) (s.passToken b) (some (s.now + 1)))) ∧
    (Runs s g x (w 0xB9) → m + a.imm.toNat ≤ b.scrSize →
      exec (.ownq h a) s = .next (s.doneBy g x (w 0xB9)
        (g.uni s.now 2 a.d.toNat (if (rowsOf m a.imm.toNat).any (s.engineRow b) then 1 else 0) 0) (s.now + 2)))

/-- R362, R363.  Constructors: bari, bara, barx, barw.  For a split that is the whole live mask, or the handler's: `bari` sets PMASK to the mask
without retired groups and clears the last arrivals; `bara` and `barx` change AMASK and PMASK, then test the phase; `barw`
issues once the phase has advanced and the arrivals' earlier accesses are performed. -/
def Sys2Proof.Claims.BarrierObjects : Prop :=
  ∀ (s : State) (g : Group) (x : Split) (h : Head) (a : XArgs) (b : Block) (t : Task),
    s.block? g.block = some b → s.taskOf g = some t → (g.inHandler = true ∨ x.mask = g.live) →
    let n := a.imm.toNat % 16
    let o := b.bar n
    let w (op : BitVec 8) : Slot := ⟨op, h, .x a⟩
    (let mask : BitVec 8 := a.imm.extractLsb' 8 8
     let live := (s.liveGroups b.uid).foldl (fun m y => m ||| y.bit) (0 : BitVec 8)
     Runs s g x (w 0xBA) → o.amask = 0 →
       exec (.bari h a) s = .next (s.done g x (w 0xBA)
         ((s.putBlock (b.putBar n { o with pmask := mask &&& live })).clearLast b.uid n) (some (s.now + 1)))) ∧
    (Runs s g x (w 0xBB) → o.pmask &&& g.bit ≠ 0 → o.amask &&& g.bit = 0 →
      exec (.bara h a) s = .next (s.done g x (w 0xBB)
        ((s.putBlock (b.putBar n { o with amask := o.amask ||| g.bit })).arrive
          { g with barLast := g.barLast.set n (some o.phase) } n o.phase .bara) (some (s.now + 1)))) ∧
    (Runs s g x (w 0xBC) → o.pmask &&& g.bit ≠ 0 →
      exec (.barx h a) s = .next (s.done g x (w 0xBC)
        ((s.putBlock (b.putBar n { o with pmask := o.pmask &&& ~~~g.bit, amask := o.amask &&& ~~~g.bit })).arrive
          g n o.phase .barx) (some (s.now + 1)))) ∧
    (∀ p, Runs s g x (w 0xBD) → g.barLast.getD n none = some p → o.phase ≠ p → s.arrivalsPassed b n p = true →
      exec (.barw h a) s = .next (s.done g x (w 0xBD) s (some (s.now + 1)))) ∧
    (∀ p, Runs s g x (w 0xBD) → g.barLast.getD n none = some p → o.phase = p →
      exec (.barw h a) s = .next { s with stall := true })

/-- R347, R350, R363 to R365: an arrival of a group that the object does not expect or that has arrived, `bari` while a group
has arrived, `barw` without an arrival, a barrier instruction of a split that is not the whole live mask, and `rbar` in a task
that is not cooperative or while another group of the block waits at another level, raise BARRIER_MISUSE with the object's
number, 16 for `gbar` and 17 + level for `rbar`. -/
def Sys2Proof.Claims.BarrierMisuseFaults : Prop :=
  ∀ (s : State) (g : Group) (x : Split) (h : Head) (a : XArgs) (b : Block) (t : Task),
    s.block? g.block = some b → s.taskOf g = some t →
    let n := a.imm.toNat % 16
    let l := a.imm.toNat % 4
    let part := g.handler = none ∧ x.mask ≠ g.live
    let out := (b.bar n).pmask &&& g.bit = 0
    let fault (n : Nat) : Host.Outcome State Fault Refusal := .next (s.takeFault g (preciseFault s x cBarrier (dw n) x.mask))
    (Runs s g x ⟨0xBA, h, .x a⟩ → (part ∨ (b.bar n).amask ≠ 0) → exec (.bari h a) s = fault n) ∧
    (Runs s g x ⟨0xBB, h, .x a⟩ → (part ∨ out ∨ (b.bar n).amask &&& g.bit ≠ 0) → exec (.bara h a) s = fault n) ∧
    (Runs s g x ⟨0xBC, h, .x a⟩ → (part ∨ out) → exec (.barx h a) s = fault n) ∧
    (Runs s g x ⟨0xBD, h, .x a⟩ → (part ∨ g.barLast.getD n none = none) → exec (.barw h a) s = fault n) ∧
    (Runs s g x ⟨0xBE, h, .x a⟩ → part → exec (.gbar h a) s = fault 16) ∧
    (Runs s g x ⟨0xBF, h, .x a⟩ →
      (part ∨ t.hdr.coop = false ∨ (b.rbarLvl ≠ some l ∧ ∃ y ∈ s.liveGroups b.uid, y.gindex ∈ b.rbar)) →
      exec (.rbar h a) s = fault (17 + l))

/-- R364, R365.  Constructors: gbar, rbar.  The group has arrived and waits; the barrier is tested. -/
def Sys2Proof.Claims.GroupAndRectangleBarriers : Prop :=
  ∀ (s : State) (g : Group) (x : Split) (h : Head) (a : XArgs) (b : Block) (t : Task),
    s.block? g.block = some b → s.taskOf g = some t → (g.inHandler = true ∨ x.mask = g.live) →
    let l := a.imm.toNat % 4
    (Runs s g x ⟨0xBE, h, .x a⟩ →
      exec (.gbar h a) s = .next (s.done g x ⟨0xBE, h, .x a⟩
        (((s.putBlock { b with gbar := b.gbar ++ [g.gindex] }).putGroup { g with wait := .gbar }).gbarTest b.uid)
        (some (s.now + 1)))) ∧
    (Runs s g x ⟨0xBF, h, .x a⟩ → t.hdr.coop = true →
      ((∀ y ∈ s.liveGroups b.uid, y.gindex ∉ b.rbar) ∨ b.rbarLvl = some l) →
      exec (.rbar h a) s = .next (s.done g x ⟨0xBF, h, .x a⟩
        (((s.putBlock { b with rbar := b.rbar ++ [g.gindex], rbarLvl := some l }).putGroup
          { g with wait := .rbar l }).rbarTest b.uid) (some (s.now + 1))))

/-- R362 to R365.  Constructors: bari, bara, barx, barw, gbar, rbar. -/
def Obligations.BlockBarriers : Prop :=
  Claims.BarrierObjects ∧ Claims.GroupAndRectangleBarriers

/-- R191, R367.  Constructor: work.  The first `work` of a block takes its share of the iterations, the later ones go on from
its cursor: tile, first and last iteration, and flags go to four registers; the cursor moves past the piece. -/
def Sys2Proof.Claims.WorkGivesTheNextPiece : Prop :=
  ∀ (s : State) (g : Group) (x : Split) (h : Head) (e : EArgs) (b : Block) (t : Task) (c : Cursor),
    s.block? g.block = some b → s.taskOf g = some t →
    let n := ((g.viewAt s.now).rs e.s.toNat).toNat
    let tiles := fld n 0 32
    let iters := fld n 32 32
    let total := tiles * iters
    let first : Cursor := { ntile := tiles, kiter := iters, pos := b.blkid * total / t.hdr.nblk,
                            stop := (b.blkid + 1) * total / t.hdr.nblk }
    (b.work = some c ∨ b.work = none ∧ tiles ≠ 0 ∧ iters ≠ 0 ∧ c = first) → Runs s g x ⟨0xC0, h, .e e⟩ →
      let beg := c.pos % c.kiter
      let fin := min c.kiter (beg + c.stop - c.pos)
      let r : Nat × Nat × Nat × Nat := if c.pos = c.stop then (0, 0, 0, 2)
        else (c.pos / c.kiter, beg, fin, if beg = 0 ∧ fin = c.kiter then 0 else 1)
      let c' : Cursor := if c.pos = c.stop then c else { c with pos := c.pos + (fin - beg) }
      let d := e.d.toNat
      let put (g : Group) (k v : Nat) : Group := g.push (s.now + 2) g.seq (g.ws (d + k) (dw v))
      exec (.work h e) s = .next (s.done g x ⟨0xC0, h, .e e⟩
        ((s.putBlock { b with work := some c' }).putGroup
          (put (put (put (put g 0 r.1) 1 r.2.1) 2 r.2.2.1) 3 r.2.2.2)) (some (s.now + 2)))

/-- R350, R368.  Constructor: spawn.  With room in the device queue and the checks of the image read passed, the read is on
its way, in the order of issue; a full device queue keeps the instruction from issuing; a check that fails is taken as a fault, but a
missing translation makes a packet (R137). -/
def Sys2Proof.Claims.SpawnReadsItsImage : Prop :=
  ∀ (s : State) (g : Group) (x : Split) (h : Head) (e : EArgs) (b : Block) (t : Task) (l : List LaneReq),
    s.block? g.block = some b → s.taskOf g = some t →
    let n := e.ext.toNat % 16
    let room := ∀ q, s.spawnQueue b n = some q → q.tail - q.head + (s.spawnsOut b n).length < q.slots
    let m : MArgs := { MArgs.zero with x := e.s, b := BitVec.ofNat 8 n, xk := .unif }
    let addr := ((g.viewAt s.now).rs e.s.toNat).toNat
    Runs s g x ⟨0xC1, h, .e e⟩ →
      (room → s.spawnCheck b t false addr = .ok l →
        exec (.spawn h e) s = .next (s.done g x ⟨0xC1, h, .e e⟩
          (({ s with uid := s.uid + 1 } : State).putGroup { g with reqs := g.reqs ++
            [{ mkReq g x s 0xC1 h m .spawn l true x.mask with gen := s.uid, det := t.hdr.det }] }) none)) ∧
      (¬ room → exec (.spawn h e) s = .next { s with stall := true }) ∧
      (∀ c f, room → s.spawnCheck b t false addr = .error (c, f) → c ≠ cXlat →
        exec (.spawn h e) s = .next (s.takeFault g (preciseFault s x c (dw f) x.mask))) ∧
      (∀ f, room → s.spawnCheck b t false addr = .error (cXlat, f) →
        let s1 := s.issued g.uid 0xC1 h (.e e) none
        exec (.spawn h e) s = .next (s1.packet ((s1.group? g.uid).getD g)
          { mkReq g x s 0xC1 h m .spawn
              [{ lane := 0, addr := addr, reg := ((t.match_ addr (addr + 767) none).map (·.1)).getD 0 }] true x.mask with
            gen := s.uid, det := t.hdr.det, cond := (g.viewAt s.now).guard h.gp, target := nxTarget (g.viewAt s.now) x.pc h,
            went := false } f x.mask))

/-- R191, R367, R368.  Constructors: work, spawn. -/
def Obligations.WorkAndSpawn : Prop :=
  Claims.WorkGivesTheNextPiece ∧ Claims.SpawnReadsItsImage

/-! ### Control and system instructions -/

/-- R376 to R378.  Constructors: brl, lcset, yield, sleep.  `brl` transfers on its condition by its long displacement; `lcset`
sets the executing split's LC before its own NX acts; `yield` gives the Hold bit to the next split; `sleep` keeps its group
from issuing for its count of cycles, at least one. -/
def Obligations.TransfersOrderAndSleep : Prop :=
  ∀ (s : State) (g : Group) (x : Split) (h : Head) (a : XArgs),
    let v := g.viewAt s.now
    (Runs s g x ⟨0xD0, h, .x a⟩ →
      exec (.brl h a) s = .next (s.finish g.uid 0xD0 { h with nx := .br } (.x a) x (v.guard (a.a.extractLsb' 0 4))
        ((BitVec.ofNat 57 (bundleAddr x.pc) + a.imm.signExtend 57 * 32).setWidth 64) (some (s.now + 1)))) ∧
    (Runs s g x ⟨0xD1, h, .x a⟩ →
      exec (.lcset h a) s = .next (s.doneBy g x ⟨0xD1, h, .x a⟩
        (g.putExec x.mask { x with lc := if a.imm.getLsbD 23 then (v.rs a.a.toNat).setWidth 32
          else (a.imm.extractLsb' 0 23).setWidth 32 }) (s.now + 1))) ∧
    (Runs s g x ⟨0xD2, h, .x a⟩ →
      exec (.yield h a) s = .next (s.doneBy g x ⟨0xD2, h, .x a⟩ (g.rotate x) (s.now + 1))) ∧
    (Runs s g x ⟨0xD3, h, .x a⟩ →
      exec (.sleep h a) s = .next (s.doneBy g x ⟨0xD3, h, .x a⟩ { g with sleep := s.now + max 1 a.imm.toNat } (s.now + 1)))

/-- R385.  Constructors: trap, bkpt.  Both raise their faults at their own PC with their number in FADDR; under a debugger
`bkpt` freezes its group instead and writes a DEBUG record, whose RANK is the split's in the order of park records that a handler
entry would give (log 43). -/
def Obligations.TrapAndBreakpoint : Prop :=
  ∀ (s : State) (g : Group) (x : Split) (h : Head) (a : XArgs),
    (Runs s g x ⟨0xD4, h, .x a⟩ →
      exec (.trap h a) s = .next (s.takeFault g (preciseFault s x cTrap (a.imm.setWidth 64) x.mask))) ∧
    (Runs s g x ⟨0xD6, h, .x a⟩ → s.debugged g = false →
      exec (.bkpt h a) s = .next (s.takeFault g (preciseFault s x cBreak (a.imm.setWidth 64) x.mask))) ∧
    (Runs s g x ⟨0xD6, h, .x a⟩ → s.debugged g = true →
      exec (.bkpt h a) s = .next ((s.putGroup { g with wait := .debug x.mask s.nextPc }).record
        { s.groupRec g with type := 3, cause := cBreak, rank := g.rankOf x.mask, fpc := x.pc,
                            faddr := a.imm.setWidth 64, flane := x.mask }))

/-- R382: a fault of a group that is not in its handler, in a partition with a handler: every split stays as it is (a fifth active
one, as a transfer whose fetch faults can leave, is parked), one handler split of all 96 lanes starts at the handler's entry with
LC 0 and no flag pending, and the fault registers hold cause, FPC, FADDR, FLANE, DEFER, RANK and TOTAL.  How splits of equal
keys are ranked is log 49, and that the merge test runs before a fifth split is parked log 50. -/
def Obligations.FaultEntersTheHandler : Prop :=
  ∀ (s : State) (g : Group) (b : Block) (p : Part) (entry lo len : Nat) (f : FaultInfo),
    s.block? g.block = some b → s.part? b.part = some p → p.handler = some (entry, lo, len) → g.handler = none →
    s.group? g.uid = some g →
      ∃ g' k, (s.takeFault g f).group? g.uid = some g' ∧ g'.handler = some k ∧
        g'.active = g.parkExtra.active ∧ g'.parked = g.parkExtra.parked ∧
        (g.active.length ≤ 4 → g'.active = g.active ∧ g'.parked = g.parked) ∧ g'.rets = g.rets ∧ g'.flags = g.flags ∧ g'.v = g.v ∧ g'.s = g.s ∧
        g'.a = g.a ∧ g'.p = g.p ∧ g'.live = g.live ∧ g'.pend = g.pend ∧
        k.split.pc = BitVec.ofNat 57 entry ∧ k.split.mask = allLanes ∧ k.split.lc = 0 ∧ k.flags = 0 ∧ k.fault = f ∧
        k.rank = g.parkExtra.rankOf f.mask ∧ k.total = g.parkExtra.records.length ∧ k.saved = g.wait ∧ k.sleep = g.sleep ∧
        k.reg 0x20 = f.cause.setWidth 64 ∧ k.reg 0x21 = f.fpc.setWidth 64 ∧ k.reg 0x22 = f.faddr ∧
        k.reg 0x23 = (f.flane.extractLsb' 0 32).setWidth 64 ∧ k.reg 0x24 = (f.flane.extractLsb' 32 32).setWidth 64 ∧
        k.reg 0x26 = dw (2 ^ 16 * f.defer.toNat + 2 ^ 8 * g.parkExtra.records.length + g.parkExtra.rankOf f.mask) ∧ k.reg 0x25 = (f.flane.extractLsb' 64 32).setWidth 64

/-- R384, R386: a fault in a handler, or of a group without one, ends its task: every block of the task is gone, and the task
goes to its end actions with status FAULT and the cause, unless it had a status. -/
def Obligations.FaultWithoutHandlerAborts : Prop :=
  ∀ (s : State) (g : Group) (b : Block) (t : Task) (f : FaultInfo),
    s.block? g.block = some b → s.task? b.task = some t → t.run.phase = .running → t.run.status = 0 →
    (g.handler ≠ none ∨ ∀ p, s.part? b.part = some p → p.handler = none) →
      (∀ y ∈ (s.takeFault g f).blocks, y.task ≠ t.uid) ∧
      ∃ t', (s.takeFault g f).task? t.uid = some t' ∧ t'.run.phase = .ending ∧ t'.run.status = 1 ∧ t'.run.cause = f.cause

/-- R386.  Constructor: rte.  RETRY and SKIP leave the handler, with the barriers of the block tested again; SKIP of a fault that
kept its request lets that instruction's sequencing go on where the request held it back; ABORT ends the task; then what waited
for the handler's end goes on (log 56). -/
def Sys2Proof.Claims.ReturnFromHandler : Prop :=
  ∀ (s : State) (g : Group) (k : Handler) (h : Head) (a : XArgs),
    g.handler = some k → Runs s g k.split ⟨0xD5, h, .x a⟩ →
    let s1 := s.issued g.uid 0xD5 h (.x a) none
    ∃ g1 k1 s2, s1.group? g.uid = some g1 ∧ g1.handler = some k1 ∧ k1.fault = k.fault ∧ k1.saved = k.saved ∧
      k1.sleep = k.sleep ∧ exec (.rte h a) s = .next ((s2.settleGroup g.uid 1).pickUp g.uid) ∧
      (a.imm = 2 → s2 = s1.abort g1 k1.fault false false) ∧
      (a.imm = 0 → s2 = (s1.putGroup (g1.leave k1 false)).retest g.uid) ∧
      (a.imm = 1 → (∀ n q, k.fault.req = some n → g1.reqs.find? (·.seq == n) ≠ some q) →
        s2 = (s1.putGroup (g1.leave k1 true)).retest g.uid) ∧
      (a.imm = 1 → ∀ n q, k.fault.req = some n → g1.reqs.find? (·.seq == n) = some q →
        s2 = ((s1.putGroup (g1.leave k1 true)).retest g.uid).goOn g.uid q)

/-- R386: what leaving a handler does to a split: a fault with DEFER, one at fetch, and any split but the one that faulted leave it
as it was saved; after a precise fault RETRY puts the one that faulted at FPC (log 55: it stands there already, but for the
packet of an instruction sequenced before), and SKIP at the next PC of FPC. -/
def Sys2Proof.Claims.LeavingRestoresTheSplits : Prop :=
  ∀ (f : FaultInfo) (x : Split) (skip : Bool),
    let y := rteSplit f skip x
    y.mask = x.mask ∧ y.lc = x.lc ∧ y.hold = x.hold ∧
    ((f.defer = true ∨ f.fetch = true ∨ x.mask ≠ f.mask) → y = x) ∧
    (f.defer = false → f.fetch = false → x.mask = f.mask →
      (skip = true → y.pc = f.next ∧ y.hi = 0) ∧
      (skip = false → y.pc = f.fpc ∧ y.hi = 0 ∧ (x.pc = f.fpc → x.hi = 0 → y = x)))

/-- R386: where no split is the one that a precise fault named, since its lanes have merged, divided or exited after its instruction issued
(log 55), its live lanes stand as a split of their own where `rteSplit` would put it; every other split has the lanes it had but
those, at its PC. -/
def Sys2Proof.Claims.LeavingRestartsLostLanes : Prop :=
  ∀ (g : Group) (f : FaultInfo) (skip : Bool),
    let m := f.mask &&& g.live
    let old := g.active ++ g.parked
    let y := g.restart f skip
    f.defer = false → f.fetch = false → (∀ z ∈ old, z.mask ≠ f.mask) → (∃ z ∈ old, z.mask &&& m ≠ 0) →
      (∃ z ∈ y.active ++ y.parked, z.mask = m ∧ z.pc = (if skip then f.next else f.fpc) ∧ z.hi = 0) ∧
      (∀ z ∈ y.active ++ y.parked, z.mask = m ∨ ∃ x ∈ old, z.mask = x.mask &&& ~~~m ∧ z.pc = x.pc ∧ z.lc = x.lc) ∧
      (∀ x ∈ old, x.mask &&& ~~~m ≠ 0 → ∃ z ∈ y.active ++ y.parked, z.mask = x.mask &&& ~~~m ∧ z.pc = x.pc) ∧
      y.reqs = g.reqs ∧ y.v = g.v ∧ y.s = g.s ∧ y.a = g.a ∧ y.p = g.p

/-- R386: what leaving a handler does to the request that an ECC_UNCORRECTABLE fault kept: RETRY reissues it in its place, SKIP
drops it and clears its flag; nothing else of the group's requests changes, no register either, and the group waits as it
did at the entry, but for a `wcnt` whose request is dropped. -/
def Sys2Proof.Claims.LeavingAnswersTheRequest : Prop :=
  ∀ (g : Group) (k : Handler) (skip : Bool),
    let y := g.leave k skip
    y.handler = none ∧ y.v = g.v ∧ y.s = g.s ∧ y.a = g.a ∧ y.p = g.p ∧ y.sleep = k.sleep ∧
    (k.fault.req = none → y.reqs = g.reqs ∧ y.flags = g.flags ∧ y.wait = k.saved) ∧
    ∀ n, k.fault.req = some n → k.fault.fetch = false →
      (skip = false → y.flags = g.flags ∧ y.wait = k.saved ∧
        y.reqs = g.reqs.map fun q => if q.seq == n then { q with st := .flying } else q) ∧
      (skip = true → y.reqs = g.reqs.filter (fun q => q.seq != n) ∧
        y.wait = (if k.saved = .wcnt n then .none else k.saved) ∧
        ∀ q, g.reqs.find? (·.seq == n) = some q →
          y.flags = if q.flag = 0 then g.flags else g.flags &&& ~~~BitVec.twoPow 12 (q.flag - 1))

/-- R386.  Constructor: rte. -/
def Obligations.HandlerReturn : Prop :=
  Claims.ReturnFromHandler ∧ Claims.LeavingRestoresTheSplits ∧ Claims.LeavingRestartsLostLanes ∧ Claims.LeavingAnswersTheRequest

/-- R77 to R79, R383: the special registers by number, with the values they read: the masks 32 lanes each, the split counts, the
places and the identities of the executing group, its modes and status, and in a handler the fault registers. -/
def Sys2Proof.Claims.specialRegisters (b : Block) (t : Task) (p : Part) (v : Group) (x : Split) : List (Nat × Dword) :=
  let lanes (m : LaneMask) (k : Nat) : Dword := (m.extractLsb' (32 * k) 32).setWidth 64
  [(0x00, lanes v.live 0), (0x01, lanes v.live 1), (0x02, lanes v.live 2),
   (0x03, lanes x.mask 0), (0x04, lanes x.mask 1), (0x05, lanes x.mask 2),
   (0x06, dw (2 ^ 8 * v.active.length + (v.active.length + v.parked.length))), (0x07, x.lc.setWidth 64)] ++
  [(0x08, dw v.gindex), (0x09, dw v.gslot), (0x0A, dw b.blkid), (0x0B, dw (b.blkid % t.hdr.nx)),
   (0x0C, dw (b.blkid / t.hdr.nx % t.hdr.ny)), (0x0D, dw (b.blkid / (t.hdr.nx * t.hdr.ny))),
   (0x0E, dw (coreX v.core)), (0x0F, dw (coreY v.core)), (0x10, dw (coreDie v.core)), (0x11, dw b.part),
   (0x12, dw (2 ^ 8 * p.genG + b.ctx))] ++
  [(0x13, v.edge.setWidth 64), (0x14, v.frm.setWidth 64), (0x15, v.status.setWidth 64), (0x16, t.hdr.detseed),
   (0x17, t.hdr.taskid), (0x18, dw t.hdr.nblk), (0x19, dw t.kd.ngrp)] ++
  match v.handler with
  | none => []
  | some k =>
    let f := k.fault
    [(0x20, f.cause.setWidth 64), (0x21, f.fpc.setWidth 64), (0x22, f.faddr), (0x23, lanes f.flane 0),
     (0x24, lanes f.flane 1), (0x25, lanes f.flane 2), (0x26, dw (2 ^ 16 * f.defer.toNat + 2 ^ 8 * k.total + k.rank))]

/-- R77 to R83, R379 to R381.  Constructors: getsr, setsr, clk, pmc.  `getsr` reads the special register its number names;
`setsr` writes EDGE and FRM with legal values, and clears in STATUS the bits that are ones; `clk` reads the context's time in
nanoseconds; `pmc` of an event that is not allowed reads 0 and sets PMCDENY, else it reads the count. -/
def Obligations.SpecialRegistersTimeAndCounts : Prop :=
  ∀ (s : State) (g : Group) (x : Split) (h : Head) (a : XArgs) (b : Block) (t : Task) (p : Part),
    s.block? g.block = some b → s.task? b.task = some t → s.part? b.part = some p →
    let v := g.viewAt s.now
    let y := v.rs a.a.toNat
    let n := a.imm.toNat % 256
    let w (op : BitVec 8) : Slot := ⟨op, h, .x a⟩
    let e := a.imm.toNat
    let read (s' : State) (lat : Nat) (op : BitVec 8) (x' : Dword) (fl : BitVec 9) : State :=
      s.done g x (w op) (s'.putGroup (g.uni s.now lat a.d.toNat x' fl)) (some (s.now + lat))
    (Runs s g x (w 0xD7) → ∀ z, (n, z) ∈ Claims.specialRegisters b t p v x →
      exec (.getsr h a) s = .next (read s 1 0xD7 z 0)) ∧
    (Runs s g x (w 0xD7) → ∃ z, (n, z) ∈ Claims.specialRegisters b t p v x) ∧
    (Runs s g x (w 0xD8) → n = 0x13 → y.toNat ≤ 2 →
      exec (.setsr h a) s = .next (s.doneBy g x (w 0xD8) (g.push (s.now + 1) g.seq (.edge (y.setWidth 2))) (s.now + 1))) ∧
    (Runs s g x (w 0xD8) → n = 0x14 → y.toNat ≤ 4 →
      exec (.setsr h a) s = .next (s.doneBy g x (w 0xD8) (g.push (s.now + 1) g.seq (.frm (y.setWidth 3))) (s.now + 1))) ∧
    (Runs s g x (w 0xD8) → n ≠ 0x13 → n ≠ 0x14 →
      exec (.setsr h a) s = .next (s.doneBy g x (w 0xD8)
        (g.push (s.now + 1) g.seq (.stClr (y.setWidth 9 &&& 0x11F))) (s.now + 1))) ∧
    (∀ c, s.ctx? b.part b.ctx = some c → Runs s g x (w 0xD9) →
      exec (.clk h a) s = .next (read s 2 0xD9 (dw (c.clk / 24)) 0)) ∧
    (Runs s g x (w 0xDA) → (e = 0 ∨ 6 < e ∨ p.pmcAllow.getLsbD e = false) →
      exec (.pmc h a) s = .next (read s 4 0xDA 0 0x100)) ∧
    (Runs s g x (w 0xDA) → e = 1 → p.pmcAllow.getLsbD 1 = true →
      exec (.pmc h a) s = .next (read s 4 0xDA (dw g.issued) 0)) ∧
    (Runs s g x (w 0xDA) → 2 ≤ e → e ≤ 6 → p.pmcAllow.getLsbD e = true →
      exec (.pmc h a) s = .next (read s 4 0xDA (dw (p.counted e (if e = 2 ∨ e = 4 then coreDie g.core else g.core))) 0))

/-- R60, R80, R81, R351, R363, R387: an EDGE value above 2, an FRM value above 4, a barrier mask with a bit of no group, a window
index of no register, and, once the queue has room, a copy descriptor that R351 forbids raise RESERVED_FIELD, before any other
cause, and write nothing. -/
def Sys2Proof.Claims.IllegalSpecialValuesFault : Prop :=
  ∀ (s : State) (g : Group) (x : Split) (h : Head) (a : XArgs) (e : EArgs), s.curGroup = some g → g.exec? = some x →
    let v := g.viewAt s.now
    let y := v.rs a.a.toNat
    let n := a.imm.toNat % 256
    let i := (y.toNat + a.imm.toNat) % 65536
    let fault : Host.Outcome State Fault Refusal := .next (s.takeFault g (preciseFault s x cReserved 0 x.mask))
    ((n = 0x13 ∧ 2 < y.toNat ∨ n = 0x14 ∧ 4 < y.toNat) → exec (.setsr h a) s = fault) ∧
    (∀ t, s.taskOf g = some t → 2 ^ t.kd.ngrp ≤ a.imm.toNat / 256 % 256 → exec (.bari h a) s = fault) ∧
    (∀ b t, s.block? g.block = some b → s.taskOf g = some t → s.cqLen g.core < 16 → CDesc.of (v.quad e.s.toNat) = none →
      exec (.cpy h e) s = fault) ∧
    (0x167 ≤ i → exec (.winst h a) s = fault) ∧
    (0x167 ≤ i → (i < 0x200 ∨ 0x208 ≤ i) → exec (.winld h a) s = fault)

/-- R60, R80, R81, R166, R169, R170, R185, R202, R203, R350, R351, R363, R365: instructions that fault on the state they find, or stay
unissued on it. -/
def Obligations.FaultsOfInstructions : Prop :=
  Claims.UnboundSlotFaults ∧ Claims.SlotModesAndCorruptSlots ∧ Claims.CommitViolations ∧ Claims.EngineConflictFaults ∧
    Claims.CopyAndMatrixFaults ∧ Claims.RangeAndWorkFaults ∧ Claims.BarrierMisuseFaults ∧ Claims.IllegalSpecialValuesFault

/-- R387, R388, R506.  Constructors: winld, winst, hsave, hrest.  At a listed index of an existing register or park row that is not
poisoned, the window reads and writes a whole row of 96 lanes; `hsave` and `hrest` move their count of varying registers to and from the
handler rows, every lane of them. -/
def Obligations.WindowAndHandlerRows : Prop :=
  ∀ (s : State) (g : Group) (x : Split) (h : Head) (a : XArgs),
    let v := g.viewAt s.now
    let i := winIndex v a
    let n := a.imm.toNat
    (∀ r, Runs s g x ⟨0xDB, h, .x a⟩ → v.window i = some r → (i < 0x100 → i < g.nregs ∧ i ∉ g.poison) →
      (0x200 ≤ i → i < 0x208 → i ∉ g.poison) →
      exec (.winld h a) s = .next (s.doneBy g x ⟨0xDB, h, .x a⟩
        (g.push (s.now + 4) g.seq (g.wv a.d.toNat allLanes r)) (s.now + 4))) ∧
    (∀ w, Runs s g x ⟨0xDC, h, .x a⟩ → windowWrite i (v.rv a.d.toNat) = some w → (i < 0x100 → i < g.nregs) →
      let poison := if i < 0x100 then g.poison.filter (fun r => r != i) else g.poison
      exec (.winst h a) s = .next (s.doneBy g x ⟨0xDC, h, .x a⟩
        (Group.push { g with poison := poison } (s.now + 2) g.seq w) (s.now + 2))) ∧
    (Runs s g x ⟨0xDD, h, .x a⟩ →
      exec (.hsave h a) s = .next (s.doneBy g x ⟨0xDD, h, .x a⟩
        ((List.range n).foldl (fun g k => g.push (s.now + n + 2) g.seq (.h k allLanes (v.v.getD (a.a.toNat + k) []))) g)
        (s.now + n + 2))) ∧
    (Runs s g x ⟨0xDE, h, .x a⟩ →
      exec (.hrest h a) s = .next (s.doneBy g x ⟨0xDE, h, .x a⟩
        ((List.range n).foldl (fun g k => g.push (s.now + n + 2) g.seq (.v (a.a.toNat + k) allLanes (v.h.getD k []))) g)
        (s.now + n + 2)))

/-- The reserved codes of R254. -/
def Sys2Proof.Claims.reserved (op : BitVec 8) : Prop :=
  let n := op.toNat
  (0x3D ≤ n ∧ n ≤ 0x3F) ∨ (0x4D ≤ n ∧ n ≤ 0x4F) ∨ (0x85 ≤ n ∧ n ≤ 0x87) ∨ (0x92 ≤ n ∧ n ≤ 0x97) ∨
    (0xA9 ≤ n ∧ n ≤ 0xAF) ∨ (0xC2 ≤ n ∧ n ≤ 0xCF) ∨ (0xDF ≤ n ∧ n ≤ 0xFE)

/-- R254, whole.  Constructor: illegalOpcode.  A slot with a reserved code, or a literal slot that a PC reaches, decodes to it,
and it raises ILLEGAL_OPCODE, precise at its PC; the code 0xFF is that of the literal slot. -/
def Obligations.ReservedOpcodesFault : Prop :=
  (∀ (w : BitVec 80) (next : Option (BitVec 80)), Claims.reserved (slotOp w) ∨ slotOp w = 0xFF →
    decodeSlot w next = .ok (.illegalOpcode (slotOp w))) ∧
  (∀ (s : State) (g : Group) (x : Split) (op : BitVec 8), s.curGroup = some g → g.exec? = some x →
    exec (.illegalOpcode op) s = .next (s.takeFault g (preciseFault s x 0x01 0 x.mask))) ∧
  ∀ (lit : Dword), slotOp (literalSlot lit) = 0xFF ∧ literalOf (some (literalSlot lit)) = .ok lit

/-- R60, R384, R77: RESERVED_FIELD of a slot instruction: a malformed slot; `rte` and the window and row instructions outside a
handler; CALL, RET and EXIT in one; a fault register outside one; a value it reads that its entry forbids (R80, R81, R351, R363,
R387). -/
def Sys2Proof.Claims.reservedAt (s : State) (g : Group) (w : Slot) : Prop :=
  w.ok = false ∨ ((w.op = 0xD5 ∨ 0xDB ≤ w.op.toNat) ∧ g.handler = none) ∨
    (g.handler ≠ none ∧ (w.head.nx = .call ∨ w.head.nx = .ret ∨ w.head.nx = .exit)) ∨
    (∃ a, w.pl = .x a ∧ w.op = 0xD7 ∧ 0x20 ≤ a.imm.toNat ∧ g.handler = none) ∨ valueBad s g w.op.toNat w.pl = true

/-- R57, R58, R387, R178: REGISTER_RANGE: a varying register that the instruction names, itself or through the window, at or above
the declared count, outside a handler's own h0 to h7; a tile accumulator past the block's count. -/
def Sys2Proof.Claims.rangeAt (s : State) (g : Group) (w : Slot) : Prop :=
  (∃ r ∈ namedV w.op.toNat w.pl, g.nregs ≤ r ∧ ¬ (g.handler ≠ none ∧ 248 ≤ r)) ∨
    (∃ a, w.pl = .x a ∧ (w.op = 0xDB ∨ w.op = 0xDC) ∧ winIndex (g.viewAt s.now) a < 0x100 ∧
      g.nregs ≤ winIndex (g.viewAt s.now) a) ∨
    ∃ e b, w.pl = .e e ∧ 0xB1 ≤ w.op.toNat ∧ w.op.toNat ≤ 0xB4 ∧ s.block? g.block = some b ∧ b.nacc ≤ e.d.toNat

/-- The opcodes that can find themselves not eligible (R142, R170, R186, R202, R203, R329, R353, R359, R363, R369): they wait, unissued, before
any check. -/
def Sys2Proof.Claims.mayWait : List (BitVec 8) :=
  [0x80, 0x81, 0x82, 0x83, 0x84, 0x9C, 0x9D, 0xA4, 0xA6, 0xB0, 0xB1, 0xB2, 0xB3, 0xB4, 0xB6, 0xBD, 0xC1]

/-- R57 to R62, R72, R373, R384: what is checked before the own effect of EVERY slot instruction, in this order: RESERVED_FIELD,
REGISTER_RANGE, UNIFORM_PARTIAL of a uniform, affine or special destination in a divergent group outside a handler, CALL_DEPTH of
a seventeenth return entry or of a return without one, MISALIGNED of a CALL or JIND target (log 74: after CALL_DEPTH).  Each is
precise, with FADDR 0, but for the target's; an instruction that is not eligible waits instead. -/
def Obligations.ChecksBeforeTheEffect : Prop :=
  ∀ (s : State) (g : Group) (x : Split) (b : Block) (t : Task) (p : Part) (i : Instr) (w : Slot),
    s.curGroup = some g → g.exec? = some x → s.block? g.block = some b → s.taskOf g = some t → s.part? b.part = some p →
    i.slot = some w →
    let fault (c : BitVec 8) (a : Dword) : Host.Outcome State Fault Refusal :=
      .next (s.takeFault g (preciseFault s x c a x.mask))
    let raises (c : BitVec 8) (a : Dword) : Prop :=
      exec i s = fault c a ∨ (w.op ∈ Claims.mayWait ∧ exec i s = .next { s with stall := true })
    let partial_ := uniformDst w.op.toNat w.pl = true ∧ g.handler = none ∧ x.mask ≠ g.live
    let depth := (w.head.nx = .call ∧ 16 ≤ g.rets.length) ∨ (w.head.nx = .ret ∧ rspOf x.mask g.rets = 0)
    let target := (g.viewAt s.now).rs w.head.tgt.toNat
    (Claims.reservedAt s g w → raises 0x02 0) ∧
    (¬ Claims.reservedAt s g w → Claims.rangeAt s g w → raises 0x10 0) ∧
    (¬ Claims.reservedAt s g w → ¬ Claims.rangeAt s g w →
      (partial_ → raises 0x03 0) ∧
      (¬ partial_ → depth → raises 0x11 0) ∧
      (¬ partial_ → ¬ depth → (w.head.nx = .call ∨ w.head.nx = .jind) → target.toNat % 32 ≠ 0 → raises 0x08 target))

/-! ### What happens to groups and engines of itself -/

/-- R117, R230, R343, R378, R382, R390.  Constructors: bundleFetch, wcntRecheck, sleepExpiry, handlerEntry, watchdog.  A bundle
that may be fetched marks its split where its die homes it; another die is asked for it once, and the split is marked when the
answer has come; a target that is no 57-bit address is UNDECLARED; a `wcnt` whose target is met, at the
translation of now and every die it asks has answered, writes its destination and its group goes on; a sleep that is over ends;
the first deferred fault that can reach the group, one that waits for an issue last, enters the handler, at the split that executes; a watchdog that has run out is a WATCHDOG fault there, and counts
anew. -/
def Sys2Proof.Claims.GroupEvents : Prop :=
  ∀ (s : State) (g : Group) (b : Block) (t : Task),
    s.group? g.uid = some g → s.block? g.block = some b → s.taskOf g = some t →
    (∀ i y, (s.awaiting g)[i]? = some y → s.running g = true → g.xlatWait = false →
      (∀ w p, y.hi = 0 → s.fetch t g.core g.inHandler y.pc = .ok w →
        s.translate t.part t.ctx (bundleAddr y.pc) = some p →
        let d := homeDie p.home p.pa
        let after (h : Group) : Host.Outcome State Fault Refusal := .next ((s.putGroup h).settleGroup g.uid 1)
        (d = coreDie g.core → exec (.bundleFetch g.uid i) s = after (g.markFetched y.mask)) ∧
        (d ≠ coreDie g.core → g.fetchOf y = none → exec (.bundleFetch g.uid i) s = after { g with
          seq := g.seq + 1
          reqs := g.reqs ++ [{ fetchReq g y with lanes := [{ lane := 0, addr := bundleAddr y.pc, home := d }] }] }) ∧
        (∀ q, d ≠ coreDie g.core → g.fetchOf y = some q →
          (q.sent = true → s.inTransit (.req g.uid q.seq) = false → s.inTransit (.rsp g.uid q.seq) = false →
            exec (.bundleFetch g.uid i) s =
              after ({ g with reqs := g.reqs.filter (·.seq != q.seq) }.markFetched y.mask)) ∧
          ((q.sent = false ∨ s.inTransit (.req g.uid q.seq) = true ∨ s.inTransit (.rsp g.uid q.seq) = true) →
            exec (.bundleFetch g.uid i) s = .next (s.settleGroup g.uid 1)))) ∧
      (y.hi ≠ 0 → exec (.bundleFetch g.uid i) s = .next
        ((s.takeFault g (fetchFault y 0x06 (y.hi ++ y.pc : Dword).toNat)).settleGroup g.uid 1))) ∧
    (g.sleep ≠ 0 → g.sleep ≤ s.now → exec (.sleepExpiry g.uid) s = .next (s.putGroup { g with sleep := 0 })) ∧
    (∀ f, s.nextFault g = some f →
      exec (.handlerEntry g.uid) s = .next (s.takeFault { g with deferred := g.deferred.erase f } (g.faultAt f))) ∧
    (∀ c x, s.ctx? b.part b.ctx = some c → g.exec? = some x → c.watchdog ≠ 0 → s.running g = true → g.live ≠ 0 →
      g.lastCtx + 24000 * c.watchdog ≤ c.clk →
      exec (.watchdog g.uid) s = .next (s.takeFault { g with lastCtx := c.clk }
        { cause := 0x16, fpc := x.pc, faddr := 0, flane := x.mask, defer := true, fetch := false, mask := x.mask,
          next := x.pc, req := none })) ∧
    (∀ q z v, g.wcntReq = some q → s.running g = true → g.mayPerform q = true → s.notLate g q = true →
      s.recheck g q = .ok [z] → s.reqReaches g b { q with lanes := [z] } = true →
      s.wcntRead b { q with lanes := [z] } = some v → z.x.toNat ≤ v →
      let target := (q.lanes.head?.map (·.x)).getD 0
      let y := (g.push s.now q.seq (q.ws q.m.d.toNat (if t.hdr.det then target else dw v))).drop q s.now
      exec (.wcntRecheck g.uid) s = .next
        ((((s.llcTouch b.part z.pa (q.m.hnt.toNat == 2)).putGroup (y.unwait (· == .wcnt q.seq))).goOn g.uid q).retest g.uid))

/-- R343: a `wcnt` whose counter is below its target goes on waiting; the first read that finds it so allocates its line (R133;
DESIGN CHOICE, log 19). -/
def Sys2Proof.Claims.CounterWaitHolds : Prop :=
  ∀ (s : State) (g : Group) (b : Block) (q : Req) (y : LaneReq) (v : Nat),
    s.group? g.uid = some g → s.block? g.block = some b → g.wcntReq = some q → s.recheck g q = .ok [y] →
    s.running g = true → g.mayPerform q = true → s.notLate g q = true → s.reqReaches g b { q with lanes := [y] } = true →
    (s.taskOf g).isSome = true → s.wcntRead b { q with lanes := [y] } = some v → v < y.x.toNat →
      exec (.wcntRecheck g.uid) s = .next (if q.read then s else
        (s.llcTouch b.part y.pa (q.m.hnt.toNat == 2)).putGroup
          { g with reqs := updIf (·.seq == q.seq) (fun r => { r with read := true }) g.reqs })

/-- R230, R343, R378, R382, R390.  Constructors: bundleFetch, wcntRecheck, sleepExpiry, handlerEntry, watchdog. -/
def Obligations.EventsOfAGroup : Prop :=
  Claims.GroupEvents ∧ Claims.CounterWaitHolds

/-- R177, R186 to R188, R353, R358.  Constructors: matrixStep, matrixOperationComplete, copyComplete.  A step whose time has
passed takes every cell of its tile through its sum of 32 scaled products, and the operation to its next step, and is counted
(R381); an operation at its end leaves the queue; `mzero` zeroes its tile; `mout` writes its tile's records; a copy whose last byte
has landed leaves its queue, and its group's order no longer holds its accesses (R150). -/
def Sys2Proof.Claims.EngineSteps : Prop :=
  ∀ (s : State) (c : Nat) (o : MOp) (b : Block) (t0 : Nat),
    (∀ d gs kA kB A B, s.block? b.uid = some b → s.matrixTurn c = some (o, b, t0) → o.kind = .loop d gs kA kB → s.engineFmt b kA = some A →
      s.engineFmt b kB = some B → t0 + s.opTime b o ≤ s.now →
      b.stepPoison o.tile (d.stepBytes gs A.width B.width o.step) = none →
        ∃ s', exec (.matrixStep c) s = .next s' ∧ s'.block? b.uid = some (b.matrixStep o.tile d gs A B o.step) ∧
          (s'.core c).mq = (s.core c).mq.map (fun x =>
            if x.uid = o.uid then { x with step := o.step + 1, ready := s.now } else x) ∧
          (s'.core c).mFree = s.now ∧ s'.groups = s.groups ∧ s'.mem = s.mem ∧ s'.parts = (s.countUp b.part 5 c).parts) ∧
    ((s.core c).stepped = some o →
      exec (.matrixOperationComplete c) s = .next
        (s.putEngines c { s.core c with mq := (s.core c).mq.filter fun x => x.uid != o.uid })) ∧
    ((s.core c).stepped = none → s.matrixTurn c = some (o, b, t0) → o.kind = .zero → t0 + s.opTime b o ≤ s.now →
      exec (.matrixOperationComplete c) s = .next ((s.putBlock (b.zeroTile o.tile)).endOp c o b.lowSlot)) ∧
    (∀ base stride k rm F, (s.core c).stepped = none → s.matrixTurn c = some (o, b, t0) → o.kind = .out base stride k rm →
      s.engineFmt b k = some F → t0 + s.opTime b o ≤ s.now → (∀ x ∈ b.tileBad, x / 1024 ≠ o.tile) →
      exec (.matrixOperationComplete c) s = .next ((s.putBlock (b.outTile o.tile base stride F k rm
        (((s.task? b.task).map (·.hdr.detseed)).getD 0))).endOp c o b.lowSlot)) ∧
    (∀ q n s1 q1, s.copyTurn c = some (q, b, t0, n) → t0 + (n + 255) / 256 ≤ s.now →
      (s.putCore c { s.core c with cFree := s.now, cTurn := b.lowSlot }).copyRun (n + q.desc.nrow) q n = (s1, q1, .done) →
      exec (.copyComplete c) s = .next ((s1.putEngines c { s1.core c with
        cq := (s1.core c).cq.filter fun x => x.uid != q1.uid }).copyGone q1))

/-- R177: one cell.  A cell is not a NaN and the scaled sum is zero: the cell keeps its value; else it is the 36-bit rounding to
nearest even of the exact sum of both. -/
def Sys2Proof.Claims.CellRounding : Prop :=
  ∀ (acc : BitVec 36) (T : Machine.Num),
    let a := accx.decode acc.toNat
    cellStep acc T = if T.isZero = true ∧ a.isNan = false then acc
      else BitVec.ofNat 36 (accx.encode (a.add false T) rne).1

/-- R177: a step of a loop on cell (i, j): the cell goes through `cellStep` with the product of the two scales and the sum of the
32 products of row i of A and column j of B, as the records hold them; the other tiles keep their cells.  Where all of these are
numbers, that is the exact sum: with a scaled sum of zero the cell keeps its value, else it is the rounding to nearest even of
its old value and the sum, +0 where that is zero. -/
def Sys2Proof.Claims.MatrixCells : Prop :=
  ∀ (b : Block) (tile : Nat) (d : MDesc) (gs : List Nat) (A B : Fmt) (t i j : Nat), gs.length = 32 → i < 32 → j < 32 →
    let after := b.matrixStep tile d gs A B t
    let ra := d.ra (gs.getD i 0) t
    let rb := d.rb j t
    let x (k : Nat) : Machine.Num := A.decode (fld (leOf (cellRead b.scr ra (4 * A.width))) (k * A.width) A.width)
    let y (k : Nat) : Machine.Num := B.decode (fld (leOf (cellRead b.scr rb (4 * B.width))) (k * B.width) B.width)
    let sa := d.scale b.scr ra d.abase d.asbase A.width (d.a2base + 4 * gs.getD i 0)
    let sb := d.scale b.scr rb d.bbase d.bsbase B.width (d.b2base + 4 * j)
    let old := b.cell tile (32 * i + j)
    let new := after.cell tile (32 * i + j)
    let a := accx.decode old.toNat
    new = cellStep old (((dot ((List.range 32).map x) ((List.range 32).map y)).mul sa).mul sb) ∧
    (∀ other c, other ≠ tile → c < 1024 → after.cell other c = b.cell other c) ∧
    ((∀ k < 32, (x k).isFin = true ∧ (y k).isFin = true) → sa.isFin = true → sb.isFin = true → a.isFin = true →
      let q := ((List.range 32).map fun k => Claims.ratOf (x k) * Claims.ratOf (y k)).sum * Claims.ratOf sa * Claims.ratOf sb
      (q = 0 → new = old) ∧
      (q ≠ 0 → ∃ z : Machine.Num, z.isFin = true ∧ Claims.ratOf z = Claims.ratOf a + q ∧
        (Claims.ratOf z = 0 → z.sign = false) ∧ new = BitVec.ofNat 36 (accx.encode z rne).1))

/-- R177, R186 to R188, R353, R358: what the engines do of themselves, and what a step makes of a cell. -/
def Obligations.EngineEvents : Prop :=
  Claims.EngineSteps ∧ Claims.CellRounding ∧ Claims.MatrixCells

/-! ### Tasks -/

/-- R46, R51, R97, R99, R445, R453.  Constructors: slotConsume, taskStartable, depFailed, mirrorAck, idGrant, blockPlace,
blockRetire.  An accepted record becomes a waiting task and the head advances; a task whose dependences and waits are met
starts; one that depends on a task that failed completes with DEP_FAILED; a die dispatcher that has found a core asks the leader,
which has a counter to send to the mirror; the leader tells the mirror, once the request has reached it, and what it told is
performed when it is acknowledged; the leader grants the lowest id not yet granted once the mirror has acknowledged it; a granted
id that has reached its die is placed on its core; a block that is done gives its room back, and its leader learns of it, by a
message where it is another die.  Requests, grants, what is told and
acknowledgements cross between dies as messages of the channel CTL.  When the waits are evaluated, and which slots and rows a
block takes, is log 21. -/
def Sys2Proof.Claims.TaskLaunch : Prop :=
  ∀ (s : State) (t : Task) (p : Part),
    s.task? t.uid = some t → s.part? t.part = some p →
    (∀ q h k regs, s.queue? t.part t.ctx q.num = some q → q.part = t.part → q.ctx = t.ctx → s.canConsume q = true →
      s.submit p t.ctx (s.slotRecord q) = (0, h, k, regs) →
      let new : Task := { uid := s.uid, part := t.part, ctx := t.ctx, queue := q.num, dev := q.dev, qprio := q.prio,
                          seq := q.head, hdr := h, kd := k, regions := regs, run := TaskRun.new }
      exec (.slotConsume t.part t.ctx q.num) s = .next (State.reWait { s with
        uid := s.uid + 1, tasks := s.tasks ++ [new], queues := (s.putQueue { q with head := q.head + 1 }).queues }
        t.part t.ctx)) ∧
    (s.canStart t = true → ∀ d rest, s.launchDies p t.hdr = d :: rest →
      ∃ s' t', exec (.taskStartable t.uid) s = .next s' ∧ s'.task? t.uid = some t' ∧ t'.run.phase = .starting ∧
        t'.run.leader = d ∧ t'.run.mirror = rest.head? ∧ t'.run.due = s.uid ∧
        t'.run.cursor = { record := 0, action := 0, unit := 0 }) ∧
    (s.depFails t = true →
      exec (.depFailed t.uid) s = .next ((s.putTask { t with run := { t.run with status := 3 } }).completeTask t.uid)) ∧
    (∀ w : Told,
      let r := t.run.acknowledged w
      r.told = none ∧ r.acked = w.sent.getD t.run.acked ∧ r.cursor = w.csrSent.getD t.run.cursor ∧
      r.granted = t.run.granted ∧ (t.run.sent = w.sent → r.sent = none) ∧ (t.run.csrSent = w.csrSent → r.csrSent = none) ∧
      (∀ k ∈ r.rsent, k ∈ t.run.rsent ∧ k ∉ w.rsent) ∧
      (∀ c, w.csent = some c → t.run.csent = some c → t.run.mirror ≠ none → r.commit = c)) ∧
    (let now : Told := { sent := t.run.sent, csent := t.run.csent, rsent := t.run.rsent, csrSent := t.run.csrSent }
     let done (w : Told) : State :=
       ((s.putTask { t with run := t.run.acknowledged w }).commitTell t.uid t.run.commit).rbarAck t w.rsent
     (∀ m, t.run.mirror = some m → t.run.told = none → s.inTransit (.ask t.uid) = false →
       exec (.mirrorAck t.uid) s = .next ((s.putTask { t with run := { t.run with told := some now } }).carry
         { src := t.run.leader, dst := m, vc := 3, kind := .tell t.uid })) ∧
     (∀ w, t.run.told = some w → s.inTransit (.tell t.uid) = false → s.inTransit (.ack t.uid) = false →
       exec (.mirrorAck t.uid) s = .next (done w)) ∧
     (∀ w, t.run.told = some w → (s.inTransit (.tell t.uid) = true ∨ s.inTransit (.ack t.uid) = true) →
       exec (.mirrorAck t.uid) s = .next s) ∧
     (t.run.mirror = none → t.run.told = none → s.inTransit (.tell t.uid) = false → s.inTransit (.ack t.uid) = false →
       exec (.mirrorAck t.uid) s = .next (done now))) ∧
    (∀ c, t.run.grant = none → t.run.ask = none → t.launching = true → s.ctxRuns t.part t.ctx = true →
      s.coreFor p t = some c → s.preempted p t c = false →
      exec (.blockPlace t.uid c) s = .next ((s.putTask { t with run := { t.run with
        ask := some (coreDie c, c), sent := t.run.mirror.map fun _ => t.run.granted + 1 } }).carry
          { src := coreDie c, dst := t.run.leader, vc := 3, kind := .ask t.uid })) ∧
    (∀ d c, t.run.ask = some (d, c) → t.run.sent = none → (t.run.mirror = none ∨ t.run.acked = t.run.granted + 1) →
      t.run.lost = false → s.inTransit (.ask t.uid) = false →
      exec (.idGrant t.uid d) s = .next ((s.putTask { t with run := { t.run with
        granted := t.run.granted + 1, ask := none, grant := some (t.run.granted, c), held := [], waitFrom := s.now } }).carry
          { src := t.run.leader, dst := d, vc := 3, kind := .grant t.uid })) ∧
    (∀ id c r, t.run.grant = some (id, c) → s.ctxRuns t.part t.ctx = true → s.roomFor p t c = some r →
      s.inTransit (.grant t.uid) = false →
      exec (.blockPlace t.uid c) s = .next
        ((s.putTask { t with run := { t.run.place (s.served t.part t.ctx c) with grant := none } }).place t id c r)) ∧
    (∀ b, s.block? b.uid = some b → b.task = t.uid → s.canRetire b = true →
      (coreDie b.core = t.run.leader → t.run.phase = .running → exec (.blockRetire b.uid) s = .next
        (((((s.dropBlock b).putTask { t with run := t.run.retire b.blkid }).commitTell t.uid t.run.commit).rbarTestTask
          t.uid).lastBlock t.uid)) ∧
      (coreDie b.core ≠ t.run.leader → exec (.blockRetire b.uid) s = .next ((s.dropBlock b).carry
        { src := coreDie b.core, dst := t.run.leader, vc := 3, kind := .retire t.uid b.blkid }))) ∧
    (∀ blkid, t.run.phase = .running → s.retired t.uid blkid =
      (((s.putTask { t with run := t.run.retire blkid }).commitTell t.uid t.run.commit).rbarTestTask t.uid).lastBlock t.uid)

/-- R31, R32: of several cores the one with the most of what is asked for, and of those the lowest COREY, then COREX. -/
def Sys2Proof.Claims.TheBestCore : Prop :=
  ∀ (m : Nat → Nat) (l : List Nat),
    (∀ c, bestCore m l = some c → c ∈ l ∧ ∀ d ∈ l, m d ≤ m c ∧
      (m d = m c → coreY c < coreY d ∨ (coreY c = coreY d ∧ coreX c ≤ coreX d))) ∧
    (l ≠ [] → (bestCore m l).isSome = true)

/-- R26, R27, R32.  Constructors: coopLaunch, heldCore.  A cooperative task that can never fit its rectangle ends with COOP_UNFIT
(0x17).  One whose blocks all fit now tells its mirror the counter of all its ids, then grants them all to the dies that get
blocks, and when the grants have arrived places every block at once, block i on core i mod C of the rectangle, with the slots,
rows and tiles found for it and one group per slot (the three steps: log 79).  A task whose next block has waited 64 µs holds
cores: its rectangle, or on each die of the launch the core with the most free rows. -/
def Sys2Proof.Claims.CooperativeLaunchAndHeldCores : Prop :=
  ∀ (s : State) (t : Task) (p : Part),
    s.task? t.uid = some t → s.part? t.part = some p →
    let free : Nat → Room := fun _ => { slots := [], runs := [], accs := [] }
    (t.hdr.coop = true → t.run.phase = .ready → s.ctxRuns t.part t.ctx = true →
      (s.rectOk p t = false ∨ t.coopFit p.quota free = none) → exec (.coopLaunch t.uid) s = .next (s.endTask t.uid 0x17 0)) ∧
    (t.hdr.coop = true → t.run.phase = .ready → s.ctxRuns t.part t.ctx = true → s.rectOk p t = true →
      t.coopFit p.quota free ≠ none →
      (t.run.granted = 0 → t.run.sent = none → (∀ c ∈ t.coopCores, s.preempted p t c = false) →
        (s.coopNow p t).isSome = true →
        (t.run.mirror ≠ none → t.run.acked ≠ t.hdr.nblk →
          exec (.coopLaunch t.uid) s = .next (s.putTask { t with run := { t.run with sent := some t.hdr.nblk } })) ∧
        (t.run.mirror = none ∨ t.run.acked = t.hdr.nblk →
          exec (.coopLaunch t.uid) s = .next (((t.coopCores.map coreDie).eraseDups).foldl
            (fun s d => s.carry { src := t.run.leader, dst := d, vc := 3, kind := .grant t.uid })
            (s.putTask { t with run := { t.run with granted := t.hdr.nblk, held := [], waitFrom := s.now } })))) ∧
      (t.run.granted ≠ 0 → s.inTransit (.grant t.uid) = true → exec (.coopLaunch t.uid) s = .next s) ∧
      (∀ l, t.run.granted ≠ 0 → s.inTransit (.grant t.uid) = false → s.coopRoom p t = some l →
        ∃ s', exec (.coopLaunch t.uid) s = .next s' ∧
          (∃ t', s'.task? t.uid = some t' ∧ t'.run.granted = t.run.granted ∧ t'.run.phase = .running) ∧
          ∀ id < t.hdr.nblk, ∃ b r, b ∈ s'.blocks ∧ b.task = t.uid ∧ b.blkid = id ∧
            b.core = t.rectCores.getD (id % t.rectCores.length) 0 ∧ (id, b.core, r) ∈ l ∧
            b.slots = r.slots ∧ b.runs = r.runs ∧ b.accs = r.accs ∧
            ∀ i sl, r.slots[i]? = some sl → i < t.kd.ngrp →
              ∃ g ∈ s'.groups, g.block = b.uid ∧ g.core = b.core ∧ g.gslot = sl ∧ g.gindex = i ∧ g.live = allLanes)) ∧
    (s.waitedLong t = true →
      exec (.heldCore t.uid) s = .next (s.putTask { t with run := { t.run with
        waitFrom := s.now
        held := if t.hdr.coop then t.rectCores else (s.launchDies p t.hdr).filterMap fun d =>
          bestCore (s.freeRows p t.ctx) (((List.range 48).map (48 * d + ·)).filter (s.coreOk p)) } }))

/-- R26, R27, R32, R46, R51, R97, R99, R445, R453: from a ring entry to the retirement of the last block. -/
def Obligations.TaskLaunchAndRetirement : Prop :=
  Claims.TaskLaunch ∧ Claims.TheBestCore ∧ Claims.CooperativeLaunchAndHeldCores

/-! ### Sparge and the slots' configuration -/

/-- R100, R103, R108, R111, R113, R114.  Constructors: bind, pinit, invstart, flush, inval, final, complete.  In which order the L1s
are flushed is log 46; that INVSTART writes back what a line has written, log 58; that a unit no page maps, or whose home is
fenced, is passed over, log 21.  In a task's turn:
a slot that has its image on every core is held and measured, else its reconfiguration of 40 µs begins, and a slot without a
binding is passed over; write-backs that an action has sent keep it at its unit until they have landed; one sector of a partial area
takes the identity; one line of a start range leaves every L1; one sector of a written range goes to its home; one line of it
leaves the other L1s; one sector of a reduction takes the final values; the task completes. -/
def Obligations.SpargeActions : Prop :=
  ∀ (s : State) (t : Task) (p : Part),
    s.task? t.uid = some t → s.part? t.part = some p →
    let c := t.run.cursor
    let next : Task := t.at_ { c with unit := c.unit + 1 }
    let va := (t.range c.record).1
    let ext := (t.range c.record).2
    (s.spargeOn t 0 = true → c.record < 8 → t.hdr.slotimg.getD c.record 0 ≠ 0 → t.run.kiln = none →
      (p.slotImg.getD c.record 0 = t.hdr.slotimg.getD c.record 0 → (∀ x ∈ p.bare, x.2 ≠ c.record) →
        exec (.bind t.uid) s = .next (s.bound t p c.record (t.hdr.slotimg.getD c.record 0))) ∧
      ((p.slotImg.getD c.record 0 ≠ t.hdr.slotimg.getD c.record 0 ∨ ∃ x ∈ p.bare, x.2 = c.record) →
        exec (.bind t.uid) s = .next
          ((s.putTask { t with run := { t.run with kiln := some (c.record, s.now + s.cyclesOfUs 40) } }).putPart
            { p with config := p.config ++ [c.record] }))) ∧
    (s.spargeOn t 0 = true → t.hdr.slotimg.getD c.record 0 = 0 →
      exec (.bind t.uid) s = .next (s.putTask (t.bindNext s.now c.record))) ∧
    (∀ r m, t.regions[c.record]? = some r → s.spargeOn t 1 = true →
      s.upPage t.part t.ctx (r.pbase + 128 * c.unit) = some m → 128 * (c.unit + 1) < t.hdr.nblk * r.rowStride →
      exec (.pinit t.uid) s = .next ((s.homeWrite t.part m.pa (r.identBytes c.unit)).putTask next)) ∧
    (s.spargeOn t 2 = true → c.unit + 1 < lineCount va ext →
      let s1 := s.dropLine t.part t.ctx ((va / 512 + c.unit) * 512) fun _ => true
      exec (.invstart t.uid) s = .next (if s1.unitPends t then s1 else s1.putTask next)) ∧
    (∀ m, s.spargeOn t 3 = true → s.translate t.part t.ctx (va + 128 * c.unit) = some m → 128 * (c.unit + 1) < ext →
      let s1 := ((s.coreNums.filter fun k => t.run.cores.contains k).rotateLeft
        (Config.flushLast t.uid c.unit)).foldl (fun (s : State) k =>
        s.l1Clean k fun y => y.part == t.part && y.stack.isNone && y.pa / 128 == m.pa / 128) s
      exec (.flush t.uid) s = .next (if s1.unitPends t then s1 else s1.putTask next)) ∧
    (s.spargeOn t 4 = true → c.unit + 1 < lineCount va ext →
      let s1 := s.dropLine t.part t.ctx ((va / 512 + c.unit) * 512) fun k => !t.run.cores.contains k
      exec (.inval t.uid) s = .next (if s1.unitPends t then s1 else s1.putTask next)) ∧
    (∀ r, t.regions[c.record]? = some r → s.spargeOn t 5 = true → s.finalTurn t = true →
      (r.base / 128 + c.unit + 1) * 128 < r.base + r.ext →
      let sz := etySize r.ety
      let lo := max r.base ((r.base / 128 + c.unit) * 128)
      let hi := (r.base / 128 + c.unit + 1) * 128
      exec (.final t.uid) s = .next ((((List.range ((hi - lo) / sz)).map fun i => lo + i * sz).foldl (fun s' a =>
        match s.upPage t.part t.ctx a with
        | some m => s'.homeWrite t.part m.pa (bytesOf sz (s.finalValue t r a).toNat)
        | none => s') s).putTask next)) ∧
    (s.spargeOn t 6 = true → t.run.kiln = none →
      let s1 := if t.hdr.coop && t.kd.fused then t.rectCores.foldl (fun s c => s.l1Purge c (·.part == t.part)) s else s
      exec (.complete t.uid) s = .next (if s1.unitPends t then s1 else s1.completeTask t.uid))

/-- R114, R171 to R173, R482.  Constructors: reconfigurationDone, slotReadback, kilnReloadDone.  A reconfiguration that ends
without a mismatch makes its slot BOUND; a clean readback forgets the uses before it; a mismatch makes the slot CORRUPT; a clean
reload makes it BOUND again; after a first failed reload it is tried again, and after a second its core is fenced.  A
reconfiguration that cores have mismatched twice binds the slot on the others, and those cores are fenced: their blocks are
gone. -/
def Obligations.SlotConfiguration : Prop :=
  ∀ (s : State) (p : Part) (c k : Nat),
    (∀ t j e, s.task? t.uid = some t → s.part? t.part = some p → t.run.kiln = some (j, e) →
      exec (.reconfigurationDone t.uid []) s = .next (s.slotDone t) ∧
      ∀ bad, ∃ s', exec (.reconfigurationDone t.uid bad) s = .next s' ∧
        (∀ c ∈ bad, p.dies.getLsbD (coreDie c) = true → c ∈ s'.deadCores ∧
          (c ∉ s.deadCores → (s.blocks.map (·.uid)).Nodup → (∀ b ∈ s'.blocks, b.core ≠ c) ∧ (s'.core c).l1 = [])) ∧
        (j < p.slotImg.length → ∃ p', s'.part? p.num = some p' ∧ j ∉ p'.config ∧
          p'.slotImg.getD j 0 = t.hdr.slotimg.getD j 0 ∧ ∀ x ∈ p'.bare, x.2 ≠ j)) ∧
    (s.slotOwner c k = some p → k ∉ p.config → (∀ u ∈ p.corrupt, ¬(u.1 = c ∧ u.2.1 = k)) →
      exec (.slotReadback c k true) s = .next (State.putPart { s with
        scan := s.scan.filter fun u => !(u.1 == c && u.2 == k) } { p with uses := p.uses.filter fun u => !(u.1 == c && u.2.1 == k) }) ∧
      ∃ s', exec (.slotReadback c k false) s = .next s' ∧
        ∃ p', s'.part? p.num = some p' ∧ (c, k, 0) ∈ p'.corrupt) ∧
    (∀ tries, s.slotOwner c k = some p → p.corrupt.find? (fun u => u.1 == c && u.2.1 == k) = some (c, k, tries) →
      let rest := p.corrupt.filter fun u => !(u.1 == c && u.2.1 == k)
      exec (.kilnReloadDone c k true) s = .next ((s.putPart { p with corrupt := rest }).logEntry 4 (some p.num) k
        (p.slotImg.getD k 0) (placeBytes (coreDie c) (c % 48)) (p.imageDigest (p.slotImg.getD k 0))) ∧
      (tries = 0 → exec (.kilnReloadDone c k false) s = .next (s.putPart { p with corrupt := rest ++ [(c, k, 1)] })) ∧
      (tries ≠ 0 → ∃ s', exec (.kilnReloadDone c k false) s = .next s' ∧ c ∈ s'.deadCores ∧
        (c ∉ s.deadCores → (s.blocks.map (·.uid)).Nodup → (∀ b ∈ s'.blocks, b.core ≠ c) ∧ (s'.core c).l1 = []) ∧
        ∃ p', s'.part? p.num = some p' ∧ p'.corrupt = rest))

/-! ### Contexts in turn -/

/-- R462 to R464: a bump of G makes every sector of the partition stale, in every L1, and the rows of its cores carry the old value
until the scrubber comes; another partition's sectors stand, and nothing else changes. -/
def Sys2Proof.Claims.WhatABumpMakesStale : Prop :=
  ∀ (s : State) (p : Part),
    let s' := s.staleL1 p
    s' = { s with cores := s'.cores } ∧ s'.cores.map (·.1) = s.cores.map (·.1) ∧
    ∀ c k k', (c, k) ∈ s.cores → (s.cores.map (·.1)).Nodup → (c, k') ∈ s'.cores →
      k' = { k with l1 := k'.l1, left := k'.left } ∧ k'.l1 = k.l1.filter (fun x => x.part != p.num) ∧
      (∀ y ∈ k.left, y ∈ k'.left) ∧
      (∀ y ∈ k'.left, y ∈ k.left ∨ (y = (p.num, p.genG) ∧ p.dies.getLsbD (coreDie c) = true)) ∧
      (p.dies.getLsbD (coreDie c) = true → (p.num, p.genG) ∈ k'.left)

/-- R462 to R464, R466 to R468, R471.  Constructors: gangTick, groupHalt, dieSaveDone, contextRestore, switchLate, lateDieFence,
scrubPass.  A tick with another candidate asks for a switch to the first in ascending order after the resident one, and goes to
the partition's other dies; a group halts with its atomics performed and every other request but a copy's a packet; a die whose
groups and engines have stopped saves, with the records of its packets; when every die has saved, the incoming context is
resident, G is bumped, once the scrubber has cleared what still carries the value it takes, and a resize that was waited for takes
effect; a die 200 µs late is reported, and one 1 ms late is out of the partition; a scrub pass of a die clears its stale LLC lines
and row tags, keeps every other line, and writes nothing to memory.  The core that a report of a late die names is a free value
(log 22); the bytes of a packet's record that R470 does not lay out are log 75's. -/
def Sys2Proof.Claims.SwitchSteps : Prop :=
  ∀ (s : State) (p : Part),
    s.part? p.num = some p →
    (∀ r c, s.tickDue p = true → p.nextTick ≤ s.now → p.switch = none → p.resident = some r →
      s.chooseCtx p.num r = some c → c ≠ r →
      let p1 : Part := { p with nextTick := p.nextTick + s.cyclesOfUs 1000 }
      exec (.gangTick p.num) s = .next ((s.putPart { p1 with
        switch := some { to_ := some c, tick := s.now, saved := [], late := [] } }).sendTicks p1)) ∧
    (∀ d rest, s.partDies p = d :: rest → ∀ s0 : State, s0.partDies p = s.partDies p → s0.sendTicks p =
      rest.foldl (fun s e => s.carry { src := d, dst := e, vc := 3, kind := .tick p.num }) s0) ∧
    (∀ g b t, s.group? g.uid = some g → s.block? g.block = some b → s.taskOf g = some t → s.canHalt g = true →
      (g.reqs = [] → exec (.groupHalt g.uid) s = .next ((s.putGroup { g with
        halted := true, sleep := 0, handler := g.handler.map fun k => { k with sleep := 0 } }).retest g.uid)) ∧
      ∃ s', exec (.groupHalt g.uid) s = .next s' ∧ ∃ g', s'.group? g.uid = some g' ∧ g'.halted = true ∧ g'.sleep = 0 ∧
        ∀ q ∈ g'.reqs, (q.st = .flying → q.kind = .cpy) ∧
          (q.kind = .atom ∨ q.kind = .red ∨ q.kind = .redo ∨ (q.stores = true ∧ q.sent = true) →
            q.st = .packet → q ∈ g.reqs)) ∧
    (∀ (q : Req) n, (q.record n).length = 1664) ∧
    (∀ w d, p.switch = some w → s.canSave p w d = true →
      ∃ s', exec (.dieSaveDone p.num d) s = .next s' ∧
        (s'.groups.map fun g => (g.uid, g.halted)) = s.groups.map (fun g => (g.uid, g.halted)) ∧
        (∀ k, coreDie k = d → ∀ x ∈ (s'.core k).l1, x.part ≠ p.num) ∧
        ∃ p' w', s'.part? p.num = some p' ∧ p'.switch = some w' ∧ w'.to_ = w.to_ ∧
          w'.saved = (if s'.backsFrom p d then w.saved else w.saved ++ [d]) ∧
          (s'.backsFrom p d = false →
            ∀ c x, p.resident = some c → s.ctx? p.num c = some x → ∃ x', s'.ctx? p.num c = some x' ∧ x'.saved = x.saved ++
              ((s'.groups.filter fun g => coreDie g.core == d && s'.groupIn p.num p.resident g).flatMap fun g =>
                (g.reqs.filter (·.saved)).map fun q => (g.uid, q.record g.gslot)))) ∧
    (∀ w, p.switch = some w → s.bumpWaits p = true → exec (.contextRestore p.num) s = .next s) ∧
    (∀ w, p.switch = some w → (∀ d ∈ s.partDies p, d ∈ w.saved) → s.bumpWaits p = false →
      let p1 : Part := { p with resident := w.to_, switch := none, genG := (p.genG + 1) % 32 }
      let go (s1 : State) : Host.Outcome State Fault Refusal := .next (match w.to_ with
        | none => s1
        | some c =>
          let s2 := match s1.ctx? p.num c with
            | some x => s1.putCtx { x with saved := [] }
            | none => s1
          (s2.groups.filter (s2.groupIn p.num (some c))).foldl (fun s g => s.resumeGroup g.uid) (s2.wakeEngines p.num c))
      ((∀ dies q, p.resize = some (dies, q, false) → p.resident ≠ w.to_) →
        exec (.contextRestore p.num) s = go ((s.staleL1 p).putPart p1)) ∧
      ∀ dies q, p.resize = some (dies, q, false) → p.resident = w.to_ →
        exec (.contextRestore p.num) s = go (((s.staleL1 p).putPart p1).applyResize p1 dies q)) ∧
    (∀ w d, p.switch = some w → s.lateBy p w d 200 = true → d ∉ w.late →
      exec (.switchLate p.num d) s = .next
        ((s.putPart { p with switch := some { w with late := w.late ++ [d] } }).record
          { type := 6, part := some p.num, ctx := p.resident, core := some (48 * d + Config.lateCore d % 48) })) ∧
    (∀ w d, p.switch = some w → s.lateBy p w d 1000 = true →
      ∃ s', exec (.lateDieFence p.num d) s = .next s' ∧ ∃ p', s'.part? p.num = some p' ∧ d ∈ p'.outDies) ∧
    (∀ d, ∃ s', exec (.scrubPass d) s = .next s' ∧ s'.mem = s.mem ∧ s'.groups = s.groups ∧ s'.tasks = s.tasks ∧
      (∀ c k, (c, k) ∈ s'.cores → coreDie c = d → k.left = [] ∧ ∃ k0, (c, k0) ∈ s.cores ∧
        k.l1 = k0.l1.filter fun x => (s.part? x.part).isSome) ∧
      (∀ c k, coreDie c ≠ d → ((c, k) ∈ s'.cores ↔ (c, k) ∈ s.cores)) ∧
      ∀ l ∈ s.llc, l ∈ s'.llc ↔ ¬(l.die = d ∧ s.llcStale l = true))

/-- R462 to R464, R466 to R468, R471.  Constructors: gangTick, groupHalt, dieSaveDone, contextRestore, switchLate, lateDieFence,
scrubPass: what each does, and what the bump of a switch leaves in the L1s. -/
def Obligations.ContextSwitching : Prop :=
  Claims.SwitchSteps ∧ Claims.WhatABumpMakesStale

/-! ### Die links -/

/-- R487: the 256 bytes of a flit: its 64-bit header, with the reserved bits zero, 240 bytes of payload, and the CRC of all that.
What the payload of an audit, a reply or a message holds is the model's layout (log 23). -/
def Sys2Proof.Claims.FlitLayout : Prop :=
  ∀ f : Flit,
    f.header.extractLsb' 52 12 = f.seq ∧ f.header.extractLsb' 40 12 = f.ack ∧ f.header.getLsbD 39 = f.nak ∧
    f.header.getLsbD 38 = f.audit ∧ f.header.extractLsb' 36 2 = f.vc ∧ f.header.extractLsb' 34 2 = f.rvc ∧
    f.header.extractLsb' 26 8 = f.rcnt ∧ f.header.extractLsb' 0 26 = 0 ∧
    f.bytes.length = 256 ∧ f.bytes.take 8 = bytesOf 8 f.header.toNat ∧
    f.bytes.drop 248 = bytesOf 8 (crc64 (f.bytes.take 248)).toNat

/-- R488, R489: every flit that is sent takes the next SEQ, says what its side's receiver has accepted, returns the freed slots of the lowest channel that has any, at most 255, which are then no more to be
returned, and stays in the replay buffer; a message lowers its channel's available count by one, and none is sent while that is zero, while an audit waits for
its reply, or while 1,024 flits wait for their acknowledgement; what is not acknowledged after 1 µs is sent again whole. -/
def Sys2Proof.Claims.FlitsAreSent : Prop :=
  ∀ (s : State) (d vc : Nat) (body : Body) (m : Msg),
    let l := s.link d
    let r := s.link (otherDir d)
    (∃ f, (s.transmit d vc body).link d = { l with
        wire := l.wire ++ [(f, f.crc)], seq := l.seq + 1, replay := l.replay ++ [(f, 0)], since := l.since + 1,
        lastAck := if l.replay = [] then s.now else l.lastAck } ∧
      f.seq = l.seq ∧ f.ack = r.rxSeq ∧ f.nak = r.nak ∧ f.body = body ∧
      (∀ v < 4, 0 < r.freed.getD v 0 → (∀ u < v, r.freed.getD u 0 = 0) →
        f.rvc.toNat = v ∧ f.rcnt.toNat = min 255 (r.freed.getD v 0) ∧
          ((s.transmit d vc body).link (otherDir d)).freed = r.freed.modify v (· - min 255 (r.freed.getD v 0))) ∧
      ((∀ v < 4, r.freed.getD v 0 = 0) →
        f.rcnt = 0 ∧ ((s.transmit d vc body).link (otherDir d)).freed = r.freed)) ∧
    (l.open_ = true → l.replay.length < 1024 → l.audit = none → vc < 4 → 0 < l.avail.getD vc 0 →
      ((s.sendFlit d vc m).link d).avail = l.avail.modify vc (· - 1) ∧ ((s.sendFlit d vc m).link d).seq = l.seq + 1) ∧
    ((1024 ≤ l.replay.length ∨ l.audit ≠ none ∨ l.avail.getD vc 0 = 0) → s.sendFlit d vc m = s) ∧
    (s.replayDue l = true →
      let again := l.replay.map fun x => ({ x.1 with ack := r.rxSeq, nak := r.nak }, x.2 + 1)
      exec (.replayTimeout d) s = .next (s.putLink d { l with
        wire := l.wire ++ again.map (fun x => (x.1, x.1.crc)), replay := again, lastAck := s.now }))

/-- R488 to R491: a flit with its CRC and the next SEQ is accepted: that SEQ is the last accepted, NAK is clear, a message takes a
receive slot, an audit is to be answered; and its header tells the sender on its side what has been acknowledged and which slots
are free.  A damaged flit and one out of order are dropped with NAK set.  The reply of an audit that was given up answers nothing. -/
def Sys2Proof.Claims.FlitsAreReceived : Prop :=
  ∀ (s : State) (d : Nat) (f : Flit) (w : List (Flit × BitVec 64)),
    let l := s.link d
    let r := s.link (otherDir d)
    l.wire = (f, f.crc) :: w → l.open_ = true → r.reply = none →
    (f.seq = l.rxSeq + 1 →
      ∃ s', exec (.flitReceive d true) s = .next s' ∧
        (s'.link d).rxSeq = f.seq ∧ (s'.link d).nak = false ∧ (s'.link d).wire = w ∧
        (s'.link d).rx = (match f.body with | .msg _ => l.rx ++ [f] | _ => l.rx) ∧
        ((∃ a, f.body = .audit a) → (s'.link d).asked = l.asked + 1) ∧
        (s'.link (otherDir d)).avail = r.avail.modify f.rvc.toNat (· + f.rcnt.toNat) ∧
        (f.nak = false → (s'.link (otherDir d)).replay = dropAcked f.ack r.replay) ∧
        ∀ v p, f.body = .reply v p →
          (0 < r.missed → (s'.link (otherDir d)).reply = none ∧ (s'.link (otherDir d)).missed = r.missed - 1) ∧
          (r.missed = 0 → r.audit ≠ none → (s'.link (otherDir d)).reply = some (v, p))) ∧
    (∀ ok, (ok = false ∨ f.seq ≠ l.rxSeq + 1) →
      ∃ s', exec (.flitReceive d ok) s = .next s' ∧ (s'.link d).nak = true ∧ (s'.link d).rxSeq = l.rxSeq ∧
        (s'.link d).rx = l.rx ∧ (s'.link d).wire = w ∧ ∀ e, e ≠ d → s'.link e = s.link e)

/-- R490, R491: an audit starts with A in a flit and a clean count; the receiver answers with V, its free slots less those that
are occupied, and P, what it has freed and not returned, which it then has returned, once for every audit it has accepted; the reply makes A what the receiver says it is; one that says more than
a channel has, and one that is 4 µs late, fails: A stays, and a new audit is due. -/
def Sys2Proof.Claims.AuditsCount : Prop :=
  ∀ (s : State) (d : Nat),
    let l := s.link d
    let failed : Link := { l with
      audit := none, reply := none, missed := l.missed + (l.audit.isSome && l.reply.isNone).toNat
      badAudit := l.badAudit + 1, since := 65536 }
    (l.auditDue = true → ∃ s' f, exec (.auditStart d) s = .next s' ∧ (s'.link d).wire = l.wire ++ [(f, f.crc)] ∧
      f.body = .audit l.avail ∧ (s'.link d).audit = some s.now ∧ (s'.link d).since = 0 ∧ (s'.link d).avail = l.avail) ∧
    (∃ f, ((s.replyAudit d).link (otherDir d)).wire = (s.link (otherDir d)).wire ++ [(f, f.crc)] ∧
      f.body = .reply ((List.range 4).map fun v => vcSlots.getD v 0 - l.occupied v) l.freed ∧
      ((s.replyAudit d).link d).asked = l.asked - 1 ∧ ((s.replyAudit d).link d).freed = [0, 0, 0, 0]) ∧
    (∀ vs ps, l.reply = some (vs, ps) → l.open_ = true → l.resend = false →
      ((∃ v < 4, vcSlots.getD v 0 < vs.getD v 0) → exec (.auditReply d) s = .next (s.putLink d failed)) ∧
      ((∀ v < 4, vs.getD v 0 ≤ vcSlots.getD v 0) →
        (∃ s', exec (.auditReply d) s = .next s' ∧
          s'.link d = { l with avail := vs, audit := none, reply := none, badAudit := 0 }) ∧
        ((∀ v < 4, l.avail.getD v 0 + ps.getD v 0 = vs.getD v 0) →
          exec (.auditReply d) s = .next (s.putLink d { l with avail := vs, audit := none, reply := none, badAudit := 0 })))) ∧
    (s.auditLate l = true → exec (.auditTimeout d) s = .next (s.putLink d failed))

/-- R487 to R491.  Constructors: flitReceive, replayTimeout, auditStart, auditReply, auditTimeout. -/
def Obligations.LinkFlitsAndAudits : Prop :=
  Claims.FlitLayout ∧ Claims.FlitsAreSent ∧ Claims.FlitsAreReceived ∧ Claims.AuditsCount

/-- R493: a route is the first link, up, of a shortest path, and there is one wherever there is a path. -/
def Sys2Proof.Claims.RoutesAreShortest : Prop :=
  ∀ (s : State) (a b : Nat),
    (∀ e, s.route a b = some e → dirFrom e = a ∧ s.linkUp (e / 2) = true ∧
      ∃ n, s.distance a b = some (n + 1) ∧ s.distance (dirTo e) b = some n) ∧
    (∀ n, s.distance a b = some (n + 1) → (s.route a b).isSome = true)

/-- R495: a component holds the dies that up links join, and the component that is kept is that of the lowest die among those of the
components with the most dies that are not fenced. -/
def Sys2Proof.Claims.TheLargestComponentIsKept : Prop :=
  ∀ (s : State),
    (∀ a < 32, ∀ b < 32, (∀ n, s.distance a b = some n → (s.component a).getLsbD b = true) ∧
      ((s.component a).getLsbD b = true → s.within b 32 (BitVec.twoPow 32 a) = true)) ∧
    (∀ m : BitVec 32, s.live m = ((List.range 32).filter fun d => m.getLsbD d && !s.deadDies.contains d).length) ∧
    (∀ e < 32, s.live (s.component e) ≤ s.live s.keptComponent) ∧
    (∀ d < 32, 0 < s.live (s.component d) → (∀ e < 32, s.live (s.component e) ≤ s.live (s.component d)) →
      (∀ e < d, s.live (s.component e) < s.live (s.component d)) → s.keptComponent = s.component d)

/-- R496, R459, R52: the tasks of a fenced die: every one that has started and had a block, its leader or its mirror there has the
status DIE_LOST, or launches no more and gets it as its last block ends. -/
def Sys2Proof.Claims.TasksOfAFencedDie : Prop :=
  ∀ (s : State) (d : Nat) (t : Task), d < 32 → d ∉ s.deadDies → t ∈ s.tasks → (s.tasks.map (·.uid)).Nodup →
    s.touches d t = true → (t.run.phase ≠ .ending → t.run.status = 0 ∨ t.run.status = 4) →
      ∃ s', exec (.dieFence d) s = .next s' ∧
        ∃ t', s'.task? t.uid = some t' ∧ (t'.run.status = 4 ∨ t'.run.lost = true)

/-- R492 to R496.  Constructors: retrain, retrainComplete, linkDown, routeInstall, dieFence, meshSplit.  A retrain keeps the
replay buffers, the counts, the SEQs and what is on the wire, and gives up an audit; one that locked is followed by an audit and a
resend, one that failed is counted; a link that must go down is down in both directions, and what its receivers have not accepted
stays; new routes always install: no link goes up or down, and what waits at dead links waits at their dies, in order, with where
it was to go; a fenced die is dead and its blocks are gone.  A message that has lost its last path is timed from then; when one has
waited 1 ms, every die outside the component that is kept is fenced.  Which dies a link joins and how directions are numbered is
log 15; which of two paths or components comes first, log 24. -/
def Obligations.LinkTrainingRoutesAndFences : Prop :=
  Claims.RoutesAreShortest ∧ Claims.TheLargestComponentIsKept ∧ Claims.TasksOfAFencedDie ∧
  ∀ (s : State) (d : Nat),
    let both (d : Nat) (f : Link → Link) : State :=
      (s.putLink (d / 2 * 2) (f (s.link (d / 2 * 2)))).putLink (d / 2 * 2 + 1) (f (s.link (d / 2 * 2 + 1)))
    ((s.link d).open_ = true → exec (.retrain d) s = .next (both d fun l =>
      { l with training := true, audit := none, reply := none
               missed := l.missed + (l.audit.isSome && l.reply.isNone).toNat })) ∧
    ((s.link d).training = true → exec (.retrainComplete d true) s = .next (both d fun l =>
      { l with training := false, resend := true, replay := l.replay.map (fun x => (x.1, 0)), lastAck := s.now })) ∧
    ((s.link d).training = true → exec (.retrainComplete d false) s = .next (both d fun l =>
      { l with fails := l.fails.filter (fun t => s.now < t + s.cyclesOfUs 1000) ++ [s.now] })) ∧
    (s.downDue d = true → ∃ s', exec (.linkDown d) s = .next s' ∧
      (∀ e, e / 2 ≠ d → s'.link e = s.link e) ∧
      ∀ e, e / 2 = d → (s'.link e).down = true ∧ (s'.link e).wire = [] ∧ (s'.link e).rx = (s.link e).rx ∧
        (s'.link e).replay = dropAcked (s.link e).rxSeq (s.link e).replay) ∧
    (∃ s', exec .routeInstall s = .next s' ∧ s'.mem = s.mem ∧ s'.groups = s.groups ∧ s'.deadDies = s.deadDies ∧
      s'.msgs = s.msgs ++ (List.range 104).flatMap (fun e => if (s.link e).down = true then
        ((s.link e).replay.filterMap fun x => x.1.msg).map (fun m => (dirFrom e, none, m)) else []) ∧
      ∀ e < 104, s'.link e = if (s.link e).down = true then { s.link e with replay := [] } else s.link e) ∧
    (d < 32 → d ∉ s.deadDies → ∃ s', exec (.dieFence d) s = .next s' ∧ d ∈ s'.deadDies ∧
      ∀ b ∈ s'.blocks, coreDie b.core ≠ d) ∧
    (let timed := s.msgs.map fun x => (x.1, if s.cut x = true then some (x.2.1.getD s.now) else none, x.2.2)
     let late := ∃ x ∈ timed, ∃ t, x.2.1 = some t ∧ t + s.cyclesOfUs 1000 ≤ s.now
     (¬ late → exec .meshSplit s = .next { s with msgs := timed }) ∧
     (late → ∃ s', exec .meshSplit s = .next s' ∧
       (∀ e, e ∈ s'.deadDies ↔ e ∈ s.deadDies ∨ e < 32 ∧ s.keptComponent.getLsbD e = false) ∧
       ∀ e < 32, s.keptComponent.getLsbD e = false → e ∉ s.deadDies → ∀ b ∈ s'.blocks, coreDie b.core ≠ e))

/-! ### The host's side -/

/-- R431: a write of a ring's base or size is ignored while the ring is not empty, and for a value out of range. -/
def Sys2Proof.Claims.IgnoredRegisterWrites : Prop :=
  ∀ (s : State) (fn : Nat) (x : BitVec 64),
    let f := s.fn fn
    let base : Prop := x.toNat % 4096 = 0
    let size (lo hi : Nat) : Prop := x = 0 ∨ lo ≤ x.toNat ∧ x.toNat ≤ hi
    let same (off : Nat) : Prop := exec (.registerWrite fn off x) s = .next (s.putFn fn f)
    s.fnExists fn = true →
      ((f.cmdTail ≠ f.cmdHead ∨ ¬ base) → same 0x10) ∧ ((f.cmdTail ≠ f.cmdHead ∨ ¬ size 4 12) → same 0x18) ∧
      ((f.evtTail ≠ f.evtHead ∨ ¬ base) → same 0x30) ∧ ((f.evtTail ≠ f.evtHead ∨ ¬ size 6 16) → same 0x38)

/-- R430, R502: an access through an aperture that is not set, that runs past its 4 GiB, that a page does not map or does not
permit, or whose home is fenced, has no effect but an Unsupported Request and a HOST_ACCESS record.  (What the record holds:
DESIGN CHOICE, log 81.) -/
def Sys2Proof.Claims.RefusedApertureAccesses : Prop :=
  ∀ (s : State) (fn off n : Nat) (data : Option (List (BitVec 8))),
    let f := s.fn fn
    let refused (r : RecInfo) : Host.Outcome State Fault Refusal :=
      let t := s.record r
      .next (t.putFn fn { t.fn fn with reply := none })
    s.fnExists fn = true → s.fleet.op < 4 →
      (f.apert = none → exec (.bar4Access fn off n data) s =
        refused { type := 10, part := if fn = 0 then none else some (fn - 1), faddr := dw off }) ∧
      ∀ part c base, f.apert = some (part, c, base) →
        let va := base + off
        (2 ^ 32 < off + n ∨ s.translate part c va = none ∨ s.translate part c (va + n - 1) = none ∨
          (∃ p q, s.translate part c va = some p ∧ s.translate part c (va + n - 1) = some q ∧
            ((data ≠ none ∧ (p.write && q.write) = false) ∨ (data = none ∧ (p.read && q.read) = false) ∨
              s.homeUp p = false))) →
          exec (.bar4Access fn off n data) s =
            refused { type := 10, part := some part, ctx := some c, faddr := dw va }

/-- R430 to R433, R438 to R441.  Constructors: registerWrite, cmdtail, evthead, doorbell, bar4Access, eventStoreDrain,
interruptCoalesceExpiry, for a function that exists.  A base or a size is written only while its ring is empty and the value is
in range, INTCTL keeps its low 18 bits, every other register keeps its value; a CMDTAIL ahead of the last hands over the entries
between, one that moves back takes those after it back, one out of range stops the ring with CMDERR, and the register holds
what was written in any case, and a command in execution
stays at the head; EVTHEAD is written; a doorbell in range moves the tail of its queue, one out of range stops it with QUEUE_ERROR,
and either looks at every counter wait again; a read through the aperture of a function, PF0 or a VF, gives the bytes at the
physical address, a write stores them there, and in OP4 and OFF it is refused; the end of an interval raises just the vectors that
it held.  Which writes clear a poisoned sector (`cleanSectors`) is log 41; what becomes of a CMDTAIL that moves back, log 42. -/
def Obligations.HostRegistersRingsAndAperture : Prop :=
  Claims.IgnoredRegisterWrites ∧ Claims.RefusedApertureAccesses ∧
  ∀ (s : State) (fn : Nat) (x : BitVec 64),
    let f := s.fn fn
    s.fnExists fn = true →
    (f.cmdTail = f.cmdHead → x.toNat % 4096 = 0 →
      exec (.registerWrite fn 0x10 x) s = .next (s.putFn fn { f with cmdBase := x })) ∧
    (f.evtTail = f.evtHead → x.toNat % 4096 = 0 →
      exec (.registerWrite fn 0x30 x) s = .next (s.putFn fn { f with evtBase := x })) ∧
    (f.cmdTail = f.cmdHead → (x = 0 ∨ 4 ≤ x.toNat ∧ x.toNat ≤ 12) →
      exec (.registerWrite fn 0x18 x) s = .next (s.putFn fn { f with cmdSize := x })) ∧
    (f.evtTail = f.evtHead → (x = 0 ∨ 6 ≤ x.toNat ∧ x.toNat ≤ 16) →
      exec (.registerWrite fn 0x38 x) s = .next (s.putFn fn { f with evtSize := x })) ∧
    exec (.registerWrite fn 0x50 x) s = .next (s.putFn fn { f with intctl := x &&& 0x3FFFF }) ∧
    (∀ off, off ∉ [0x10, 0x18, 0x30, 0x38, 0x50] → exec (.registerWrite fn off x) s = .next (s.putFn fn f)) ∧
    (let entries (a b : BitVec 64) := (List.range (b - a).toNat).map fun i => (fn, a + BitVec.ofNat 64 i)
     f.cmdErr = false → f.cmdSize ≠ 0 → s.cmdq.filter (fun c => c.1 == fn) = entries f.cmdHead f.cmdTail →
      (x - f.cmdHead).toNat ≤ 2 ^ f.cmdSize.toNat →
      ((f.cmdTail - f.cmdHead).toNat ≤ (x - f.cmdHead).toNat →
        exec (.cmdtail fn x) s = .next { s.putFn fn { f with cmdTail := x } with cmdq := s.cmdq ++ entries f.cmdTail x }) ∧
      ((x - f.cmdHead).toNat ≤ (f.cmdTail - f.cmdHead).toNat → s.fleet.busy = false →
        ∃ q, exec (.cmdtail fn x) s = .next { s.putFn fn { f with cmdTail := x } with cmdq := q } ∧
          q.filter (fun c => c.1 == fn) = entries f.cmdHead x ∧
          q.filter (fun c => c.1 != fn) = s.cmdq.filter (fun c => c.1 != fn))) ∧
    (f.cmdErr = false → f.cmdSize ≠ 0 → s.fleet.busy = false → 2 ^ f.cmdSize.toNat < (x - f.cmdHead).toNat →
      exec (.cmdtail fn x) s = .next { s.putFn fn { f with cmdTail := x, cmdErr := true } with
        cmdq := s.cmdq.filter (fun c => c.1 != fn) }) ∧
    (f.cmdErr = true ∨ f.cmdSize = 0 → exec (.cmdtail fn x) s = .next (s.putFn fn { f with cmdTail := x })) ∧
    (∃ t, exec (.cmdtail fn x) s = .next t ∧ (s.fleet.busy = true → s.cmdq ≠ [] → t.cmdq.head? = s.cmdq.head?)) ∧
    exec (.evthead fn x) s = .next (s.putFn fn { f with evtHead := x }) ∧
    (∀ c q (y : Queue), fn ≠ 0 → c < 64 → q < 512 → s.queue? (fn - 1) c q = some y → y.dev = false → y.stopped = false →
      let looked (t : State) : State := t.ctxs.foldl (fun t k => t.reWait k.part k.num) t
      let ahead := (dw x.toNat - dw y.head).toNat
      (ahead ≤ y.slots → y.tail - y.head ≤ ahead →
        exec (.doorbell fn (4096 * c + 8 * q) x) s = .next (looked (s.putQueue { y with tail := y.head + ahead }))) ∧
      ((y.slots < ahead ∨ ahead < y.tail - y.head) →
        exec (.doorbell fn (4096 * c + 8 * q) x) s =
          .next (looked ((s.putQueue { y with stopped := true }).queueError (fn - 1) c q)))) ∧
    (∀ part c base off n p q data, s.fleet.op < 4 → f.apert = some (part, c, base) → off + n ≤ 2 ^ 32 →
      s.translate part c (base + off) = some p → s.translate part c (base + off + n - 1) = some q →
      q.pa = p.pa + n - 1 → s.homeUp p = true →
      (p.read = true → q.read = true →
        exec (.bar4Access fn off n none) s = .next (s.putFn fn { f with reply := some (s.homeRead part p.pa n) })) ∧
      (p.write = true → q.write = true →
        exec (.bar4Access fn off n (some data)) s = .next
          (((s.homeWrite part p.pa (data.take n)).cleanSectors p.pa n).putFn fn { f with reply := some [] }))) ∧
    (∀ off n data, 4 ≤ s.fleet.op → exec (.bar4Access fn off n data) s = .next (s.putFn fn { f with reply := none })) ∧
    (∀ r t, f.store = r :: t → f.evtRoom = true →
      exec (.eventStoreDrain fn) s = .next ((s.putFn fn { f with store := t }).ringRecord fn r)) ∧
    ∃ sent, exec (.interruptCoalesceExpiry fn) s = .next (s.putFn fn { f with
        due := f.due.filter (fun d => decide (s.now < d.2)), sentAt := sent
        raised := f.raised ++ (f.due.filter fun d => decide (d.2 ≤ s.now)).map (·.1) }) ∧
      ∀ v, getKey 0 v sent = if v ∈ (f.due.filter fun d => decide (d.2 ≤ s.now)).map (·.1) then s.now
        else getKey 0 v f.sentAt

/-- R436, R444, R104: a context ended, as an FLR of its VF ends it: no queue, task or context of that number is left in the
partition; every block of an uncompleted task is gone; and the one uncompleted task of a context that has one completes with
ABORTED, when its written L1 bytes have been written back. -/
def Sys2Proof.Claims.AContextEnds : Prop :=
  ∀ (s : State) (part ctx : Nat),
    let s' := s.endCtx part ctx
    let mine (t : Task) : Prop := t.part = part ∧ t.ctx = ctx
    (∀ q ∈ s'.queues, ¬(q.part = part ∧ q.ctx = ctx)) ∧ (∀ t ∈ s'.tasks, ¬ mine t) ∧
    (∀ c ∈ s'.ctxs, ¬(c.part = part ∧ c.num = ctx)) ∧
    (∀ b ∈ s'.blocks, ∀ t ∈ s.tasks, mine t → t.run.phase ≠ .done → b.task ≠ t.uid) ∧
    (∀ t, s.task? t.uid = some t → mine t → t.run.phase ≠ .done →
      (∀ u ∈ s.tasks, mine u → u.run.phase ≠ .done → u = t) → (s.tasks.filter (·.uid == t.uid)).length = 1 →
      ∃ (s1 : State) (t1 : Task), s1.task? t.uid = some t1 ∧ t1.hdr = t.hdr ∧
        (∀ c, ∀ x ∈ (s1.core c).l1, ¬(x.part = part ∧ x.ctx = ctx)) ∧
        s'.mem = ((s1.putTask { t1 with run := { t1.run with status := 2 } }).completeTask t.uid).mem ∧
        s'.hmem = ((s1.putTask { t1 with run := { t1.run with status := 2 } }).completeTask t.uid).hmem)

/-- R431, R444, R496, R504.  Constructors: moduleReset, functionLevelReset.  A module reset, and an FLR of PF0, leave no
partition, context, queue, task, block, group or pending command, module memory and the LLC empty, the links and the registers at their
reset values, and OP4; the error log and the host's memory stay.  An FLR of a VF takes its contexts with their queues and tasks, and its registers; its partition stays, with its dies, quota, slots,
ways, second stage, keys and images.  That module
memory is empty after a reset is log 4; what CMDHEAD, EVTTAIL and EVTDROP hold after one (`Fn.idle`), log 5. -/
def Obligations.Resets : Prop :=
  Claims.AContextEnds ∧
  ∀ (s : State) (fn : Nat),
    (∃ t, exec .moduleReset s = .next t ∧ exec (.functionLevelReset 0) s = .next t ∧ t.parts = [] ∧ t.ctxs = [] ∧
      t.queues = [] ∧ t.tasks = [] ∧ t.blocks = [] ∧ t.groups = [] ∧ t.cmdq = [] ∧ t.fns = [] ∧ t.links = [] ∧ t.mem = [] ∧
      t.llc = [] ∧ t.deadDies = [] ∧ t.fleet.op = 4 ∧ t.hmem = s.hmem ∧ t.fleet.errlog = s.fleet.errlog) ∧
    (fn ≠ 0 → s.fnExists fn = true → ∃ t, exec (.functionLevelReset fn) s = .next t ∧ t.fn fn = Fn.idle ∧
      (∀ c ∈ t.cmdq, c.1 ≠ fn) ∧ (∀ c ∈ t.ctxs, c.part ≠ fn - 1) ∧
      (∀ x ∈ t.queues, x.part = fn - 1 → ∀ c ∈ s.ctxs, c.part = fn - 1 → c.num ≠ x.ctx) ∧
      (∀ x ∈ t.tasks, x.part = fn - 1 → ∀ c ∈ s.ctxs, c.part = fn - 1 → c.num ≠ x.ctx) ∧
      ∀ p, s.part? (fn - 1) = some p → ∃ p', t.part? (fn - 1) = some p' ∧ p'.dies = p.dies ∧ p'.quota = p.quota ∧
        p'.slotMask = p.slotMask ∧ p'.ways = p.ways ∧ p'.maps = p.maps ∧ p'.keys = p.keys ∧ p'.images = p.images ∧
        p'.tenantOk = p.tenantOk ∧ p'.pinned = p.pinned)

/-! ### Operating points, sensors, the side-band, SPDM -/

/-- R500 to R505.  Constructors: opTransitionDone, thermhalt, sensorRefresh, patrolScrub, entdaa, mctpControl, pldmSensorRead,
readErrlog, errlogInfo.  A transition among OP0 to OP2 changes the operating point; from there to OP3 or, through it, to OP4 the
groups stand still, and on the way back they go on; nothing survives OFF, and its error log is empty; a temperature of 110 °C or more
stops the groups and enters THERMHALT with a record; a refresh takes the reading; the scrubber poisons a word it cannot correct; an
address is assigned to the module's provisioned ID, which carries the vendor value; and replies go out on MCTP under their message types, those of the vendor under
vendor ID and command: up to 8 records from a SEQ on, or the oldest and the newest SEQ.  The codes of the message types, and the
bytes that the protocols leave, are log 11; that the halt is reached at once, log 32. -/
def Sys2Proof.Claims.FleetAndSideBand : Prop :=
  ∀ (s : State) (id n : Nat) (v : Int) (a : BitVec 7),
    let sent (b : List Byte) : State := { s with fleet := { s.fleet with out := s.fleet.out ++ [(.mctp, b)] } }
    let at_ (op : Nat) (next : Option Nat) : State := { s with fleet := { s.fleet with op := op, opTarget := next } }
    let vendor (cmd : Byte) (b : List Byte) : List Byte := [0x7E, 0x1F, 0x6B, cmd] ++ b
    (s.fleet.opTarget = some n → n ≠ 5 → s.fleet.op ≠ 5 →
      ((s.fleet.op ≤ 2 ↔ n ≤ 2) → exec .opTransitionDone s = .next (at_ n none)) ∧
      (s.fleet.op ≤ 2 → n = 3 → exec .opTransitionDone s = .next (at_ 3 none).standStill) ∧
      (s.fleet.op ≤ 2 → 3 < n → exec .opTransitionDone s = .next (at_ 3 (some n)).standStill) ∧
      (3 ≤ s.fleet.op → n ≤ 2 → exec .opTransitionDone s = .next (at_ n none).goOnAll)) ∧
    (s.fleet.opTarget = some n → n = 5 ∨ s.fleet.op = 5 →
      ∃ t, exec .opTransitionDone s = .next t ∧ t.fleet.op = n ∧ t.fleet.opTarget = none ∧ t.parts = [] ∧ t.ctxs = [] ∧
        t.queues = [] ∧ t.tasks = [] ∧ t.blocks = [] ∧ t.groups = [] ∧ t.cmdq = [] ∧ t.fns = [] ∧ t.mem = [] ∧ t.llc = [] ∧
        (n = 5 → t.fleet.errlog = [])) ∧
    (0x100 ≤ id → id < 0x180 → 110 ≤ s.fleet.sensor id → s.fleet.thermhalt = false → s.fleet.op ≠ 5 →
      exec (.thermhalt id) s = .next
        (State.record (State.standStill { s with fleet := { s.fleet with thermhalt := true } }) { type := 8, detail := dw id })) ∧
    ((id = 1 ∨ id = 2 ∨ 0x100 ≤ id ∧ id < 0x120 ∨ 0x140 ≤ id ∧ id < 0x180) →
      ∃ t, exec (.sensorRefresh id v) s = .next t ∧ t.fleet.sensor id = v ∧ t.fleet.op = s.fleet.op ∧ t.mem = s.mem) ∧
    (exec (.patrolScrub n .clean) s = .next s ∧
      ∃ t, exec (.patrolScrub n .uncorrectable) s = .next t ∧ n / 8 * 8 ∈ t.bad ∧ t.mem = s.mem) ∧
    (Config.provisionedId.extractLsb' 33 15 = 0x1F6B#15) ∧
    (s.side = .daa a → exec .entdaa s = .next { s with fleet := { s.fleet with
      i3cAddr := some a, out := s.fleet.out ++ [(.mctp, (bytesOf 6 Config.provisionedId.toNat).reverse)] } }) ∧
    (∀ e, s.side = .mctp e → exec .mctpControl s = .next { s with fleet := { s.fleet with
      eid := e.getD s.fleet.eid, out := s.fleet.out ++ [(.mctp, 0x00 :: Config.mctpBody e)] } }) ∧
    (s.side = .sensor id → exec .pldmSensorRead s = .next (sent (0x01 :: Config.pldmBody id (s.reading id)))) ∧
    (∀ start : BitVec 32, s.side = .errlog start → exec .readErrlog s = .next (sent
      (vendor 1 (((s.fleet.errlog.filter fun r => start.toNat ≤ recordSeq r).take 8).flatMap fun r => bytesOf 64 r.toNat)))) ∧
    (∀ r t, s.side = .errlogInfo → s.fleet.errlog = r :: t → exec .errlogInfo s = .next (sent
      (vendor 2 (bytesOf 4 (recordSeq r) ++ bytesOf 4 (recordSeq ((r :: t).getLast (List.cons_ne_nil r t)))))))

/-- R485, R486.  Constructors: getVersion, getCapabilities, negotiateAlgorithms, getDigests, getCertificate, challenge,
getMeasurements, unsupportedRequest.  Each answers on the path it came by, on MCTP under the type of SPDM, and changes nothing
else; a response bears version 1.3 and what the module supports: capabilities without sessions, KEY_EXCHANGE, PSK or mutual
authentication, the algorithms ECDSA P-384 and SHA-384, and certificate slot 0, the only one that has a chain; a measurement that
the path may see is in the reply; any other request is answered with an ERROR.  The codes are those of SPDM 1.3, and the bytes around
the values free (log 11). -/
def Sys2Proof.Claims.SpdmAnswers : Prop :=
  ∀ (s : State),
    let v := s.spdm.via
    let sent (b : List Byte) : Host.Outcome State Fault Refusal :=
      .next { s with fleet := { s.fleet with out := s.fleet.out ++ [(v, (if v = .mctp then [0x05] else []) ++ b)] } }
    let body (x : List Byte) : List Byte := 0x13 :: x ++ Config.spdmBody s.spdm.code s.spdm.param x
    exec .getVersion s = sent (body [0x13]) ∧ exec .getCapabilities s = sent (body [0x16, 0, 0, 0]) ∧
    exec .negotiateAlgorithms s = sent (body [4, 0, 0, 0, 0x80, 0, 0, 0, 2, 0, 0, 0]) ∧ exec .getDigests s = sent (body [1]) ∧
    (s.spdm.param.toNat % 16 = 0 → exec .getCertificate s = sent (body [0]) ∧ exec .challenge s = sent (body [0])) ∧
    (s.spdm.param.toNat % 16 ≠ 0 →
      exec .getCertificate s = sent (Config.spdmError false) ∧ exec .challenge s = sent (Config.spdmError false)) ∧
    exec .unsupportedRequest s = sent (Config.spdmError true) ∧
    (∀ b, s.spdm.param ≠ 0 → s.spdm.param ≠ 0xFF → s.measurement v s.spdm.param.toNat = some b →
      exec .getMeasurements s = sent (body b)) ∧
    (s.spdm.param ≠ 0 → s.spdm.param ≠ 0xFF → s.measurement v s.spdm.param.toNat = none →
      exec .getMeasurements s = sent (Config.spdmError false))

/-- R485, R486, R500 to R505: operating points, sensors, the side-band and SPDM. -/
def Obligations.SideBandAndAttestation : Prop :=
  Claims.FleetAndSideBand ∧ Claims.SpdmAnswers

/-! ### Commands -/

/-- R433, R434, R437, R440: how a command completes.  Its status, six zero bytes and RESULT go to bytes 48 to 63 of its entry in
host memory, CMDHEAD advances by one, the command leaves the queue, vector 0 is raised where it is enabled, and nothing else of the
machine changes, but that a CMDTAIL which a write has moved back to the entry in execution now lies behind CMDHEAD: CMDERR. -/
def Obligations.CommandCompletion : Prop :=
  ∀ (s : State) (f : Nat) (c : Dword) (rest : List (Nat × Dword)) (status : Nat) (result : Dword),
    s.cmdq = (f, c) :: rest →
    let t := s.finishCmd status result
    let at_ := f * 2 ^ 64 + ((s.fn f).cmdBase.toNat + 64 * (c.toNat % 2 ^ (s.fn f).cmdSize.toNat))
    t.hmem = cellWrite s.hmem (at_ + 48) (bytesOf 2 status ++ List.replicate 6 0 ++ bytesOf 8 result.toNat) ∧
      t.fn f = { s.fn f with
        cmdHead := (s.fn f).cmdHead + 1
        cmdErr := (s.fn f).cmdErr || (s.fn f).cmdTail == (s.fn f).cmdHead
        raised := (s.fn f).raised ++ (if (s.fn f).intctl.getLsbD 16 then [0] else []) } ∧
      (∀ e, e ≠ f → t.fn e = s.fn e) ∧
      t = { s with hmem := t.hmem, fns := t.fns, cmdq := rest, fleet := { s.fleet with busy := false } }

/-- R436, R437, R503: a command with a reserved bit set is refused with BAD_ARG, one of PF0 from a VF with NOT_PERMITTED, an
unknown opcode with BAD_OPCODE, and in THERMHALT every command but IDENTIFY, MEASURE_LOG and SET_OP with THERMAL; a refusal
changes nothing.  A VF command from PF0 with PV 0 is NOT_PERMITTED, one for a partition that does not exist NOT_FOUND; PV or PART
from a VF, and on a command of PF0, is BAD_ARG.  Constructor: badOpcode.  Which status a command has to which two apply is log
26. -/
def Obligations.CommandRefusals : Prop :=
  ∀ (s : State),
    exec .badOpcode s = .next (s.finishCmd 1 0) ∧
    (s.fleet.thermhalt = false → s.cmd.rsvd = true → ∀ i ∈ [Instr.portConfig, .partCreate, .partDestroy, .partResize, .setPmc, .ctxCreate,
      .ctxDestroy, .queueCreate, .queueDestroy, .map, .unmap, .map2, .invalCommand, .imageLoad, .imagePolicy, .keyEnroll,
      .faultReplay, .faultDecline, .setHandler, .debugAttach, .debugDetach, .debugResume, .debugWindow, .aperture],
        exec i s = .next (s.finishCmd 2 0)) ∧
    (s.cmd.rsvd = true → exec .identify s = .next (s.finishCmd 2 0) ∧ exec .measureLog s = .next (s.finishCmd 2 0) ∧
      exec .setOp s = .next (s.finishCmd 2 0)) ∧
    (s.fleet.thermhalt = true → s.fleet.busy = false → ∀ i ∈ [Instr.portConfig, .partCreate, .partDestroy, .partResize,
      .setHandler, .setPmc, .ctxCreate, .ctxDestroy, .queueCreate, .queueDestroy, .map, .unmap, .map2, .invalCommand,
      .imageLoad, .imagePolicy, .keyEnroll, .faultReplay, .faultDecline, .debugAttach, .debugDetach, .debugResume,
      .debugWindow, .aperture], exec i s = .next (s.finishCmd 12 0)) ∧
    (s.fleet.thermhalt = false → s.cmd.rsvd = false → s.cmd.fn ≠ 0 → s.cmd.a1 = 0 → s.cmd.a2 = 0 → s.cmd.a3 = 0 →
      s.cmd.a4 = 0 → ∀ i ∈ [Instr.portConfig, .partCreate, .partDestroy, .partResize, .setPmc, .map2, .imagePolicy, .keyEnroll, .setOp],
        exec i s = .next (s.finishCmd 3 0)) ∧
    (s.fleet.thermhalt = false → s.cmd.rsvd = false → s.cmd.a1 = 0 → s.cmd.a2 = 0 → s.cmd.a3 = 0 → s.cmd.a4 = 0 →
      (s.cmd.fn = 0 → (s.cmd.pv = true ∨ s.cmd.part ≠ 0) → ∀ i ∈ [Instr.portConfig, .partCreate, .partDestroy, .partResize,
        .setPmc, .map2, .imagePolicy, .keyEnroll, .setOp, .measureLog, .invalCommand], exec i s = .next (s.finishCmd 2 0)) ∧
      ∀ i ∈ [Instr.setHandler, .ctxCreate, .ctxDestroy, .queueCreate, .queueDestroy, .map, .unmap, .imageLoad, .faultReplay,
        .faultDecline, .debugAttach, .debugDetach, .debugResume, .debugWindow, .aperture],
        (s.cmd.fn = 0 → s.cmd.pv = false → exec i s = .next (s.finishCmd 3 0)) ∧
        (s.cmd.fn = 0 → s.cmd.pv = true → s.part? s.cmd.part.toNat = none → exec i s = .next (s.finishCmd 5 0)) ∧
        (s.cmd.fn ≠ 0 → (s.cmd.pv = true ∨ s.cmd.part ≠ 0) → exec i s = .next (s.finishCmd 2 0)) ∧
        (s.cmd.fn ≠ 0 → s.cmd.pv = false → s.cmd.part = 0 → s.part? (s.cmd.fn - 1) = none →
          exec i s = .next (s.finishCmd 5 0)))

namespace Sys2Proof.Claims

open Sys2Proof.Machine

/-- A command that may be executed for partition `n`, by its VF or by PF0 in its name: no reserved bit, no THERMHALT, and its
header as R436 has it. -/
structure Issued (s : State) (n : Nat) : Prop where
  rsvd : s.cmd.rsvd = false
  heat : s.fleet.thermhalt = false
  head : (s.cmd.fn = n + 1 ∧ s.cmd.pv = false ∧ s.cmd.part = 0) ∨
    (s.cmd.fn = 0 ∧ s.cmd.pv = true ∧ s.cmd.part.toNat = n)

/-- The same for PF0. -/
structure FromPf0 (s : State) : Prop where
  rsvd : s.cmd.rsvd = false
  heat : s.fleet.thermhalt = false
  fn   : s.cmd.fn = 0
  pv   : s.cmd.pv = false
  part : s.cmd.part = 0

/-- A command that completes with OK and RESULT `r` after its effect has led to `t`. -/
def done (t : State) (r : Nat) : Host.Outcome State Fault Refusal := .next (t.finishCmd 0 (dw r))

/-- A command that completes with a status and changes nothing else. -/
def refused (s : State) (status : Nat) : Host.Outcome State Fault Refusal := .next (s.finishCmd status 0)

/-- A command that has begun and waits: it is in execution, and is looked at again. -/
def waits (t : State) : Host.Outcome State Fault Refusal := .next { t with fleet := { t.fleet with busy := true } }

/-- R436, R484, R503: IDENTIFY and MEASURE_LOG, of PF0 and of a VF, in THERMHALT too; a buffer that is too short gives NO_RESOURCE
with the length it takes. -/
def CommandsOfAnyFunction : Prop :=
  ∀ (s : State),
    let c := s.cmd
    let log (l : MLog) : Prop :=
      (l.buffer.length ≤ c.a1.toNat → exec .measureLog s = done (s.hostWrite c.fn c.a0.toNat l.buffer) l.buffer.length) ∧
      (c.a1.toNat < l.buffer.length → exec .measureLog s = .next (s.finishCmd 7 (dw l.buffer.length)))
    c.rsvd = false → c.pv = false → c.part = 0 → c.a2 = 0 → c.a3 = 0 → c.a4 = 0 →
      (c.a0 = 0 → c.a1 = 0 → exec .identify s = done s (Config.arith + 2 ^ 16 * Config.fwRelease + 2 ^ 32 * Config.revisionId +
        2 ^ 40 * (if c.fn = 0 then 0xFF else c.fn - 1))) ∧
      (c.fn = 0 → log s.fleet.modlog) ∧
      (∀ p, c.fn ≠ 0 → s.part? (c.fn - 1) = some p → log p.log) ∧
      (c.fn ≠ 0 → s.part? (c.fn - 1) = none → exec .measureLog s = refused s 5)

/-- R436, R437, R460, R461, R472, R480, R503: what the commands of PF0 are refused for. -/
def RefusalsOfTheModule : Prop :=
  ∀ (s : State) (p : Part), FromPf0 s →
    let c := s.cmd
    let tail : Prop := c.a2 = 0 ∧ c.a3 = 0 ∧ c.a4 = 0
    let onP : Prop := c.a0.toNat < 8 ∧ s.part? c.a0.toNat = some p
    let dies : BitVec 32 := c.a1.setWidth 32
    let fits (q : Quota) : Prop := ∀ y ∈ s.parts, y.num ≠ p.num → y.collides dies q p.slotMask 0 = false
    (c.a1 = 0 → tail → ∀ i ∈ [Instr.partDestroy, .partResize, .setPmc, .map2, .imagePolicy, .keyEnroll],
      (8 ≤ c.a0.toNat → exec i s = refused s 2) ∧
      (c.a0.toNat < 8 → s.part? c.a0.toNat = none → exec i s = refused s 5)) ∧
    (tail →
      (32 ≤ c.a0.toNat ∨ 2 < c.a1.toNat → exec .portConfig s = refused s 2) ∧
      (c.a0.toNat < 32 → c.a1.toNat ≤ 2 → s.ports.getD c.a0.toNat .idle = .host →
        exec .portConfig s = refused s (Config.refusedStatus 0).toNat) ∧
      (c.a0.toNat < 32 → c.a1.toNat ≤ 2 → s.ports.getD c.a0.toNat .idle ≠ .host → s.fleet.parted = true →
        exec .portConfig s = refused s (Config.refusedStatus 1).toNat) ∧
      (c.a0.toNat < 32 → c.a1 = 1 → s.ports.getD c.a0.toNat .idle ≠ .host → s.fleet.parted = false →
        16 ≤ ((s.ports.set c.a0.toNat .idle).filter (· == .cxl)).length →
        exec .portConfig s = refused s (Config.refusedStatus 2).toNat)) ∧
    ((2 ^ 32 ≤ c.a1.toNat ∨ 2 ^ 24 ≤ c.a3.toNat ∨ Quota.of c.a2.toNat = none ∨ 8 ≤ c.a0.toNat ∨ c.a1 = 0 ∨ c.a3.toNat < 256 →
      exec .partCreate s = refused s 2) ∧
      (∀ q, c.a1.toNat < 2 ^ 32 → c.a3.toNat < 2 ^ 24 → Quota.of c.a2.toNat = some q → c.a0.toNat < 8 → c.a1 ≠ 0 →
        256 ≤ c.a3.toNat →
        ((s.part? c.a0.toNat).isSome = true → exec .partCreate s = refused s 6) ∧
        (s.part? c.a0.toNat = none →
          (∃ y ∈ s.parts, y.collides dies q (c.a3.setWidth 8) (c.a3.extractLsb' 8 16) = true) →
          exec .partCreate s = refused s 7))) ∧
    (onP → c.a1 = 0 → tail → (∃ x ∈ s.ctxs, x.part = p.num) → exec .partDestroy s = refused s 4) ∧
    (onP → c.a4 = 0 → c.a3.toNat < 2 → c.a1.toNat < 2 ^ 32 → p.resize = none →
      (Quota.of c.a2.toNat = none ∨ c.a1 = 0 → exec .partResize s = refused s 2) ∧
      ∀ q, Quota.of c.a2.toNat = some q → c.a1 ≠ 0 →
        let room := s.saveRoom p.num dies q ((s.ctxs.filter fun y => y.part == p.num).length)
        (¬ fits q ∨ room = false → exec .partResize s = refused s 7) ∧
        (fits q → room = true → c.a3 = 0 →
          (∃ b ∈ s.blocks, ∃ t, b.part = p.num ∧ b.suspended = false ∧ b.kept dies q = false ∧
            s.task? b.task = some t ∧ t.hdr.coop = true) →
          exec .partResize s = refused s 8)) ∧
    (onP → Mapping.of c = none → exec .map2 s = refused s 2) ∧
    (∀ m, onP → Mapping.of c = some m → (isTier m.to_ m.len = true → m.home ≠ 63) →
      (isPeer m.to_ = false → s.memEnd < m.to_ + m.len → exec .map2 s = refused s (Config.refusedStatus 4).toNat) ∧
      ((isPeer m.to_ = true ∨ m.to_ + m.len ≤ s.memEnd) → (∃ y ∈ p.maps, meet m.from_ m.len y.from_ y.len = true) →
        exec .map2 s = refused s 6)) ∧
    (let b := s.hostRead 0 c.a1.toNat 448
     onP → tail →
      (keyBad b = true → exec .keyEnroll s = refused s 2) ∧
      (keyBad b = false → (∃ k ∈ p.keys, k.id = keyIdOf (keyBody b)) → exec .keyEnroll s = refused s 6) ∧
      (keyBad b = false → (∀ k ∈ p.keys, k.id ≠ keyIdOf (keyBody b)) → 4 ≤ p.keys.length →
        exec .keyEnroll s = refused s 7)) ∧
    (c.a1 = 0 → tail → 5 < c.a0.toNat → exec .setOp s = refused s 2)

/-- R436, R502, R503: SET_OP.  A transition under way is waited for, the present operating point is nothing to do, and THERMHALT is
left only for OFF or when every die and stack reads below 100 °C.  (That a transition which R502 does not list is accepted: DESIGN
CHOICE, log 32.) -/
def SetOpInTheHeat : Prop :=
  ∀ (s : State),
    let c := s.cmd
    c.rsvd = false → c.fn = 0 → c.pv = false → c.part = 0 → c.a1 = 0 → c.a2 = 0 → c.a3 = 0 → c.a4 = 0 → c.a0.toNat ≤ 5 →
      (s.fleet.opTarget ≠ none → exec .setOp s = waits s) ∧
      (s.fleet.opTarget = none → s.fleet.thermhalt = false → c.a0.toNat = s.fleet.op → exec .setOp s = done s 0) ∧
      (s.fleet.opTarget = none → s.fleet.thermhalt = true → c.a0.toNat ≠ 5 → s.fleet.cool = false →
        exec .setOp s = refused s 0xC) ∧
      (s.fleet.opTarget = none → s.fleet.thermhalt = true → (c.a0.toNat = 5 ∨ s.fleet.cool = true) →
        let out : State := { s with fleet := { s.fleet with thermhalt := false } }
        let on : State := if s.fleet.op ≤ 2 then out.goOnAll else out
        exec .setOp s = if c.a0.toNat = on.fleet.op then done on 0
          else done { on with fleet := { on.fleet with opTarget := some c.a0.toNat } } 0)

/-- R136, R436: INVAL of PF0, whose A0 names a partition: the command completes when no access of the partition that translated an
address of the range is outstanding.  The range is of intermediate addresses: log 28's reading. -/
def InvalOfTheModule : Prop :=
  ∀ (s : State) (p : Part), FromPf0 s →
    let c := s.cmd
    let a := c.a1.toNat
    let k := c.a2.toNat
    let mid (ctx va : Nat) : Bool :=
      match (s.ctx? p.num ctx).bind fun x => findMap va x.maps with
      | some m => decide (a ≤ m.to_ + (va - m.from_)) && decide (m.to_ + (va - m.from_) < a + k)
      | none => true
    s.part? c.a0.toNat = some p → c.a2 ≠ 0 → a % 65536 = 0 → k % 65536 = 0 → c.a3 = 0 → c.a4 = 0 →
      (s.unsettled p.num mid = false → exec .invalCommand s = done (s.llcClean p.num) 0) ∧
      (s.unsettled p.num mid = true → exec .invalCommand s = waits s)

/-- R436, R437, R465: what the commands of a partition are refused for, from its VF or from PF0 with PV 1. -/
def RefusalsOfAPartition : Prop :=
  ∀ (s : State) (n : Nat) (p : Part) (x : Ctx), Issued s n → s.part? n = some p →
    let c := s.cmd
    let zero : Prop := c.a1 = 0 ∧ c.a2 = 0 ∧ c.a3 = 0 ∧ c.a4 = 0
    let z34 : Prop := c.a3 = 0 ∧ c.a4 = 0
    let onC : Prop := c.a0.toNat < 64 ∧ s.ctx? n c.a0.toNat = some x ∧ x.num = c.a0.toNat
    let idle (m : Nat) : Prop := c.a3.toNat = 2 ^ (m + 1)
    (zero → ∀ i ∈ [Instr.ctxDestroy, .queueCreate, .queueDestroy, .map, .unmap, .debugAttach, .debugDetach, .aperture],
      (64 ≤ c.a0.toNat → exec i s = refused s 2) ∧
      (c.a0.toNat < 64 → s.ctx? n c.a0.toNat = none → exec i s = refused s 5)) ∧
    (z34 → c.a0 ≠ 0 → (2 ^ 57 ≤ c.a0.toNat ∨ 2 ^ 57 < c.a1.toNat + c.a2.toNat) → exec .setHandler s = refused s 2) ∧
    (z34 → (64 ≤ c.a0.toNat → exec .ctxCreate s = refused s 2) ∧
      (c.a0.toNat < 64 → (s.ctx? n c.a0.toNat).isSome = true → exec .ctxCreate s = refused s 6) ∧
      (c.a0.toNat < 64 → s.ctx? n c.a0.toNat = none →
        s.saveRoom n p.dies p.quota ((s.ctxs.filter fun y => y.part == n).length + 1) = false →
        exec .ctxCreate s = refused s 7)) ∧
    (onC → c.a4.toNat < 2 ^ 24 → fld c.a4.toNat 1 7 = 0 →
      let vec := fld c.a4.toNat 16 8
      let good : Prop := c.a1.toNat < 16 ∧ c.a2.toNat % 4096 = 0 ∧ (∃ m < 16, idle m) ∧ 2 ≤ vec ∧ vec ≤ 65
      (¬ good → exec .queueCreate s = refused s 2) ∧
      (good → (s.queue? n x.num c.a1.toNat).isSome = true → exec .queueCreate s = refused s 6)) ∧
    (onC → c.a2 = 0 → z34 → s.queue? n x.num c.a1.toNat = none →
      exec .queueDestroy s = refused s (if 16 ≤ c.a1.toNat then 2 else 5)) ∧
    (onC → Mapping.of c = none → exec .map s = refused s 2) ∧
    (∀ m, onC → Mapping.of c = some m → (m.home = 63 → p.tierAt m.to_ m.len = false) →
      (∃ y ∈ x.maps, meet m.from_ m.len y.from_ y.len = true) → exec .map s = refused s 6) ∧
    (onC → z34 → (c.a2 = 0 ∨ c.a1.toNat % 65536 ≠ 0 ∨ c.a2.toNat % 65536 ≠ 0 ∨
      ∃ m ∈ x.maps, meet c.a1.toNat c.a2.toNat m.from_ m.len = true ∧ (c.a1.toNat % m.size ≠ 0 ∨ c.a2.toNat % m.size ≠ 0)) →
      exec .unmap s = refused s 2) ∧
    (zero → s.packetOf n c.a0.toNat = none → s.pausedOf n c.a0.toNat = none →
      (∀ y ∈ s.parts, s.packetOf y.num c.a0.toNat = none ∧ s.pausedOf y.num c.a0.toNat = none) →
      exec .faultReplay s = refused s 5 ∧ exec .faultDecline s = refused s 5) ∧
    (∀ e, s.frozenAt n c.a0.toNat = .error e →
      (zero → exec .debugResume s = refused s e) ∧
      (c.a3.toNat < 2 → c.a4 = 0 → exec .debugWindow s = refused s e)) ∧
    (2 ^ 15 ≤ c.a0.toNat ∨ 48 ≤ fld c.a0.toNat 5 6 → s.frozenAt n c.a0.toNat = .error 2) ∧
    (∀ g, s.frozenAt n c.a0.toNat = .ok g → c.a3.toNat < 2 → c.a4 = 0 →
      ((c.a1.toNat < 0x100 ∧ g.nregs ≤ c.a1.toNat) ∨ (c.a3 = 0 ∧ (g.viewAt s.now).window c.a1.toNat = none)) →
      exec .debugWindow s = refused s 2) ∧
    (onC → c.a2 = 0 → z34 → c.a1.toNat % 2 ^ 32 ≠ 0 → exec .aperture s = refused s 2)

end Sys2Proof.Claims

/-- R19, R436, R460 to R462, R472, R474, R476, R480.  Constructors of PF0: portConfig, partCreate, partDestroy,
partResize, setPmc, map2, imagePolicy, keyEnroll, setOp.  A command that passes its checks has its effect and
completes with OK; a resize of a partition without blocks takes effect at once and completes in the step after that; PART_DESTROY
bumps G and E, which waits for the scrubber, so that the LLC lines of the partition, which stay, are stale; MAP2 refuses INTERLEAVE
for second-tier pages, and pages of a save area.  Where the second tier lies, and these refusals' statuses, are the model's (log 59);
so are SET_OP completing as its transition begins (log 32), the completion of PART_RESIZE (log 68), the lines that stay stale (log 27)
and the function whose memory the addresses of a command name (log 29). -/
def Sys2Proof.Claims.ModuleCommands : Prop :=
  ∀ (s : State) (p : Part), Claims.FromPf0 s →
    let c := s.cmd
    let tail : Prop := c.a2 = 0 ∧ c.a3 = 0 ∧ c.a4 = 0
    let onP : Prop := c.a0.toNat < 8 ∧ s.part? c.a0.toNat = some p
    (∀ r role, (r, role) ∈ [(0, Port.idle), (1, .cxl), (2, .peer)] → tail → c.a0.toNat < 32 → c.a1.toNat = r →
      s.ports.getD c.a0.toNat .idle ≠ .host → s.fleet.parted = false →
      (r = 1 → ((s.ports.set c.a0.toNat .idle).filter (· == .cxl)).length < 16) →
      exec .portConfig s = Claims.done { s with ports := s.ports.set c.a0.toNat role } 0) ∧
    (∀ q, c.a1.toNat < 2 ^ 32 → c.a3.toNat < 2 ^ 24 → Quota.of c.a2.toNat = some q → c.a0.toNat < 8 → c.a1 ≠ 0 →
      256 ≤ c.a3.toNat → s.part? c.a0.toNat = none →
      (∀ y ∈ s.parts, y.collides (c.a1.setWidth 32) q (c.a3.setWidth 8) (c.a3.extractLsb' 8 16) = false) →
      let new := Part.new s c.a0.toNat (c.a1.setWidth 32) q (c.a3.setWidth 8) (c.a3.extractLsb' 8 16) c.a4
      exec .partCreate s = Claims.done ((State.putFn { s with
        parts := s.parts ++ [new], fleet := { s.fleet with parted := true } } (c.a0.toNat + 1) Fn.idle).logEntry 6
          (some c.a0.toNat) 0xFF 0 0 (sha384 (cmdArgs c))) 0) ∧
    (onP → c.a1 = 0 → tail → (∀ x ∈ s.ctxs, x.part ≠ p.num) →
      (∀ l ∈ s.llc, l.part = p.num → l.epoch ≠ (p.genE + 1) % 32) → s.bumpWaits p = false →
      ∃ t, exec .partDestroy s = Claims.done t 0 ∧ (∀ y ∈ t.parts, y.num ≠ p.num) ∧
        getKey (0, 0) p.num t.gens = ((p.genG + 1) % 32, (p.genE + 1) % 32) ∧ t.mem = s.mem ∧
        t.llc = s.llc) ∧
    (onP → c.a4 = 0 → c.a3 = 0 → c.a1.toNat < 2 ^ 32 → p.switch = none →
      (∀ d q, p.resize = some (d, q, true) →
        exec .partResize s = Claims.done (s.putPart { p with resize := none }) 0) ∧
      ∀ q, p.resize = none → p.resident = none → s.bumpWaits p = false → (∀ b ∈ s.blocks, b.part ≠ p.num) → c.a1 ≠ 0 →
        Quota.of c.a2.toNat = some q →
        (∀ y ∈ s.parts, y.num ≠ p.num → y.collides (c.a1.setWidth 32) q p.slotMask 0 = false) →
        s.saveRoom p.num (c.a1.setWidth 32) q ((s.ctxs.filter fun y => y.part == p.num).length) = true →
        ∃ t p', exec .partResize s = .next t ∧ t.fleet.busy = true ∧ t.part? p.num = some p' ∧
          p'.dies = c.a1.setWidth 32 ∧ p'.quota = q ∧ p'.genG = (p.genG + 1) % 32 ∧ p'.resize.isSome ∧ p'.switch = none) ∧
    (onP → c.a1 &&& ~~~0x7E = 0 → tail → exec .setPmc s = Claims.done (s.putPart { p with pmcAllow := c.a1 }) 0) ∧
    (∀ m, onP → Mapping.of c = some m →
      (isTier m.to_ m.len = true → m.home = 63 → exec .map2 s = .next (s.finishCmd (Config.refusedStatus 3).toNat 0)) ∧
      ((isTier m.to_ m.len = true → m.home ≠ 63) → (isPeer m.to_ = true ∨ m.to_ + m.len ≤ s.memEnd) →
        (∀ y ∈ p.maps, meet m.from_ m.len y.from_ y.len = false) →
        (s.sparesAreas p m = false → exec .map2 s = .next (s.finishCmd (Config.refusedStatus 5).toNat 0)) ∧
        (s.sparesAreas p m = true → exec .map2 s = Claims.done (s.putPart { p with maps := p.maps ++ [m] }) 0))) ∧
    (onP → c.a1.toNat < 2 ^ 16 → fld c.a1.toNat 1 7 = 0 → tail →
      exec .imagePolicy s = Claims.done
        (s.putPart { p with tenantOk := c.a1.getLsbD 0, pinned := c.a1.extractLsb' 8 8 }) 0) ∧
    (let b := s.hostRead 0 c.a1.toNat 448
     let keys := p.keys ++ [{ id := keyIdOf (keyBody b), bytes := b }]
     onP → tail → keyBad b = false → (∀ k ∈ p.keys, k.id ≠ keyIdOf (keyBody b)) → p.keys.length < 4 →
      exec .keyEnroll s = Claims.done
        (State.logEntry (s.putPart { p with keys := keys }) 1 (some p.num) 0xFF 0 0 (sha384 (keyBody b))) 0) ∧
    (c.a1 = 0 → tail → c.a0.toNat ≤ 5 → s.fleet.opTarget = none → c.a0.toNat ≠ s.fleet.op →
      exec .setOp s = Claims.done { s with fleet := { s.fleet with opTarget := some c.a0.toNat } } 0)

/-- R19, R436, R437, R460 to R462, R472, R474, R476, R480, R484, R503: the commands of PF0 and those of any function, with what each
is refused for.  The statuses of refusals that the spec does not name are free values (logs 25 and 59). -/
def Obligations.CommandsOfTheModule : Prop :=
  Claims.ModuleCommands ∧ Claims.CommandsOfAnyFunction ∧ Claims.SetOpInTheHeat ∧ Claims.InvalOfTheModule ∧
    Claims.RefusalsOfTheModule

/-- R128, R135 to R137, R382, R385, R387, R430, R436, R465.  Constructors of a VF: setHandler, ctxCreate, ctxDestroy,
queueCreate, queueDestroy, map, unmap, invalCommand, faultReplay, faultDecline, debugAttach, debugDetach, debugResume,
debugWindow, aperture.  A command that passes its checks, from the VF or from PF0 with PV 1, has its effect and completes with OK;
UNMAP and INVAL wait for the accesses and write-backs that are outstanding, an answer to a packet for the packet's record (log 80); MAP
refuses INTERLEAVE for
second-tier pages (the status and where the tier lies are the model's, log 59); one that names a packet of another partition is
NOT_PERMITTED.  The pages of UNMAP and
INVAL and the buffers of APERTURE and DEBUG_WINDOW are the model's readings (logs 28, 29 and 31). -/
def Sys2Proof.Claims.PartitionCommands : Prop :=
  ∀ (s : State) (n : Nat) (p : Part) (x : Ctx), Claims.Issued s n → s.part? n = some p →
    let c := s.cmd
    let z1 : Prop := c.a1 = 0
    let z2 : Prop := c.a2 = 0
    let z34 : Prop := c.a3 = 0 ∧ c.a4 = 0
    let onC : Prop := c.a0.toNat < 64 ∧ s.ctx? n c.a0.toNat = some x ∧ x.num = c.a0.toNat
    (z34 → c.a0 ≠ 0 → c.a0.toNat < 2 ^ 57 → c.a1.toNat + c.a2.toNat ≤ 2 ^ 57 →
      exec .setHandler s = Claims.done (s.putPart { p with handler := some (c.a0.toNat, c.a1.toNat, c.a2.toNat) }) 0) ∧
    (z34 → c.a0 = 0 → exec .setHandler s = Claims.done (s.putPart { p with handler := none }) 0) ∧
    (let new : Ctx :=
       { part := n, num := c.a0.toNat, root := c.a1, maps := [], watchdog := c.a2.toNat, clk := 0, debug := false, saved := [] }
     z34 → c.a0.toNat < 64 → s.ctx? n c.a0.toNat = none →
      s.saveRoom n p.dies p.quota ((s.ctxs.filter fun y => y.part == n).length + 1) = true →
      exec .ctxCreate s = Claims.done { s with ctxs := s.ctxs ++ [new] } p.genG) ∧
    (onC → z2 → z34 →
      let idle := ∀ t ∈ s.tasks, t.part = n → t.ctx = x.num → t.run.phase = .done
      (c.a1 = 1 ∨ z1 ∧ idle → (p.resident ≠ some x.num ∨ s.bumpWaits p = false) → exec .ctxDestroy s = Claims.done ((s.endCtx n x.num).afterCtx n x.num) 0) ∧
      (z1 → ¬ idle → exec .ctxDestroy s = .next (s.finishCmd 4 0))) ∧
    (let new : Queue :=
       { part := n, ctx := x.num, num := c.a1.toNat, ring := c.a2.toNat, slots := c.a3.toNat, dev := bitOf c.a4.toNat 0,
         prio := fld c.a4.toNat 8 8, vec := fld c.a4.toNat 16 8, head := 0, tail := 0, stopped := false }
     onC → c.a1.toNat < 16 → c.a2.toNat % 4096 = 0 → (∃ i < 16, c.a3.toNat = 2 ^ (i + 1)) → c.a4.toNat < 2 ^ 24 →
      fld c.a4.toNat 1 7 = 0 → 2 ≤ fld c.a4.toNat 16 8 → fld c.a4.toNat 16 8 ≤ 65 → s.queue? n x.num c.a1.toNat = none →
      exec .queueCreate s = Claims.done { s with queues := s.queues ++ [new] } 0) ∧
    (∀ q, onC → z2 → z34 → s.queue? n x.num c.a1.toNat = some q → q.num = c.a1.toNat →
      let idle := (q.stopped = true ∨ q.tail ≤ q.head) ∧
        ∀ t ∈ s.tasks, t.part = n → t.ctx = x.num → t.queue = q.num → t.run.phase = .done
      (idle → ∃ t, exec .queueDestroy s = Claims.done t 0 ∧ t.queue? n x.num q.num = none) ∧
      (¬ idle → exec .queueDestroy s = .next (s.finishCmd 4 0))) ∧
    (∀ m, onC → Mapping.of c = some m →
      (m.home = 63 → p.tierAt m.to_ m.len = true → exec .map s = .next (s.finishCmd (Config.refusedStatus 3).toNat 0)) ∧
      ((m.home = 63 → p.tierAt m.to_ m.len = false) → (∀ y ∈ x.maps, meet m.from_ m.len y.from_ y.len = false) →
        exec .map s = Claims.done (s.putCtx { x with maps := x.maps ++ [m] }) 0)) ∧
    (onC → z34 → c.a2 ≠ 0 → c.a1.toNat % 65536 = 0 → c.a2.toNat % 65536 = 0 →
      (∀ m ∈ x.maps, meet c.a1.toNat c.a2.toNat m.from_ m.len = true → c.a1.toNat % m.size = 0 ∧ c.a2.toNat % m.size = 0) →
      let t := s.putCtx { x with maps := x.maps.flatMap fun m => m.cut c.a1.toNat c.a2.toNat }
      let range (k va : Nat) : Bool := k == x.num && c.a1.toNat ≤ va && va < c.a1.toNat + c.a2.toNat
      (t.unsettled n range = false → exec .unmap s = Claims.done (t.llcClean n) 0) ∧
      (t.unsettled n range = true → exec .unmap s = Claims.waits t)) ∧
    (c.fn ≠ 0 → onC → z34 → c.a2 ≠ 0 → c.a1.toNat % 65536 = 0 → c.a2.toNat % 65536 = 0 →
      let range (k va : Nat) : Bool := k == x.num && c.a1.toNat ≤ va && va < c.a1.toNat + c.a2.toNat
      (s.unsettled n range = false → exec .invalCommand s = Claims.done (s.llcClean n) 0) ∧
      (s.unsettled n range = true → exec .invalCommand s = Claims.waits s)) ∧
    (∀ range : Nat → Nat → Bool, s.unsettled n range = true ↔
      s.inUse n range = true ∨ ∃ m ∈ s.away, ∃ k y, m.kind = .wback k y ∧ y.part = n) ∧
    (∀ t, z1 → z2 → z34 →
      (s.answer n c.a0.toNat true = some t → exec .faultReplay s =
        if s.unwritten c.a0.toNat then Claims.waits s else Claims.done t 0) ∧
      (s.answer n c.a0.toNat false = some t → exec .faultDecline s =
        if s.unwritten c.a0.toNat then Claims.waits s else Claims.done t 0)) ∧
    (∀ y ∈ s.parts, z1 → z2 → z34 → s.packetOf n c.a0.toNat = none → s.pausedOf n c.a0.toNat = none →
      (s.packetOf y.num c.a0.toNat).isSome = true →
      exec .faultReplay s = .next (s.finishCmd 3 0) ∧ exec .faultDecline s = .next (s.finishCmd 3 0)) ∧
    (onC → z1 → z2 → z34 → exec .debugAttach s = Claims.done (s.putCtx { x with debug := true }) 0) ∧
    (onC → z1 → z2 → z34 →
      ((∀ g ∈ s.groups, g.frozen = false) → exec .debugDetach s = Claims.done (s.putCtx { x with debug := false }) 0) ∧
      ∀ g b, s.groups = [g] → g.frozen = true → s.block? g.block = some b → b.part = n → b.ctx = x.num →
        exec .debugDetach s = Claims.done ((s.putCtx { x with debug := false }).thaw g) 0) ∧
    (∀ g, z1 → z2 → z34 → s.frozenAt n c.a0.toNat = .ok g → exec .debugResume s = Claims.done (s.thaw g) 0) ∧
    (∀ g r, z34 → s.frozenAt n c.a0.toNat = .ok g → (c.a1.toNat < 0x100 → c.a1.toNat < g.nregs) →
      (g.viewAt s.now).window c.a1.toNat = some r →
      exec .debugWindow s = Claims.done (s.hostWrite c.fn c.a2.toNat (r.flatMap fun y => bytesOf 4 y.toNat)) 0) ∧
    (∀ g w, c.a3 = 1 → c.a4 = 0 → s.frozenAt n c.a0.toNat = .ok g → (c.a1.toNat < 0x100 → c.a1.toNat < g.nregs) →
      windowWrite c.a1.toNat (mkRow fun L =>
        wd (leOf (((s.hostRead c.fn c.a2.toNat 384).drop (4 * L)).take 4))) = some w →
      let poison := if c.a1.toNat < 0x100 then g.poison.filter (fun r => r != c.a1.toNat) else g.poison
      exec .debugWindow s = Claims.done (s.putGroup { g.push s.now g.seq w with seq := g.seq + 1, poison := poison }) 0) ∧
    (onC → z2 → z34 → c.a1.toNat % 2 ^ 32 = 0 →
      exec .aperture s = Claims.done (s.putFn c.fn { s.fn c.fn with apert := some (n, x.num, c.a1.toNat) }) 0)

/-- R128, R135 to R137, R382, R385, R387, R430, R436, R437, R465: the commands of a partition, with what each is refused for. -/
def Obligations.CommandsOfAPartition : Prop :=
  Claims.PartitionCommands ∧ Claims.RefusalsOfAPartition

/-- R476, R477, R481, R483.  Constructor: imageLoad.  The checks in order, with the first failure deciding the status: container,
key, signatures, descriptor, CRC, room, which is NO_RESOURCE where 64 images are loaded; an image that passes them all gets the lowest free tenant image id and a measurement
entry, unless the same bytes are loaded already.  That the room is tested before the known digest is log 35's. -/
def Obligations.ImageLoading : Prop :=
  ∀ (s : State) (n : Nat) (p : Part), Claims.Issued s n → s.part? n = some p →
    s.cmd.a2 = 0 → s.cmd.a3 = 0 → s.cmd.a4 = 0 → s.cmd.a1.toNat ≤ 16736 + 4 * 2 ^ 16 + 4194304 →
    let c := s.cmd
    let x := containerOf (s.hostRead c.fn c.a0.toNat c.a1.toNat)
    ((c.a0.toNat % 16 ≠ 0 ∨ x.bad c.a1.toNat = true) → exec .imageLoad s = .next (s.finishCmd 2 0)) ∧
    (c.a0.toNat % 16 = 0 → x.bad c.a1.toNat = false →
      (x.key p = none → exec .imageLoad s = .next (s.finishCmd 0xB 0)) ∧
      ∀ key, x.key p = some key →
        (x.signed key = false → exec .imageLoad s = .next (s.finishCmd 9 0)) ∧
        (x.signed key = true →
          (x.descBad = true → exec .imageLoad s = .next (s.finishCmd 0xA 0)) ∧
          (x.descBad = false → (crc32c x.payload).toNat ≠ fld x.hdr 320 32 → exec .imageLoad s = .next (s.finishCmd 2 0)) ∧
          (x.descBad = false → (crc32c x.payload).toNat = fld x.hdr 320 32 → 64 ≤ p.images.length →
            exec .imageLoad s = .next (s.finishCmd 7 0)) ∧
          (x.descBad = false → (crc32c x.payload).toNat = fld x.hdr 320 32 → p.images.length < 64 →
            (∀ i, p.images.find? (fun y => y.digest == sha384 x.bytes) = some i →
              exec .imageLoad s = Claims.done s i.id) ∧
            (p.images.find? (fun y => y.digest == sha384 x.bytes) = none →
              ∃ id, (∀ y ∈ p.images, y.id ≠ id) ∧ 0x1000 ≤ id ∧ (∀ j, 0x1000 ≤ j → j < id → ∃ y ∈ p.images, y.id = j) ∧
                let new : Image := { id := id, tenant := x.signer == 1, fmt := x.desc.2, digest := sha384 x.bytes }
                exec .imageLoad s = Claims.done
                  (State.logEntry (s.putPart { p with images := p.images ++ [new] }) 2 (some n) 0xFF id 0 new.digest) id))))

/-! ### The whole machine -/

/-- R432: the fields of FWSTATE, read-only, and what they hold after reset; and of R431 and R502 that reset leaves every RW
register of BAR0 zero and no partition, context, queue, task or block. -/
def Obligations.FirmwareStateAndReset : Prop :=
  (∀ (s : State) (fn : Nat), s.fleet.op ≤ 4 →
    let w := s.readReg fn 0x08
    w.getLsbD 0 = s.fleet.ready ∧ w.getLsbD 1 = s.fleet.thermhalt ∧ w.getLsbD 2 = (s.fn fn).cmdErr ∧
      w.getLsbD 3 = (s.fn fn).evtOvf ∧ w.extractLsb' 4 4 = BitVec.ofNat 4 s.fleet.op ∧ w.extractLsb' 8 56 = 0) ∧
  (∀ (s : State) (fn : Nat) (x : BitVec 64), ∃ t, exec (.registerWrite fn 0x08 x) s = .next t ∧
    t.readReg fn 0x08 = s.readReg fn 0x08) ∧
  (∀ fn : Nat, State.reset.readReg fn 0x08 = 0x40 ∧
    ∀ off ∈ [0x10, 0x18, 0x20, 0x30, 0x38, 0x48, 0x50], State.reset.readReg fn off = 0) ∧
  State.reset.parts = [] ∧ State.reset.ctxs = [] ∧ State.reset.queues = [] ∧ State.reset.tasks = [] ∧
    State.reset.blocks = [] ∧ State.reset.groups = []

/-- The invariants of the steps hold at reset: memory in canonical form (log 4), and distinct uids below the next (log 2). -/
def Obligations.ResetMeetsTheInvariants : Prop := State.reset.MemOk ∧ State.reset.UidsOk

/-- Every step keeps the memory of the module, of the peers and of the host in canonical form, so that equal memories are
equal data (log 4). -/
def Obligations.EveryStepKeepsMemoryCanonical : Prop := ∀ s t : State, s.MemOk → step s = .next t → t.MemOk

/-- Every step keeps the groups apart: no two have one uid, and every uid is below the next to be given (log 2). -/
def Obligations.EveryStepKeepsTheGroupsApart : Prop := ∀ s t : State, s.UidsOk → step s = .next t → t.UidsOk

/-- Where no two groups share a uid (log 2: uids are the model's), every step goes on: it neither faults nor refuses, whatever
the module has received and wherever its programs stand. -/
def Obligations.EveryStepGoesOn : Prop := ∀ s : State, s.Distinct → Goes s

/-- R33 to R35, R93, R228 to R232, R246 to R248: a step of the module that has nothing else to do.  A candidate is a split whose
bundle is fetched, with what memory holds at its PC; the step runs the instruction that the candidate's slot decodes to, after
it has latched the group, the next PC and the YLD hint; a slot that decodes to none raises its fault, unless its opcode's own
wait keeps it from being eligible; a fault of the group's engines that waits for an issue reaches the group in its place; one that
cannot issue leaves the step to the next; and with no candidate a cycle passes.
That a step runs one instruction, and how time passes, are the model's choice (logs 1 and 2). -/
def Obligations.StepRunsTheDecodedInstruction : Prop :=
  (∀ (s : State) (c : Ready), c ∈ s.cands → ∃ g ∈ s.groups, ∃ x b, g.exec? = some x ∧ x.fetched = true ∧
    s.bundleAt g x = some b ∧ c = Ready.of g x b) ∧
  (∀ (s : State) (g : Group) (x : Split) (t : Task) (p : Page) (lo len : Nat),
    s.taskOf g = some t → codeRange s t g.inHandler = (lo, len) → lo ≤ bundleAddr x.pc → bundleAddr x.pc + 32 ≤ lo + len →
    s.translate t.part t.ctx (bundleAddr x.pc) = some p → p.exec = true → isPeer p.pa = false →
    let b := BitVec.ofNat 256 (leOf (s.homeRead t.part p.pa 32))
    bundleHeaderOk b = true → slotIndex x.pc < bundleSc b → s.bundleAt g x = some b) ∧
  ∀ (s : State) (g : Group) (x : Split) (b : BitVec 256) (rest : List Ready),
    s.script = [] → s.fleet.ready = true → s.cmdq = [] → s.clocked = true → s.nextEvent = none →
    (s.cands = [] → step s = .next s.advance) ∧
    (s.cands = Ready.of g x b :: rest →
      let s' : State := { s with cur := g.uid, nextPc := nextPc b x.pc, yld := bundleYld b (slotIndex x.pc), stall := false }
      let deferred : Prop := ∃ f ∈ g.deferred, s.deliverable g f = true
      let waits (i : Option Instr) : Prop := ∃ j t, i = some j ∧ exec j s' = .next t ∧ t.stall = true
      (∀ i t, decodeAt b (slotIndex x.pc) = .ok i → exec i s' = .next t → t.stall = false →
        (¬ deferred → step s = .next t) ∧ (deferred → step s = exec (.handlerEntry g.uid) s')) ∧
      (∀ i t, decodeAt b (slotIndex x.pc) = .ok i → exec i s' = .next t → t.stall = true → rest = [] →
        step s = .next s.advance) ∧
      (∀ e, decodeAt b (slotIndex x.pc) = .error e → waits (rawSlot (bundleSlot b (slotIndex x.pc))) → rest = [] →
        step s = .next s.advance) ∧
      (∀ e, decodeAt b (slotIndex x.pc) = .error e → ¬ waits (rawSlot (bundleSlot b (slotIndex x.pc))) → ¬ deferred →
        s.group? g.uid = some g → g.exec? = some x →
        step s = .next (s'.takeFault g (preciseFault s' x
          (match e with | .literalMissing => 0x17 | .reservedField => 0x02) 0 x.mask))))

/-- R228 to R248 and the encodings of the instructions: the words of the spec's encoding examples decode to the instructions
they stand for, operand by operand; a `movi` whose literal slot is absent decodes to none. -/
def Obligations.DecodedWords : Prop :=
  let h : Head := { dist := 0, set := 0, wait := 0, nx := .seq, tgt := 0, gp := 7 }
  let r : RArgs := { d := 0, a := .vr 0, b := .vr 0, c := 0, nb := .none, sub := 0 }
  decodeTableWord 80 0x01020014_1A02_0201_0000 =
    some (.iaddV { h with set := 2, wait := 1, nx := .br, tgt := 1, gp := 0xA } { r with d := 2, a := .vr 2, b := .vr 1 }) ∧
  decodeTableWord 80 0x40000020_0703_0200_0000 = some (.movV { h with wait := 2 } { r with d := 3, a := .vr 2 }) ∧
  decodeTableWord 80 0x5C000000_0705_0102_0521 =
    some (.ffmaF32V h { r with d := 5, a := .vr 1, b := .sr 2, c := 5, sub := 1 }) ∧
  decodeTableWord 80 0x3B000000_0701_0400_0093 = some (.leaA h { r with d := 1, a := .sr 4, b := .ar 0, sub := 3 }) ∧
  decodeTableWord 80 0x8A000000_0703_0700_C000 = some (.lredS h { r with d := 3, a := .vr 7, c := 0xC0 }) ∧
  decodeTableWord 80 0xA0010000_0702_0402_0080 =
    some (.atomV { h with set := 1 } { d := 2, x := 4, b := 2, off := 0, xk := .unif, ord := .none, scp := 0, hnt := 0 }) ∧
  decodeTableWord 80 0xB1030000_0701_0852_0000 =
    some (.mloop { h with set := 3 } { d := 1, s := 8, b := 0x52, c := 0, ext := 0 }) ∧
  decodeTableWord 80 0x83000000_070A_0604_0B73 = some (.qrow h { d := 0x0A, s := 6, b := 4, c := 0x0B, ext := 0x73 }) ∧
  decodeTableWord 80 0xD0000000_0700_0A00_0040 = some (.brl h { d := 0, a := 0x0A, imm := 0x40 }) ∧
  decodeTableWord 160 (0x44000000_0702_0000_0033 + 2 ^ 80 * 0xFF000000_0001_0000_0000) =
    some (.moviS h { d := 2, imm := .literal 0x100000000, sub := 3 }) ∧
  (∀ n, decodeTableWord n 0x44000000_0702_0000_0033 = none)

/-- R234, R238 to R245: a well-formed slot instruction is read back from the slot, and the literal slot where it uses one,
that the encoder writes, with every operand; and the slot uses a literal just where the encoder writes one. -/
def Obligations.DecodeOfEncode : Prop :=
  ∀ (i : Instr) (w : Slot), WellFormed i = true → i.slot = some w →
    ∃ b lit, encode i = some (b, lit) ∧ decodeSlot b lit = .ok i ∧ usesLit b = lit.isSome ∧ slotOp b = w.op ∧
      ∀ next : BitVec 80, lit = none → decodeSlot b (some next) = .ok i

namespace Sys2Proof.Claims

open Sys2Proof.Machine

/-- Whether a result in flight of an integer instruction goes to varying register `d`, or to the pair from `d` on, in lanes of a
mask; in a handler, registers 248 to 255 are its rows (R58).  A completion flag is no register. -/
def toVector (g : Group) (x : Split) (w d : Nat) : Write → Prop
  | .v r m _ => (r = d ∨ w = 64 ∧ r = d + 1) ∧ m &&& ~~~x.mask = 0 ∧ (g.inHandler = true → r < 248)
  | .h r m _ => (r + 248 = d ∨ w = 64 ∧ r + 248 = d + 1) ∧ m &&& ~~~x.mask = 0 ∧ g.inHandler = true
  | .flag _ | .hflag _ _ => True
  | _ => False

/-- Whether a result in flight goes to uniform register `d`; in a handler, 56 to 63 are its own (R58). -/
def toUniform (g : Group) (d : Nat) : Write → Prop
  | .s r _ => r = d ∧ (g.inHandler = true → r < 56)
  | .hs r _ => r + 56 = d ∧ g.inHandler = true
  | .flag _ | .hflag _ _ => True
  | _ => False

/-- Whether a result in flight goes to affine register `d`. -/
def toAffine (d : Nat) : Write → Prop
  | .a r _ => r = d
  | .flag _ | .hflag _ _ => True
  | _ => False

/-- Whether a result in flight goes to predicate `d`, in lanes of a mask. -/
def toPred (x : Split) (d : Nat) : Write → Prop
  | .p r m _ => r = d ∧ m &&& ~~~x.mask = 0
  | .flag _ | .hflag _ _ => True
  | _ => False

/-- After an instruction of group `g`: every register and special register reads, in the cycle of its issue, as it did before it; every
result that was in flight beyond issue still is, and every other result in flight is one that `p` allows; every other group has the
registers and the results in flight that it had; memory, the LLC and the blocks' scratchpads and tiles are as they were. -/
def Keeps (s t : State) (g : Group) (p : Write → Prop) : Prop :=
  t.mem = s.mem ∧ t.llc = s.llc ∧ t.peer = s.peer ∧
  (∀ b ∈ t.blocks, ∃ b' ∈ s.blocks, b'.uid = b.uid ∧ b'.scr = b.scr ∧ b'.tiles = b.tiles) ∧
  (∀ y ∈ t.groups, y.uid ≠ g.uid → ∃ z ∈ s.groups, z.uid = y.uid ∧ y.v = z.v ∧ y.s = z.s ∧ y.a = z.a ∧ y.p = z.p ∧
    y.edge = z.edge ∧ y.frm = z.frm ∧ y.status = z.status ∧ y.h = z.h ∧ y.hs = z.hs ∧ y.pend = z.pend) ∧
  ∀ g', t.group? g.uid = some g' →
    let v := g.viewAt s.now
    let v' := g'.viewAt s.now
    v'.v = v.v ∧ v'.s = v.s ∧ v'.a = v.a ∧ v'.p = v.p ∧ v'.edge = v.edge ∧ v'.frm = v.frm ∧ v'.status = v.status ∧
      v'.h = v.h ∧ v'.hs = v.hs ∧ (∀ e ∈ g.pend, s.now < e.at_ → e ∈ g'.pend) ∧ ∀ e ∈ g'.pend, e ∈ g.pend ∨ p e.w

/-- A result that `p` allows, or flags that become set in STATUS (R82, R290). -/
def orFlags (p : Write → Prop) (w : Write) : Prop := p w ∨ ∃ f, w = .stSet f

/-- Whether a result in flight goes to every lane of varying register `d`; in a handler, 248 to 255 are its rows (R58, R387). -/
def toRow (g : Group) (d : Nat) : Write → Prop
  | .v r _ _ => r = d ∧ (g.inHandler = true → r < 248)
  | .h r _ _ => r + 248 = d ∧ g.inHandler = true
  | .flag _ | .hflag _ _ => True
  | _ => False

/-- Whether a result in flight is one of those that a test accepts; a completion flag is no register. -/
def onlyTo (p : Write → Prop) : Write → Prop
  | .flag _ | .hflag _ _ => True
  | w => p w

end Sys2Proof.Claims

/-- R53 to R55, R58, R263: what the integer and affine instructions leave unchanged, selects, compares, immediates and lane reads
among them: every register but the destination, every lane of it outside the split, every special register, every register of
another group, and memory.  `vuni` over lanes that differ takes a fault instead. -/
def Sys2Proof.Claims.IntegerFrames : Prop :=
  ∀ (s t : State) (g : Group) (x : Split) (h : Head) (r : RArgs) (i : IArgs),
    let v := g.viewAt s.now
    let n := if i.sub.getLsbD 1 then 64 else 32
    (∀ k ∈ Claims.arithVarying ++ Claims.multiplyVarying ++ Claims.logicVarying ++ Claims.shiftVarying ++ Claims.bitVarying ++
        Claims.moveVarying,
      Runs s g x ⟨k.op, h, .r r⟩ → exec (k.form h r) s = .next t →
        Claims.Keeps s t g (Claims.toVector g x (k.w r) r.d.toNat)) ∧
    (∀ k ∈ Claims.arithUniform ++ Claims.multiplyUniform ++ Claims.logicUniform ++ Claims.shiftUniform ++ Claims.bitUniform ++
        Claims.moveUniform,
      Runs s g x ⟨k.op, h, .r r⟩ → exec (k.form h r) s = .next t → Claims.Keeps s t g (Claims.toUniform g r.d.toNat)) ∧
    (∀ k ∈ Claims.affineForms,
      Runs s g x ⟨k.op, h, .r r⟩ → exec (k.form h r) s = .next t → Claims.Keeps s t g (Claims.toAffine r.d.toNat)) ∧
    (∀ k ∈ [((0x22 : BitVec 8), Instr.shlA h r), (0x3B, .leaA h r), (0x45, .amake h r), (0x46, .alane h r),
        (0x47, .promUniformToAffine h r)],
      Runs s g x ⟨k.1, h, .r r⟩ → exec k.2 s = .next t → Claims.Keeps s t g (Claims.toAffine r.d.toNat)) ∧
    (∀ k ∈ [((0x38 : BitVec 8), Instr.icmpVarying h r), (0x39, .icmpUniform h r), (0x4A, .atest h r)],
      Runs s g x ⟨k.1, h, .r r⟩ → exec k.2 s = .next t → Claims.Keeps s t g (Claims.toPred x r.d.toNat)) ∧
    (∀ k ∈ [((0x2D : BitVec 8), Instr.bfiS h r), (0x37, .iselS h r), (0x4B, .vfirst h r)],
      Runs s g x ⟨k.1, h, .r r⟩ → exec k.2 s = .next t → Claims.Keeps s t g (Claims.toUniform g r.d.toNat)) ∧
    ((∀ L < 96, x.mask.getLsbD L → v.src r.nb r.n r.a L = v.src r.nb r.n r.a (lowLane x.mask)) →
      Runs s g x ⟨0x4C, h, .r r⟩ → exec (.vuni h r) s = .next t → Claims.Keeps s t g (Claims.toUniform g r.d.toNat)) ∧
    (Runs s g x ⟨0x44, h, .i i⟩ → exec (.moviS h i) s = .next t → Claims.Keeps s t g (Claims.toUniform g i.d.toNat)) ∧
    (Runs s g x ⟨0x36, h, .r r⟩ → exec (.iselV h r) s = .next t → Claims.Keeps s t g (Claims.toVector g x r.n r.d.toNat)) ∧
    (Runs s g x ⟨0x43, h, .i i⟩ → exec (.moviV h i) s = .next t → Claims.Keeps s t g (Claims.toVector g x n i.d.toNat))

/-- R53 to R55, R58, R82, R263, R290: what the floating-point instructions leave unchanged: every register but the destination, every
lane of it outside the split, every special register but STATUS, in which flags may only become set, every register of another
group, and memory. -/
def Sys2Proof.Claims.FloatFrames : Prop :=
  ∀ (s t : State) (g : Group) (x : Split) (h : Head) (r : RArgs),
    (∀ k ∈ Claims.fArithVarying ++ Claims.fmaVarying ++ Claims.fFunctionVarying ++ Claims.fConvertVarying,
      Runs s g x ⟨k.op, h, .r r⟩ → exec (k.form h r) s = .next t →
        Claims.Keeps s t g (Claims.orFlags (Claims.toVector g x (k.w r) r.d.toNat))) ∧
    (∀ k ∈ Claims.fExactVarying,
      Runs s g x ⟨k.op, h, .r r⟩ → exec (k.form h r) s = .next t →
        Claims.Keeps s t g (Claims.orFlags (Claims.toVector g x (k.w r) r.d.toNat))) ∧
    (∀ k ∈ Claims.fArithUniform ++ Claims.fmaUniform ++ Claims.fFunctionUniform ++ Claims.fConvertUniform,
      Runs s g x ⟨k.op, h, .r r⟩ → exec (k.form h r) s = .next t →
        Claims.Keeps s t g (Claims.orFlags (Claims.toUniform g r.d.toNat))) ∧
    (∀ k ∈ Claims.fExactUniform,
      Runs s g x ⟨k.op, h, .r r⟩ → exec (k.form h r) s = .next t →
        Claims.Keeps s t g (Claims.orFlags (Claims.toUniform g r.d.toNat))) ∧
    (∀ k ∈ [((0x68 : BitVec 8), Instr.fcmpF32V h r), (0x69, .fcmpF32S h r), (0x6A, .fcmpF64V h r), (0x6B, .fcmpF64S h r)],
      Runs s g x ⟨k.1, h, .r r⟩ → exec k.2 s = .next t →
        Claims.Keeps s t g (Claims.orFlags (Claims.toPred x r.d.toNat)))

/-- R53 to R55, R58, R263, R303 to R308, R314 to R323: the same of the slot and the cross-lane instructions; `qrow` has two
destinations, and `xunpk`, `qscale`, the shuffles, `ballot`, `rng` and the hashes set no flag (R290). -/
def Sys2Proof.Claims.SlotAndCrossLaneFrames : Prop :=
  ∀ (s t : State) (g : Group) (x : Split) (h : Head) (r : RArgs) (e : EArgs) (F G : Fmt) (mode : Nat),
    let k := r.c.toNat % 8
    let frm := (g.viewAt s.now).frm.toNat
    let w := Claims.typeW (r.c.toNat / 16)
    let d := r.d.toNat
    (Runs s g x ⟨0x80, h, .r r⟩ → s.slotOf g k = .ok F → exec (.xunpk h r) s = .next t →
      Claims.Keeps s t g (Claims.toVector g x 32 d)) ∧
    (Runs s g x ⟨0x81, h, .r r⟩ → s.slotOf g k = .ok F → F.mode (r.c.toNat / 16 % 8) frm = some mode →
      exec (.xpack h r) s = .next t → Claims.Keeps s t g (Claims.orFlags (Claims.toVector g x 32 d))) ∧
    (Runs s g x ⟨0x82, h, .r r⟩ → s.slotOf g (r.b.code % 8) = .ok F → s.slotOf g k = .ok G →
      G.mode (r.c.toNat / 16 % 8) frm = some mode →
      exec (.xcvt h r) s = .next t → Claims.Keeps s t g (Claims.orFlags (Claims.toVector g x 32 d))) ∧
    (Runs s g x ⟨0x83, h, .e e⟩ → s.slotOf g (e.ext.toNat % 8) = .ok F → F.mode (e.ext.toNat / 8 % 8) frm = some mode →
      F.kind ≠ 2 → exec (.qrow h e) s = .next t →
      Claims.Keeps s t g (Claims.orFlags fun y =>
        Claims.toVector g x 32 e.d.toNat y ∨ Claims.toVector g x 32 e.c.toNat y)) ∧
    (Runs s g x ⟨0x84, h, .r r⟩ → s.slotOf g k = .ok F → exec (.qscale h r) s = .next t →
      Claims.Keeps s t g (Claims.toUniform g d)) ∧
    (∀ y ∈ [((0x88 : BitVec 8), Instr.shfl h r, r.n), (0x89, .shfx h r, r.n), (0x8D, .rng h r, 32), (0x8E, .hshV h r, 32)],
      Runs s g x ⟨y.1, h, .r r⟩ → exec y.2.1 s = .next t → Claims.Keeps s t g (Claims.toVector g x y.2.2 d)) ∧
    (∀ y ∈ [((0x91 : BitVec 8), Instr.lredV h r), (0x8B, .lscan h r)],
      Runs s g x ⟨y.1, h, .r r⟩ → exec y.2 s = .next t → Claims.Keeps s t g (Claims.orFlags (Claims.toVector g x w d))) ∧
    (∀ y ∈ [((0x8A : BitVec 8), Instr.lredS h r), (0x90, .argmx h r)],
      Runs s g x ⟨y.1, h, .r r⟩ → exec y.2 s = .next t → Claims.Keeps s t g (Claims.orFlags (Claims.toUniform g d))) ∧
    (∀ y ∈ [((0x8C : BitVec 8), Instr.ballot h r), (0x8F, .hshS h r)],
      Runs s g x ⟨y.1, h, .r r⟩ → exec y.2 s = .next t → Claims.Keeps s t g (Claims.toUniform g d))

/-- R77 to R83, R379 to R381, R387, R388: the same of the special-register and the window instructions: `winld` writes one row,
`winst` the one object that its index names, `hsave` and `hrest` their count of rows, all in every lane; `setsr` one special
register, of STATUS only the implemented bits, which become clear; `getsr`, `clk` and `pmc` a uniform register, `pmc` also PMCDENY. -/
def Sys2Proof.Claims.SpecialAndWindowFrames : Prop :=
  ∀ (s t : State) (g : Group) (x : Split) (h : Head) (a : XArgs) (b : Block) (task : Task) (p : Part),
    s.block? g.block = some b → s.task? b.task = some task → s.part? b.part = some p →
    let v := g.viewAt s.now
    let i := winIndex v a
    let n := a.imm.toNat
    let known : Prop := i < 0x100 → i < g.nregs ∧ i ∉ g.poison
    (Runs s g x ⟨0xD7, h, .x a⟩ → exec (.getsr h a) s = .next t → Claims.Keeps s t g (Claims.toUniform g a.d.toNat)) ∧
    (Runs s g x ⟨0xD9, h, .x a⟩ → exec (.clk h a) s = .next t → Claims.Keeps s t g (Claims.toUniform g a.d.toNat)) ∧
    (Runs s g x ⟨0xDA, h, .x a⟩ → exec (.pmc h a) s = .next t →
      Claims.Keeps s t g fun w => Claims.toUniform g a.d.toNat w ∨ w = .stSet 0x100) ∧
    (Runs s g x ⟨0xD8, h, .x a⟩ → (n % 256 = 0x13 → (v.rs a.a.toNat).toNat ≤ 2) → (n % 256 = 0x14 → (v.rs a.a.toNat).toNat ≤ 4) →
      exec (.setsr h a) s = .next t → Claims.Keeps s t g (Claims.onlyTo fun w =>
        (n % 256 = 0x13 ∧ ∃ y, w = .edge y) ∨ (n % 256 = 0x14 ∧ ∃ y, w = .frm y) ∨
          (n % 256 ≠ 0x13 ∧ n % 256 ≠ 0x14 ∧ ∃ y : BitVec 9, w = .stClr y ∧ y &&& ~~~0x11F = 0))) ∧
    (∀ r, Runs s g x ⟨0xDB, h, .x a⟩ → v.window i = some r → known → (0x200 ≤ i → i < 0x208 → i ∉ g.poison) →
      exec (.winld h a) s = .next t → Claims.Keeps s t g (Claims.toRow g a.d.toNat)) ∧
    (∀ y, Runs s g x ⟨0xDC, h, .x a⟩ → windowWrite i (v.rv a.d.toNat) = some y → (i < 0x100 → i < g.nregs) →
      exec (.winst h a) s = .next t → Claims.Keeps s t g (Claims.onlyTo fun w => w = y)) ∧
    (Runs s g x ⟨0xDD, h, .x a⟩ → exec (.hsave h a) s = .next t →
      Claims.Keeps s t g (Claims.onlyTo fun w => ∃ k < n, ∃ y, w = .h k allLanes y)) ∧
    (Runs s g x ⟨0xDE, h, .x a⟩ → exec (.hrest h a) s = .next t →
      Claims.Keeps s t g (Claims.onlyTo fun w => ∃ k < n, ∃ y, w = .v (a.a.toNat + k) allLanes y))

/-- R53 to R55, R58, R77 to R83, R263, R290, R387: what the instructions on registers leave unchanged: integer, affine, selects,
compares, immediates and lane reads; floating point; format slots; across lanes; special registers and the window. -/
def Obligations.RegisterInstructionsFrame : Prop :=
  Claims.IntegerFrames ∧ Claims.FloatFrames ∧ Claims.SlotAndCrossLaneFrames ∧ Claims.SpecialAndWindowFrames

/-- R235, R327, R330 to R343: no slot instruction but a prefetch, which may evict a line of the L1, writes a byte of the module's
memory or of a peer as it issues: a store is performed by a step of its own. -/
def Obligations.IssueWritesNoMemory : Prop :=
  ∀ (s t : State) (i : Instr), i.slot.isSome = true → (∀ h m, i ≠ .prf h m) → exec i s = .next t →
    (∀ a, cellGet a t.mem = cellGet a s.mem) ∧ t.llc = s.llc ∧ ∀ a, cellGet a t.peer = cellGet a s.peer
end

