-- ==== Sys2Proof/Laws/Affine.lean ====
section
/-! SUPPORT. Affine results of large shifts (R68, R272): past 200 bits the count makes no difference. -/

namespace Sys2Proof.Machine

/-- A product by a large power of two is below a bound of 64 bits just where its sign is. -/
theorem scaled_lt (x b : Int) (k : Nat) (hk : 200 ≤ k) (h1 : -(2 ^ 64) ≤ b) (h2 : b ≤ 2 ^ 64) :
    x * (2 ^ k : Nat) < b ↔ x < 0 ∨ (x = 0 ∧ 0 < b) := by
  have hp : (2 : Int) ^ 200 ≤ ((2 ^ k : Nat) : Int) := by exact_mod_cast Nat.pow_le_pow_right (by norm_num) hk
  have hb : (2 : Int) ^ 64 < 2 ^ 200 := by norm_num
  rcases lt_trichotomy x 0 with hx | hx | hx
  · refine ⟨fun _ => .inl hx, fun _ => ?_⟩
    nlinarith
  · subst hx; simp
  · refine ⟨fun h => ?_, fun h => by omega⟩
    nlinarith

/-- See `scaled_lt`. -/
theorem lt_scaled (x b : Int) (k : Nat) (hk : 200 ≤ k) (h1 : -(2 ^ 64) ≤ b) (h2 : b ≤ 2 ^ 64) :
    b < x * (2 ^ k : Nat) ↔ 0 < x ∨ (x = 0 ∧ b < 0) := by
  have := scaled_lt (-x) (-b) k hk (by omega) (by omega)
  constructor
  · intro h
    have := this.1 (by linarith)
    omega
  · intro h
    have := this.2 (by omega)
    linarith

/-- A product by a large power of two leaves no bit in a register. -/
theorem ofInt_scaled (x : Int) (k w : Nat) (hk : 200 ≤ k) (hw : w ≤ 64) : BitVec.ofInt w (x * (2 ^ k : Nat)) = 0 := by
  apply BitVec.eq_of_toInt_eq
  rw [BitVec.toInt_ofInt]
  have : ((2 ^ k : Nat) : Int) = (2 ^ w : Nat) * (2 ^ (k - w) : Nat) := by
    rw [← Int.natCast_mul, ← Nat.pow_add]; congr 2; omega
  rw [this, mul_comm ((2 ^ w : Nat) : Int), ← mul_assoc]
  have h : 0 < (2 ^ w + 1) / 2 := by have := Nat.two_pow_pos w; omega
  simp [Int.bmod]
  exact_mod_cast h

/-- The affine result of values scaled by 2^k is that of the count cut at 200, as `execShlA` cuts it. -/
theorem affResult_scaled (n : Nat) (a b : Int) (w : Bool) (k : Nat) (hn : 0 < n) (hn' : n ≤ 64) :
    affResult n (a * (2 ^ min 200 k : Nat)) (b * (2 ^ min 200 k : Nat)) w =
      affResult n (a * (2 ^ k : Nat)) (b * (2 ^ k : Nat)) w := by
  rcases Nat.le_total k 200 with hk | hk
  · rw [Nat.min_eq_right hk]
  · rw [Nat.min_eq_left hk]
    have hp : ((2 ^ (n - 1) : Nat) : Int) ≤ 2 ^ 63 := by exact_mod_cast Nat.pow_le_pow_right (by norm_num) (by omega)
    have hp' : (0 : Int) < ((2 ^ (n - 1) : Nat) : Int) := by positivity
    have e1 (m : Nat) : b * (2 ^ m : Nat) - a * (2 ^ m : Nat) = (b - a) * (2 ^ m : Nat) := by ring
    have e2 (m : Nat) : a * (2 ^ m : Nat) + 95 * ((b - a) * (2 ^ m : Nat)) = (a + 95 * (b - a)) * (2 ^ m : Nat) := by ring
    simp only [affResult, e1, e2, gt_iff_lt, ofInt_scaled _ 200 _ (le_refl _) (le_refl 64), ofInt_scaled _ k 64 hk (le_refl _),
      ofInt_scaled _ 200 32 (le_refl _) (by norm_num), ofInt_scaled _ k 32 hk (by norm_num)]
    have hb (x : Int) (h1 : -(2 ^ 64) ≤ x) (h2 : x ≤ 2 ^ 64) (y : Int) :
        (y * (2 ^ 200 : Nat) < x ↔ y * (2 ^ k : Nat) < x) ∧ (x < y * (2 ^ 200 : Nat) ↔ x < y * (2 ^ k : Nat)) :=
      ⟨by rw [scaled_lt _ _ _ (le_refl _) h1 h2, scaled_lt _ _ _ hk h1 h2],
       by rw [lt_scaled _ _ _ (le_refl _) h1 h2, lt_scaled _ _ _ hk h1 h2]⟩
    simp only [fun y => (hb (-((2 ^ (n - 1) : Nat) : Int)) (by omega) (by omega) y).1,
      fun y => (hb (((2 ^ (n - 1) : Nat) : Int) - 1) (by omega) (by omega) y).2,
      fun y => (hb (-2147483648) (by norm_num) (by norm_num) y).1, fun y => (hb 2147483647 (by norm_num) (by norm_num) y).2]
end Sys2Proof.Machine
end

