-- ==== Sys2Proof/Laws/State.lean ====
section
/-! SUPPORT. What each update of State leaves as it is: one lemma per field and update. -/

namespace Sys2Proof.Machine

/-! ### putGroup -/

@[simp] theorem State.putGroup_now (s : State) (x : Group) : (s.putGroup x).now = s.now := rfl
@[simp] theorem State.putGroup_script (s : State) (x : Group) : (s.putGroup x).script = s.script := rfl
@[simp] theorem State.putGroup_cur (s : State) (x : Group) : (s.putGroup x).cur = s.cur := rfl
@[simp] theorem State.putGroup_nextPc (s : State) (x : Group) : (s.putGroup x).nextPc = s.nextPc := rfl
@[simp] theorem State.putGroup_yld (s : State) (x : Group) : (s.putGroup x).yld = s.yld := rfl
@[simp] theorem State.putGroup_stall (s : State) (x : Group) : (s.putGroup x).stall = s.stall := rfl
@[simp] theorem State.putGroup_late (s : State) (x : Group) : (s.putGroup x).late = s.late := rfl
@[simp] theorem State.putGroup_fresh (s : State) (x : Group) : (s.putGroup x).fresh = s.fresh := rfl
@[simp] theorem State.putGroup_uid (s : State) (x : Group) : (s.putGroup x).uid = s.uid := rfl
@[simp] theorem State.putGroup_blocks (s : State) (x : Group) : (s.putGroup x).blocks = s.blocks := rfl
@[simp] theorem State.putGroup_cores (s : State) (x : Group) : (s.putGroup x).cores = s.cores := rfl
@[simp] theorem State.putGroup_tasks (s : State) (x : Group) : (s.putGroup x).tasks = s.tasks := rfl
@[simp] theorem State.putGroup_queues (s : State) (x : Group) : (s.putGroup x).queues = s.queues := rfl
@[simp] theorem State.putGroup_ctxs (s : State) (x : Group) : (s.putGroup x).ctxs = s.ctxs := rfl
@[simp] theorem State.putGroup_parts (s : State) (x : Group) : (s.putGroup x).parts = s.parts := rfl
@[simp] theorem State.putGroup_gens (s : State) (x : Group) : (s.putGroup x).gens = s.gens := rfl
@[simp] theorem State.putGroup_fns (s : State) (x : Group) : (s.putGroup x).fns = s.fns := rfl
@[simp] theorem State.putGroup_cmdq (s : State) (x : Group) : (s.putGroup x).cmdq = s.cmdq := rfl
@[simp] theorem State.putGroup_cmd (s : State) (x : Group) : (s.putGroup x).cmd = s.cmd := rfl
@[simp] theorem State.putGroup_spdm (s : State) (x : Group) : (s.putGroup x).spdm = s.spdm := rfl
@[simp] theorem State.putGroup_side (s : State) (x : Group) : (s.putGroup x).side = s.side := rfl
@[simp] theorem State.putGroup_ports (s : State) (x : Group) : (s.putGroup x).ports = s.ports := rfl
@[simp] theorem State.putGroup_mem (s : State) (x : Group) : (s.putGroup x).mem = s.mem := rfl
@[simp] theorem State.putGroup_llc (s : State) (x : Group) : (s.putGroup x).llc = s.llc := rfl
@[simp] theorem State.putGroup_bad (s : State) (x : Group) : (s.putGroup x).bad = s.bad := rfl
@[simp] theorem State.putGroup_peer (s : State) (x : Group) : (s.putGroup x).peer = s.peer := rfl
@[simp] theorem State.putGroup_hmem (s : State) (x : Group) : (s.putGroup x).hmem = s.hmem := rfl
@[simp] theorem State.putGroup_links (s : State) (x : Group) : (s.putGroup x).links = s.links := rfl
@[simp] theorem State.putGroup_deadDies (s : State) (x : Group) : (s.putGroup x).deadDies = s.deadDies := rfl
@[simp] theorem State.putGroup_deadCores (s : State) (x : Group) : (s.putGroup x).deadCores = s.deadCores := rfl
@[simp] theorem State.putGroup_msgs (s : State) (x : Group) : (s.putGroup x).msgs = s.msgs := rfl
@[simp] theorem State.putGroup_away (s : State) (x : Group) : (s.putGroup x).away = s.away := rfl
@[simp] theorem State.putGroup_cured (s : State) (x : Group) : (s.putGroup x).cured = s.cured := rfl
@[simp] theorem State.putGroup_scanAt (s : State) (x : Group) : (s.putGroup x).scanAt = s.scanAt := rfl
@[simp] theorem State.putGroup_scan (s : State) (x : Group) : (s.putGroup x).scan = s.scan := rfl
@[simp] theorem State.putGroup_scrubAt (s : State) (x : Group) : (s.putGroup x).scrubAt = s.scrubAt := rfl
@[simp] theorem State.putGroup_scrub (s : State) (x : Group) : (s.putGroup x).scrub = s.scrub := rfl
@[simp] theorem State.putGroup_fleet (s : State) (x : Group) : (s.putGroup x).fleet = s.fleet := rfl

/-! ### putBlock -/

@[simp] theorem State.putBlock_now (s : State) (x : Block) : (s.putBlock x).now = s.now := rfl
@[simp] theorem State.putBlock_script (s : State) (x : Block) : (s.putBlock x).script = s.script := rfl
@[simp] theorem State.putBlock_cur (s : State) (x : Block) : (s.putBlock x).cur = s.cur := rfl
@[simp] theorem State.putBlock_nextPc (s : State) (x : Block) : (s.putBlock x).nextPc = s.nextPc := rfl
@[simp] theorem State.putBlock_yld (s : State) (x : Block) : (s.putBlock x).yld = s.yld := rfl
@[simp] theorem State.putBlock_stall (s : State) (x : Block) : (s.putBlock x).stall = s.stall := rfl
@[simp] theorem State.putBlock_late (s : State) (x : Block) : (s.putBlock x).late = s.late := rfl
@[simp] theorem State.putBlock_fresh (s : State) (x : Block) : (s.putBlock x).fresh = s.fresh := rfl
@[simp] theorem State.putBlock_uid (s : State) (x : Block) : (s.putBlock x).uid = s.uid := rfl
@[simp] theorem State.putBlock_groups (s : State) (x : Block) : (s.putBlock x).groups = s.groups := rfl
@[simp] theorem State.putBlock_cores (s : State) (x : Block) : (s.putBlock x).cores = s.cores := rfl
@[simp] theorem State.putBlock_tasks (s : State) (x : Block) : (s.putBlock x).tasks = s.tasks := rfl
@[simp] theorem State.putBlock_queues (s : State) (x : Block) : (s.putBlock x).queues = s.queues := rfl
@[simp] theorem State.putBlock_ctxs (s : State) (x : Block) : (s.putBlock x).ctxs = s.ctxs := rfl
@[simp] theorem State.putBlock_parts (s : State) (x : Block) : (s.putBlock x).parts = s.parts := rfl
@[simp] theorem State.putBlock_gens (s : State) (x : Block) : (s.putBlock x).gens = s.gens := rfl
@[simp] theorem State.putBlock_fns (s : State) (x : Block) : (s.putBlock x).fns = s.fns := rfl
@[simp] theorem State.putBlock_cmdq (s : State) (x : Block) : (s.putBlock x).cmdq = s.cmdq := rfl
@[simp] theorem State.putBlock_cmd (s : State) (x : Block) : (s.putBlock x).cmd = s.cmd := rfl
@[simp] theorem State.putBlock_spdm (s : State) (x : Block) : (s.putBlock x).spdm = s.spdm := rfl
@[simp] theorem State.putBlock_side (s : State) (x : Block) : (s.putBlock x).side = s.side := rfl
@[simp] theorem State.putBlock_ports (s : State) (x : Block) : (s.putBlock x).ports = s.ports := rfl
@[simp] theorem State.putBlock_mem (s : State) (x : Block) : (s.putBlock x).mem = s.mem := rfl
@[simp] theorem State.putBlock_llc (s : State) (x : Block) : (s.putBlock x).llc = s.llc := rfl
@[simp] theorem State.putBlock_bad (s : State) (x : Block) : (s.putBlock x).bad = s.bad := rfl
@[simp] theorem State.putBlock_peer (s : State) (x : Block) : (s.putBlock x).peer = s.peer := rfl
@[simp] theorem State.putBlock_hmem (s : State) (x : Block) : (s.putBlock x).hmem = s.hmem := rfl
@[simp] theorem State.putBlock_links (s : State) (x : Block) : (s.putBlock x).links = s.links := rfl
@[simp] theorem State.putBlock_deadDies (s : State) (x : Block) : (s.putBlock x).deadDies = s.deadDies := rfl
@[simp] theorem State.putBlock_deadCores (s : State) (x : Block) : (s.putBlock x).deadCores = s.deadCores := rfl
@[simp] theorem State.putBlock_msgs (s : State) (x : Block) : (s.putBlock x).msgs = s.msgs := rfl
@[simp] theorem State.putBlock_away (s : State) (x : Block) : (s.putBlock x).away = s.away := rfl
@[simp] theorem State.putBlock_cured (s : State) (x : Block) : (s.putBlock x).cured = s.cured := rfl
@[simp] theorem State.putBlock_scanAt (s : State) (x : Block) : (s.putBlock x).scanAt = s.scanAt := rfl
@[simp] theorem State.putBlock_scan (s : State) (x : Block) : (s.putBlock x).scan = s.scan := rfl
@[simp] theorem State.putBlock_scrubAt (s : State) (x : Block) : (s.putBlock x).scrubAt = s.scrubAt := rfl
@[simp] theorem State.putBlock_scrub (s : State) (x : Block) : (s.putBlock x).scrub = s.scrub := rfl
@[simp] theorem State.putBlock_fleet (s : State) (x : Block) : (s.putBlock x).fleet = s.fleet := rfl

/-! ### putTask -/

@[simp] theorem State.putTask_now (s : State) (x : Task) : (s.putTask x).now = s.now := rfl
@[simp] theorem State.putTask_script (s : State) (x : Task) : (s.putTask x).script = s.script := rfl
@[simp] theorem State.putTask_cur (s : State) (x : Task) : (s.putTask x).cur = s.cur := rfl
@[simp] theorem State.putTask_nextPc (s : State) (x : Task) : (s.putTask x).nextPc = s.nextPc := rfl
@[simp] theorem State.putTask_yld (s : State) (x : Task) : (s.putTask x).yld = s.yld := rfl
@[simp] theorem State.putTask_stall (s : State) (x : Task) : (s.putTask x).stall = s.stall := rfl
@[simp] theorem State.putTask_late (s : State) (x : Task) : (s.putTask x).late = s.late := rfl
@[simp] theorem State.putTask_fresh (s : State) (x : Task) : (s.putTask x).fresh = s.fresh := rfl
@[simp] theorem State.putTask_uid (s : State) (x : Task) : (s.putTask x).uid = s.uid := rfl
@[simp] theorem State.putTask_groups (s : State) (x : Task) : (s.putTask x).groups = s.groups := rfl
@[simp] theorem State.putTask_blocks (s : State) (x : Task) : (s.putTask x).blocks = s.blocks := rfl
@[simp] theorem State.putTask_cores (s : State) (x : Task) : (s.putTask x).cores = s.cores := rfl
@[simp] theorem State.putTask_queues (s : State) (x : Task) : (s.putTask x).queues = s.queues := rfl
@[simp] theorem State.putTask_ctxs (s : State) (x : Task) : (s.putTask x).ctxs = s.ctxs := rfl
@[simp] theorem State.putTask_parts (s : State) (x : Task) : (s.putTask x).parts = s.parts := rfl
@[simp] theorem State.putTask_gens (s : State) (x : Task) : (s.putTask x).gens = s.gens := rfl
@[simp] theorem State.putTask_fns (s : State) (x : Task) : (s.putTask x).fns = s.fns := rfl
@[simp] theorem State.putTask_cmdq (s : State) (x : Task) : (s.putTask x).cmdq = s.cmdq := rfl
@[simp] theorem State.putTask_cmd (s : State) (x : Task) : (s.putTask x).cmd = s.cmd := rfl
@[simp] theorem State.putTask_spdm (s : State) (x : Task) : (s.putTask x).spdm = s.spdm := rfl
@[simp] theorem State.putTask_side (s : State) (x : Task) : (s.putTask x).side = s.side := rfl
@[simp] theorem State.putTask_ports (s : State) (x : Task) : (s.putTask x).ports = s.ports := rfl
@[simp] theorem State.putTask_mem (s : State) (x : Task) : (s.putTask x).mem = s.mem := rfl
@[simp] theorem State.putTask_llc (s : State) (x : Task) : (s.putTask x).llc = s.llc := rfl
@[simp] theorem State.putTask_bad (s : State) (x : Task) : (s.putTask x).bad = s.bad := rfl
@[simp] theorem State.putTask_peer (s : State) (x : Task) : (s.putTask x).peer = s.peer := rfl
@[simp] theorem State.putTask_hmem (s : State) (x : Task) : (s.putTask x).hmem = s.hmem := rfl
@[simp] theorem State.putTask_links (s : State) (x : Task) : (s.putTask x).links = s.links := rfl
@[simp] theorem State.putTask_deadDies (s : State) (x : Task) : (s.putTask x).deadDies = s.deadDies := rfl
@[simp] theorem State.putTask_deadCores (s : State) (x : Task) : (s.putTask x).deadCores = s.deadCores := rfl
@[simp] theorem State.putTask_msgs (s : State) (x : Task) : (s.putTask x).msgs = s.msgs := rfl
@[simp] theorem State.putTask_away (s : State) (x : Task) : (s.putTask x).away = s.away := rfl
@[simp] theorem State.putTask_cured (s : State) (x : Task) : (s.putTask x).cured = s.cured := rfl
@[simp] theorem State.putTask_scanAt (s : State) (x : Task) : (s.putTask x).scanAt = s.scanAt := rfl
@[simp] theorem State.putTask_scan (s : State) (x : Task) : (s.putTask x).scan = s.scan := rfl
@[simp] theorem State.putTask_scrubAt (s : State) (x : Task) : (s.putTask x).scrubAt = s.scrubAt := rfl
@[simp] theorem State.putTask_scrub (s : State) (x : Task) : (s.putTask x).scrub = s.scrub := rfl
@[simp] theorem State.putTask_fleet (s : State) (x : Task) : (s.putTask x).fleet = s.fleet := rfl

/-! ### putPart -/

@[simp] theorem State.putPart_now (s : State) (x : Part) : (s.putPart x).now = s.now := rfl
@[simp] theorem State.putPart_script (s : State) (x : Part) : (s.putPart x).script = s.script := rfl
@[simp] theorem State.putPart_cur (s : State) (x : Part) : (s.putPart x).cur = s.cur := rfl
@[simp] theorem State.putPart_nextPc (s : State) (x : Part) : (s.putPart x).nextPc = s.nextPc := rfl
@[simp] theorem State.putPart_yld (s : State) (x : Part) : (s.putPart x).yld = s.yld := rfl
@[simp] theorem State.putPart_stall (s : State) (x : Part) : (s.putPart x).stall = s.stall := rfl
@[simp] theorem State.putPart_late (s : State) (x : Part) : (s.putPart x).late = s.late := rfl
@[simp] theorem State.putPart_fresh (s : State) (x : Part) : (s.putPart x).fresh = s.fresh := rfl
@[simp] theorem State.putPart_uid (s : State) (x : Part) : (s.putPart x).uid = s.uid := rfl
@[simp] theorem State.putPart_groups (s : State) (x : Part) : (s.putPart x).groups = s.groups := rfl
@[simp] theorem State.putPart_blocks (s : State) (x : Part) : (s.putPart x).blocks = s.blocks := rfl
@[simp] theorem State.putPart_cores (s : State) (x : Part) : (s.putPart x).cores = s.cores := rfl
@[simp] theorem State.putPart_tasks (s : State) (x : Part) : (s.putPart x).tasks = s.tasks := rfl
@[simp] theorem State.putPart_queues (s : State) (x : Part) : (s.putPart x).queues = s.queues := rfl
@[simp] theorem State.putPart_ctxs (s : State) (x : Part) : (s.putPart x).ctxs = s.ctxs := rfl
@[simp] theorem State.putPart_gens (s : State) (x : Part) : (s.putPart x).gens = s.gens := rfl
@[simp] theorem State.putPart_fns (s : State) (x : Part) : (s.putPart x).fns = s.fns := rfl
@[simp] theorem State.putPart_cmdq (s : State) (x : Part) : (s.putPart x).cmdq = s.cmdq := rfl
@[simp] theorem State.putPart_cmd (s : State) (x : Part) : (s.putPart x).cmd = s.cmd := rfl
@[simp] theorem State.putPart_spdm (s : State) (x : Part) : (s.putPart x).spdm = s.spdm := rfl
@[simp] theorem State.putPart_side (s : State) (x : Part) : (s.putPart x).side = s.side := rfl
@[simp] theorem State.putPart_ports (s : State) (x : Part) : (s.putPart x).ports = s.ports := rfl
@[simp] theorem State.putPart_mem (s : State) (x : Part) : (s.putPart x).mem = s.mem := rfl
@[simp] theorem State.putPart_llc (s : State) (x : Part) : (s.putPart x).llc = s.llc := rfl
@[simp] theorem State.putPart_bad (s : State) (x : Part) : (s.putPart x).bad = s.bad := rfl
@[simp] theorem State.putPart_peer (s : State) (x : Part) : (s.putPart x).peer = s.peer := rfl
@[simp] theorem State.putPart_hmem (s : State) (x : Part) : (s.putPart x).hmem = s.hmem := rfl
@[simp] theorem State.putPart_links (s : State) (x : Part) : (s.putPart x).links = s.links := rfl
@[simp] theorem State.putPart_deadDies (s : State) (x : Part) : (s.putPart x).deadDies = s.deadDies := rfl
@[simp] theorem State.putPart_deadCores (s : State) (x : Part) : (s.putPart x).deadCores = s.deadCores := rfl
@[simp] theorem State.putPart_msgs (s : State) (x : Part) : (s.putPart x).msgs = s.msgs := rfl
@[simp] theorem State.putPart_away (s : State) (x : Part) : (s.putPart x).away = s.away := rfl
@[simp] theorem State.putPart_cured (s : State) (x : Part) : (s.putPart x).cured = s.cured := rfl
@[simp] theorem State.putPart_scanAt (s : State) (x : Part) : (s.putPart x).scanAt = s.scanAt := rfl
@[simp] theorem State.putPart_scan (s : State) (x : Part) : (s.putPart x).scan = s.scan := rfl
@[simp] theorem State.putPart_scrubAt (s : State) (x : Part) : (s.putPart x).scrubAt = s.scrubAt := rfl
@[simp] theorem State.putPart_scrub (s : State) (x : Part) : (s.putPart x).scrub = s.scrub := rfl
@[simp] theorem State.putPart_fleet (s : State) (x : Part) : (s.putPart x).fleet = s.fleet := rfl

/-! ### putCtx -/

@[simp] theorem State.putCtx_now (s : State) (x : Ctx) : (s.putCtx x).now = s.now := rfl
@[simp] theorem State.putCtx_script (s : State) (x : Ctx) : (s.putCtx x).script = s.script := rfl
@[simp] theorem State.putCtx_cur (s : State) (x : Ctx) : (s.putCtx x).cur = s.cur := rfl
@[simp] theorem State.putCtx_nextPc (s : State) (x : Ctx) : (s.putCtx x).nextPc = s.nextPc := rfl
@[simp] theorem State.putCtx_yld (s : State) (x : Ctx) : (s.putCtx x).yld = s.yld := rfl
@[simp] theorem State.putCtx_stall (s : State) (x : Ctx) : (s.putCtx x).stall = s.stall := rfl
@[simp] theorem State.putCtx_late (s : State) (x : Ctx) : (s.putCtx x).late = s.late := rfl
@[simp] theorem State.putCtx_fresh (s : State) (x : Ctx) : (s.putCtx x).fresh = s.fresh := rfl
@[simp] theorem State.putCtx_uid (s : State) (x : Ctx) : (s.putCtx x).uid = s.uid := rfl
@[simp] theorem State.putCtx_groups (s : State) (x : Ctx) : (s.putCtx x).groups = s.groups := rfl
@[simp] theorem State.putCtx_blocks (s : State) (x : Ctx) : (s.putCtx x).blocks = s.blocks := rfl
@[simp] theorem State.putCtx_cores (s : State) (x : Ctx) : (s.putCtx x).cores = s.cores := rfl
@[simp] theorem State.putCtx_tasks (s : State) (x : Ctx) : (s.putCtx x).tasks = s.tasks := rfl
@[simp] theorem State.putCtx_queues (s : State) (x : Ctx) : (s.putCtx x).queues = s.queues := rfl
@[simp] theorem State.putCtx_parts (s : State) (x : Ctx) : (s.putCtx x).parts = s.parts := rfl
@[simp] theorem State.putCtx_gens (s : State) (x : Ctx) : (s.putCtx x).gens = s.gens := rfl
@[simp] theorem State.putCtx_fns (s : State) (x : Ctx) : (s.putCtx x).fns = s.fns := rfl
@[simp] theorem State.putCtx_cmdq (s : State) (x : Ctx) : (s.putCtx x).cmdq = s.cmdq := rfl
@[simp] theorem State.putCtx_cmd (s : State) (x : Ctx) : (s.putCtx x).cmd = s.cmd := rfl
@[simp] theorem State.putCtx_spdm (s : State) (x : Ctx) : (s.putCtx x).spdm = s.spdm := rfl
@[simp] theorem State.putCtx_side (s : State) (x : Ctx) : (s.putCtx x).side = s.side := rfl
@[simp] theorem State.putCtx_ports (s : State) (x : Ctx) : (s.putCtx x).ports = s.ports := rfl
@[simp] theorem State.putCtx_mem (s : State) (x : Ctx) : (s.putCtx x).mem = s.mem := rfl
@[simp] theorem State.putCtx_llc (s : State) (x : Ctx) : (s.putCtx x).llc = s.llc := rfl
@[simp] theorem State.putCtx_bad (s : State) (x : Ctx) : (s.putCtx x).bad = s.bad := rfl
@[simp] theorem State.putCtx_peer (s : State) (x : Ctx) : (s.putCtx x).peer = s.peer := rfl
@[simp] theorem State.putCtx_hmem (s : State) (x : Ctx) : (s.putCtx x).hmem = s.hmem := rfl
@[simp] theorem State.putCtx_links (s : State) (x : Ctx) : (s.putCtx x).links = s.links := rfl
@[simp] theorem State.putCtx_deadDies (s : State) (x : Ctx) : (s.putCtx x).deadDies = s.deadDies := rfl
@[simp] theorem State.putCtx_deadCores (s : State) (x : Ctx) : (s.putCtx x).deadCores = s.deadCores := rfl
@[simp] theorem State.putCtx_msgs (s : State) (x : Ctx) : (s.putCtx x).msgs = s.msgs := rfl
@[simp] theorem State.putCtx_away (s : State) (x : Ctx) : (s.putCtx x).away = s.away := rfl
@[simp] theorem State.putCtx_cured (s : State) (x : Ctx) : (s.putCtx x).cured = s.cured := rfl
@[simp] theorem State.putCtx_scanAt (s : State) (x : Ctx) : (s.putCtx x).scanAt = s.scanAt := rfl
@[simp] theorem State.putCtx_scan (s : State) (x : Ctx) : (s.putCtx x).scan = s.scan := rfl
@[simp] theorem State.putCtx_scrubAt (s : State) (x : Ctx) : (s.putCtx x).scrubAt = s.scrubAt := rfl
@[simp] theorem State.putCtx_scrub (s : State) (x : Ctx) : (s.putCtx x).scrub = s.scrub := rfl
@[simp] theorem State.putCtx_fleet (s : State) (x : Ctx) : (s.putCtx x).fleet = s.fleet := rfl

/-! ### putQueue -/

@[simp] theorem State.putQueue_now (s : State) (x : Queue) : (s.putQueue x).now = s.now := rfl
@[simp] theorem State.putQueue_script (s : State) (x : Queue) : (s.putQueue x).script = s.script := rfl
@[simp] theorem State.putQueue_cur (s : State) (x : Queue) : (s.putQueue x).cur = s.cur := rfl
@[simp] theorem State.putQueue_nextPc (s : State) (x : Queue) : (s.putQueue x).nextPc = s.nextPc := rfl
@[simp] theorem State.putQueue_yld (s : State) (x : Queue) : (s.putQueue x).yld = s.yld := rfl
@[simp] theorem State.putQueue_stall (s : State) (x : Queue) : (s.putQueue x).stall = s.stall := rfl
@[simp] theorem State.putQueue_late (s : State) (x : Queue) : (s.putQueue x).late = s.late := rfl
@[simp] theorem State.putQueue_fresh (s : State) (x : Queue) : (s.putQueue x).fresh = s.fresh := rfl
@[simp] theorem State.putQueue_uid (s : State) (x : Queue) : (s.putQueue x).uid = s.uid := rfl
@[simp] theorem State.putQueue_groups (s : State) (x : Queue) : (s.putQueue x).groups = s.groups := rfl
@[simp] theorem State.putQueue_blocks (s : State) (x : Queue) : (s.putQueue x).blocks = s.blocks := rfl
@[simp] theorem State.putQueue_cores (s : State) (x : Queue) : (s.putQueue x).cores = s.cores := rfl
@[simp] theorem State.putQueue_tasks (s : State) (x : Queue) : (s.putQueue x).tasks = s.tasks := rfl
@[simp] theorem State.putQueue_ctxs (s : State) (x : Queue) : (s.putQueue x).ctxs = s.ctxs := rfl
@[simp] theorem State.putQueue_parts (s : State) (x : Queue) : (s.putQueue x).parts = s.parts := rfl
@[simp] theorem State.putQueue_gens (s : State) (x : Queue) : (s.putQueue x).gens = s.gens := rfl
@[simp] theorem State.putQueue_fns (s : State) (x : Queue) : (s.putQueue x).fns = s.fns := rfl
@[simp] theorem State.putQueue_cmdq (s : State) (x : Queue) : (s.putQueue x).cmdq = s.cmdq := rfl
@[simp] theorem State.putQueue_cmd (s : State) (x : Queue) : (s.putQueue x).cmd = s.cmd := rfl
@[simp] theorem State.putQueue_spdm (s : State) (x : Queue) : (s.putQueue x).spdm = s.spdm := rfl
@[simp] theorem State.putQueue_side (s : State) (x : Queue) : (s.putQueue x).side = s.side := rfl
@[simp] theorem State.putQueue_ports (s : State) (x : Queue) : (s.putQueue x).ports = s.ports := rfl
@[simp] theorem State.putQueue_mem (s : State) (x : Queue) : (s.putQueue x).mem = s.mem := rfl
@[simp] theorem State.putQueue_llc (s : State) (x : Queue) : (s.putQueue x).llc = s.llc := rfl
@[simp] theorem State.putQueue_bad (s : State) (x : Queue) : (s.putQueue x).bad = s.bad := rfl
@[simp] theorem State.putQueue_peer (s : State) (x : Queue) : (s.putQueue x).peer = s.peer := rfl
@[simp] theorem State.putQueue_hmem (s : State) (x : Queue) : (s.putQueue x).hmem = s.hmem := rfl
@[simp] theorem State.putQueue_links (s : State) (x : Queue) : (s.putQueue x).links = s.links := rfl
@[simp] theorem State.putQueue_deadDies (s : State) (x : Queue) : (s.putQueue x).deadDies = s.deadDies := rfl
@[simp] theorem State.putQueue_deadCores (s : State) (x : Queue) : (s.putQueue x).deadCores = s.deadCores := rfl
@[simp] theorem State.putQueue_msgs (s : State) (x : Queue) : (s.putQueue x).msgs = s.msgs := rfl
@[simp] theorem State.putQueue_away (s : State) (x : Queue) : (s.putQueue x).away = s.away := rfl
@[simp] theorem State.putQueue_cured (s : State) (x : Queue) : (s.putQueue x).cured = s.cured := rfl
@[simp] theorem State.putQueue_scanAt (s : State) (x : Queue) : (s.putQueue x).scanAt = s.scanAt := rfl
@[simp] theorem State.putQueue_scan (s : State) (x : Queue) : (s.putQueue x).scan = s.scan := rfl
@[simp] theorem State.putQueue_scrubAt (s : State) (x : Queue) : (s.putQueue x).scrubAt = s.scrubAt := rfl
@[simp] theorem State.putQueue_scrub (s : State) (x : Queue) : (s.putQueue x).scrub = s.scrub := rfl
@[simp] theorem State.putQueue_fleet (s : State) (x : Queue) : (s.putQueue x).fleet = s.fleet := rfl

/-! ### putCore -/

@[simp] theorem State.putCore_now (s : State) (k : Nat) (x : Core) : (s.putCore k x).now = s.now := rfl
@[simp] theorem State.putCore_script (s : State) (k : Nat) (x : Core) : (s.putCore k x).script = s.script := rfl
@[simp] theorem State.putCore_cur (s : State) (k : Nat) (x : Core) : (s.putCore k x).cur = s.cur := rfl
@[simp] theorem State.putCore_nextPc (s : State) (k : Nat) (x : Core) : (s.putCore k x).nextPc = s.nextPc := rfl
@[simp] theorem State.putCore_yld (s : State) (k : Nat) (x : Core) : (s.putCore k x).yld = s.yld := rfl
@[simp] theorem State.putCore_stall (s : State) (k : Nat) (x : Core) : (s.putCore k x).stall = s.stall := rfl
@[simp] theorem State.putCore_late (s : State) (k : Nat) (x : Core) : (s.putCore k x).late = s.late := rfl
@[simp] theorem State.putCore_fresh (s : State) (k : Nat) (x : Core) : (s.putCore k x).fresh = s.fresh := rfl
@[simp] theorem State.putCore_uid (s : State) (k : Nat) (x : Core) : (s.putCore k x).uid = s.uid := rfl
@[simp] theorem State.putCore_groups (s : State) (k : Nat) (x : Core) : (s.putCore k x).groups = s.groups := rfl
@[simp] theorem State.putCore_blocks (s : State) (k : Nat) (x : Core) : (s.putCore k x).blocks = s.blocks := rfl
@[simp] theorem State.putCore_tasks (s : State) (k : Nat) (x : Core) : (s.putCore k x).tasks = s.tasks := rfl
@[simp] theorem State.putCore_queues (s : State) (k : Nat) (x : Core) : (s.putCore k x).queues = s.queues := rfl
@[simp] theorem State.putCore_ctxs (s : State) (k : Nat) (x : Core) : (s.putCore k x).ctxs = s.ctxs := rfl
@[simp] theorem State.putCore_parts (s : State) (k : Nat) (x : Core) : (s.putCore k x).parts = s.parts := rfl
@[simp] theorem State.putCore_gens (s : State) (k : Nat) (x : Core) : (s.putCore k x).gens = s.gens := rfl
@[simp] theorem State.putCore_fns (s : State) (k : Nat) (x : Core) : (s.putCore k x).fns = s.fns := rfl
@[simp] theorem State.putCore_cmdq (s : State) (k : Nat) (x : Core) : (s.putCore k x).cmdq = s.cmdq := rfl
@[simp] theorem State.putCore_cmd (s : State) (k : Nat) (x : Core) : (s.putCore k x).cmd = s.cmd := rfl
@[simp] theorem State.putCore_spdm (s : State) (k : Nat) (x : Core) : (s.putCore k x).spdm = s.spdm := rfl
@[simp] theorem State.putCore_side (s : State) (k : Nat) (x : Core) : (s.putCore k x).side = s.side := rfl
@[simp] theorem State.putCore_ports (s : State) (k : Nat) (x : Core) : (s.putCore k x).ports = s.ports := rfl
@[simp] theorem State.putCore_mem (s : State) (k : Nat) (x : Core) : (s.putCore k x).mem = s.mem := rfl
@[simp] theorem State.putCore_llc (s : State) (k : Nat) (x : Core) : (s.putCore k x).llc = s.llc := rfl
@[simp] theorem State.putCore_bad (s : State) (k : Nat) (x : Core) : (s.putCore k x).bad = s.bad := rfl
@[simp] theorem State.putCore_peer (s : State) (k : Nat) (x : Core) : (s.putCore k x).peer = s.peer := rfl
@[simp] theorem State.putCore_hmem (s : State) (k : Nat) (x : Core) : (s.putCore k x).hmem = s.hmem := rfl
@[simp] theorem State.putCore_links (s : State) (k : Nat) (x : Core) : (s.putCore k x).links = s.links := rfl
@[simp] theorem State.putCore_deadDies (s : State) (k : Nat) (x : Core) : (s.putCore k x).deadDies = s.deadDies := rfl
@[simp] theorem State.putCore_deadCores (s : State) (k : Nat) (x : Core) : (s.putCore k x).deadCores = s.deadCores := rfl
@[simp] theorem State.putCore_msgs (s : State) (k : Nat) (x : Core) : (s.putCore k x).msgs = s.msgs := rfl
@[simp] theorem State.putCore_away (s : State) (k : Nat) (x : Core) : (s.putCore k x).away = s.away := rfl
@[simp] theorem State.putCore_cured (s : State) (k : Nat) (x : Core) : (s.putCore k x).cured = s.cured := rfl
@[simp] theorem State.putCore_scanAt (s : State) (k : Nat) (x : Core) : (s.putCore k x).scanAt = s.scanAt := rfl
@[simp] theorem State.putCore_scan (s : State) (k : Nat) (x : Core) : (s.putCore k x).scan = s.scan := rfl
@[simp] theorem State.putCore_scrubAt (s : State) (k : Nat) (x : Core) : (s.putCore k x).scrubAt = s.scrubAt := rfl
@[simp] theorem State.putCore_scrub (s : State) (k : Nat) (x : Core) : (s.putCore k x).scrub = s.scrub := rfl
@[simp] theorem State.putCore_fleet (s : State) (k : Nat) (x : Core) : (s.putCore k x).fleet = s.fleet := rfl

/-! ### putFn -/

@[simp] theorem State.putFn_now (s : State) (k : Nat) (x : Fn) : (s.putFn k x).now = s.now := rfl
@[simp] theorem State.putFn_script (s : State) (k : Nat) (x : Fn) : (s.putFn k x).script = s.script := rfl
@[simp] theorem State.putFn_cur (s : State) (k : Nat) (x : Fn) : (s.putFn k x).cur = s.cur := rfl
@[simp] theorem State.putFn_nextPc (s : State) (k : Nat) (x : Fn) : (s.putFn k x).nextPc = s.nextPc := rfl
@[simp] theorem State.putFn_yld (s : State) (k : Nat) (x : Fn) : (s.putFn k x).yld = s.yld := rfl
@[simp] theorem State.putFn_stall (s : State) (k : Nat) (x : Fn) : (s.putFn k x).stall = s.stall := rfl
@[simp] theorem State.putFn_late (s : State) (k : Nat) (x : Fn) : (s.putFn k x).late = s.late := rfl
@[simp] theorem State.putFn_fresh (s : State) (k : Nat) (x : Fn) : (s.putFn k x).fresh = s.fresh := rfl
@[simp] theorem State.putFn_uid (s : State) (k : Nat) (x : Fn) : (s.putFn k x).uid = s.uid := rfl
@[simp] theorem State.putFn_groups (s : State) (k : Nat) (x : Fn) : (s.putFn k x).groups = s.groups := rfl
@[simp] theorem State.putFn_blocks (s : State) (k : Nat) (x : Fn) : (s.putFn k x).blocks = s.blocks := rfl
@[simp] theorem State.putFn_cores (s : State) (k : Nat) (x : Fn) : (s.putFn k x).cores = s.cores := rfl
@[simp] theorem State.putFn_tasks (s : State) (k : Nat) (x : Fn) : (s.putFn k x).tasks = s.tasks := rfl
@[simp] theorem State.putFn_queues (s : State) (k : Nat) (x : Fn) : (s.putFn k x).queues = s.queues := rfl
@[simp] theorem State.putFn_ctxs (s : State) (k : Nat) (x : Fn) : (s.putFn k x).ctxs = s.ctxs := rfl
@[simp] theorem State.putFn_parts (s : State) (k : Nat) (x : Fn) : (s.putFn k x).parts = s.parts := rfl
@[simp] theorem State.putFn_gens (s : State) (k : Nat) (x : Fn) : (s.putFn k x).gens = s.gens := rfl
@[simp] theorem State.putFn_cmdq (s : State) (k : Nat) (x : Fn) : (s.putFn k x).cmdq = s.cmdq := rfl
@[simp] theorem State.putFn_cmd (s : State) (k : Nat) (x : Fn) : (s.putFn k x).cmd = s.cmd := rfl
@[simp] theorem State.putFn_spdm (s : State) (k : Nat) (x : Fn) : (s.putFn k x).spdm = s.spdm := rfl
@[simp] theorem State.putFn_side (s : State) (k : Nat) (x : Fn) : (s.putFn k x).side = s.side := rfl
@[simp] theorem State.putFn_ports (s : State) (k : Nat) (x : Fn) : (s.putFn k x).ports = s.ports := rfl
@[simp] theorem State.putFn_mem (s : State) (k : Nat) (x : Fn) : (s.putFn k x).mem = s.mem := rfl
@[simp] theorem State.putFn_llc (s : State) (k : Nat) (x : Fn) : (s.putFn k x).llc = s.llc := rfl
@[simp] theorem State.putFn_bad (s : State) (k : Nat) (x : Fn) : (s.putFn k x).bad = s.bad := rfl
@[simp] theorem State.putFn_peer (s : State) (k : Nat) (x : Fn) : (s.putFn k x).peer = s.peer := rfl
@[simp] theorem State.putFn_hmem (s : State) (k : Nat) (x : Fn) : (s.putFn k x).hmem = s.hmem := rfl
@[simp] theorem State.putFn_links (s : State) (k : Nat) (x : Fn) : (s.putFn k x).links = s.links := rfl
@[simp] theorem State.putFn_deadDies (s : State) (k : Nat) (x : Fn) : (s.putFn k x).deadDies = s.deadDies := rfl
@[simp] theorem State.putFn_deadCores (s : State) (k : Nat) (x : Fn) : (s.putFn k x).deadCores = s.deadCores := rfl
@[simp] theorem State.putFn_msgs (s : State) (k : Nat) (x : Fn) : (s.putFn k x).msgs = s.msgs := rfl
@[simp] theorem State.putFn_away (s : State) (k : Nat) (x : Fn) : (s.putFn k x).away = s.away := rfl
@[simp] theorem State.putFn_cured (s : State) (k : Nat) (x : Fn) : (s.putFn k x).cured = s.cured := rfl
@[simp] theorem State.putFn_scanAt (s : State) (k : Nat) (x : Fn) : (s.putFn k x).scanAt = s.scanAt := rfl
@[simp] theorem State.putFn_scan (s : State) (k : Nat) (x : Fn) : (s.putFn k x).scan = s.scan := rfl
@[simp] theorem State.putFn_scrubAt (s : State) (k : Nat) (x : Fn) : (s.putFn k x).scrubAt = s.scrubAt := rfl
@[simp] theorem State.putFn_scrub (s : State) (k : Nat) (x : Fn) : (s.putFn k x).scrub = s.scrub := rfl
@[simp] theorem State.putFn_fleet (s : State) (k : Nat) (x : Fn) : (s.putFn k x).fleet = s.fleet := rfl

/-! ### putLink -/

@[simp] theorem State.putLink_now (s : State) (k : Nat) (x : Link) : (s.putLink k x).now = s.now := rfl
@[simp] theorem State.putLink_script (s : State) (k : Nat) (x : Link) : (s.putLink k x).script = s.script := rfl
@[simp] theorem State.putLink_cur (s : State) (k : Nat) (x : Link) : (s.putLink k x).cur = s.cur := rfl
@[simp] theorem State.putLink_nextPc (s : State) (k : Nat) (x : Link) : (s.putLink k x).nextPc = s.nextPc := rfl
@[simp] theorem State.putLink_yld (s : State) (k : Nat) (x : Link) : (s.putLink k x).yld = s.yld := rfl
@[simp] theorem State.putLink_stall (s : State) (k : Nat) (x : Link) : (s.putLink k x).stall = s.stall := rfl
@[simp] theorem State.putLink_late (s : State) (k : Nat) (x : Link) : (s.putLink k x).late = s.late := rfl
@[simp] theorem State.putLink_fresh (s : State) (k : Nat) (x : Link) : (s.putLink k x).fresh = s.fresh := rfl
@[simp] theorem State.putLink_uid (s : State) (k : Nat) (x : Link) : (s.putLink k x).uid = s.uid := rfl
@[simp] theorem State.putLink_groups (s : State) (k : Nat) (x : Link) : (s.putLink k x).groups = s.groups := rfl
@[simp] theorem State.putLink_blocks (s : State) (k : Nat) (x : Link) : (s.putLink k x).blocks = s.blocks := rfl
@[simp] theorem State.putLink_cores (s : State) (k : Nat) (x : Link) : (s.putLink k x).cores = s.cores := rfl
@[simp] theorem State.putLink_tasks (s : State) (k : Nat) (x : Link) : (s.putLink k x).tasks = s.tasks := rfl
@[simp] theorem State.putLink_queues (s : State) (k : Nat) (x : Link) : (s.putLink k x).queues = s.queues := rfl
@[simp] theorem State.putLink_ctxs (s : State) (k : Nat) (x : Link) : (s.putLink k x).ctxs = s.ctxs := rfl
@[simp] theorem State.putLink_parts (s : State) (k : Nat) (x : Link) : (s.putLink k x).parts = s.parts := rfl
@[simp] theorem State.putLink_gens (s : State) (k : Nat) (x : Link) : (s.putLink k x).gens = s.gens := rfl
@[simp] theorem State.putLink_fns (s : State) (k : Nat) (x : Link) : (s.putLink k x).fns = s.fns := rfl
@[simp] theorem State.putLink_cmdq (s : State) (k : Nat) (x : Link) : (s.putLink k x).cmdq = s.cmdq := rfl
@[simp] theorem State.putLink_cmd (s : State) (k : Nat) (x : Link) : (s.putLink k x).cmd = s.cmd := rfl
@[simp] theorem State.putLink_spdm (s : State) (k : Nat) (x : Link) : (s.putLink k x).spdm = s.spdm := rfl
@[simp] theorem State.putLink_side (s : State) (k : Nat) (x : Link) : (s.putLink k x).side = s.side := rfl
@[simp] theorem State.putLink_ports (s : State) (k : Nat) (x : Link) : (s.putLink k x).ports = s.ports := rfl
@[simp] theorem State.putLink_mem (s : State) (k : Nat) (x : Link) : (s.putLink k x).mem = s.mem := rfl
@[simp] theorem State.putLink_llc (s : State) (k : Nat) (x : Link) : (s.putLink k x).llc = s.llc := rfl
@[simp] theorem State.putLink_bad (s : State) (k : Nat) (x : Link) : (s.putLink k x).bad = s.bad := rfl
@[simp] theorem State.putLink_peer (s : State) (k : Nat) (x : Link) : (s.putLink k x).peer = s.peer := rfl
@[simp] theorem State.putLink_hmem (s : State) (k : Nat) (x : Link) : (s.putLink k x).hmem = s.hmem := rfl
@[simp] theorem State.putLink_deadDies (s : State) (k : Nat) (x : Link) : (s.putLink k x).deadDies = s.deadDies := rfl
@[simp] theorem State.putLink_deadCores (s : State) (k : Nat) (x : Link) : (s.putLink k x).deadCores = s.deadCores := rfl
@[simp] theorem State.putLink_msgs (s : State) (k : Nat) (x : Link) : (s.putLink k x).msgs = s.msgs := rfl
@[simp] theorem State.putLink_away (s : State) (k : Nat) (x : Link) : (s.putLink k x).away = s.away := rfl
@[simp] theorem State.putLink_cured (s : State) (k : Nat) (x : Link) : (s.putLink k x).cured = s.cured := rfl
@[simp] theorem State.putLink_scanAt (s : State) (k : Nat) (x : Link) : (s.putLink k x).scanAt = s.scanAt := rfl
@[simp] theorem State.putLink_scan (s : State) (k : Nat) (x : Link) : (s.putLink k x).scan = s.scan := rfl
@[simp] theorem State.putLink_scrubAt (s : State) (k : Nat) (x : Link) : (s.putLink k x).scrubAt = s.scrubAt := rfl
@[simp] theorem State.putLink_scrub (s : State) (k : Nat) (x : Link) : (s.putLink k x).scrub = s.scrub := rfl
@[simp] theorem State.putLink_fleet (s : State) (k : Nat) (x : Link) : (s.putLink k x).fleet = s.fleet := rfl

/-! ### hostWrite -/

@[simp] theorem State.hostWrite_now (s : State) (k a : Nat) (b : List Byte) : (s.hostWrite k a b).now = s.now := rfl
@[simp] theorem State.hostWrite_script (s : State) (k a : Nat) (b : List Byte) : (s.hostWrite k a b).script = s.script := rfl
@[simp] theorem State.hostWrite_cur (s : State) (k a : Nat) (b : List Byte) : (s.hostWrite k a b).cur = s.cur := rfl
@[simp] theorem State.hostWrite_nextPc (s : State) (k a : Nat) (b : List Byte) : (s.hostWrite k a b).nextPc = s.nextPc := rfl
@[simp] theorem State.hostWrite_yld (s : State) (k a : Nat) (b : List Byte) : (s.hostWrite k a b).yld = s.yld := rfl
@[simp] theorem State.hostWrite_stall (s : State) (k a : Nat) (b : List Byte) : (s.hostWrite k a b).stall = s.stall := rfl
@[simp] theorem State.hostWrite_late (s : State) (k a : Nat) (b : List Byte) : (s.hostWrite k a b).late = s.late := rfl
@[simp] theorem State.hostWrite_fresh (s : State) (k a : Nat) (b : List Byte) : (s.hostWrite k a b).fresh = s.fresh := rfl
@[simp] theorem State.hostWrite_uid (s : State) (k a : Nat) (b : List Byte) : (s.hostWrite k a b).uid = s.uid := rfl
@[simp] theorem State.hostWrite_groups (s : State) (k a : Nat) (b : List Byte) : (s.hostWrite k a b).groups = s.groups := rfl
@[simp] theorem State.hostWrite_blocks (s : State) (k a : Nat) (b : List Byte) : (s.hostWrite k a b).blocks = s.blocks := rfl
@[simp] theorem State.hostWrite_cores (s : State) (k a : Nat) (b : List Byte) : (s.hostWrite k a b).cores = s.cores := rfl
@[simp] theorem State.hostWrite_tasks (s : State) (k a : Nat) (b : List Byte) : (s.hostWrite k a b).tasks = s.tasks := rfl
@[simp] theorem State.hostWrite_queues (s : State) (k a : Nat) (b : List Byte) : (s.hostWrite k a b).queues = s.queues := rfl
@[simp] theorem State.hostWrite_ctxs (s : State) (k a : Nat) (b : List Byte) : (s.hostWrite k a b).ctxs = s.ctxs := rfl
@[simp] theorem State.hostWrite_parts (s : State) (k a : Nat) (b : List Byte) : (s.hostWrite k a b).parts = s.parts := rfl
@[simp] theorem State.hostWrite_gens (s : State) (k a : Nat) (b : List Byte) : (s.hostWrite k a b).gens = s.gens := rfl
@[simp] theorem State.hostWrite_fns (s : State) (k a : Nat) (b : List Byte) : (s.hostWrite k a b).fns = s.fns := rfl
@[simp] theorem State.hostWrite_cmdq (s : State) (k a : Nat) (b : List Byte) : (s.hostWrite k a b).cmdq = s.cmdq := rfl
@[simp] theorem State.hostWrite_cmd (s : State) (k a : Nat) (b : List Byte) : (s.hostWrite k a b).cmd = s.cmd := rfl
@[simp] theorem State.hostWrite_spdm (s : State) (k a : Nat) (b : List Byte) : (s.hostWrite k a b).spdm = s.spdm := rfl
@[simp] theorem State.hostWrite_side (s : State) (k a : Nat) (b : List Byte) : (s.hostWrite k a b).side = s.side := rfl
@[simp] theorem State.hostWrite_ports (s : State) (k a : Nat) (b : List Byte) : (s.hostWrite k a b).ports = s.ports := rfl
@[simp] theorem State.hostWrite_mem (s : State) (k a : Nat) (b : List Byte) : (s.hostWrite k a b).mem = s.mem := rfl
@[simp] theorem State.hostWrite_llc (s : State) (k a : Nat) (b : List Byte) : (s.hostWrite k a b).llc = s.llc := rfl
@[simp] theorem State.hostWrite_bad (s : State) (k a : Nat) (b : List Byte) : (s.hostWrite k a b).bad = s.bad := rfl
@[simp] theorem State.hostWrite_peer (s : State) (k a : Nat) (b : List Byte) : (s.hostWrite k a b).peer = s.peer := rfl
@[simp] theorem State.hostWrite_links (s : State) (k a : Nat) (b : List Byte) : (s.hostWrite k a b).links = s.links := rfl
@[simp] theorem State.hostWrite_deadDies (s : State) (k a : Nat) (b : List Byte) : (s.hostWrite k a b).deadDies = s.deadDies := rfl
@[simp] theorem State.hostWrite_deadCores (s : State) (k a : Nat) (b : List Byte) : (s.hostWrite k a b).deadCores = s.deadCores := rfl
@[simp] theorem State.hostWrite_msgs (s : State) (k a : Nat) (b : List Byte) : (s.hostWrite k a b).msgs = s.msgs := rfl
@[simp] theorem State.hostWrite_away (s : State) (k a : Nat) (b : List Byte) : (s.hostWrite k a b).away = s.away := rfl
@[simp] theorem State.hostWrite_cured (s : State) (k a : Nat) (b : List Byte) : (s.hostWrite k a b).cured = s.cured := rfl
@[simp] theorem State.hostWrite_scanAt (s : State) (k a : Nat) (b : List Byte) : (s.hostWrite k a b).scanAt = s.scanAt := rfl
@[simp] theorem State.hostWrite_scan (s : State) (k a : Nat) (b : List Byte) : (s.hostWrite k a b).scan = s.scan := rfl
@[simp] theorem State.hostWrite_scrubAt (s : State) (k a : Nat) (b : List Byte) : (s.hostWrite k a b).scrubAt = s.scrubAt := rfl
@[simp] theorem State.hostWrite_scrub (s : State) (k a : Nat) (b : List Byte) : (s.hostWrite k a b).scrub = s.scrub := rfl
@[simp] theorem State.hostWrite_fleet (s : State) (k a : Nat) (b : List Byte) : (s.hostWrite k a b).fleet = s.fleet := rfl

/-! ### The home

What reaches a home changes memory, the LLC, the free values taken, the counters of the partitions and the peers' memory. -/

/-- Two states that differ in these five fields alone. -/
def State.Home (s t : State) : Prop :=
  ∃ m l f p q, t = { s with mem := m, llc := l, fresh := f, parts := p, peer := q }

theorem State.Home.refl (s : State) : s.Home s := ⟨_, _, _, _, _, rfl⟩

theorem State.Home.trans {s t u : State} (h : s.Home t) (k : t.Home u) : s.Home u := by
  obtain ⟨m, l, f, p, q, rfl⟩ := h
  obtain ⟨m', l', f', p', q', rfl⟩ := k
  exact ⟨m', l', f', p', q', rfl⟩

/-- A field that none of the five is stays as it is. -/
theorem State.Home.frame {α : Type} {s t : State} (h : s.Home t) (f : State → α)
    (hf : ∀ m l n p q, f { s with mem := m, llc := l, fresh := n, parts := p, peer := q } = f s) : f t = f s := by
  obtain ⟨m, l, n, p, q, rfl⟩ := h
  exact hf m l n p q

theorem State.home_countUp (s : State) (k e c : Nat) : s.Home (s.countUp k e c) := by
  unfold State.countUp
  split
  · exact .refl s
  · dsimp only; split <;> exact ⟨_, _, _, _, _, rfl⟩

theorem State.home_llcBack (s : State) (l : LlcLine) : s.Home (s.llcBack l) := by
  unfold State.llcBack
  split
  · exact .refl s
  · exact ⟨_, _, _, _, _, rfl⟩

theorem State.home_llcEvict (s : State) (k a : Nat) : s.Home (s.llcEvict k a) := by
  unfold State.llcEvict
  split
  · exact .refl s
  · exact (s.home_llcBack _).trans ⟨_, _, _, _, _, rfl⟩

theorem State.home_llcRoom (s : State) (p : Part) (d i : Nat) : s.Home (s.llcRoom p d i) := by
  unfold State.llcRoom
  dsimp only
  split
  · exact .refl s
  · split
    · exact State.Home.trans ⟨_, _, _, _, _, rfl⟩ (State.home_llcEvict _ _ _)
    · exact .refl s

theorem State.home_llcTouch (s : State) (k a : Nat) (y : Bool) : s.Home (s.llcTouch k a y) := by
  unfold State.llcTouch
  split
  · exact .refl s
  · dsimp only
    split
    · split
      · exact .refl s
      · split
        · exact State.home_countUp _ _ _ _
        · exact State.Home.trans ⟨_, _, _, _, _, rfl⟩ (State.home_countUp _ _ _ _)
    · split
      · exact State.home_countUp _ _ _ _
      · split
        · exact (s.home_llcRoom _ _ _).trans (State.home_countUp _ _ _ _)
        · exact (s.home_llcRoom _ _ _).trans (State.Home.trans ⟨_, _, _, _, _, rfl⟩ (State.home_countUp _ _ _ _))
    · exact .refl s

theorem State.home_zeroLine (s : State) (a : Nat) : s.Home (s.zeroLine a) := ⟨_, _, _, _, _, rfl⟩

theorem State.home_llcRenew (s : State) (k a : Nat) : s.Home (s.llcRenew k a) := by
  unfold State.llcRenew
  split
  · exact .refl s
  · split
    · exact .refl s
    · dsimp only
      split
      · exact State.Home.trans ⟨_, _, _, _, _, rfl⟩ (State.home_zeroLine _ _)
      · split
        · exact State.Home.trans ⟨_, _, _, _, _, rfl⟩ (State.Home.trans (State.home_llcRoom _ _ _ _) ⟨_, _, _, _, _, rfl⟩)
        · exact State.Home.trans ⟨_, _, _, _, _, rfl⟩ (State.Home.trans (State.home_llcRoom _ _ _ _) (State.home_zeroLine _ _))

theorem State.home_homeStore (s : State) (k a : Nat) (b : Byte) : s.Home (s.homeStore k a b) := by
  unfold State.homeStore
  split
  · exact ⟨_, _, _, _, _, rfl⟩
  · split <;> exact ⟨_, _, _, _, _, rfl⟩

theorem State.home_homePut (s : State) (k a : Nat) (b : Byte) : s.Home (s.homePut k a b) :=
  (s.home_llcRenew k a).trans (State.home_homeStore _ _ _ _)

theorem State.home_homePuts (b : List Byte) (s : State) (k a : Nat) : s.Home (s.homePuts k a b) := by
  induction b generalizing s a with
  | nil => exact .refl s
  | cons x t ih => exact (State.home_homePut _ _ _ _).trans (ih _ _)

theorem State.home_llcTouches (s : State) (k a n : Nat) (y : Bool) : s.Home (s.llcTouches k a n y) := by
  unfold State.llcTouches
  generalize List.range _ = l
  induction l generalizing s with
  | nil => exact .refl s
  | cons i l ih => exact (State.home_llcTouch _ _ _ _).trans (ih _)

theorem State.home_homeWriteBy (s : State) (k a : Nat) (y : Bool) (b : List Byte) : s.Home (s.homeWriteBy k a y b) := by
  unfold State.homeWriteBy
  split
  · exact ⟨_, _, _, _, _, rfl⟩
  · exact (s.home_llcTouches k a b.length y).trans (State.home_homePuts b _ k a)

theorem State.home_homeWrite (s : State) (k a : Nat) (b : List Byte) : s.Home (s.homeWrite k a b) :=
  s.home_homeWriteBy k a false b

/-! ### homeWrite -/

@[simp] theorem State.homeWrite_now (s : State) (k a : Nat) (b : List Byte) : (s.homeWrite k a b).now = s.now := (s.home_homeWrite k a b).frame (·.now) fun _ _ _ _ _ => rfl
@[simp] theorem State.homeWrite_script (s : State) (k a : Nat) (b : List Byte) : (s.homeWrite k a b).script = s.script := (s.home_homeWrite k a b).frame (·.script) fun _ _ _ _ _ => rfl
@[simp] theorem State.homeWrite_cur (s : State) (k a : Nat) (b : List Byte) : (s.homeWrite k a b).cur = s.cur := (s.home_homeWrite k a b).frame (·.cur) fun _ _ _ _ _ => rfl
@[simp] theorem State.homeWrite_nextPc (s : State) (k a : Nat) (b : List Byte) : (s.homeWrite k a b).nextPc = s.nextPc := (s.home_homeWrite k a b).frame (·.nextPc) fun _ _ _ _ _ => rfl
@[simp] theorem State.homeWrite_yld (s : State) (k a : Nat) (b : List Byte) : (s.homeWrite k a b).yld = s.yld := (s.home_homeWrite k a b).frame (·.yld) fun _ _ _ _ _ => rfl
@[simp] theorem State.homeWrite_stall (s : State) (k a : Nat) (b : List Byte) : (s.homeWrite k a b).stall = s.stall := (s.home_homeWrite k a b).frame (·.stall) fun _ _ _ _ _ => rfl
@[simp] theorem State.homeWrite_late (s : State) (k a : Nat) (b : List Byte) : (s.homeWrite k a b).late = s.late := (s.home_homeWrite k a b).frame (·.late) fun _ _ _ _ _ => rfl
@[simp] theorem State.homeWrite_uid (s : State) (k a : Nat) (b : List Byte) : (s.homeWrite k a b).uid = s.uid := (s.home_homeWrite k a b).frame (·.uid) fun _ _ _ _ _ => rfl
@[simp] theorem State.homeWrite_groups (s : State) (k a : Nat) (b : List Byte) : (s.homeWrite k a b).groups = s.groups := (s.home_homeWrite k a b).frame (·.groups) fun _ _ _ _ _ => rfl
@[simp] theorem State.homeWrite_blocks (s : State) (k a : Nat) (b : List Byte) : (s.homeWrite k a b).blocks = s.blocks := (s.home_homeWrite k a b).frame (·.blocks) fun _ _ _ _ _ => rfl
@[simp] theorem State.homeWrite_cores (s : State) (k a : Nat) (b : List Byte) : (s.homeWrite k a b).cores = s.cores := (s.home_homeWrite k a b).frame (·.cores) fun _ _ _ _ _ => rfl
@[simp] theorem State.homeWrite_tasks (s : State) (k a : Nat) (b : List Byte) : (s.homeWrite k a b).tasks = s.tasks := (s.home_homeWrite k a b).frame (·.tasks) fun _ _ _ _ _ => rfl
@[simp] theorem State.homeWrite_queues (s : State) (k a : Nat) (b : List Byte) : (s.homeWrite k a b).queues = s.queues := (s.home_homeWrite k a b).frame (·.queues) fun _ _ _ _ _ => rfl
@[simp] theorem State.homeWrite_ctxs (s : State) (k a : Nat) (b : List Byte) : (s.homeWrite k a b).ctxs = s.ctxs := (s.home_homeWrite k a b).frame (·.ctxs) fun _ _ _ _ _ => rfl
@[simp] theorem State.homeWrite_gens (s : State) (k a : Nat) (b : List Byte) : (s.homeWrite k a b).gens = s.gens := (s.home_homeWrite k a b).frame (·.gens) fun _ _ _ _ _ => rfl
@[simp] theorem State.homeWrite_fns (s : State) (k a : Nat) (b : List Byte) : (s.homeWrite k a b).fns = s.fns := (s.home_homeWrite k a b).frame (·.fns) fun _ _ _ _ _ => rfl
@[simp] theorem State.homeWrite_cmdq (s : State) (k a : Nat) (b : List Byte) : (s.homeWrite k a b).cmdq = s.cmdq := (s.home_homeWrite k a b).frame (·.cmdq) fun _ _ _ _ _ => rfl
@[simp] theorem State.homeWrite_cmd (s : State) (k a : Nat) (b : List Byte) : (s.homeWrite k a b).cmd = s.cmd := (s.home_homeWrite k a b).frame (·.cmd) fun _ _ _ _ _ => rfl
@[simp] theorem State.homeWrite_spdm (s : State) (k a : Nat) (b : List Byte) : (s.homeWrite k a b).spdm = s.spdm := (s.home_homeWrite k a b).frame (·.spdm) fun _ _ _ _ _ => rfl
@[simp] theorem State.homeWrite_side (s : State) (k a : Nat) (b : List Byte) : (s.homeWrite k a b).side = s.side := (s.home_homeWrite k a b).frame (·.side) fun _ _ _ _ _ => rfl
@[simp] theorem State.homeWrite_ports (s : State) (k a : Nat) (b : List Byte) : (s.homeWrite k a b).ports = s.ports := (s.home_homeWrite k a b).frame (·.ports) fun _ _ _ _ _ => rfl
@[simp] theorem State.homeWrite_bad (s : State) (k a : Nat) (b : List Byte) : (s.homeWrite k a b).bad = s.bad := (s.home_homeWrite k a b).frame (·.bad) fun _ _ _ _ _ => rfl
@[simp] theorem State.homeWrite_hmem (s : State) (k a : Nat) (b : List Byte) : (s.homeWrite k a b).hmem = s.hmem := (s.home_homeWrite k a b).frame (·.hmem) fun _ _ _ _ _ => rfl
@[simp] theorem State.homeWrite_links (s : State) (k a : Nat) (b : List Byte) : (s.homeWrite k a b).links = s.links := (s.home_homeWrite k a b).frame (·.links) fun _ _ _ _ _ => rfl
@[simp] theorem State.homeWrite_deadDies (s : State) (k a : Nat) (b : List Byte) : (s.homeWrite k a b).deadDies = s.deadDies := (s.home_homeWrite k a b).frame (·.deadDies) fun _ _ _ _ _ => rfl
@[simp] theorem State.homeWrite_deadCores (s : State) (k a : Nat) (b : List Byte) : (s.homeWrite k a b).deadCores = s.deadCores := (s.home_homeWrite k a b).frame (·.deadCores) fun _ _ _ _ _ => rfl
@[simp] theorem State.homeWrite_msgs (s : State) (k a : Nat) (b : List Byte) : (s.homeWrite k a b).msgs = s.msgs := (s.home_homeWrite k a b).frame (·.msgs) fun _ _ _ _ _ => rfl
@[simp] theorem State.homeWrite_away (s : State) (k a : Nat) (b : List Byte) : (s.homeWrite k a b).away = s.away := (s.home_homeWrite k a b).frame (·.away) fun _ _ _ _ _ => rfl
@[simp] theorem State.homeWrite_cured (s : State) (k a : Nat) (b : List Byte) : (s.homeWrite k a b).cured = s.cured := (s.home_homeWrite k a b).frame (·.cured) fun _ _ _ _ _ => rfl
@[simp] theorem State.homeWrite_scanAt (s : State) (k a : Nat) (b : List Byte) : (s.homeWrite k a b).scanAt = s.scanAt := (s.home_homeWrite k a b).frame (·.scanAt) fun _ _ _ _ _ => rfl
@[simp] theorem State.homeWrite_scan (s : State) (k a : Nat) (b : List Byte) : (s.homeWrite k a b).scan = s.scan := (s.home_homeWrite k a b).frame (·.scan) fun _ _ _ _ _ => rfl
@[simp] theorem State.homeWrite_scrubAt (s : State) (k a : Nat) (b : List Byte) : (s.homeWrite k a b).scrubAt = s.scrubAt := (s.home_homeWrite k a b).frame (·.scrubAt) fun _ _ _ _ _ => rfl
@[simp] theorem State.homeWrite_scrub (s : State) (k a : Nat) (b : List Byte) : (s.homeWrite k a b).scrub = s.scrub := (s.home_homeWrite k a b).frame (·.scrub) fun _ _ _ _ _ => rfl
@[simp] theorem State.homeWrite_fleet (s : State) (k a : Nat) (b : List Byte) : (s.homeWrite k a b).fleet = s.fleet := (s.home_homeWrite k a b).frame (·.fleet) fun _ _ _ _ _ => rfl

/-! ### homeWriteBy -/

@[simp] theorem State.homeWriteBy_now (s : State) (k a : Nat) (y : Bool) (b : List Byte) : (s.homeWriteBy k a y b).now = s.now := (s.home_homeWriteBy k a y b).frame (·.now) fun _ _ _ _ _ => rfl
@[simp] theorem State.homeWriteBy_script (s : State) (k a : Nat) (y : Bool) (b : List Byte) : (s.homeWriteBy k a y b).script = s.script := (s.home_homeWriteBy k a y b).frame (·.script) fun _ _ _ _ _ => rfl
@[simp] theorem State.homeWriteBy_cur (s : State) (k a : Nat) (y : Bool) (b : List Byte) : (s.homeWriteBy k a y b).cur = s.cur := (s.home_homeWriteBy k a y b).frame (·.cur) fun _ _ _ _ _ => rfl
@[simp] theorem State.homeWriteBy_nextPc (s : State) (k a : Nat) (y : Bool) (b : List Byte) : (s.homeWriteBy k a y b).nextPc = s.nextPc := (s.home_homeWriteBy k a y b).frame (·.nextPc) fun _ _ _ _ _ => rfl
@[simp] theorem State.homeWriteBy_yld (s : State) (k a : Nat) (y : Bool) (b : List Byte) : (s.homeWriteBy k a y b).yld = s.yld := (s.home_homeWriteBy k a y b).frame (·.yld) fun _ _ _ _ _ => rfl
@[simp] theorem State.homeWriteBy_stall (s : State) (k a : Nat) (y : Bool) (b : List Byte) : (s.homeWriteBy k a y b).stall = s.stall := (s.home_homeWriteBy k a y b).frame (·.stall) fun _ _ _ _ _ => rfl
@[simp] theorem State.homeWriteBy_late (s : State) (k a : Nat) (y : Bool) (b : List Byte) : (s.homeWriteBy k a y b).late = s.late := (s.home_homeWriteBy k a y b).frame (·.late) fun _ _ _ _ _ => rfl
@[simp] theorem State.homeWriteBy_uid (s : State) (k a : Nat) (y : Bool) (b : List Byte) : (s.homeWriteBy k a y b).uid = s.uid := (s.home_homeWriteBy k a y b).frame (·.uid) fun _ _ _ _ _ => rfl
@[simp] theorem State.homeWriteBy_groups (s : State) (k a : Nat) (y : Bool) (b : List Byte) : (s.homeWriteBy k a y b).groups = s.groups := (s.home_homeWriteBy k a y b).frame (·.groups) fun _ _ _ _ _ => rfl
@[simp] theorem State.homeWriteBy_blocks (s : State) (k a : Nat) (y : Bool) (b : List Byte) : (s.homeWriteBy k a y b).blocks = s.blocks := (s.home_homeWriteBy k a y b).frame (·.blocks) fun _ _ _ _ _ => rfl
@[simp] theorem State.homeWriteBy_cores (s : State) (k a : Nat) (y : Bool) (b : List Byte) : (s.homeWriteBy k a y b).cores = s.cores := (s.home_homeWriteBy k a y b).frame (·.cores) fun _ _ _ _ _ => rfl
@[simp] theorem State.homeWriteBy_tasks (s : State) (k a : Nat) (y : Bool) (b : List Byte) : (s.homeWriteBy k a y b).tasks = s.tasks := (s.home_homeWriteBy k a y b).frame (·.tasks) fun _ _ _ _ _ => rfl
@[simp] theorem State.homeWriteBy_queues (s : State) (k a : Nat) (y : Bool) (b : List Byte) : (s.homeWriteBy k a y b).queues = s.queues := (s.home_homeWriteBy k a y b).frame (·.queues) fun _ _ _ _ _ => rfl
@[simp] theorem State.homeWriteBy_ctxs (s : State) (k a : Nat) (y : Bool) (b : List Byte) : (s.homeWriteBy k a y b).ctxs = s.ctxs := (s.home_homeWriteBy k a y b).frame (·.ctxs) fun _ _ _ _ _ => rfl
@[simp] theorem State.homeWriteBy_gens (s : State) (k a : Nat) (y : Bool) (b : List Byte) : (s.homeWriteBy k a y b).gens = s.gens := (s.home_homeWriteBy k a y b).frame (·.gens) fun _ _ _ _ _ => rfl
@[simp] theorem State.homeWriteBy_fns (s : State) (k a : Nat) (y : Bool) (b : List Byte) : (s.homeWriteBy k a y b).fns = s.fns := (s.home_homeWriteBy k a y b).frame (·.fns) fun _ _ _ _ _ => rfl
@[simp] theorem State.homeWriteBy_cmdq (s : State) (k a : Nat) (y : Bool) (b : List Byte) : (s.homeWriteBy k a y b).cmdq = s.cmdq := (s.home_homeWriteBy k a y b).frame (·.cmdq) fun _ _ _ _ _ => rfl
@[simp] theorem State.homeWriteBy_cmd (s : State) (k a : Nat) (y : Bool) (b : List Byte) : (s.homeWriteBy k a y b).cmd = s.cmd := (s.home_homeWriteBy k a y b).frame (·.cmd) fun _ _ _ _ _ => rfl
@[simp] theorem State.homeWriteBy_spdm (s : State) (k a : Nat) (y : Bool) (b : List Byte) : (s.homeWriteBy k a y b).spdm = s.spdm := (s.home_homeWriteBy k a y b).frame (·.spdm) fun _ _ _ _ _ => rfl
@[simp] theorem State.homeWriteBy_side (s : State) (k a : Nat) (y : Bool) (b : List Byte) : (s.homeWriteBy k a y b).side = s.side := (s.home_homeWriteBy k a y b).frame (·.side) fun _ _ _ _ _ => rfl
@[simp] theorem State.homeWriteBy_ports (s : State) (k a : Nat) (y : Bool) (b : List Byte) : (s.homeWriteBy k a y b).ports = s.ports := (s.home_homeWriteBy k a y b).frame (·.ports) fun _ _ _ _ _ => rfl
@[simp] theorem State.homeWriteBy_bad (s : State) (k a : Nat) (y : Bool) (b : List Byte) : (s.homeWriteBy k a y b).bad = s.bad := (s.home_homeWriteBy k a y b).frame (·.bad) fun _ _ _ _ _ => rfl
@[simp] theorem State.homeWriteBy_hmem (s : State) (k a : Nat) (y : Bool) (b : List Byte) : (s.homeWriteBy k a y b).hmem = s.hmem := (s.home_homeWriteBy k a y b).frame (·.hmem) fun _ _ _ _ _ => rfl
@[simp] theorem State.homeWriteBy_links (s : State) (k a : Nat) (y : Bool) (b : List Byte) : (s.homeWriteBy k a y b).links = s.links := (s.home_homeWriteBy k a y b).frame (·.links) fun _ _ _ _ _ => rfl
@[simp] theorem State.homeWriteBy_deadDies (s : State) (k a : Nat) (y : Bool) (b : List Byte) : (s.homeWriteBy k a y b).deadDies = s.deadDies := (s.home_homeWriteBy k a y b).frame (·.deadDies) fun _ _ _ _ _ => rfl
@[simp] theorem State.homeWriteBy_deadCores (s : State) (k a : Nat) (y : Bool) (b : List Byte) : (s.homeWriteBy k a y b).deadCores = s.deadCores := (s.home_homeWriteBy k a y b).frame (·.deadCores) fun _ _ _ _ _ => rfl
@[simp] theorem State.homeWriteBy_msgs (s : State) (k a : Nat) (y : Bool) (b : List Byte) : (s.homeWriteBy k a y b).msgs = s.msgs := (s.home_homeWriteBy k a y b).frame (·.msgs) fun _ _ _ _ _ => rfl
@[simp] theorem State.homeWriteBy_away (s : State) (k a : Nat) (y : Bool) (b : List Byte) : (s.homeWriteBy k a y b).away = s.away := (s.home_homeWriteBy k a y b).frame (·.away) fun _ _ _ _ _ => rfl
@[simp] theorem State.homeWriteBy_cured (s : State) (k a : Nat) (y : Bool) (b : List Byte) : (s.homeWriteBy k a y b).cured = s.cured := (s.home_homeWriteBy k a y b).frame (·.cured) fun _ _ _ _ _ => rfl
@[simp] theorem State.homeWriteBy_scanAt (s : State) (k a : Nat) (y : Bool) (b : List Byte) : (s.homeWriteBy k a y b).scanAt = s.scanAt := (s.home_homeWriteBy k a y b).frame (·.scanAt) fun _ _ _ _ _ => rfl
@[simp] theorem State.homeWriteBy_scan (s : State) (k a : Nat) (y : Bool) (b : List Byte) : (s.homeWriteBy k a y b).scan = s.scan := (s.home_homeWriteBy k a y b).frame (·.scan) fun _ _ _ _ _ => rfl
@[simp] theorem State.homeWriteBy_scrubAt (s : State) (k a : Nat) (y : Bool) (b : List Byte) : (s.homeWriteBy k a y b).scrubAt = s.scrubAt := (s.home_homeWriteBy k a y b).frame (·.scrubAt) fun _ _ _ _ _ => rfl
@[simp] theorem State.homeWriteBy_scrub (s : State) (k a : Nat) (y : Bool) (b : List Byte) : (s.homeWriteBy k a y b).scrub = s.scrub := (s.home_homeWriteBy k a y b).frame (·.scrub) fun _ _ _ _ _ => rfl
@[simp] theorem State.homeWriteBy_fleet (s : State) (k a : Nat) (y : Bool) (b : List Byte) : (s.homeWriteBy k a y b).fleet = s.fleet := (s.home_homeWriteBy k a y b).frame (·.fleet) fun _ _ _ _ _ => rfl

/-! ### llcTouch -/

@[simp] theorem State.llcTouch_now (s : State) (k a : Nat) (y : Bool) : (s.llcTouch k a y).now = s.now := (s.home_llcTouch k a y).frame (·.now) fun _ _ _ _ _ => rfl
@[simp] theorem State.llcTouch_script (s : State) (k a : Nat) (y : Bool) : (s.llcTouch k a y).script = s.script := (s.home_llcTouch k a y).frame (·.script) fun _ _ _ _ _ => rfl
@[simp] theorem State.llcTouch_cur (s : State) (k a : Nat) (y : Bool) : (s.llcTouch k a y).cur = s.cur := (s.home_llcTouch k a y).frame (·.cur) fun _ _ _ _ _ => rfl
@[simp] theorem State.llcTouch_nextPc (s : State) (k a : Nat) (y : Bool) : (s.llcTouch k a y).nextPc = s.nextPc := (s.home_llcTouch k a y).frame (·.nextPc) fun _ _ _ _ _ => rfl
@[simp] theorem State.llcTouch_yld (s : State) (k a : Nat) (y : Bool) : (s.llcTouch k a y).yld = s.yld := (s.home_llcTouch k a y).frame (·.yld) fun _ _ _ _ _ => rfl
@[simp] theorem State.llcTouch_stall (s : State) (k a : Nat) (y : Bool) : (s.llcTouch k a y).stall = s.stall := (s.home_llcTouch k a y).frame (·.stall) fun _ _ _ _ _ => rfl
@[simp] theorem State.llcTouch_late (s : State) (k a : Nat) (y : Bool) : (s.llcTouch k a y).late = s.late := (s.home_llcTouch k a y).frame (·.late) fun _ _ _ _ _ => rfl
@[simp] theorem State.llcTouch_uid (s : State) (k a : Nat) (y : Bool) : (s.llcTouch k a y).uid = s.uid := (s.home_llcTouch k a y).frame (·.uid) fun _ _ _ _ _ => rfl
@[simp] theorem State.llcTouch_groups (s : State) (k a : Nat) (y : Bool) : (s.llcTouch k a y).groups = s.groups := (s.home_llcTouch k a y).frame (·.groups) fun _ _ _ _ _ => rfl
@[simp] theorem State.llcTouch_blocks (s : State) (k a : Nat) (y : Bool) : (s.llcTouch k a y).blocks = s.blocks := (s.home_llcTouch k a y).frame (·.blocks) fun _ _ _ _ _ => rfl
@[simp] theorem State.llcTouch_cores (s : State) (k a : Nat) (y : Bool) : (s.llcTouch k a y).cores = s.cores := (s.home_llcTouch k a y).frame (·.cores) fun _ _ _ _ _ => rfl
@[simp] theorem State.llcTouch_tasks (s : State) (k a : Nat) (y : Bool) : (s.llcTouch k a y).tasks = s.tasks := (s.home_llcTouch k a y).frame (·.tasks) fun _ _ _ _ _ => rfl
@[simp] theorem State.llcTouch_queues (s : State) (k a : Nat) (y : Bool) : (s.llcTouch k a y).queues = s.queues := (s.home_llcTouch k a y).frame (·.queues) fun _ _ _ _ _ => rfl
@[simp] theorem State.llcTouch_ctxs (s : State) (k a : Nat) (y : Bool) : (s.llcTouch k a y).ctxs = s.ctxs := (s.home_llcTouch k a y).frame (·.ctxs) fun _ _ _ _ _ => rfl
@[simp] theorem State.llcTouch_gens (s : State) (k a : Nat) (y : Bool) : (s.llcTouch k a y).gens = s.gens := (s.home_llcTouch k a y).frame (·.gens) fun _ _ _ _ _ => rfl
@[simp] theorem State.llcTouch_fns (s : State) (k a : Nat) (y : Bool) : (s.llcTouch k a y).fns = s.fns := (s.home_llcTouch k a y).frame (·.fns) fun _ _ _ _ _ => rfl
@[simp] theorem State.llcTouch_cmdq (s : State) (k a : Nat) (y : Bool) : (s.llcTouch k a y).cmdq = s.cmdq := (s.home_llcTouch k a y).frame (·.cmdq) fun _ _ _ _ _ => rfl
@[simp] theorem State.llcTouch_cmd (s : State) (k a : Nat) (y : Bool) : (s.llcTouch k a y).cmd = s.cmd := (s.home_llcTouch k a y).frame (·.cmd) fun _ _ _ _ _ => rfl
@[simp] theorem State.llcTouch_spdm (s : State) (k a : Nat) (y : Bool) : (s.llcTouch k a y).spdm = s.spdm := (s.home_llcTouch k a y).frame (·.spdm) fun _ _ _ _ _ => rfl
@[simp] theorem State.llcTouch_side (s : State) (k a : Nat) (y : Bool) : (s.llcTouch k a y).side = s.side := (s.home_llcTouch k a y).frame (·.side) fun _ _ _ _ _ => rfl
@[simp] theorem State.llcTouch_ports (s : State) (k a : Nat) (y : Bool) : (s.llcTouch k a y).ports = s.ports := (s.home_llcTouch k a y).frame (·.ports) fun _ _ _ _ _ => rfl
@[simp] theorem State.llcTouch_bad (s : State) (k a : Nat) (y : Bool) : (s.llcTouch k a y).bad = s.bad := (s.home_llcTouch k a y).frame (·.bad) fun _ _ _ _ _ => rfl
@[simp] theorem State.llcTouch_hmem (s : State) (k a : Nat) (y : Bool) : (s.llcTouch k a y).hmem = s.hmem := (s.home_llcTouch k a y).frame (·.hmem) fun _ _ _ _ _ => rfl
@[simp] theorem State.llcTouch_links (s : State) (k a : Nat) (y : Bool) : (s.llcTouch k a y).links = s.links := (s.home_llcTouch k a y).frame (·.links) fun _ _ _ _ _ => rfl
@[simp] theorem State.llcTouch_deadDies (s : State) (k a : Nat) (y : Bool) : (s.llcTouch k a y).deadDies = s.deadDies := (s.home_llcTouch k a y).frame (·.deadDies) fun _ _ _ _ _ => rfl
@[simp] theorem State.llcTouch_deadCores (s : State) (k a : Nat) (y : Bool) : (s.llcTouch k a y).deadCores = s.deadCores := (s.home_llcTouch k a y).frame (·.deadCores) fun _ _ _ _ _ => rfl
@[simp] theorem State.llcTouch_msgs (s : State) (k a : Nat) (y : Bool) : (s.llcTouch k a y).msgs = s.msgs := (s.home_llcTouch k a y).frame (·.msgs) fun _ _ _ _ _ => rfl
@[simp] theorem State.llcTouch_away (s : State) (k a : Nat) (y : Bool) : (s.llcTouch k a y).away = s.away := (s.home_llcTouch k a y).frame (·.away) fun _ _ _ _ _ => rfl
@[simp] theorem State.llcTouch_cured (s : State) (k a : Nat) (y : Bool) : (s.llcTouch k a y).cured = s.cured := (s.home_llcTouch k a y).frame (·.cured) fun _ _ _ _ _ => rfl
@[simp] theorem State.llcTouch_scanAt (s : State) (k a : Nat) (y : Bool) : (s.llcTouch k a y).scanAt = s.scanAt := (s.home_llcTouch k a y).frame (·.scanAt) fun _ _ _ _ _ => rfl
@[simp] theorem State.llcTouch_scan (s : State) (k a : Nat) (y : Bool) : (s.llcTouch k a y).scan = s.scan := (s.home_llcTouch k a y).frame (·.scan) fun _ _ _ _ _ => rfl
@[simp] theorem State.llcTouch_scrubAt (s : State) (k a : Nat) (y : Bool) : (s.llcTouch k a y).scrubAt = s.scrubAt := (s.home_llcTouch k a y).frame (·.scrubAt) fun _ _ _ _ _ => rfl
@[simp] theorem State.llcTouch_scrub (s : State) (k a : Nat) (y : Bool) : (s.llcTouch k a y).scrub = s.scrub := (s.home_llcTouch k a y).frame (·.scrub) fun _ _ _ _ _ => rfl
@[simp] theorem State.llcTouch_fleet (s : State) (k a : Nat) (y : Bool) : (s.llcTouch k a y).fleet = s.fleet := (s.home_llcTouch k a y).frame (·.fleet) fun _ _ _ _ _ => rfl

end Sys2Proof.Machine
end

