-- ==== Sys2Proof/Laws/Cells.lean ====
section
/-! SUPPORT. Byte maps: reading after writing, and that every write keeps the canonical form. -/

namespace Sys2Proof.Machine

open Host (Cell)

/-- Every address of a list lies above a bound. -/
def Above (a : Nat) (m : List Cell) : Prop := ∀ c ∈ m, a < c.1

theorem cellsWf_cons {a : Nat} {b : Byte} {m : List Cell} :
    cellsWf ((a, b) :: m) = true ↔ b ≠ 0 ∧ Above a m ∧ cellsWf m = true := by
  induction m generalizing a b with
  | nil => simp [cellsWf, Above]
  | cons c t ih =>
    obtain ⟨k, d⟩ := c
    have h : cellsWf ((a, b) :: (k, d) :: t) = (b != 0 && a < k && cellsWf ((k, d) :: t)) := rfl
    rw [h]
    simp only [Bool.and_eq_true, bne_iff_ne, decide_eq_true_eq, Above, List.mem_cons, forall_eq_or_imp]
    constructor
    · rintro ⟨⟨hb, hk⟩, hw⟩
      exact ⟨hb, ⟨hk, fun c hc => lt_trans hk ((ih.1 hw).2.1 c hc)⟩, hw⟩
    · rintro ⟨hb, ⟨hk, -⟩, hw⟩
      exact ⟨⟨hb, hk⟩, hw⟩

theorem above_cellSet {k a : Nat} {x : Byte} {m : List Cell} (hm : Above k m) (h : k < a) : Above k (cellSet a x m) := by
  induction m with
  | nil =>
    simp only [cellSet]; split
    · simp [Above]
    · simpa [Above] using h
  | cons c t ih =>
    obtain ⟨j, b⟩ := c
    have hj : k < j := hm (j, b) (by simp)
    have ht : Above k t := fun c hc => hm c (by simp [hc])
    simp only [cellSet]
    split
    · split
      · exact hm
      · intro c hc
        rcases List.mem_cons.1 hc with rfl | hc
        · exact h
        · exact hm c hc
    · split
      · split
        · exact ht
        · intro c hc
          rcases List.mem_cons.1 hc with rfl | hc
          · exact h
          · exact ht c hc
      · intro c hc
        rcases List.mem_cons.1 hc with rfl | hc
        · exact hj
        · exact ih ht c hc

/-- A write of one byte keeps the canonical form. -/
theorem cellsWf_cellSet (a : Nat) (x : Byte) {m : List Cell} (hm : cellsWf m = true) :
    cellsWf (cellSet a x m) = true := by
  induction m with
  | nil => simp only [cellSet]; split <;> simp_all [cellsWf]
  | cons c t ih =>
    obtain ⟨k, b⟩ := c
    obtain ⟨hb, hk, ht⟩ := cellsWf_cons.1 hm
    simp only [cellSet]
    split
    next hlt =>
      split
      · exact hm
      next hx =>
        refine cellsWf_cons.2 ⟨by simpa using hx, ?_, hm⟩
        intro c hc
        rcases List.mem_cons.1 hc with rfl | hc
        · exact hlt
        · exact lt_trans hlt (hk c hc)
    next hlt =>
      split
      next he =>
        have he : k = a := by simpa using he
        split
        · exact ht
        next hx => exact cellsWf_cons.2 ⟨by simpa using hx, he ▸ hk, ht⟩
      next he =>
        have he : k ≠ a := by simpa using he
        exact cellsWf_cons.2 ⟨hb, above_cellSet hk (by omega), ih ht⟩

/-- A write of a byte string keeps the canonical form. -/
theorem cellsWf_cellWrite (b : List Byte) (a : Nat) {m : List Cell} (hm : cellsWf m = true) :
    cellsWf (cellWrite m a b) = true := by
  induction b generalizing a m with
  | nil => exact hm
  | cons x t ih => exact ih (a + 1) (cellsWf_cellSet a x hm)

theorem cellGet_above {a : Nat} {m : List Cell} (h : Above a m) : cellGet a m = 0 := by
  induction m with
  | nil => rfl
  | cons c t ih =>
    obtain ⟨k, b⟩ := c
    have hk : a < k := h (k, b) (by simp)
    simp only [cellGet]
    rw [if_neg (by simp; omega)]
    exact ih fun c hc => h c (by simp [hc])

/-- A byte reads as it was written, and every other byte as before. -/
theorem cellGet_cellSet (a k : Nat) (x : Byte) {m : List Cell} (hm : cellsWf m = true) :
    cellGet k (cellSet a x m) = if k = a then x else cellGet k m := by
  induction m with
  | nil =>
    simp only [cellSet]; split
    next h => simp only [beq_iff_eq] at h; subst h; simp [cellGet]
    next h =>
      simp only [cellGet]
      by_cases hk : k = a
      · subst hk; simp
      · rw [if_neg (by simpa using fun h : a = k => hk h.symm), if_neg hk]
  | cons c t ih =>
    obtain ⟨j, b⟩ := c
    obtain ⟨hb, hj, ht⟩ := cellsWf_cons.1 hm
    simp only [cellSet]
    split
    next hlt =>
      split
      next h =>
        simp only [beq_iff_eq] at h; subst h
        by_cases hk : k = a
        · subst hk
          simp only [if_true]
          refine cellGet_above ?_
          intro c hc
          rcases List.mem_cons.1 hc with rfl | hc
          · exact hlt
          · exact lt_trans hlt (hj c hc)
        · simp [hk]
      next h =>
        by_cases hk : k = a
        · subst hk; simp [cellGet]
        · simp only [cellGet, hk, if_false]
          rw [if_neg (by simp; exact fun h => hk h.symm)]
    next hlt =>
      split
      next he =>
        have he : j = a := by simpa using he
        subst he
        split
        next h =>
          simp only [beq_iff_eq] at h; subst h
          by_cases hk : k = j
          · subst hk; simp [cellGet_above hj]
          · simp only [hk, if_false, cellGet]
            rw [if_neg (by simp; exact fun h => hk h.symm)]
        next h =>
          by_cases hk : k = j
          · subst hk; simp [cellGet]
          · simp only [hk, if_false, cellGet]
            rw [if_neg (by simp; exact fun h => hk h.symm), if_neg (by simp; exact fun h => hk h.symm)]
      next he =>
        have he : j ≠ a := by simpa using he
        simp only [cellGet]
        by_cases hj' : j = k
        · subst hj'; simp [he]
        · have hb : ¬((j == k) = true) := by simpa using hj'
          simp only [hb]
          exact ih ht

/-- A byte string reads as it was written, and every byte outside it as before. -/
theorem cellGet_cellWrite (b : List Byte) (a k : Nat) {m : List Cell} (hm : cellsWf m = true) :
    cellGet k (cellWrite m a b) = if a ≤ k ∧ k < a + b.length then b.getD (k - a) 0 else cellGet k m := by
  induction b generalizing a m with
  | nil => simp only [cellWrite, List.length_nil]; rw [if_neg (by omega)]
  | cons x t ih =>
    simp only [cellWrite, List.length_cons]
    rw [ih (a + 1) (cellsWf_cellSet a x hm), cellGet_cellSet a k x hm]
    by_cases h : k = a
    · subst h
      rw [if_neg (by omega), if_pos rfl, if_pos (by omega)]
      simp
    · by_cases h2 : a ≤ k ∧ k < a + (t.length + 1)
      · rw [if_pos (by omega), if_pos h2]
        obtain ⟨i, rfl⟩ : ∃ i, k = a + 1 + i := ⟨k - a - 1, by omega⟩
        rw [show a + 1 + i - (a + 1) = i by omega, show a + 1 + i - a = i + 1 by omega]
        simp
      · rw [if_neg (by omega), if_neg h, if_neg h2]

/-! ### Memory of State -/

/-- A fold of single bytes keeps the canonical form. -/
theorem cellsWf_foldr (l : List Cell) {m : List Cell} (hm : cellsWf m = true) :
    cellsWf (l.foldr (fun x m => cellSet x.1 x.2 m) m) = true := by
  induction l with
  | nil => exact hm
  | cons c t ih => exact cellsWf_cellSet _ _ ih

/-- After a fold of single bytes an address holds what its first cell in the list says, else what it held. -/
theorem cellGet_foldr (l : List Cell) (k : Nat) {m : List Cell} (hm : cellsWf m = true) :
    cellGet k (l.foldr (fun x m => cellSet x.1 x.2 m) m) =
      match l.find? (·.1 == k) with
      | some x => x.2
      | none => cellGet k m := by
  induction l with
  | nil => rfl
  | cons c t ih =>
    rw [List.foldr_cons, cellGet_cellSet _ _ _ (cellsWf_foldr t hm), ih, List.find?_cons]
    by_cases h : c.1 = k
    · simp [h]
    · rw [if_neg (fun e => h e.symm), show (c.1 == k) = false by simpa using h]

/-- A byte put among others is found at its address, and at every other what was there. -/
theorem find?_cellPut (a k : Nat) (x : Byte) (l : List Cell) :
    (cellPut a x l).find? (·.1 == k) = if k = a then some (a, x) else l.find? (·.1 == k) := by
  induction l with
  | nil =>
    by_cases h : k = a
    · simp [cellPut, h]
    · simp [cellPut, h, show (a == k) = false by simpa using fun e : a = k => h e.symm]
  | cons c t ih =>
    obtain ⟨j, b⟩ := c
    simp only [cellPut]
    split
    · by_cases h : k = a
      · simp [h]
      · rw [List.find?_cons, if_neg h, show (a == k) = false by simpa using fun e : a = k => h e.symm]
    · split
      next hj =>
        have hj : j = a := by simpa using hj
        by_cases h : k = a
        · simp [h]
        · simp [h, hj, show (a == k) = false by simpa using fun e : a = k => h e.symm]
      next hlt hj =>
        have hj : j ≠ a := by simpa using hj
        rw [List.find?_cons, List.find?_cons, ih]
        by_cases h : k = a
        · subst h; simp [show (j == k) = false by simpa using hj]
        · simp [h]

/-- Filtering keeps the first that passes both tests, where the one sought passes the filter. -/
theorem find?_filter_of {α : Type} {p q : α → Bool} (h : ∀ x, p x = true → q x = true) (l : List α) :
    (l.filter q).find? p = l.find? p := by
  induction l with
  | nil => rfl
  | cons x t ih =>
    by_cases hq : q x = true
    · rw [List.filter_cons_of_pos hq, List.find?_cons, List.find?_cons, ih]
    · have hp : p x = false := by
        by_contra hp; exact hq (h x (by simpa using hp))
      rw [List.filter_cons_of_neg hq, List.find?_cons, hp, ih]

/-- The first that passes a test, after an update that keeps the test. -/
theorem find?_updIf {α : Type} {p c : α → Bool} {f : α → α} (h : ∀ x, c x = true → p (f x) = p x) (l : List α) :
    (updIf c f l).find? p = (l.find? p).map fun x => if c x then f x else x := by
  induction l with
  | nil => rfl
  | cons x t ih =>
    have hx : p (if c x then f x else x) = p x := by split <;> simp_all
    simp only [updIf, List.map_cons, List.find?_cons] at ih ⊢
    rw [hx, ih]
    cases p x <;> rfl

/-! ### What a partition finds at its home -/

/-- What a partition finds depends on memory, the LLC and its epoch alone. -/
theorem homeByte_congr {s t : State} {q : Nat} (a : Nat) (hl : t.llc = s.llc) (hm : t.mem = s.mem)
    (he : t.epochOf q = s.epochOf q) : t.homeByte q a = s.homeByte q a := by
  have hs (l : LlcLine) (h : l.part = q) : t.llcStale l = s.llcStale l := by simp [State.llcStale, h, he]
  unfold State.homeByte
  have hf : t.llcLine? q a = s.llcLine? q a := by simp only [State.llcLine?, hl]
  rw [hf, hm]
  cases h : s.llcLine? q a with
  | none => rfl
  | some l => simp only [hs l (by simpa using And.left (by simpa using List.find?_some h))]

/-- A line found is of its partition and address. -/
theorem llcLine?_key {s : State} {q a : Nat} {l : LlcLine} (h : s.llcLine? q a = some l) :
    l.part = q ∧ l.line = a / 512 := by simpa using List.find?_some h

@[simp] theorem countUp_mem (s : State) (k e c : Nat) : (s.countUp k e c).mem = s.mem := by
  unfold State.countUp; split
  · rfl
  · dsimp only; split <;> rfl
@[simp] theorem countUp_llc (s : State) (k e c : Nat) : (s.countUp k e c).llc = s.llc := by
  unfold State.countUp; split
  · rfl
  · dsimp only; split <;> rfl
@[simp] theorem countUp_peer (s : State) (k e c : Nat) : (s.countUp k e c).peer = s.peer := by
  unfold State.countUp; split
  · rfl
  · dsimp only; split <;> rfl

/-- Counting leaves every epoch as it is. -/
@[simp] theorem epochOf_countUp (s : State) (k e c q : Nat) : (s.countUp k e c).epochOf q = s.epochOf q := by
  have key (p p' : Part) (hp : s.part? k = some p) (hn : p'.num = p.num) (he : p'.genE = p.genE) :
      (s.putPart p').epochOf q = s.epochOf q := by
    have hk : p.num = k := by simpa using List.find?_some hp
    have : (s.putPart p').part? q = (s.part? q).map fun x => if x.num == p'.num then p' else x := by
      refine find?_updIf ?_ _
      intro x hx
      have hx : x.num = p'.num := by simpa using hx
      simp [hx]
    unfold State.epochOf
    rw [this]
    cases h : s.part? q with
    | none => rfl
    | some x =>
      have hq : x.num = q := by simpa using List.find?_some h
      simp only [Option.map_some, hn, hk]
      split
      next hx =>
        have hx : x.num = k := by simpa using hx
        obtain rfl : q = k := hq.symm.trans hx
        rw [hp] at h
        rw [he, (Option.some.inj h)]
      · rfl
  unfold State.countUp
  split
  · rfl
  next p hp => dsimp only; split <;> exact key p _ hp rfl rfl

/-- The written bytes of a line that is not stale go to memory with nothing changed in what its partition finds. -/
theorem homeByte_llcEvict {s : State} {q a : Nat} {l : LlcLine} (hm : cellsWf s.mem = true)
    (hl : s.llcLine? q a = some l) (hs : s.llcStale l = false) (k : Nat) :
    (s.llcEvict q a).homeByte q k = s.homeByte q k := by
  obtain ⟨hq, hline⟩ := llcLine?_key hl
  let D := l.dirty
  have ht : s.llcEvict q a = { s with
      mem := D.foldr (fun x m => cellSet x.1 x.2 m) s.mem,
      llc := s.llc.filter fun k => !(k.part == q && k.line == a / 512) } := by
    simp only [State.llcEvict, hl, State.llcBack, hs, D]
    rfl
  have hmem : cellGet k (D.foldr (fun x m => cellSet x.1 x.2 m) s.mem) =
      match D.find? (·.1 == k) with | some x => x.2 | none => cellGet k s.mem := cellGet_foldr D k hm
  rw [ht]
  by_cases hk : k / 512 = a / 512
  · have h0 : (s.llc.filter fun k => !(k.part == q && k.line == a / 512)).find?
        (fun x => x.part == q && x.line == k / 512) = none := by
      rw [List.find?_eq_none]
      intro x hx hp
      rw [hk] at hp
      simp only [List.mem_filter, hp, Bool.not_true, Bool.false_eq_true, and_false] at hx
    have h1 : s.llcLine? q k = some l := by rw [← hl]; simp only [State.llcLine?, hk]
    simp only [State.homeByte, h1, hs, Bool.false_eq_true, if_false]
    simp only [State.llcLine?, h0, hmem]
    by_cases hh : l.holds k = true
    · simp only [D, LlcLine.dirty]
      rw [find?_filter_of (fun x hx => by simp only [beq_iff_eq] at hx; simp [hx, hh, hline, hk]) l.data]
      simp only [hh, Bool.not_true, Bool.false_eq_true, if_false]
      all_goals cases l.data.find? (·.1 == k) <;> rfl
    · have : D.find? (·.1 == k) = none := by
        rw [List.find?_eq_none]
        intro x hx hp
        simp only [beq_iff_eq] at hp
        simp only [D, LlcLine.dirty, List.mem_filter, hp, hh, Bool.and_false, Bool.false_eq_true, and_false] at hx
      simp [this, hh]
  · have h1 : (s.llc.filter fun k => !(k.part == q && k.line == a / 512)).find?
        (fun x => x.part == q && x.line == k / 512) = s.llcLine? q k := by
      refine find?_filter_of ?_ _
      intro x hx
      simp only [Bool.and_eq_true, beq_iff_eq] at hx
      simp [hx.2, hk]
    have h2 : D.find? (·.1 == k) = none := by
      rw [List.find?_eq_none]
      intro x hx hp
      simp only [beq_iff_eq] at hp
      simp only [D, LlcLine.dirty, List.mem_filter, hp, hline, Bool.and_eq_true, beq_iff_eq] at hx
      exact hk hx.2.1
    simp only [State.homeByte, State.llcLine?, h1, hmem, h2]
    rfl

@[simp] theorem llcEvict_epochOf (s : State) (q a r : Nat) : (s.llcEvict q a).epochOf r = s.epochOf r := by
  unfold State.llcEvict State.llcBack
  split
  · rfl
  · split <;> rfl

theorem cellsWf_llcEvict {s : State} (q a : Nat) (hm : cellsWf s.mem = true) : cellsWf (s.llcEvict q a).mem = true := by
  unfold State.llcEvict State.llcBack
  split
  · exact hm
  · split
    · exact hm
    · exact cellsWf_foldr _ hm

/-- A stale line of another partition that leaves changes nothing in what a partition finds. -/
theorem homeByte_llcEvict_stale {s : State} {q r a : Nat} {l : LlcLine} (hl : s.llcLine? r a = some l)
    (hs : s.llcStale l = true) (hr : r ≠ q) (k : Nat) :
    (s.llcEvict r a).homeByte q k = s.homeByte q k ∧ (s.llcEvict r a).mem = s.mem := by
  have e : s.llcEvict r a = { s with llc := s.llc.filter fun k => !(k.part == r && k.line == a / 512) } := by
    simp only [State.llcEvict, hl, State.llcBack, hs, if_true]
  have hf : (s.llc.filter fun k => !(k.part == r && k.line == a / 512)).find?
      (fun x => x.part == q && x.line == k / 512) = s.llcLine? q k := by
    refine find?_filter_of ?_ _
    intro x hx
    simp only [Bool.and_eq_true, beq_iff_eq] at hx
    simp [hx.1, Ne.symm hr]
  refine ⟨?_, by rw [e]⟩
  rw [e]
  simp only [State.homeByte, State.llcLine?] at hf ⊢
  rw [hf]
  rfl

/-- Making room takes out a line of the partition's own that is not stale, or a stale one of another, with nothing changed in
what the partition finds; no line comes to an address that had none. -/
theorem llcRoom_spec {s : State} (p : Part) (d i : Nat) (hm : cellsWf s.mem = true) :
    let t := s.llcRoom p d i
    (∀ k, t.homeByte p.num k = s.homeByte p.num k) ∧ cellsWf t.mem = true ∧ (∀ r, t.epochOf r = s.epochOf r) ∧
      t.peer = s.peer ∧ ∀ a, s.llcLine? p.num a = none → t.llcLine? p.num a = none := by
  unfold State.llcRoom
  dsimp only
  split
  · exact ⟨fun _ => rfl, hm, fun _ => rfl, rfl, fun _ h => h⟩
  · split
    next v hv =>
      have hv := List.mem_of_getElem? hv
      simp only [State.llcVictims, List.mem_filter, Bool.and_eq_true, beq_iff_eq] at hv
      obtain ⟨-, ⟨-, hfirst⟩, hst⟩ := hv
      let s1 : State := { s with fresh := s.fresh + 1 }
      have h1 (k : Nat) : s1.homeByte p.num k = s.homeByte p.num k := homeByte_congr k rfl rfl rfl
      have h2 (k : Nat) : (s1.llcEvict v.part (512 * v.line)).homeByte p.num k = s1.homeByte p.num k := by
        cases hs : s.llcStale v
        · have hp : v.part = p.num := by simpa [hs] using hst
          rw [hp] at hfirst ⊢
          exact homeByte_llcEvict (s := s1) hm hfirst hs k
        · have hp : v.part ≠ p.num := by simpa [hs] using hst
          exact (homeByte_llcEvict_stale (s := s1) hfirst hs hp k).1
      refine ⟨fun k => (h2 k).trans (h1 k), cellsWf_llcEvict (s := s1) _ _ hm,
        fun r => llcEvict_epochOf s1 _ _ r, ?_, ?_⟩
      · unfold State.llcEvict State.llcBack
        split
        · rfl
        · split <;> rfl
      · intro a ha
        have e : (s1.llcEvict v.part (512 * v.line)).llc =
            s.llc.filter fun k => !(k.part == v.part && k.line == 512 * v.line / 512) := by
          have hf : s1.llcLine? v.part (512 * v.line) = some v := hfirst
          simp only [State.llcEvict, hf]; rfl
        rw [State.llcLine?] at ha ⊢
        rw [e, List.find?_eq_none]
        rw [List.find?_eq_none] at ha
        exact fun x hx => ha x (List.mem_of_mem_filter hx)
    · exact ⟨fun _ => rfl, hm, fun _ => rfl, rfl, fun _ h => h⟩

/-- Writing a partition's lines through to memory changes nothing in what the partition finds, and keeps memory canonical. -/
theorem llcClean_spec {s : State} (q : Nat) (hm : cellsWf s.mem = true) :
    (∀ k, (s.llcClean q).homeByte q k = s.homeByte q k) ∧ cellsWf (s.llcClean q).mem = true := by
  refine ⟨fun k => ?_, cellsWf_foldr _ hm⟩
  let D := (s.llc.filter (s.llcOwn q)).flatMap LlcLine.dirty
  have hmem : cellGet k (s.llcClean q).mem = match D.find? (·.1 == k) with | some x => x.2 | none => cellGet k s.mem :=
    cellGet_foldr D k hm
  have hfind : (s.llcClean q).llcLine? q k =
      (s.llcLine? q k).map fun x => if s.llcOwn q x then { x with data := [] } else x :=
    find?_updIf (c := s.llcOwn q) (f := fun l => { l with data := [] }) (fun x _ => rfl) s.llc
  -- what goes to memory at `k` is of the line that the partition finds there
  have hD (x : Cell) (hx : D.find? (·.1 == k) = some x) : ∃ l, s.llcLine? q k = some l ∧ s.llcOwn q l = true ∧
      l.dirty.find? (·.1 == k) = some x := by
    rw [List.find?_flatMap] at hx
    obtain ⟨l, hl, he⟩ := List.exists_of_findSome?_eq_some hx
    have hown := (List.mem_filter.1 hl).2
    have hxl := List.mem_of_find?_eq_some he
    have hk : x.1 = k := by simpa using List.find?_some he
    simp only [LlcLine.dirty, List.mem_filter, hk, Bool.and_eq_true, beq_iff_eq] at hxl
    simp only [State.llcOwn, Bool.and_eq_true, beq_iff_eq] at hown
    refine ⟨l, ?_, by simpa [State.llcOwn] using hown, he⟩
    have := hown.1
    simp only [State.llcLine?] at this ⊢
    rw [show 512 * l.line / 512 = k / 512 by omega] at this
    exact this
  have hst (l : LlcLine) : (s.llcClean q).llcStale l = s.llcStale l := rfl
  unfold State.homeByte
  rw [hfind]
  cases h : s.llcLine? q k with
  | none =>
    have : D.find? (·.1 == k) = none := by
      by_contra hn
      obtain ⟨x, hx⟩ := Option.ne_none_iff_exists'.1 hn
      obtain ⟨l, hl, -⟩ := hD x hx
      rw [h] at hl; cases hl
    simp only [Option.map_none, hmem, this]
  | some l =>
    obtain ⟨hq, hline⟩ := llcLine?_key h
    simp only [Option.map_some, hmem]
    by_cases ho : s.llcOwn q l = true
    · have hs : s.llcStale l = false := by
        simp only [State.llcOwn, Bool.and_eq_true, Bool.not_eq_true'] at ho; exact ho.2
      have hs' : (s.llcClean q).llcStale { l with data := [] } = false := hs
      have hh' : ({ l with data := [] } : LlcLine).holds k = l.holds k := rfl
      simp only [ho, if_true, hs, hs', hh', Bool.false_eq_true, if_false, List.find?_nil]
      by_cases hh : l.holds k = true
      · have e : l.dirty.find? (·.1 == k) = l.data.find? (·.1 == k) :=
          find?_filter_of (fun x hx => by simp only [beq_iff_eq] at hx; simp [hx, hh, hline]) l.data
        have : D.find? (·.1 == k) = l.data.find? (·.1 == k) := by
          cases hx : D.find? (·.1 == k) with
          | some x =>
            obtain ⟨l', hl', -, he⟩ := hD x hx
            rw [h] at hl'
            rw [← Option.some.inj hl', e] at he
            exact he.symm
          | none =>
            rw [List.find?_flatMap, List.findSome?_eq_none_iff] at hx
            have := hx l (List.mem_filter.2 ⟨List.mem_of_find?_eq_some h, ho⟩)
            rw [e] at this
            exact this.symm
        rw [this]
        simp only [hh, Bool.not_true, Bool.false_eq_true, if_false]
        all_goals cases l.data.find? (·.1 == k) <;> rfl
      · have : D.find? (·.1 == k) = none := by
          by_contra hn
          obtain ⟨x, hx⟩ := Option.ne_none_iff_exists'.1 hn
          obtain ⟨l', hl', -, he⟩ := hD x hx
          rw [h] at hl'
          rw [← Option.some.inj hl'] at he
          have hk : x.1 = k := by simpa using List.find?_some he
          have := List.mem_of_find?_eq_some he
          simp [LlcLine.dirty, hk, hh] at this
        simp [hh, this]
    · have hn : D.find? (·.1 == k) = none := by
        by_contra hn
        obtain ⟨x, hx⟩ := Option.ne_none_iff_exists'.1 hn
        obtain ⟨l', hl', ho', -⟩ := hD x hx
        rw [h] at hl'
        rw [← Option.some.inj hl'] at ho'
        exact ho ho'
      simp only [ho, Bool.false_eq_true, if_false, hst, hn]

/-- Whether a line holds an address after a sector has been allocated in it. -/
theorem holds_or (l : LlcLine) (a k : Nat) :
    ({ l with secs := l.secs ||| BitVec.twoPow 4 (a / 128 % 4) } : LlcLine).holds k = true ↔
      l.holds k = true ∨ k / 128 % 4 = a / 128 % 4 := by
  have h : a / 128 % 4 < 4 := Nat.mod_lt _ (by decide)
  simp only [LlcLine.holds, BitVec.getLsbD_or, BitVec.getLsbD_twoPow, Bool.or_eq_true, Bool.and_eq_true, decide_eq_true_eq]
  constructor
  · rintro (h | ⟨-, h⟩)
    · exact .inl h
    · exact .inr h.symm
  · rintro (h' | h')
    · exact .inl h'
    · exact .inr ⟨h, h'.symm⟩

/-- What a partition finds where a line of its own that is not stale has been put in front. -/
theorem homeByte_cons {t : State} {q a : Nat} {L : LlcLine} (hp : L.part = q)
    (hl : L.line = a / 512) (hs : t.llcStale L = false) (k : Nat) :
    ({ t with llc := L :: t.llc } : State).homeByte q k =
      if k / 512 = a / 512 then
        if !L.holds k then cellGet k t.mem
        else match L.data.find? (·.1 == k) with | some x => x.2 | none => cellGet k t.mem
      else t.homeByte q k := by
  have hs' : ({ t with llc := L :: t.llc } : State).llcStale L = false := hs
  simp only [State.homeByte, State.llcLine?, List.find?_cons, hp, hl, beq_self_eq_true, Bool.true_and]
  by_cases hk : k / 512 = a / 512
  · simp only [hk, beq_self_eq_true, hs', if_true, Bool.false_eq_true, if_false]
    all_goals (split <;> rfl)
  · simp only [show (a / 512 == k / 512) = false by simpa using fun e => hk e.symm, hk, if_false]
    rfl

/-- An access to a sector changes nothing in what its partition finds, keeps memory canonical, and leaves the peers alone. -/
theorem llcTouch_spec {s : State} (q a : Nat) (y : Bool) (hm : cellsWf s.mem = true) :
    (∀ k, (s.llcTouch q a y).homeByte q k = s.homeByte q k) ∧ cellsWf (s.llcTouch q a y).mem = true ∧
      (s.llcTouch q a y).peer = s.peer := by
  have hc (t : State) (d k : Nat) : (t.countUp q 4 d).homeByte q k = t.homeByte q k :=
    homeByte_congr k (countUp_llc _ _ _ _) (countUp_mem _ _ _ _) (epochOf_countUp _ _ _ _ _)
  unfold State.llcTouch
  split
  · exact ⟨fun _ => rfl, hm, rfl⟩
  · dsimp only
    split
    next l hl =>
      split
      · exact ⟨fun _ => rfl, hm, rfl⟩
      split
      · exact ⟨hc _ _, by simpa using hm, by simp⟩
      next hsh _ =>
        simp only [Bool.or_eq_true, not_or, Bool.not_eq_true] at hsh
        obtain ⟨hst, hh⟩ := hsh
        refine ⟨fun k => ?_, by simpa using hm, by simp⟩
        rw [homeByte_congr k (countUp_llc _ _ _ _) (countUp_mem _ _ _ _) (epochOf_countUp _ _ _ _ _)]
        let f : LlcLine → LlcLine := fun k =>
          { k with secs := k.secs ||| BitVec.twoPow 4 (a / 128 % 4), data := k.data.filter fun x => k.holds x.1 }
        let c : LlcLine → Bool := fun k => k.part == q && k.line == a / 512
        have hfind : (updIf c f s.llc).find? (fun x => x.part == q && x.line == k / 512) =
            (s.llcLine? q k).map fun x => if c x then f x else x :=
          find?_updIf (c := c) (f := f) (fun x _ => rfl) s.llc
        show ({ s with llc := updIf c f s.llc } : State).homeByte q k = _
        simp only [State.homeByte, State.llcLine?] at hfind ⊢
        rw [hfind]
        cases hk : s.llc.find? (fun x => x.part == q && x.line == k / 512) with
        | none => rfl
        | some l' =>
          have hkey := llcLine?_key (s := s) hk
          simp only [Option.map_some]
          by_cases hc : c l' = true
          · have hka : k / 512 = a / 512 := by
              simp only [c, Bool.and_eq_true, beq_iff_eq] at hc; omega
            have : l' = l := by
              have h2 : s.llc.find? (fun x => x.part == q && x.line == k / 512) = some l := by
                rw [← hl]; simp only [State.llcLine?, hka]
              rw [hk] at h2; exact Option.some.inj h2
            subst this
            have hstf : ({ s with llc := updIf c f s.llc } : State).llcStale (f l') = false := hst
            simp only [hc, if_true, hstf, hst, Bool.false_eq_true, if_false]
            by_cases h1 : l'.holds k = true
            · have h2 : (f l').holds k = true := (holds_or l' a k).2 (.inl h1)
              simp only [h1, h2, Bool.not_true, Bool.false_eq_true, if_false, f]
              rw [find?_filter_of (fun x hx => by simp only [beq_iff_eq] at hx; simp [hx, h1])]
            · have h3 : (f l').data.find? (·.1 == k) = none := by
                rw [List.find?_eq_none]
                intro x hx hp
                simp only [beq_iff_eq] at hp
                simp [f, List.mem_filter, hp, h1] at hx
              have h1 : l'.holds k = false := by simpa using h1
              simp only [h1, h3, Bool.not_false, if_true]
              split <;> rfl
          · simp only [hc, Bool.false_eq_true, if_false]
            rfl
    next p hnone hp =>
      have hnum : p.num = q := by simpa using List.find?_some hp
      subst hnum
      obtain ⟨r1, r2, r3, r4, r5⟩ := llcRoom_spec (s := s) p (homeDie (s.homeOf a) a) (llcSlice a) hm
      have hep : p.genE = s.epochOf p.num := by simp [State.epochOf, hp]
      set t := s.llcRoom p (homeDie (s.homeOf a) a) (llcSlice a) with ht
      split
      · exact ⟨hc _ _, by simpa using hm, by simp⟩
      split
      · exact ⟨fun k => (hc _ _ k).trans (r1 k), by simpa using r2, by simpa using r4⟩
      refine ⟨fun k => ?_, by simpa using r2, by simpa using r4⟩
      rw [hc, ← r1 k]
      rw [homeByte_cons rfl rfl (by simp [State.llcStale, r3, hep])]
      split
      next hk =>
        have hn : t.llcLine? p.num k = none := by
          have := r5 a hnone
          rwa [State.llcLine?, ← hk] at this
        simp only [State.homeByte, hn]
        split <;> rfl
      · rfl
    · exact ⟨fun _ => rfl, hm, rfl⟩

theorem mem_lineZeros (a : Nat) (x : Cell) : x ∈ lineZeros a ↔ ∃ i, i < 512 ∧ (512 * (a / 512) + i, 0) = x := by
  unfold lineZeros
  exact ⟨fun h => (List.mem_map.1 h).imp fun i hi => ⟨List.mem_range.1 hi.1, hi.2⟩,
    fun ⟨i, h1, h2⟩ => List.mem_map.2 ⟨i, List.mem_range.2 h1, h2⟩⟩

/-- The zeros of a line, found under each of its addresses. -/
theorem find?_lineZeros (a k : Nat) :
    (lineZeros a).find? (·.1 == k) = if k / 512 = a / 512 then some (k, 0) else none := by
  cases hf : (lineZeros a).find? (·.1 == k) with
  | none =>
    rw [List.find?_eq_none] at hf
    rw [if_neg]
    intro hk
    exact hf (512 * (a / 512) + k % 512, 0)
      ((mem_lineZeros _ _).2 ⟨k % 512, Nat.mod_lt _ (by decide), rfl⟩) (by simp only [beq_iff_eq]; omega)
  | some y =>
    have h1 := List.find?_some hf
    obtain ⟨i, h2, rfl⟩ := (mem_lineZeros _ _).1 (List.mem_of_find?_eq_some hf)
    simp only [beq_iff_eq] at h1
    subst h1
    rw [if_pos (by omega)]

theorem zeroLine_mem (s : State) (a : Nat) :
    (s.zeroLine a).mem = (lineZeros a).foldr (fun x m => cellSet x.1 x.2 m) s.mem := rfl

@[simp] theorem zeroLine_peer (s : State) (a : Nat) : (s.zeroLine a).peer = s.peer := rfl

/-- The zeros of a line in memory: what a partition without a line there finds. -/
theorem zeroLine_spec {s : State} (q a : Nat) (hm : cellsWf s.mem = true) (hn : s.llcLine? q a = none) :
    (∀ k, (s.zeroLine a).homeByte q k = if k / 512 = a / 512 then 0 else s.homeByte q k) ∧
      cellsWf (s.zeroLine a).mem = true := by
  refine ⟨fun k => ?_, by rw [zeroLine_mem]; exact cellsWf_foldr _ hm⟩
  have hg : cellGet k (s.zeroLine a).mem = if k / 512 = a / 512 then 0 else cellGet k s.mem := by
    rw [zeroLine_mem, cellGet_foldr (lineZeros a) k hm, find?_lineZeros]
    by_cases hk : k / 512 = a / 512 <;> simp only [hk, if_true, if_false]
  have hl : (s.zeroLine a).llcLine? q k = s.llcLine? q k := rfl
  have hs (l : LlcLine) : (s.zeroLine a).llcStale l = s.llcStale l := rfl
  simp only [State.homeByte, hl, hs, hg]
  by_cases hk : k / 512 = a / 512
  · have hk' : s.llcLine? q k = none := by rw [← hn]; simp only [State.llcLine?, hk]
    simp only [hk', hk, if_true]
  · simp only [hk, if_false]

/-- A stale line is retagged with the zeros that its owner found there: nothing changes in what it finds, memory stays
canonical, and no line of the owner at the address is stale then. -/
theorem llcRenew_spec {s : State} (q a : Nat) (hm : cellsWf s.mem = true) :
    (∀ k, (s.llcRenew q a).homeByte q k = s.homeByte q k) ∧ cellsWf (s.llcRenew q a).mem = true ∧
      (s.llcRenew q a).peer = s.peer ∧
      ∀ l, (s.llcRenew q a).llcLine? q a = some l → (s.llcRenew q a).llcStale l = false := by
  unfold State.llcRenew
  split
  next hl => exact ⟨fun _ => rfl, hm, rfl, fun l h => by rw [hl] at h; cases h⟩
  next l hl =>
    split
    next hs =>
      refine ⟨fun _ => rfl, hm, rfl, fun l' h => ?_⟩
      rw [hl] at h
      rw [← Option.some.inj h]
      simpa using hs
    next hs =>
      have hs : s.llcStale l = true := by simpa using hs
      dsimp only
      set s1 : State := { s with llc := s.llc.filter fun k => !(k.part == q && k.line == a / 512) } with hs1
      have hn1 : s1.llcLine? q a = none := by
        rw [State.llcLine?, List.find?_eq_none]
        intro x hx hp
        simp [hs1, List.mem_filter] at hx
        simp only [Bool.and_eq_true, beq_iff_eq] at hp
        exact hx.2.elim (fun h => h hp.1) fun h => h hp.2
      have h1 (k : Nat) (hk : k / 512 ≠ a / 512) : s1.homeByte q k = s.homeByte q k := by
        have hf : (s.llc.filter fun k => !(k.part == q && k.line == a / 512)).find?
            (fun x => x.part == q && x.line == k / 512) = s.llcLine? q k := by
          refine find?_filter_of ?_ _
          intro x hx
          simp only [Bool.and_eq_true, beq_iff_eq] at hx
          simp [hx.2, hk]
        simp only [State.homeByte, State.llcLine?, hs1] at hf ⊢
        rw [hf]
        rfl
      -- what its owner finds there while the line is stale
      have h0 (k : Nat) (hk : k / 512 = a / 512) : s.homeByte q k = 0 := by
        have h2 : s.llcLine? q k = some l := by rw [← hl]; simp only [State.llcLine?, hk]
        simp only [State.homeByte, h2, hs, if_true]
      have zero (t : State) (t1 : ∀ k, t.homeByte q k = s1.homeByte q k) (t2 : cellsWf t.mem = true)
          (t4 : t.peer = s1.peer) (t5 : t.llcLine? q a = none) :
          (∀ k, (t.zeroLine a).homeByte q k = s.homeByte q k) ∧ cellsWf (t.zeroLine a).mem = true ∧
            (t.zeroLine a).peer = s.peer ∧
            ∀ l, (t.zeroLine a).llcLine? q a = some l → (t.zeroLine a).llcStale l = false := by
        obtain ⟨z1, z2⟩ := zeroLine_spec q a t2 t5
        refine ⟨fun k => ?_, z2, by rw [zeroLine_peer, t4], fun l h => absurd (h.symm.trans t5) (by simp)⟩
        rw [z1]
        split
        next hk => exact (h0 k hk).symm
        next hk => rw [t1, h1 k hk]
      -- the state after room is made, and the way taken
      suffices key : ∀ (t : State) (w : Nat), (∀ k, t.homeByte q k = s1.homeByte q k) → cellsWf t.mem = true →
          t.peer = s1.peer → t.llcLine? q a = none →
          let u : State := { t with llc := LlcLine.renewed q (t.epochOf q) (homeDie (s.homeOf a) a) w a :: t.llc }
          (∀ k, u.homeByte q k = s.homeByte q k) ∧ cellsWf u.mem = true ∧ u.peer = s.peer ∧
            ∀ l, u.llcLine? q a = some l → u.llcStale l = false by
        cases hp : s1.part? q with
        | none => exact zero s1 (fun _ => rfl) hm rfl hn1
        | some p =>
          have hnum : p.num = q := by simpa using List.find?_some hp
          obtain ⟨r1, r2, -, r4, r5⟩ := llcRoom_spec (s := s1) p (homeDie (s1.homeOf a) a) (llcSlice a) hm
          rw [hnum] at r1 r5
          dsimp only
          split
          · exact key _ _ r1 r2 r4 (r5 a hn1)
          · exact zero _ r1 r2 r4 (r5 a hn1)
      intro t w t1 t2 t4 t5
      dsimp only
      set L := LlcLine.renewed q (t.epochOf q) (homeDie (s.homeOf a) a) w a with hL
      have hLs : t.llcStale L = false := by simp [State.llcStale, hL, LlcLine.renewed]
      refine ⟨fun k => ?_, t2, t4, fun l' h => ?_⟩
      · rw [homeByte_cons (q := q) rfl rfl hLs]
        split
        next hk =>
          have hh : L.holds k = true := by
            have : ∀ i < 4, (0xF : BitVec 4).getLsbD i = true := by decide
            exact this _ (Nat.mod_lt _ (by decide))
          have hf : L.data.find? (·.1 == k) = some (k, 0) := by
            rw [show L.data = lineZeros a from rfl, find?_lineZeros, if_pos hk]
          simp only [hh, hf, h0 k hk, Bool.not_true, Bool.false_eq_true, if_false]
        next hk => rw [t1, h1 k hk]
      · have : L = l' := by
          simpa [State.llcLine?, List.find?_cons, hL, LlcLine.renewed] using h
        rw [← this]
        exact hLs

/-- A byte stored where no line of the partition is stale is what it finds there; at every other address it finds what it
found. -/
theorem homeStore_spec {s : State} (q a : Nat) (b : Byte) (hm : cellsWf s.mem = true)
    (hst : ∀ l, s.llcLine? q a = some l → s.llcStale l = false) :
    (∀ k, (s.homeStore q a b).homeByte q k = if k = a then b else s.homeByte q k) ∧
      cellsWf (s.homeStore q a b).mem = true ∧ (s.homeStore q a b).peer = s.peer := by
  have hmem (hno : ∀ l, s.llcLine? q a = some l → l.holds a = false) (k : Nat) :
      ({ s with mem := cellSet a b s.mem } : State).homeByte q k = if k = a then b else s.homeByte q k := by
    have hg := cellGet_cellSet a k b hm
    simp only [State.homeByte, State.llcLine?, hg]
    by_cases h : k = a
    · subst h
      cases hl : s.llcLine? q k with
      | none => rw [State.llcLine?] at hl; simp [hl]
      | some l =>
        have h1 := hst l hl
        have h2 := hno l hl
        rw [State.llcLine?] at hl
        have h1' : ({ s with mem := cellSet k b s.mem } : State).llcStale l = false := h1
        simp [hl, h1', h2]
    · simp only [h, if_false]; rfl
  unfold State.homeStore
  split
  next hl => exact ⟨hmem (fun l h => by rw [hl] at h; cases h), cellsWf_cellSet _ _ hm, rfl⟩
  next l hl =>
    obtain ⟨hq, hline⟩ := llcLine?_key hl
    have hs := hst l hl
    split
    next hh =>
      exact ⟨hmem (fun l' h => by rw [hl] at h; rw [← Option.some.inj h]; simpa using hh), cellsWf_cellSet _ _ hm, rfl⟩
    next hh =>
      have hh : l.holds a = true := by simpa using hh
      refine ⟨fun k => ?_, hm, rfl⟩
      let c : LlcLine → Bool := fun k => k.part == q && k.line == a / 512
      have hfind : (updIf c (fun _ => l.put a b) s.llc).find? (fun x => x.part == q && x.line == k / 512) =
          (s.llcLine? q k).map fun x => if c x then l.put a b else x := by
        refine find?_updIf (fun x hx => ?_) _
        simp only [c, Bool.and_eq_true, beq_iff_eq] at hx
        simp [LlcLine.put, hq, hline, hx]
      show ({ s with llc := updIf c (fun _ => l.put a b) s.llc } : State).homeByte q k = _
      simp only [State.homeByte, State.llcLine?] at hfind ⊢
      rw [hfind]
      by_cases hka : k / 512 = a / 512
      · have hk : s.llc.find? (fun x => x.part == q && x.line == k / 512) = some l := by
          rw [← hl]; simp only [State.llcLine?, hka]
        have hc : c l = true := by simp [c, hq, hline]
        have hst' : ({ s with llc := updIf c (fun _ => l.put a b) s.llc } : State).llcStale (l.put a b) = false := hs
        have hput : (l.put a b).holds k = l.holds k := rfl
        have hdata : (l.put a b).data.find? (·.1 == k) = if k = a then some (a, b) else l.data.find? (·.1 == k) :=
          find?_cellPut a k b l.data
        simp only [hk, Option.map_some, hc, if_true, hst', hs, hput, hdata, Bool.false_eq_true, if_false]
        by_cases h : k = a
        · subst h; simp [hh]
        · simp only [h, if_false]
      · have hne : k ≠ a := fun e => hka (e ▸ rfl)
        simp only [hne, if_false]
        cases hk : s.llc.find? (fun x => x.part == q && x.line == k / 512) with
        | none => rfl
        | some y =>
          have hy := llcLine?_key (s := s) hk
          have hc : c y = false := by simp [c, hy.2, hka]
          simp only [Option.map_some, hc, Bool.false_eq_true, if_false]
          rfl

/-- A byte put at its home is what the partition finds there; at every other address it finds what it found. -/
theorem homePut_spec {s : State} (q a : Nat) (b : Byte) (hm : cellsWf s.mem = true) :
    (∀ k, (s.homePut q a b).homeByte q k = if k = a then b else s.homeByte q k) ∧
      cellsWf (s.homePut q a b).mem = true ∧ (s.homePut q a b).peer = s.peer := by
  obtain ⟨r1, r2, r3, r4⟩ := llcRenew_spec (s := s) q a hm
  obtain ⟨p1, p2, p3⟩ := homeStore_spec (s := s.llcRenew q a) q a b r2 r4
  exact ⟨fun k => by rw [State.homePut, p1 k, r1 k], p2, p3.trans r3⟩

/-- A byte string put from an address on is what the partition finds there; outside it, it finds what it found. -/
theorem homePuts_spec (b : List Byte) {s : State} (q a : Nat) (hm : cellsWf s.mem = true) :
    (∀ k, (s.homePuts q a b).homeByte q k =
      if a ≤ k ∧ k < a + b.length then b.getD (k - a) 0 else s.homeByte q k) ∧
      cellsWf (s.homePuts q a b).mem = true ∧ (s.homePuts q a b).peer = s.peer := by
  induction b generalizing s a with
  | nil => exact ⟨fun k => by rw [if_neg (by simp)]; rfl, hm, rfl⟩
  | cons x t ih =>
    obtain ⟨p1, p2, p3⟩ := homePut_spec (s := s) q a x hm
    obtain ⟨i1, i2, i3⟩ := ih (s := s.homePut q a x) (a + 1) p2
    simp only [State.homePuts]
    refine ⟨fun k => ?_, i2, i3.trans p3⟩
    rw [i1 k, p1 k, List.length_cons]
    by_cases h : k = a
    · subst h
      rw [if_neg (by omega), if_pos rfl, if_pos (by omega)]
      simp
    · by_cases h2 : a ≤ k ∧ k < a + (t.length + 1)
      · rw [if_pos (by omega), if_pos h2]
        obtain ⟨i, rfl⟩ : ∃ i, k = a + 1 + i := ⟨k - a - 1, by omega⟩
        rw [show a + 1 + i - (a + 1) = i by omega, show a + 1 + i - a = i + 1 by omega]
        simp
      · rw [if_neg (by omega), if_neg h, if_neg h2]

/-- Sectors accessed at their home: every byte is found as before. -/
theorem llcTouches_spec {s : State} (q a n : Nat) (y : Bool) (hm : cellsWf s.mem = true) :
    (∀ k, (s.llcTouches q a n y).homeByte q k = s.homeByte q k) ∧ cellsWf (s.llcTouches q a n y).mem = true ∧
      (s.llcTouches q a n y).peer = s.peer := by
  unfold State.llcTouches
  generalize List.range _ = l
  induction l generalizing s with
  | nil => exact ⟨fun _ => rfl, hm, rfl⟩
  | cons i l ih =>
    obtain ⟨t1, t2, t3⟩ := llcTouch_spec (s := s) q (a / 128 * 128 + 128 * i) y hm
    obtain ⟨i1, i2, i3⟩ := ih t2
    exact ⟨fun k => (i1 k).trans (t1 k), i2, i3.trans t3⟩

/-- Bytes written at a home with their sectors accessed: what the partition finds there, and nowhere else a change. -/
theorem homeWrites_spec {s : State} (q a : Nat) (y : Bool) (b : List Byte) (hm : cellsWf s.mem = true) :
    let t := (s.llcTouches q a b.length y).homePuts q a b
    (∀ k, t.homeByte q k = if a ≤ k ∧ k < a + b.length then b.getD (k - a) 0 else s.homeByte q k) ∧
      cellsWf t.mem = true ∧ t.peer = s.peer := by
  obtain ⟨t1, t2, t3⟩ := llcTouches_spec (s := s) q a b.length y hm
  obtain ⟨p1, p2, p3⟩ := homePuts_spec b q a t2
  exact ⟨fun k => by rw [p1 k, t1 k], p2, p3.trans t3⟩

/-- What a write at a home does to what its partition finds. -/
theorem homeByte_homeWriteBy {s : State} (h : s.MemOk) (q a : Nat) (y : Bool) (b : List Byte) (hp : isPeer a = false)
    (k : Nat) : (s.homeWriteBy q a y b).homeByte q k =
      if a ≤ k ∧ k < a + b.length then b.getD (k - a) 0 else s.homeByte q k := by
  simp only [State.homeWriteBy, hp, Bool.false_eq_true, if_false]
  exact (homeWrites_spec q a y b h.1).1 k

/-- Bytes read one by one. -/
theorem homeBytes_eq (s : State) (q a n : Nat) : s.homeBytes q a n = (List.range n).map fun i => s.homeByte q (a + i) := by
  induction n generalizing a with
  | zero => rfl
  | succ n ih =>
    rw [State.homeBytes, ih, List.range_succ_eq_map, List.map_cons, List.map_map]
    simp only [Nat.add_zero, List.cons.injEq, true_and]
    refine List.map_congr_left fun i _ => ?_
    simp only [Function.comp]
    rw [show a + 1 + i = a + (i + 1) by omega]

/-- A read where a partition has written gives the bytes written. -/
theorem homeRead_homeWriteBy {s : State} (h : s.MemOk) (q a : Nat) (y : Bool) (b : List Byte) (hp : isPeer a = false) :
    (s.homeWriteBy q a y b).homeRead q a b.length = b := by
  simp only [State.homeRead, hp, Bool.false_eq_true, if_false, homeBytes_eq]
  refine List.ext_getElem (by simp) fun i h1 h2 => ?_
  simp only [List.getElem_map, List.getElem_range]
  rw [homeByte_homeWriteBy h q a y b hp, if_pos (by omega), Nat.add_sub_cancel_left]
  simp [List.getD_eq_getElem?_getD, h2]

/-- A write at a home or at a peer keeps memory in canonical form. -/
theorem State.MemOk.homeWriteBy {s : State} (h : s.MemOk) (q a : Nat) (y : Bool) (b : List Byte) :
    (s.homeWriteBy q a y b).MemOk := by
  have hh : (s.homeWriteBy q a y b).hmem = s.hmem := by simp
  refine ⟨?_, ?_, by rw [hh]; exact h.2.2⟩ <;> unfold State.homeWriteBy <;> split
  · exact h.1
  · exact (homeWrites_spec q a y b h.1).2.1
  · exact cellsWf_cellWrite b a h.2.1
  · rw [(homeWrites_spec q a y b h.1).2.2]; exact h.2.1

/-- The same for the write that allocates. -/
theorem State.MemOk.homeWrite {s : State} (h : s.MemOk) (q a : Nat) (b : List Byte) : (s.homeWrite q a b).MemOk :=
  h.homeWriteBy q a false b

/-- An access to a sector keeps memory in canonical form. -/
theorem State.MemOk.llcTouch {s : State} (h : s.MemOk) (q a : Nat) (y : Bool) : (s.llcTouch q a y).MemOk := by
  have hh : (s.llcTouch q a y).hmem = s.hmem := by simp
  exact ⟨(llcTouch_spec q a y h.1).2.1, by rw [(llcTouch_spec q a y h.1).2.2]; exact h.2.1, by rw [hh]; exact h.2.2⟩

/-- A write to host memory keeps memory in canonical form. -/
theorem State.MemOk.hostWrite {s : State} (h : s.MemOk) (f a : Nat) (b : List Byte) : (s.hostWrite f a b).MemOk :=
  ⟨h.1, h.2.1, cellsWf_cellWrite b _ h.2.2⟩

/-- Memory depends on its three fields alone. -/
theorem State.MemOk.congr {s t : State} (h : s.MemOk) (h1 : t.mem = s.mem) (h2 : t.peer = s.peer) (h3 : t.hmem = s.hmem) :
    t.MemOk := by
  unfold State.MemOk
  rw [h1, h2, h3]
  exact h

/-- A fold of steps that keep memory in canonical form keeps it. -/
theorem State.MemOk.foldl {α : Type} {f : State → α → State} (hf : ∀ s a, s.MemOk → (f s a).MemOk) (l : List α)
    {s : State} (h : s.MemOk) : (l.foldl f s).MemOk := by
  induction l generalizing s with
  | nil => exact h
  | cons a t ih => exact ih (hf s a h)

end Sys2Proof.Machine
end

