-- ==== Sys2Proof/Laws/Links.lean ====
section
/-! SUPPORT. What a set of dies that no link leaves says of hops, distances and components. -/

namespace Sys2Proof.Machine

/-- A fold of a function that fixes its start stays there. -/
theorem foldl_fixed {α β : Type} {f : α → α} {a : α} (h : f a = a) (l : List β) : l.foldl (fun x _ => f x) a = a := by
  induction l with
  | nil => rfl
  | cons _ l ih => rw [List.foldl_cons, h, ih]

/-- Within any number of hops of a closed set lie just its own dies. -/
theorem State.within_of_spread {s : State} {m : BitVec 32} (h : s.spread m = m) (t n : Nat) :
    s.within t n m = m.getLsbD t := by
  induction n with
  | zero => rfl
  | succ n ih => rw [State.within, h, ih, Bool.or_self]

/-- A die outside a closed set is at no distance from the die that the set is. -/
theorem State.distance_of_spread {s : State} {d t : Nat} (h : s.spread (BitVec.twoPow 32 d) = BitVec.twoPow 32 d)
    (ht : (BitVec.twoPow 32 d).getLsbD t = false) : s.distance d t = none := by
  refine List.find?_eq_none.2 fun n _ => ?_
  rw [State.within_of_spread h, ht]
  exact Bool.false_ne_true

/-- A die that no link leaves is a component of its own. -/
theorem State.component_of_spread {s : State} {d : Nat} (h : s.spread (BitVec.twoPow 32 d) = BitVec.twoPow 32 d) : s.component d = BitVec.twoPow 32 d :=
  foldl_fixed h _

end Sys2Proof.Machine
end

