-- ==== Sys2Proof/Laws/PerInstr.lean ====
section
/-! SUPPORT. One lemma per instruction: its opcode stands in the opcode map under its own constructor and format
(R249 to R253). -/

namespace Sys2Proof.Laws.Opcode

/-- A slot instruction's opcode is listed in the opcode map with that instruction's constructor, in the format of its
payload; any other step has no slot. -/
def Statement (i : Instr) : Prop :=
  match i.slot with
  | none => True
  | some w =>
    match lookupOp w.op opcodeMap, w.pl with
    | some (.r f), .r p => f w.head p = i
    | some (.i f), .i p => f w.head p = i
    | some (.m f), .m p => f w.head p = i
    | some (.e f), .e p => f w.head p = i
    | some (.x f), .x p => f w.head p = i
    | _, _ => False

theorem nop (h : Head) (r : RArgs) : Statement (.nop h r) := rfl
theorem iaddV (h : Head) (r : RArgs) : Statement (.iaddV h r) := rfl
theorem iaddA (h : Head) (r : RArgs) : Statement (.iaddA h r) := rfl
theorem iaddS (h : Head) (r : RArgs) : Statement (.iaddS h r) := rfl
theorem isubV (h : Head) (r : RArgs) : Statement (.isubV h r) := rfl
theorem isubA (h : Head) (r : RArgs) : Statement (.isubA h r) := rfl
theorem isubS (h : Head) (r : RArgs) : Statement (.isubS h r) := rfl
theorem imulV (h : Head) (r : RArgs) : Statement (.imulV h r) := rfl
theorem imulA (h : Head) (r : RArgs) : Statement (.imulA h r) := rfl
theorem imulS (h : Head) (r : RArgs) : Statement (.imulS h r) := rfl
theorem imulhV (h : Head) (r : RArgs) : Statement (.imulhV h r) := rfl
theorem imulhS (h : Head) (r : RArgs) : Statement (.imulhS h r) := rfl
theorem imadV (h : Head) (r : RArgs) : Statement (.imadV h r) := rfl
theorem imadA (h : Head) (r : RArgs) : Statement (.imadA h r) := rfl
theorem imadS (h : Head) (r : RArgs) : Statement (.imadS h r) := rfl
theorem imulwV (h : Head) (r : RArgs) : Statement (.imulwV h r) := rfl
theorem imulwS (h : Head) (r : RArgs) : Statement (.imulwS h r) := rfl
theorem iabsV (h : Head) (r : RArgs) : Statement (.iabsV h r) := rfl
theorem iabsS (h : Head) (r : RArgs) : Statement (.iabsS h r) := rfl
theorem iminV (h : Head) (r : RArgs) : Statement (.iminV h r) := rfl
theorem iminS (h : Head) (r : RArgs) : Statement (.iminS h r) := rfl
theorem imaxV (h : Head) (r : RArgs) : Statement (.imaxV h r) := rfl
theorem imaxS (h : Head) (r : RArgs) : Statement (.imaxS h r) := rfl
theorem iaddsatV (h : Head) (r : RArgs) : Statement (.iaddsatV h r) := rfl
theorem iaddsatS (h : Head) (r : RArgs) : Statement (.iaddsatS h r) := rfl
theorem andV (h : Head) (r : RArgs) : Statement (.andV h r) := rfl
theorem andS (h : Head) (r : RArgs) : Statement (.andS h r) := rfl
theorem orV (h : Head) (r : RArgs) : Statement (.orV h r) := rfl
theorem orS (h : Head) (r : RArgs) : Statement (.orS h r) := rfl
theorem xorV (h : Head) (r : RArgs) : Statement (.xorV h r) := rfl
theorem xorS (h : Head) (r : RArgs) : Statement (.xorS h r) := rfl
theorem notV (h : Head) (r : RArgs) : Statement (.notV h r) := rfl
theorem notS (h : Head) (r : RArgs) : Statement (.notS h r) := rfl
theorem shlV (h : Head) (r : RArgs) : Statement (.shlV h r) := rfl
theorem shlA (h : Head) (r : RArgs) : Statement (.shlA h r) := rfl
theorem shlS (h : Head) (r : RArgs) : Statement (.shlS h r) := rfl
theorem shrV (h : Head) (r : RArgs) : Statement (.shrV h r) := rfl
theorem shrS (h : Head) (r : RArgs) : Statement (.shrS h r) := rfl
theorem sarV (h : Head) (r : RArgs) : Statement (.sarV h r) := rfl
theorem sarS (h : Head) (r : RArgs) : Statement (.sarS h r) := rfl
theorem rolV (h : Head) (r : RArgs) : Statement (.rolV h r) := rfl
theorem rolS (h : Head) (r : RArgs) : Statement (.rolS h r) := rfl
theorem bfxV (h : Head) (r : RArgs) : Statement (.bfxV h r) := rfl
theorem bfxS (h : Head) (r : RArgs) : Statement (.bfxS h r) := rfl
theorem bfiV (h : Head) (r : RArgs) : Statement (.bfiV h r) := rfl
theorem bfiS (h : Head) (r : RArgs) : Statement (.bfiS h r) := rfl
theorem popcV (h : Head) (r : RArgs) : Statement (.popcV h r) := rfl
theorem popcS (h : Head) (r : RArgs) : Statement (.popcS h r) := rfl
theorem clzV (h : Head) (r : RArgs) : Statement (.clzV h r) := rfl
theorem clzS (h : Head) (r : RArgs) : Statement (.clzS h r) := rfl
theorem brevV (h : Head) (r : RArgs) : Statement (.brevV h r) := rfl
theorem brevS (h : Head) (r : RArgs) : Statement (.brevS h r) := rfl
theorem extV (h : Head) (r : RArgs) : Statement (.extV h r) := rfl
theorem extS (h : Head) (r : RArgs) : Statement (.extS h r) := rfl
theorem iselV (h : Head) (r : RArgs) : Statement (.iselV h r) := rfl
theorem iselS (h : Head) (r : RArgs) : Statement (.iselS h r) := rfl
theorem icmpVarying (h : Head) (r : RArgs) : Statement (.icmpVarying h r) := rfl
theorem icmpUniform (h : Head) (r : RArgs) : Statement (.icmpUniform h r) := rfl
theorem leaV (h : Head) (r : RArgs) : Statement (.leaV h r) := rfl
theorem leaA (h : Head) (r : RArgs) : Statement (.leaA h r) := rfl
theorem leaS (h : Head) (r : RArgs) : Statement (.leaS h r) := rfl
theorem movV (h : Head) (r : RArgs) : Statement (.movV h r) := rfl
theorem movA (h : Head) (r : RArgs) : Statement (.movA h r) := rfl
theorem movS (h : Head) (r : RArgs) : Statement (.movS h r) := rfl
theorem moviV (h : Head) (i : IArgs) : Statement (.moviV h i) := rfl
theorem moviS (h : Head) (i : IArgs) : Statement (.moviS h i) := rfl
theorem amake (h : Head) (r : RArgs) : Statement (.amake h r) := rfl
theorem alane (h : Head) (r : RArgs) : Statement (.alane h r) := rfl
theorem promUniformToAffine (h : Head) (r : RArgs) : Statement (.promUniformToAffine h r) := rfl
theorem promUniformToVarying (h : Head) (r : RArgs) : Statement (.promUniformToVarying h r) := rfl
theorem promAffineToVarying (h : Head) (r : RArgs) : Statement (.promAffineToVarying h r) := rfl
theorem atest (h : Head) (r : RArgs) : Statement (.atest h r) := rfl
theorem vfirst (h : Head) (r : RArgs) : Statement (.vfirst h r) := rfl
theorem vuni (h : Head) (r : RArgs) : Statement (.vuni h r) := rfl
theorem faddF32V (h : Head) (r : RArgs) : Statement (.faddF32V h r) := rfl
theorem faddF32S (h : Head) (r : RArgs) : Statement (.faddF32S h r) := rfl
theorem faddF64V (h : Head) (r : RArgs) : Statement (.faddF64V h r) := rfl
theorem faddF64S (h : Head) (r : RArgs) : Statement (.faddF64S h r) := rfl
theorem fsubF32V (h : Head) (r : RArgs) : Statement (.fsubF32V h r) := rfl
theorem fsubF32S (h : Head) (r : RArgs) : Statement (.fsubF32S h r) := rfl
theorem fsubF64V (h : Head) (r : RArgs) : Statement (.fsubF64V h r) := rfl
theorem fsubF64S (h : Head) (r : RArgs) : Statement (.fsubF64S h r) := rfl
theorem fmulF32V (h : Head) (r : RArgs) : Statement (.fmulF32V h r) := rfl
theorem fmulF32S (h : Head) (r : RArgs) : Statement (.fmulF32S h r) := rfl
theorem fmulF64V (h : Head) (r : RArgs) : Statement (.fmulF64V h r) := rfl
theorem fmulF64S (h : Head) (r : RArgs) : Statement (.fmulF64S h r) := rfl
theorem ffmaF32V (h : Head) (r : RArgs) : Statement (.ffmaF32V h r) := rfl
theorem ffmaF32S (h : Head) (r : RArgs) : Statement (.ffmaF32S h r) := rfl
theorem ffmaF64V (h : Head) (r : RArgs) : Statement (.ffmaF64V h r) := rfl
theorem ffmaF64S (h : Head) (r : RArgs) : Statement (.ffmaF64S h r) := rfl
theorem fminF32V (h : Head) (r : RArgs) : Statement (.fminF32V h r) := rfl
theorem fminF32S (h : Head) (r : RArgs) : Statement (.fminF32S h r) := rfl
theorem fminF64V (h : Head) (r : RArgs) : Statement (.fminF64V h r) := rfl
theorem fminF64S (h : Head) (r : RArgs) : Statement (.fminF64S h r) := rfl
theorem fmaxF32V (h : Head) (r : RArgs) : Statement (.fmaxF32V h r) := rfl
theorem fmaxF32S (h : Head) (r : RArgs) : Statement (.fmaxF32S h r) := rfl
theorem fmaxF64V (h : Head) (r : RArgs) : Statement (.fmaxF64V h r) := rfl
theorem fmaxF64S (h : Head) (r : RArgs) : Statement (.fmaxF64S h r) := rfl
theorem fcmpF32V (h : Head) (r : RArgs) : Statement (.fcmpF32V h r) := rfl
theorem fcmpF32S (h : Head) (r : RArgs) : Statement (.fcmpF32S h r) := rfl
theorem fcmpF64V (h : Head) (r : RArgs) : Statement (.fcmpF64V h r) := rfl
theorem fcmpF64S (h : Head) (r : RArgs) : Statement (.fcmpF64S h r) := rfl
theorem fdivF32V (h : Head) (r : RArgs) : Statement (.fdivF32V h r) := rfl
theorem fdivF32S (h : Head) (r : RArgs) : Statement (.fdivF32S h r) := rfl
theorem fdivF64V (h : Head) (r : RArgs) : Statement (.fdivF64V h r) := rfl
theorem fdivF64S (h : Head) (r : RArgs) : Statement (.fdivF64S h r) := rfl
theorem fsqrtF32V (h : Head) (r : RArgs) : Statement (.fsqrtF32V h r) := rfl
theorem fsqrtF32S (h : Head) (r : RArgs) : Statement (.fsqrtF32S h r) := rfl
theorem fsqrtF64V (h : Head) (r : RArgs) : Statement (.fsqrtF64V h r) := rfl
theorem fsqrtF64S (h : Head) (r : RArgs) : Statement (.fsqrtF64S h r) := rfl
theorem frcp (h : Head) (r : RArgs) : Statement (.frcp h r) := rfl
theorem frsq (h : Head) (r : RArgs) : Statement (.frsq h r) := rfl
theorem flog2 (h : Head) (r : RArgs) : Statement (.flog2 h r) := rfl
theorem fexp2 (h : Head) (r : RArgs) : Statement (.fexp2 h r) := rfl
theorem fsin (h : Head) (r : RArgs) : Statement (.fsin h r) := rfl
theorem fcos (h : Head) (r : RArgs) : Statement (.fcos h r) := rfl
theorem fcvtV (h : Head) (r : RArgs) : Statement (.fcvtV h r) := rfl
theorem fcvtS (h : Head) (r : RArgs) : Statement (.fcvtS h r) := rfl
theorem frndV (h : Head) (r : RArgs) : Statement (.frndV h r) := rfl
theorem frndS (h : Head) (r : RArgs) : Statement (.frndS h r) := rfl
theorem fclass (h : Head) (r : RArgs) : Statement (.fclass h r) := rfl
theorem fldexp (h : Head) (r : RArgs) : Statement (.fldexp h r) := rfl
theorem xunpk (h : Head) (r : RArgs) : Statement (.xunpk h r) := rfl
theorem xpack (h : Head) (r : RArgs) : Statement (.xpack h r) := rfl
theorem xcvt (h : Head) (r : RArgs) : Statement (.xcvt h r) := rfl
theorem qrow (h : Head) (e : EArgs) : Statement (.qrow h e) := rfl
theorem qscale (h : Head) (r : RArgs) : Statement (.qscale h r) := rfl
theorem shfl (h : Head) (r : RArgs) : Statement (.shfl h r) := rfl
theorem shfx (h : Head) (r : RArgs) : Statement (.shfx h r) := rfl
theorem lredS (h : Head) (r : RArgs) : Statement (.lredS h r) := rfl
theorem lredV (h : Head) (r : RArgs) : Statement (.lredV h r) := rfl
theorem lscan (h : Head) (r : RArgs) : Statement (.lscan h r) := rfl
theorem ballot (h : Head) (r : RArgs) : Statement (.ballot h r) := rfl
theorem rng (h : Head) (r : RArgs) : Statement (.rng h r) := rfl
theorem hshV (h : Head) (r : RArgs) : Statement (.hshV h r) := rfl
theorem hshS (h : Head) (r : RArgs) : Statement (.hshS h r) := rfl
theorem argmx (h : Head) (r : RArgs) : Statement (.argmx h r) := rfl
theorem ldV (h : Head) (m : MArgs) : Statement (.ldV h m) := rfl
theorem ldS (h : Head) (m : MArgs) : Statement (.ldS h m) := rfl
theorem stV (h : Head) (m : MArgs) : Statement (.stV h m) := rfl
theorem stS (h : Head) (m : MArgs) : Statement (.stS h m) := rfl
theorem lds (h : Head) (m : MArgs) : Statement (.lds h m) := rfl
theorem sts (h : Head) (m : MArgs) : Statement (.sts h m) := rfl
theorem ldw (h : Head) (m : MArgs) : Statement (.ldw h m) := rfl
theorem stw (h : Head) (m : MArgs) : Statement (.stw h m) := rfl
theorem atomV (h : Head) (m : MArgs) : Statement (.atomV h m) := rfl
theorem atomS (h : Head) (m : MArgs) : Statement (.atomS h m) := rfl
theorem red (h : Head) (m : MArgs) : Statement (.red h m) := rfl
theorem redo (h : Head) (m : MArgs) : Statement (.redo h m) := rfl
theorem prf (h : Head) (m : MArgs) : Statement (.prf h m) := rfl
theorem fence (h : Head) (m : MArgs) : Statement (.fence h m) := rfl
theorem cmtk (h : Head) (m : MArgs) : Statement (.cmtk h m) := rfl
theorem cmtp (h : Head) (m : MArgs) : Statement (.cmtp h m) := rfl
theorem wcnt (h : Head) (m : MArgs) : Statement (.wcnt h m) := rfl
theorem cpy (h : Head) (e : EArgs) : Statement (.cpy h e) := rfl
theorem mloop (h : Head) (e : EArgs) : Statement (.mloop h e) := rfl
theorem mloopg (h : Head) (e : EArgs) : Statement (.mloopg h e) := rfl
theorem mout (h : Head) (e : EArgs) : Statement (.mout h e) := rfl
theorem mzero (h : Head) (e : EArgs) : Statement (.mzero h e) := rfl
theorem mbat (h : Head) (x : XArgs) : Statement (.mbat h x) := rfl
theorem mwait (h : Head) (x : XArgs) : Statement (.mwait h x) := rfl
theorem macq (h : Head) (x : XArgs) : Statement (.macq h x) := rfl
theorem mrel (h : Head) (x : XArgs) : Statement (.mrel h x) := rfl
theorem ownq (h : Head) (x : XArgs) : Statement (.ownq h x) := rfl
theorem bari (h : Head) (x : XArgs) : Statement (.bari h x) := rfl
theorem bara (h : Head) (x : XArgs) : Statement (.bara h x) := rfl
theorem barx (h : Head) (x : XArgs) : Statement (.barx h x) := rfl
theorem barw (h : Head) (x : XArgs) : Statement (.barw h x) := rfl
theorem gbar (h : Head) (x : XArgs) : Statement (.gbar h x) := rfl
theorem rbar (h : Head) (x : XArgs) : Statement (.rbar h x) := rfl
theorem work (h : Head) (e : EArgs) : Statement (.work h e) := rfl
theorem spawn (h : Head) (e : EArgs) : Statement (.spawn h e) := rfl
theorem brl (h : Head) (x : XArgs) : Statement (.brl h x) := rfl
theorem lcset (h : Head) (x : XArgs) : Statement (.lcset h x) := rfl
theorem yield (h : Head) (x : XArgs) : Statement (.yield h x) := rfl
theorem sleep (h : Head) (x : XArgs) : Statement (.sleep h x) := rfl
theorem trap (h : Head) (x : XArgs) : Statement (.trap h x) := rfl
theorem rte (h : Head) (x : XArgs) : Statement (.rte h x) := rfl
theorem bkpt (h : Head) (x : XArgs) : Statement (.bkpt h x) := rfl
theorem getsr (h : Head) (x : XArgs) : Statement (.getsr h x) := rfl
theorem setsr (h : Head) (x : XArgs) : Statement (.setsr h x) := rfl
theorem clk (h : Head) (x : XArgs) : Statement (.clk h x) := rfl
theorem pmc (h : Head) (x : XArgs) : Statement (.pmc h x) := rfl
theorem winld (h : Head) (x : XArgs) : Statement (.winld h x) := rfl
theorem winst (h : Head) (x : XArgs) : Statement (.winst h x) := rfl
theorem hsave (h : Head) (x : XArgs) : Statement (.hsave h x) := rfl
theorem hrest (h : Head) (x : XArgs) : Statement (.hrest h x) := rfl
theorem bundleFetch (g : Nat) (i : Nat) : Statement (.bundleFetch g i) := trivial
theorem loadDataReturn (g : Nat) (q : Nat) : Statement (.loadDataReturn g q) := trivial
theorem accessPerformed (g : Nat) (q : Nat) : Statement (.accessPerformed g q) := trivial
theorem wcntRecheck (g : Nat) : Statement (.wcntRecheck g) := trivial
theorem sleepExpiry (g : Nat) : Statement (.sleepExpiry g) := trivial
theorem handlerEntry (g : Nat) : Statement (.handlerEntry g) := trivial
theorem watchdog (g : Nat) : Statement (.watchdog g) := trivial
theorem matrixStep (core : Nat) : Statement (.matrixStep core) := trivial
theorem matrixOperationComplete (core : Nat) : Statement (.matrixOperationComplete core) := trivial
theorem copyComplete (core : Nat) : Statement (.copyComplete core) := trivial
theorem blockPlace (t : Nat) (core : Nat) : Statement (.blockPlace t core) := trivial
theorem idGrant (t : Nat) (die : Nat) : Statement (.idGrant t die) := trivial
theorem mirrorAck (t : Nat) : Statement (.mirrorAck t) := trivial
theorem heldCore (t : Nat) : Statement (.heldCore t) := trivial
theorem blockRetire (b : Nat) : Statement (.blockRetire b) := trivial
theorem coopLaunch (t : Nat) : Statement (.coopLaunch t) := trivial
theorem slotConsume (part : Nat) (ctx : Nat) (queue : Nat) : Statement (.slotConsume part ctx queue) := trivial
theorem taskStartable (t : Nat) : Statement (.taskStartable t) := trivial
theorem depFailed (t : Nat) : Statement (.depFailed t) := trivial
theorem bind (t : Nat) : Statement (.bind t) := trivial
theorem pinit (t : Nat) : Statement (.pinit t) := trivial
theorem invstart (t : Nat) : Statement (.invstart t) := trivial
theorem flush (t : Nat) : Statement (.flush t) := trivial
theorem inval (t : Nat) : Statement (.inval t) := trivial
theorem final (t : Nat) : Statement (.final t) := trivial
theorem complete (t : Nat) : Statement (.complete t) := trivial
theorem slotReadback (core : Nat) (k : Nat) (clean : Bool) : Statement (.slotReadback core k clean) := trivial
theorem kilnReloadDone (core : Nat) (k : Nat) (clean : Bool) : Statement (.kilnReloadDone core k clean) := trivial
theorem gangTick (part : Nat) : Statement (.gangTick part) := trivial
theorem groupHalt (g : Nat) : Statement (.groupHalt g) := trivial
theorem dieSaveDone (part : Nat) (die : Nat) : Statement (.dieSaveDone part die) := trivial
theorem contextRestore (part : Nat) : Statement (.contextRestore part) := trivial
theorem switchLate (part : Nat) (die : Nat) : Statement (.switchLate part die) := trivial
theorem lateDieFence (part : Nat) (die : Nat) : Statement (.lateDieFence part die) := trivial
theorem scrubPass (die : Nat) : Statement (.scrubPass die) := trivial
theorem patrolScrub (addr : Nat) (found : SoftError) : Statement (.patrolScrub addr found) := trivial
theorem sensorRefresh (id : Nat) (value : Int) : Statement (.sensorRefresh id value) := trivial
theorem thermhalt (id : Nat) : Statement (.thermhalt id) := trivial
theorem interruptCoalesceExpiry (fn : Nat) : Statement (.interruptCoalesceExpiry fn) := trivial
theorem eventStoreDrain (fn : Nat) : Statement (.eventStoreDrain fn) := trivial
theorem flitReceive (link : Nat) (crcOk : Bool) : Statement (.flitReceive link crcOk) := trivial
theorem replayTimeout (link : Nat) : Statement (.replayTimeout link) := trivial
theorem auditStart (link : Nat) : Statement (.auditStart link) := trivial
theorem auditReply (link : Nat) : Statement (.auditReply link) := trivial
theorem auditTimeout (link : Nat) : Statement (.auditTimeout link) := trivial
theorem retrain (link : Nat) : Statement (.retrain link) := trivial
theorem retrainComplete (link : Nat) (locked : Bool) : Statement (.retrainComplete link locked) := trivial
theorem linkDown (link : Nat) : Statement (.linkDown link) := trivial
theorem dieFence (die : Nat) : Statement (.dieFence die) := trivial
theorem bar4Access (fn : Nat) (off : Nat) (size : Nat) (data : Option (List (BitVec 8))) : Statement (.bar4Access fn off size data) := trivial
theorem registerWrite (fn : Nat) (off : Nat) (value : BitVec 64) : Statement (.registerWrite fn off value) := trivial
theorem cmdtail (fn : Nat) (value : BitVec 64) : Statement (.cmdtail fn value) := trivial
theorem evthead (fn : Nat) (value : BitVec 64) : Statement (.evthead fn value) := trivial
theorem doorbell (fn : Nat) (off : Nat) (value : BitVec 64) : Statement (.doorbell fn off value) := trivial
theorem functionLevelReset (fn : Nat) : Statement (.functionLevelReset fn) := trivial
theorem illegalOpcode (op : BitVec 8) : Statement (.illegalOpcode op) := trivial
theorem reconfigurationDone (t : Nat) (bad : List Nat) : Statement (.reconfigurationDone t bad) := trivial
theorem opTransitionDone : Statement (.opTransitionDone) := trivial
theorem routeInstall : Statement (.routeInstall) := trivial
theorem meshSplit : Statement (.meshSplit) := trivial
theorem identify : Statement (.identify) := trivial
theorem portConfig : Statement (.portConfig) := trivial
theorem partCreate : Statement (.partCreate) := trivial
theorem partDestroy : Statement (.partDestroy) := trivial
theorem partResize : Statement (.partResize) := trivial
theorem setHandler : Statement (.setHandler) := trivial
theorem setPmc : Statement (.setPmc) := trivial
theorem ctxCreate : Statement (.ctxCreate) := trivial
theorem ctxDestroy : Statement (.ctxDestroy) := trivial
theorem queueCreate : Statement (.queueCreate) := trivial
theorem queueDestroy : Statement (.queueDestroy) := trivial
theorem map : Statement (.map) := trivial
theorem unmap : Statement (.unmap) := trivial
theorem map2 : Statement (.map2) := trivial
theorem invalCommand : Statement (.invalCommand) := trivial
theorem imageLoad : Statement (.imageLoad) := trivial
theorem imagePolicy : Statement (.imagePolicy) := trivial
theorem keyEnroll : Statement (.keyEnroll) := trivial
theorem faultReplay : Statement (.faultReplay) := trivial
theorem faultDecline : Statement (.faultDecline) := trivial
theorem setOp : Statement (.setOp) := trivial
theorem measureLog : Statement (.measureLog) := trivial
theorem debugAttach : Statement (.debugAttach) := trivial
theorem debugDetach : Statement (.debugDetach) := trivial
theorem debugResume : Statement (.debugResume) := trivial
theorem debugWindow : Statement (.debugWindow) := trivial
theorem aperture : Statement (.aperture) := trivial
theorem entdaa : Statement (.entdaa) := trivial
theorem mctpControl : Statement (.mctpControl) := trivial
theorem pldmSensorRead : Statement (.pldmSensorRead) := trivial
theorem getVersion : Statement (.getVersion) := trivial
theorem getCapabilities : Statement (.getCapabilities) := trivial
theorem negotiateAlgorithms : Statement (.negotiateAlgorithms) := trivial
theorem getDigests : Statement (.getDigests) := trivial
theorem getCertificate : Statement (.getCertificate) := trivial
theorem challenge : Statement (.challenge) := trivial
theorem getMeasurements : Statement (.getMeasurements) := trivial
theorem readErrlog : Statement (.readErrlog) := trivial
theorem errlogInfo : Statement (.errlogInfo) := trivial
theorem badOpcode : Statement (.badOpcode) := trivial
theorem unsupportedRequest : Statement (.unsupportedRequest) := trivial
theorem moduleReset : Statement (.moduleReset) := trivial

end Sys2Proof.Laws.Opcode
end

