-- ==== Sys2Proof/Laws/Slots.lean ====
section
/-! SUPPORT. What a slot instruction can do, said once: every meaning of the families 0x00 to 0xDE goes through
`runSlot`. -/

namespace Sys2Proof.Machine

open Host (Outcome)

variable {s s' : State} {g : Group} {x : Split} {h : Head} {p : Payload} {own : Group → Split → Own}
  {clear : Option Nat} {op : BitVec 8} {n : Nat} {o : Outcome State Fault Refusal}

/-- A slot instruction that passes its checks and whose own effect is a state completes into it. -/
theorem Runs.ok (hr : Runs s g x ⟨op, h, p⟩) (e : o = runSlot n h p s own) (hn : op.toNat = n := by rfl)
    (ho : own g x = .ok s' clear := by rfl) : o = .next (s.done g x ⟨op, h, p⟩ s' clear) := by
  subst hn e
  simp only [runSlot, hr.group, hr.split, hr.checks, hr.clean, ho, Own.waits, Bool.false_eq_true, if_false, State.done]

/-- A slot instruction whose own effect is a fault takes it, precise at its PC. -/
theorem Runs.fault {c : BitVec 8} {a : Dword} {l : LaneMask} (hr : Runs s g x ⟨op, h, p⟩) (e : o = runSlot n h p s own)
    (hn : op.toNat = n := by rfl) (ho : own g x = .fault c a l := by rfl) :
    o = .next (s.takeFault g (preciseFault s x c a l)) := by
  subst hn e
  simp only [runSlot, hr.group, hr.split, hr.checks, hr.clean, ho, Own.waits, Bool.false_eq_true, if_false, if_true]

/-- A slot instruction whose own effect sequences itself. -/
theorem Runs.done (hr : Runs s g x ⟨op, h, p⟩) (e : o = runSlot n h p s own) (hn : op.toNat = n := by rfl)
    (ho : own g x = .done s' := by rfl) : o = .next s' := by
  subst hn e
  simp only [runSlot, hr.group, hr.split, hr.checks, hr.clean, ho, Own.waits, Bool.false_eq_true, if_false, if_true]

/-- A slot instruction that cannot issue leaves everything as it is. -/
theorem Runs.stalls (hr : Runs s g x ⟨op, h, p⟩) (e : o = runSlot n h p s own) (hn : op.toNat = n := by rfl)
    (ho : own g x = .wait := by rfl) : o = .next { s with stall := true } := by
  subst hn e
  simp only [runSlot, hr.group, hr.split, hr.checks, hr.clean, ho, Own.waits, Bool.false_eq_true, if_false, if_true]

/-- A slot instruction that reads poison faults before it issues. -/
theorem Runs.ecc {a : Nat} {l : LaneMask} (hr : Runs s g x ⟨op, h, p⟩) (e : o = runSlot n h p s own)
    (hn : op.toNat = n := by rfl) (ho : own g x = .ecc a l := by rfl) :
    o = .next (s.takeFault g (eccFault x a l)) := by
  subst hn e
  simp only [runSlot, hr.group, hr.split, hr.checks, hr.clean, ho, Own.waits, Bool.false_eq_true, if_false, if_true]

/-- A slot instruction whose own effect is a request to wait for issues, and its group waits. -/
theorem Runs.await {q : Req} {w : GWait} (hr : Runs s g x ⟨op, h, p⟩) (e : o = runSlot n h p s own)
    (hn : op.toNat = n := by rfl) (ho : own g x = .await q w := by rfl) :
    let t := s.issued g.uid n h p none
    let g' := (t.group? g.uid).getD g
    o = .next (t.putGroup { g' with reqs := g'.reqs ++ [q.keep (g.viewAt s.now) x h], wait := w }) := by
  subst hn e
  simp only [runSlot, hr.group, hr.split, hr.checks, hr.clean, ho, Own.waits, Bool.false_eq_true, if_false, if_true]

/-- A slot instruction whose access meets a missing translation issues, and its request is a packet. -/
theorem Runs.packet {q : Req} {a : Nat} {l : LaneMask} (hr : Runs s g x ⟨op, h, p⟩) (e : o = runSlot n h p s own)
    (hn : op.toNat = n := by rfl) (ho : own g x = .packet q a l := by rfl) :
    let t := s.issued g.uid n h p none
    o = .next (t.packet ((t.group? g.uid).getD g) (q.keep (g.viewAt s.now) x h) a l) := by
  subst hn e
  simp only [runSlot, hr.group, hr.split, hr.checks, hr.clean, ho, Own.waits, Bool.false_eq_true, if_false, if_true]

/-- A slot instruction that can issue and fails a check takes the fault of that check. -/
theorem runSlot_check {c : BitVec 8} {a : Dword} (hg : s.curGroup = some g)
    (hx : g.exec? = some x) (hw : (own g x).waits = false := by rfl) (hc : precheck s g x n h p = some (c, a)) :
    runSlot n h p s own = .next (s.takeFault g (preciseFault s x c a x.mask)) := by
  simp only [runSlot, hg, hx, hw, hc, Bool.false_eq_true, if_false]

/-- With a group that has a split to execute, a slot instruction always goes on. -/
theorem runSlot_goes (hg : s.curGroup = some g) (hx : g.exec? = some x) :
    ∃ t, runSlot n h p s own = .next t := by
  simp only [runSlot, hg, hx]
  split
  · exact ⟨_, rfl⟩
  split
  · exact ⟨_, rfl⟩
  split
  · exact ⟨_, rfl⟩
  split <;> exact ⟨_, rfl⟩

end Sys2Proof.Machine
end

