-- ==== Sys2Proof/Tests/Slice0.lean ====
section
/-! SUPPORT. Tests: the spec's examples, an ill-formed term for every check of an encoding, and, for every statement with
hypotheses, states and operands that meet them. -/

namespace Sys2Proof.Tests

open Sys2Proof.Machine

/-! ### A state to run in -/

/-- The machine with the program of log 33 placed and its group about to execute: group 3 in group slot 0 of core 0, 64 varying
registers, 4,096 bytes of scratchpad, four accumulator tiles; block 2, task 1, partition 0, context 0. -/
def demo : State := { State.reset.withProgram 0 with cur := 3, nextPc := 0x10001, now := 0 }

/-- Its group. -/
def grp : Group := demoGroup State.reset

/-- The split that executes in it. -/
def spl : Split :=
  { pc := 0x10000, mask := allLanes, lc := 0, hold := false, last := none, prev := 0, ready := 0, fetched := true }

/-- The machine with its group changed. -/
def demoWith (f : Group → Group) : State := { demo with groups := [f grp] }

/-- The group in a handler. -/
def inHandler (g : Group) : Group :=
  { g with handler := some { inv := 1, split := spl, flags := 0, rank := 0, total := 1, saved := .none, sleep := 0,
                             fault := { cause := 0x13, fpc := 0x10000, faddr := 0, flane := allLanes, defer := false, fetch := false,
                                        mask := allLanes, next := 0x10001, req := none } } }

/-- `Runs` as a test. -/
def runsB (s : State) (w : Slot) : Bool :=
  match s.curGroup with
  | none => false
  | some g =>
    match g.exec? with
    | none => false
    | some x => (precheck s g x w.op.toNat w.head w.pl).isNone && (g.poisoned w.op.toNat w.pl).isNone

theorem runs_of_test {s : State} {w : Slot} (h : runsB s w = true) : ∃ g x, Runs s g x w := by
  unfold runsB at h
  split at h
  · exact absurd h (by decide)
  next g hg =>
    split at h
    · exact absurd h (by decide)
    next x hx =>
      simp only [Bool.and_eq_true, Option.isNone_iff_eq_none] at h
      exact ⟨g, x, hg, hx, h.1, h.2⟩

theorem demo_group : demo.curGroup = some grp := by decide
theorem demo_split : grp.exec? = some spl := by decide

/-! ### Operands for every slot instruction -/

/-- A head that does nothing: SEQ, no flag, no guard. -/
def hd : Head := { dist := 0, set := 0, wait := 0, nx := .seq, tgt := 0, gp := 7 }

/-- An operand of a kind that the instruction accepts. -/
def anOperand (k : Option Kinds) (imm : BitVec 8) : Src :=
  match k with
  | none => .vr 0
  | some k => if k.v then .vr 16 else if k.s then .sr 8 else if k.a then .ar 1 else .imm imm

/-- Operands of an R-format opcode. -/
def rArgs (op : Nat) : RArgs :=
  match rSpec op with
  | none => { d := 0, a := .vr 0, b := .vr 0, c := 0, nb := .none, sub := 0 }
  | some k =>
    { d := if op == 0 then 0 else match k.cls with | .v => 24 | .none => 0 | _ => 2
      a := if op == 0x8C then .vr 1 else anOperand k.a 1
      b := anOperand k.b (if op == 0x82 then 1 else 12)
      c := match k.c with
        | .zero => 0 | .reg => 26 | .pred => 1 | .len => 8 | .cond => 1 | .ofs => 4 | .rm => 0 | .cvt => 0xD0 | .slot => 1
        | .slotrm => 1 | .opt => 0x20 | .sel => 0x20 | .beat => 1 | .rng => 1
      nb := .none, sub := 0 }

/-- Operands of an M-format opcode: the address of s8. -/
def mArgs (op : Nat) : MArgs :=
  { d := if 0xA4 ≤ op && op != 0xA8 then 0 else 24
    x := if 0xA5 ≤ op && op ≤ 0xA7 then 0 else 8
    b := match mB op with | .ty => 6 | .width => 4 | .atom => 2 | .reg => 10 | .zero => 0
    off := 0, xk := if 0xA5 ≤ op && op ≤ 0xA7 then .v32 else .unif, ord := if op == 0xA8 then .acq else .none
    scp := if op == 0xA8 then 1 else 0, hnt := 0 }

/-- Operands of an E-format opcode. -/
def eArgs (op : Nat) : EArgs :=
  match op with
  | 0x83 => { d := 24, s := 0, b := 16, c := 26, ext := 0 }
  | 0xB1 => { d := 1, s := 8, b := 0x52, c := 0, ext := 0 }
  | 0xB2 => { d := 1, s := 8, b := 0x52, c := 16, ext := 0 }
  | 0xB3 => { d := 1, s := 8, b := 0x02, c := 0, ext := 0 }
  | 0xB4 => { d := 1, s := 0, b := 0, c := 0, ext := 0 }
  | 0xC0 => { d := 4, s := 8, b := 0, c := 0, ext := 0 }
  | _ => { d := 0, s := 8, b := 0, c := 0, ext := 0 }

/-- Operands of an X-format opcode. -/
def xArgs (op : Nat) : XArgs :=
  match op with
  | 0xB5 | 0xD9 => { d := 2, a := 0, imm := 0 }
  | 0xB6 => { d := 0, a := 8, imm := 0 }
  | 0xB9 => { d := 2, a := 8, imm := 384 }
  | 0xBA => { d := 0, a := 0, imm := 0x0101 }
  | 0xBB | 0xBC | 0xBD | 0xBF | 0xD5 => { d := 0, a := 0, imm := 1 }
  | 0xD0 => { d := 0, a := 7, imm := 0x40 }
  | 0xD1 => { d := 0, a := 0, imm := 5 }
  | 0xD3 | 0xD4 | 0xD6 => { d := 0, a := 0, imm := 9 }
  | 0xD7 => { d := 2, a := 0, imm := 0x02 }
  | 0xD8 => { d := 0, a := 8, imm := 0x14 }
  | 0xDA => { d := 2, a := 0, imm := 1 }
  | 0xDB | 0xDC => { d := 24, a := 8, imm := 3 }
  | 0xDD | 0xDE => { d := 0, a := 16, imm := 2 }
  | _ => { d := 0, a := 0, imm := 0 }

/-- A slot of every opcode of the map. -/
def aSlot (op : BitVec 8) : Slot :=
  ⟨op, hd, match lookupOp op opcodeMap with
    | some (.i _) => .i { d := 2, imm := .signed 5, sub := 0 }
    | some (.m _) => .m (mArgs op.toNat)
    | some (.e _) => .e (eArgs op.toNat)
    | some (.x _) => .x (xArgs op.toNat)
    | _ => .r (rArgs op.toNat)⟩

/-- Whether an instruction is one of a handler's alone. -/
def handlerOnly (op : BitVec 8) : Bool := op == 0xD5 || (0xDB ≤ op.toNat && op.toNat ≤ 0xDE)

/-- Registers of the group set. -/
def withS (l : List (Nat × Dword)) (g : Group) : Group := { g with s := l.foldl (fun r k => r.set k.1 k.2) g.s }

/-- An address in the placed task's SHARED region. -/
def shAddr : Dword := 0x12000

/-- A copy's descriptor in s8 to s11: `len` bytes of one row at `a` to the start of the scratchpad. -/
def copyRegs (a : Dword) (len : Nat) : List (Nat × Dword) := [(8, a), (9, dw (len * 2 ^ 32)), (10, 1), (11, 0)]

/-- A state in which an opcode may run: a handler's own in one, a copy with its descriptor. -/
def roomFor (op : BitVec 8) : State :=
  if handlerOnly op then demoWith inHandler else if op == 0xB0 then demoWith (withS (copyRegs shAddr 16)) else demo

/-- Every opcode of a part of the map passes its checks somewhere. -/
def runsAll (l : List (BitVec 8 × Mk)) : Bool := l.all fun k => runsB (roomFor k.1) (aSlot k.1)

theorem wit_runs_1 : runsAll opcodeMap1 = true := by decide
theorem wit_runs_2 : runsAll opcodeMap2 = true := by decide
theorem wit_runs_3 : runsAll opcodeMap3 = true := by decide
theorem wit_runs_4 : runsAll opcodeMap4 = true := by decide
theorem wit_runs_5 : runsAll opcodeMap5 = true := by decide
theorem wit_runs_6 : runsAll opcodeMap6 = true := by decide

/-! ### What a statement asks beyond the checks -/

/-- The machine with uniform registers set. -/
def demoS (l : List (Nat × Dword)) : State := demoWith (withS l)

/-- The machine with its block changed. -/
def demoB (f : Block → Block) : State := { demo with blocks := [f demoBlock] }

/-- The machine with its task changed. -/
def demoT (f : Task → Task) : State := { demo with tasks := [f demoTask] }

/-- The machine with its partition changed. -/
def demoP (f : Part → Part) : State := { demo with parts := demo.parts.map f }

/-- The task as one that is DET, its commit position at `c`. -/
def detTask (c : Nat) (t : Task) : Task := { t with hdr := { t.hdr with det := true }, run := { t.run with commit := c } }

/-- The machine with E4M3 bound in every slot. -/
def demoBound : State :=
  { demoT (fun t => { t with hdr := { t.hdr with slotimg := List.replicate 8 0x211 } }) with
    parts := demo.parts.map fun p => { p with slotImg := List.replicate 8 0x211 } }

theorem demo_block : demo.block? 2 = some demoBlock := by decide
theorem demo_task : demo.taskOf grp = some demoTask := by decide

/-- SelectCompareMoveImmediateAndReads, FloatMinimumMaximumAndCompare: a guard that leaves lanes, and one that leaves none. -/
theorem wit_guarded_lanes :
    spl.mask &&& grp.guardAt hd demo.now ≠ 0 ∧ spl.mask &&& grp.guardAt { hd with gp := 0 } demo.now = 0 ∧
    (∀ op ∈ [0x39, 0x4A, 0x69, 0x6B], runsB demo { aSlot op with head := { hd with gp := 0 } } = true) := by decide

/-- AffineResults: counts of `shlA` at 0 and where the meaning cuts them. -/
theorem wit_AffineResults :
    (((grp.viewAt 0).src .none 32 (.sr 8) 0).setWidth 32).toNat = 0 ∧
    ((((withS [(8, 200)] grp).viewAt 0).src .none 32 (.sr 8) 0).setWidth 32).toNat = 200 := by decide

/-- BitFieldsAndCounts: positions of `bfi` below the width and at it. -/
theorem wit_UniformInsert :
    (let r := rArgs 0x2D
     runsB demo (aSlot 0x2D) = true ∧ ((uIn 0x2D r (grp.viewAt 0)).b.setWidth 32).toNat < r.n ∧
       r.n ≤ ((uIn 0x2D { r with b := .sr 9 } ((withS [(9, 32)] grp).viewAt 0)).b.setWidth 32).toNat ∧
       runsB (demoS [(9, 32)]) ⟨0x2D, hd, .r { r with b := .sr 9 }⟩ = true) := by decide

/-- VuniComparesTheLanes: equal lanes, and lanes of which one differs. -/
theorem wit_VuniComparesTheLanes :
    runsB demo (aSlot 0x4C) = true ∧
    (∀ L < 96, spl.mask.getLsbD L → (grp.viewAt 0).src .none 32 (.vr 16) L = (grp.viewAt 0).src .none 32 (.vr 16) (lowLane spl.mask)) ∧
    (let g := { grp with v := grp.v.set 16 (mkRow fun L => if L = 95 then 1 else 0) }
     runsB (demoWith fun _ => g) (aSlot 0x4C) = true ∧
     ∃ L < 96, spl.mask.getLsbD L ∧ (g.viewAt 0).src .none 32 (.vr 16) L ≠ (g.viewAt 0).src .none 32 (.vr 16) (lowLane spl.mask)) := by
  refine ⟨by decide, by decide, by decide, 95, by decide, by decide, by decide⟩

/-- FloatSpecialValues: codes of each clause, at binary32. -/
theorem wit_FloatSpecialValues :
    (fv f32 0x7FC00000).isNan = true ∧ fv f32 0x7F800000 = .inf false ∧ fv f32 0xFF800000 = .inf true ∧ (fv f32 0).isZero = true ∧
    (fv f32 0x3F800000).isFin = true ∧ (fv f32 0x3F800000).isZero = false ∧ (fv f32 0xBF800000).sign = true ∧
    (fv f32 0xBF800000).isNan = false ∧ (fv f32 0xBF800000).isZero = false := by decide

/-- FloatExactness: finite sources, with a nonzero divisor, in both formats. -/
theorem wit_FloatExactness :
    ∀ F ∈ [f32, f64], (fv F 0x3F800000).isFin = true ∧ (fv F 0x3F800000).isZero = false ∧ (fv F 0).isFin = true := by decide

/-- SlotInstructions: bound slots, a permitted rounding field, a format with scales. -/
theorem wit_SlotInstructions :
    (∀ k < 8, (match demoBound.slotOf grp k with | .ok F => F == e4m3 | _ => false) = true) ∧ (e4m3.mode 0 0).isSome ∧
    e4m3.kind ≠ 2 ∧ ∀ op ∈ [0x80, 0x81, 0x82, 0x83, 0x84], runsB demoBound (aSlot op) = true := by decide

/-- FaultsOfInstructions: positions passed and not reached; EDGE 3, FRM 5, a barrier mask with a bit of no group, and the bounds of
the window's indices. -/
theorem wit_FaultsOfInstructions :
    (demoBlock.blkid < (detTask 1 demoTask).run.commit ∧ (demoT (detTask 1)).taskOf grp = some (detTask 1 demoTask) ∧
      runsB (demoT (detTask 1)) (aSlot 0xA6) = true ∧ runsB (demoT (detTask 1)) (aSlot 0xA7) = true) ∧
    (demo.curGroup = some grp ∧ grp.exec? = some spl ∧ 2 < (((withS [(8, 3)] grp).viewAt 0).rs 8).toNat ∧
      4 < (((withS [(8, 5)] grp).viewAt 0).rs 8).toNat ∧ 2 ^ demoTask.kd.ngrp ≤ (0x0201 : BitVec 24).toNat / 256 % 256 ∧
      (((withS [(8, 0x167)] grp).viewAt 0).rs 8).toNat = 0x167 ∧ 0x167 < 0x200 ∧ 0x208 ≤ (0xFFFF + 0) % 65536) := by decide

/-- E4M3 under an image of the tenant that permits RNE alone, and INT4 as a table of 4 bits, in every slot. -/
def demoFmt (F : Fmt) : State :=
  { demoT (fun t => { t with hdr := { t.hdr with slotimg := List.replicate 8 0x300 } }) with
    parts := demo.parts.map fun p =>
      { p with slotImg := List.replicate 8 0x300, images := [{ id := 0x300, tenant := true, fmt := F, digest := 0 }] } }

/-- UnboundSlotFaults: slots that the task does not bind; for `xcvt` the destination alone (slot 1 is bound, slot 0 is not). -/
theorem wit_UnboundSlotFaults :
    (∀ op ∈ [0x80, 0x81, 0x82, 0x83, 0x84, 0xB1, 0xB2, 0xB3], runsB demo (aSlot op) = true) ∧
    (∀ k < 8, (match demo.slotOf grp k with | .unbound => true | _ => false) = true) ∧
    (let s : State := { demoBound with tasks := demoBound.tasks.map fun t =>
       { t with hdr := { t.hdr with slotimg := 0 :: List.replicate 7 0x211 } } }
     runsB s ⟨0x82, hd, .r { rArgs 0x82 with c := 0 }⟩ = true ∧ (rArgs 0x82).b.code % 8 = 1 ∧
       (match s.slotOf grp 1, s.slotOf grp 0 with | .ok _, .unbound => true | _, _ => false) = true) ∧
    demo.mqLen grp.core < 32 ∧ (eArgs 0xB1).b.toNat % 8 = 2 ∧ (eArgs 0xB1).b.toNat / 16 % 8 = 5 ∧
    (match demo.slotsOf grp [2, 5] with | .unbound i => i == 2 | _ => false) = true ∧
    (match demo.slotsOf grp [2] with | .unbound i => i == 2 | _ => false) = true := by decide

/-- SlotModesAndCorruptSlots: a mode that the format does not permit; a TABLE slot; CORRUPT slots. -/
theorem wit_SlotModesAndCorruptSlots :
    (let F := { e4m3 with rmallow := 1 }
     F.mode 1 0 = none ∧ (∀ k < 2, (match (demoFmt F).slotOf grp k with | .ok G => G == F | _ => false) = true) ∧
       runsB (demoFmt F) ⟨0x81, hd, .r { rArgs 0x81 with c := 0x11 }⟩ = true ∧
       runsB (demoFmt F) ⟨0x82, hd, .r { rArgs 0x82 with c := 0x10 }⟩ = true ∧
       runsB (demoFmt F) ⟨0x83, hd, .e { eArgs 0x83 with ext := 0x08 }⟩ = true) ∧
    (let F := { e4m3 with kind := 2 }
     F.kind = 2 ∧ (match (demoFmt F).slotOf grp 0 with | .ok G => G == F | _ => false) = true ∧
       runsB (demoFmt F) (aSlot 0x83) = true) ∧
    (let s : State := { demoBound with parts := demoBound.parts.map fun p => { p with corrupt := [(0, 0, 0), (0, 1, 0)] } }
     (∀ k < 2, (match s.slotOf grp k with | .corrupt => true | _ => false) = true) ∧
       ∀ op ∈ [0x80, 0x81, 0x83, 0x84], runsB s (aSlot op) = true) := by decide

/-- EngineConflictFaults: a token that nobody holds, with the slots BOUND; the holder with an operation in no batch; a batch that
no instruction has formed; a `macq` of the holder. -/
theorem wit_EngineConflictFaults :
    (demoBlock.token ≠ some grp.gindex ∧ demoBound.block? grp.block = some demoBlock ∧ demoBound.mqLen grp.core < 32 ∧
      (∀ op ∈ [0xB1, 0xB2, 0xB3, 0xB4, 0xB5, 0xB8], runsB demoBound (aSlot op) = true) ∧
      (match demoBound.slotsOf grp [2, 5] with | .ok [_, _] => true | _ => false) = true ∧
      (match demoBound.slotsOf grp [2] with | .ok [_] => true | _ => false) = true) ∧
    (let b : Block := { demoBlock with token := some 0, unb := [0] }
     let s := demoB fun _ => b
     s.block? grp.block = some b ∧ grp.gindex ∈ b.unb ∧ b.token = some grp.gindex ∧ runsB s (aSlot 0xB8) = true ∧
       runsB s (aSlot 0xB7) = true) ∧
    (let g := withS [(8, 1)] grp
     demoBlock.batch < ((g.viewAt 0).rs 8).toNat ∧ runsB (demoWith fun _ => g) (aSlot 0xB6) = true) := by decide

/-- What the checks of such a copy find: its descriptor, whether it fits, its region. -/
def copyFinds (t : Task) (l : List (Nat × Dword)) : Option (Bool × Option RMode) :=
  (CDesc.of (((withS l grp).viewAt 0).quad 8)).map fun d =>
    (decide (rangeEnd d.sRanges ≤ demoBlock.scrSize),
     if 0 ≤ d.gSpan.1 ∧ d.gSpan.2 < (2 : Int) ^ 57 then (t.match_ d.gSpan.1.toNat d.gSpan.2.toNat none).map (·.2) else none)

set_option maxRecDepth 4000 in
/-- CopyAndMatrixFaults, of copies: more bytes than the scratchpad has; an undeclared address; a mode that allows no copy; a DET task
without the token; a page without READ; a page whose home is fenced.  IllegalSpecialValuesFault: no row. -/
theorem wit_CopyFaults :
    (∀ l ∈ [copyRegs shAddr 4112, copyRegs 0 16, copyRegs shAddr 16], runsB (demoS l) (aSlot 0xB0) = true) ∧
    demo.cqLen grp.core < 16 ∧ copyFinds demoTask [] = none ∧ copyFinds demoTask (copyRegs shAddr 4112) = some (false, none) ∧
    copyFinds demoTask (copyRegs 0 16) = some (true, none) ∧ copyFinds demoTask (copyRegs shAddr 16) = some (true, some .shared) ∧
    copyFinds { demoTask with regions := [{ demoRegion with mode := 5, ety := 2, pbase := 0x14000 }] } (copyRegs shAddr 16) =
      some (true, some .reduce) ∧ Acc.cpyRead.allowed .reduce = false ∧ Acc.cpyRead.allowed .shared = true ∧
    ((detTask 1 demoTask).hdr.det = true ∧ (detTask 1 demoTask).run.commit ≠ demoBlock.blkid) ∧
    (let s : State := { demoS (copyRegs shAddr 16) with
       ctxs := demo.ctxs.map fun c => { c with maps := c.maps.map fun m => { m with read := false } } }
     (CDesc.of (((withS (copyRegs shAddr 16) grp).viewAt 0).quad 8)).any fun d => s.copyForbidden demoBlock d) = true ∧
    (let s : State := { demoS (copyRegs shAddr 16) with
       deadDies := [3]
       parts := demo.parts.map fun p => { p with maps := p.maps.map fun m => { m with home := 3 } } }
     (CDesc.of (((withS (copyRegs shAddr 16) grp).viewAt 0).quad 8)).any fun d => !s.copyForbidden demoBlock d && s.copyCut demoBlock d)
       = true := by decide

set_option maxRecDepth 8000 in
/-- CopyAndMatrixFaults, of matrix operations with the token held: formats of too much precision, a descriptor without steps, a
record past the scratchpad; an output with a reserved field, and one past the scratchpad. -/
theorem wit_MatrixFaults :
    (let b : Block := { demoBlock with token := some 0 }
     let s : State := { demoBound with blocks := [b] }
     (∀ op ∈ [0xB1, 0xB2, 0xB3], runsB s (aSlot op) = true) ∧ b.token = some grp.gindex ∧ s.mqLen grp.core < 32 ∧
     25 ≤ max (single true 8 24 127 true false true).precision e4m3.precision ∧ max e4m3.precision e4m3.precision < 25 ∧
     MDesc.of ((grp.viewAt 0).quad 8) 8 8 = none ∧
     (let g := withS [(8, 2 ^ 48), (9, 4096), (10, 0), (11, 0)] grp
      (MDesc.of ((g.viewAt 0).quad 8) 8 8).any (fun d => decide (b.scrSize < rangeEnd (d.stepBytes (List.range 32) 8 8 (d.nstep - 1)))) = true) ∧
     fld 0 32 16 < 4 * e4m3.width ∧ fld (2 ^ 32 * 4096) 24 8 = 0 ∧ fld (2 ^ 32 * 4096) 48 16 = 0 ∧
     4 * e4m3.width ≤ fld (2 ^ 32 * 4096) 32 16 ∧
     b.scrSize < rangeEnd ((List.range 32).map fun i => (0 + i * 4096, 4 * e4m3.width))) := by decide

/-- RangeAndWorkFaults: a range past the scratchpad; no tile, and no iteration. -/
theorem wit_RangeAndWorkFaults :
    (let g := withS [(8, 4096)] grp
     demoBlock.scrSize < ((g.viewAt 0).rs 8).toNat + (xArgs 0xB9).imm.toNat ∧ runsB (demoWith fun _ => g) (aSlot 0xB9) = true) ∧
    demoBlock.work = none ∧ runsB demo (aSlot 0xC0) = true ∧ fld 0x0000_0004_0000_0000 0 32 = 0 ∧ fld 3 32 32 = 0 := by decide

/-- The group with its lanes in two splits, and the machine with it. -/
def splitGrp : Group := { grp with active := [{ spl with mask := 1 }, { spl with mask := allLanes &&& ~~~1 }] }

set_option maxRecDepth 8000 in
/-- BarrierMisuseFaults: a split that is a part of the live lanes; an object that expects nobody, one at which the group has arrived,
one without an arrival; no cooperative task; another level at which a group waits. -/
theorem wit_BarrierMisuseFaults :
    (splitGrp.exec?.any (fun x => x.mask != splitGrp.live) = true ∧ splitGrp.handler = none ∧
      ∀ op ∈ [0xBA, 0xBB, 0xBC, 0xBD, 0xBE, 0xBF], runsB (demoWith fun _ => splitGrp) (aSlot op) = true) ∧
    (let b : Block := { demoBlock with bars := demoBlock.bars.map fun y => { y with pmask := 0 } }
     (demoB fun _ => b).block? 2 = some b ∧ (b.bar 1).pmask &&& grp.bit = 0) ∧
    (let b : Block := { demoBlock with bars := demoBlock.bars.map fun y => { y with amask := 1 } }
     (b.bar 1).amask ≠ 0 ∧ (b.bar 1).amask &&& grp.bit ≠ 0) ∧
    grp.barLast.getD 1 none = none ∧ demoTask.hdr.coop = false ∧
    (let b : Block := { demoBlock with rbar := [0], rbarLvl := some 2 }
     b.rbarLvl ≠ some 1 ∧ ((demoB fun _ => b).liveGroups b.uid).any (fun y => b.rbar.contains y.gindex) = true) := by decide

/-- The checks of a global access of `demo` at an address in s8. -/
def demoChecks (k : Claims.Access) (t : Task) (a : Dword) : List (LaneReq × Except (BitVec 8 × Nat) LaneReq) :=
  Claims.checks k (demoS [(8, a)]) (withS [(8, a)] grp) spl demoBlock t hd (mArgs k.op.toNat)

/-- The task with its region in mode REDUCE. -/
def reduceTask : Task :=
  { demoTask with regions := [{ demoRegion with mode := 5, ety := 2, pbase := 0x14000 }] }

/-- GlobalAccessesIssue: every access passes its checks somewhere; a guard that leaves no lane, with and without an order. -/
theorem wit_GlobalAccessesIssue :
    (∀ k ∈ Claims.accesses, (firstFault (mArgs k.op.toNat) (grp.checked spl hd k.uniform 0)
      (demoChecks k (if k.op = 0xA3 then reduceTask else demoTask) shAddr)).isNone = true) ∧
    (∀ k ∈ Claims.accesses, affineBad (grp.viewAt 0) (mArgs k.op.toNat) = false) ∧ lanesOf (grp.checked spl hd true 0) ≠ [] ∧ lanesOf (grp.checked spl { hd with gp := 0 } false 0) = [] ∧
    runsB demo ⟨0x98, { hd with gp := 0 }, .m (mArgs 0x98)⟩ = true ∧
    runsB demo ⟨0x98, { hd with gp := 0 }, .m { mArgs 0x98 with ord := .acq }⟩ = true := by decide

/-- The machine without a mapping in its context. -/
def demoUnmapped : State := { demoS [(8, shAddr)] with ctxs := demo.ctxs.map fun c => { c with maps := [] } }

/-- GlobalAccessesFault: an undeclared address, and one without a translation. -/
theorem wit_GlobalAccessesFault :
    (∀ k ∈ Claims.accesses,
      (match firstFault (mArgs k.op.toNat) (grp.checked spl hd k.uniform 0) (demoChecks k demoTask 0) with
       | some (c, _, _) => c != cXlat | none => false) = true) ∧
    (∀ k ∈ Claims.accesses,
      (match firstFault (mArgs k.op.toNat) (grp.checked spl hd k.uniform 0)
         (Claims.checks k demoUnmapped (withS [(8, shAddr)] grp) spl demoBlock (if k.op = 0xA3 then reduceTask else demoTask) hd
           (mArgs k.op.toNat)) with
       | some (c, _, _) => c == cXlat | none => false) = true) := by decide

/-- AffineAddressWithWFaults: an affine address with W set, for every instruction with such a form; the others take no affine
address. -/
theorem wit_AffineAddressWithWFaults :
    let g : Group := { grp with a := grp.a.set 1 { base := 0, stride := 0, w := true } }
    (g.viewAt 0).ra 1 = { base := 0, stride := 0, w := true } ∧
    ∀ op ∈ [0x98, 0x9A, 0x9B, 0x9C, 0x9D, 0x9E, 0x9F, 0xA0, 0xA2, 0xA3, 0xA4],
      runsB (demoWith fun _ => g) ⟨BitVec.ofNat 8 op, hd, .m { mArgs op with x := 1, xk := .aff }⟩ = true := by decide

/-- ScratchpadAccesses: checks passed, no engine row; no checked lane; a row that a copy holds; a misaligned address; a poisoned
word. -/
theorem wit_ScratchpadAccesses :
    (let q := scrAccesses 0x9C hd (mArgs 0x9C) 0 grp spl
     q.1 ≠ 0 ∧ (firstFault (mArgs 0x9C) q.1 (scrChecks demoBlock 4 q.2)).isNone = true ∧ demo.engineStall demoBlock q.2 = false ∧
       grp.mayIssue 0x9C (mArgs 0x9C) = true ∧ ∀ y ∈ q.2, demoBlock.scrPoison y.addr 4 = false) ∧
    (scrAccesses 0x9C { hd with gp := 0 } (mArgs 0x9C) 0 grp spl).1 = 0 ∧
    (let q := scrAccesses 0x9C hd (mArgs 0x9C) 0 grp spl
     let d : CDesc := { dir := false, gaddr := 0x12000, saddr := 0, len := 16, nrow := 1, gstride := 0, sstride := 0 }
     let o : COp := { uid := 9, block := 2, group := 3, desc := d, hnt := 0, shared := true, row := 0, byte := 0, ready := 4,
                      rows := [0], wrows := [0], pc := 0, mask := allLanes, paused := none }
     (demo.putCore 0 { demo.core 0 with cq := [o] }).engineStall demoBlock q.2 = true) ∧
    (let q := scrAccesses 0x9D hd (mArgs 0x9D) 0 grp spl
     (firstFault (mArgs 0x9D) q.1 (scrChecks demoBlock 4 q.2)).isNone = true ∧ demo.engineStall demoBlock q.2 = false ∧
       grp.mayIssue 0x9D (mArgs 0x9D) = true) ∧
    (∀ op ∈ [0x9C, 0x9D],
      let g := withS [(8, 2)] grp
      let q := scrAccesses op hd (mArgs op) 0 g spl
      (firstFault (mArgs op) q.1 (scrChecks demoBlock 4 q.2)).isSome = true ∧
        runsB (demoWith fun _ => g) (aSlot (BitVec.ofNat 8 op)) = true) ∧
    (let b : Block := { demoBlock with scrBad := [0] }
     let q := scrAccesses 0x9C hd (mArgs 0x9C) 0 grp spl
     (firstFault (mArgs 0x9C) q.1 (scrChecks b 4 q.2)).isNone = true ∧ (q.2.filter fun z => b.scrPoison z.addr 4) ≠ [] ∧
       (demoB fun _ => b).engineStall b q.2 = false ∧ runsB (demoB fun _ => b) (aSlot 0x9C) = true) := by decide

/-- PrefetchFenceCommitAndCounterWait: a task that is DET and holds the token, one that is not, a counter in SHARED memory. -/
theorem wit_PrefetchFenceCommitAndCounterWait :
    (detTask 0 demoTask).hdr.det = true ∧ (detTask 0 demoTask).run.commit = demoBlock.blkid ∧ demoTask.hdr.det = false ∧
    runsB (demoT (detTask 0)) (aSlot 0xA6) = true ∧ runsB (demoT (detTask 0)) (aSlot 0xA7) = true ∧
    (let k : Claims.Access := ⟨.wcnt, 0xA8, .wcnt, .read, true, fun _ => true, false⟩
     runsB (demoS [(8, shAddr)]) (aSlot 0xA8) = true ∧ lanesOf (grp.checked spl hd true 0) ≠ [] ∧
     (firstFault (mArgs 0xA8) (grp.checked spl hd true 0) (demoChecks k demoTask shAddr)).isNone = true) := by decide

/-- A request of the group on its way: a load of 32 bits to v24 or a store of 7, of lane 0, at the SHARED address. -/
def aReq (kind : ReqKind) (op : Nat) : Req :=
  { seq := 0, op := op, head := hd, m := mArgs op, cond := allLanes, target := 0, kind := kind,
    lanes := [{ lane := 0, addr := 0x12000, x := 7, reg := 0, pa := 0x12000 }], uni := false, mask := 1, flag := 1, inv := none,
    pc := 0x10000, next := 0x10001, split := allLanes, st := .flying, gen := 0 }

/-- LoadsReturn, StoresAndAtomicsPerformed: a request that can be performed, that no handler issued. -/
theorem wit_SharedAccessesPerformed :
    (let g : Group := { grp with reqs := [aReq .ld 0x98] }
     let s := demoWith fun _ => g
     s.group? g.uid = some g ∧ s.taskOf g = some demoTask ∧ s.canLoad g demoBlock (aReq .ld 0x98) = true ∧
       mTy (aReq .ld 0x98).m.b = 6 ∧ (aReq .ld 0x98).inv = none ∧ demoTask.modeOf 0 = some .shared ∧ s.homeBad 0x12000 4 = false) ∧
    (let g : Group := { grp with reqs := [aReq .st 0x9A] }
     let s := demoWith fun _ => g
     s.group? g.uid = some g ∧ s.canStore g demoBlock demoTask (aReq .st 0x9A) = true ∧ isPeer 0x12000 = false ∧
       cellsWf s.mem = true ∧ cellsWf s.peer = true ∧ cellsWf s.hmem = true) := by decide

set_option maxRecDepth 4000 in
/-- EngineOperationsQueue: a copy of 256 bytes from the SHARED region to the scratchpad; a loop of one step, and an output, on bound
slots with the token held. -/
theorem wit_EngineOperationsQueue :
    (let g := withS [(8, shAddr), (9, 0x0000_0100_0000_0000), (10, 1), (11, 0)] grp
     let q := (g.viewAt 0).quad 8
     ∃ d, CDesc.of q = some d ∧ rangeEnd d.sRanges ≤ demoBlock.scrSize ∧ 0 ≤ d.gSpan.1 ∧ d.gSpan.2 < (2 : Int) ^ 57 ∧
       (demoTask.match_ d.gSpan.1.toNat d.gSpan.2.toNat none).isSome = true ∧ Acc.cpyRead.allowed .shared = true ∧
       demoTask.hdr.det = false ∧ demo.copyForbidden demoBlock d = false ∧ demo.cqLen 0 < 16) ∧
    (let b : Block := { demoBlock with token := some 0 }
     let s : State := { demoBound with blocks := [b] }
     s.block? grp.block = some b ∧ b.token = some grp.gindex ∧ s.mqLen grp.core < 32 ∧
     (match s.slotsOf grp [2, 5] with | .ok [A, B] => decide (max A.precision B.precision < 25) | _ => false) = true ∧
     (let g := withS [(8, 2 ^ 48), (9, 32), (10, 0), (11, 0)] grp
      ∃ d, MDesc.of ((g.viewAt 0).quad 8) 8 8 = some d ∧
        rangeEnd (d.stepBytes (List.range 32) 8 8 (d.nstep - 1)) ≤ b.scrSize) ∧
     (let w : Nat := 2 ^ 32 * 32
      fld w 24 8 = 0 ∧ fld w 48 16 = 0 ∧ 4 * e4m3.width ≤ fld w 32 16 ∧ (e4m3.mode 0 0).isSome = true ∧
        rangeEnd ((List.range 32).map fun i => (fld w 0 24 + i * fld w 32 16, 4 * e4m3.width)) ≤ b.scrSize)) := by
  refine ⟨⟨_, rfl, ?_⟩, ?_⟩
  · decide
  · refine ⟨by decide, by decide, by decide, by decide, ⟨_, rfl, by decide⟩, by decide⟩

/-- FullQueuesHold: a core's queues full of operations of the block. -/
theorem wit_FullQueuesHold :
    let d : CDesc := { dir := false, gaddr := 0x12000, saddr := 0, len := 16, nrow := 1, gstride := 0, sstride := 0 }
    let c : COp := { uid := 9, block := 2, group := 3, desc := d, hnt := 0, shared := true, row := 0, byte := 0, ready := 4,
                     rows := [0], wrows := [0], pc := 0, mask := allLanes, paused := none }
    let o : MOp := { uid := 9, block := 2, group := 3, tile := 0, kind := .zero, step := 0, ready := 0, batch := 1, rows := [],
                     wrows := [] }
    let g := withS (copyRegs shAddr 16) grp
    let s := (demoWith fun _ => g).putCore 0 { demo.core 0 with cq := List.replicate 16 c, mq := List.replicate 32 o }
    16 ≤ s.cqLen grp.core ∧ 32 ≤ s.mqLen grp.core ∧ s.block? grp.block = some demoBlock ∧ s.taskOf grp = some demoTask ∧
      ∀ op ∈ [0xB0, 0xB1, 0xB2, 0xB3, 0xB4], runsB s (aSlot op) = true := by decide

/-- BatchesTokenAndOwnership: the token held, free, and another's; operations left and gone; rows inside the scratchpad. -/
theorem wit_BatchesTokenAndOwnership :
    (let b : Block := { demoBlock with token := some 0, batch := 1 }
     let o : MOp := { uid := 9, block := 2, group := 3, tile := 0, kind := .zero, step := 0, ready := 0, batch := 1, rows := [],
                      wrows := [] }
     let g := withS [(8, 1)] grp
     let s : State := { demoWith (fun _ => g) with blocks := [b] }
     let s' := s.putCore 0 { s.core 0 with mq := [o] }
     s.block? g.block = some b ∧ b.token = some g.gindex ∧ g.gindex ∉ b.unb ∧ ((g.viewAt 0).rs 8).toNat ≤ b.batch ∧
       (∀ y ∈ (s.core b.core).mq, y.block = b.uid → y.batch = 0 ∨ 1 < y.batch) ∧
       (∃ y ∈ (s'.core b.core).mq, y.block = b.uid ∧ y.batch ≠ 0 ∧ y.batch ≤ 1) ∧
       ∀ op ∈ [0xB5, 0xB6, 0xB7, 0xB8, 0xB9], runsB s' (aSlot op) = true) ∧
    demoBlock.token = none ∧ ({ demoBlock with token := some 1 } : Block).token ≠ some grp.gindex ∧
    ((grp.viewAt 0).rs 8).toNat + 384 ≤ demoBlock.scrSize := by
  refine ⟨⟨by decide, by decide, by decide, by decide, by decide, ⟨_, .head _, by decide, by decide, by decide⟩, by decide⟩,
    by decide, by decide, by decide⟩

/-- BlockBarriers: an object that expects the group and has it not yet; one whose phase has advanced, and one whose phase has not; a
cooperative task for `rbar`. -/
theorem wit_BlockBarriers :
    spl.mask = grp.live ∧ (demoBlock.bar 1).amask = 0 ∧ (demoBlock.bar 1).pmask &&& grp.bit ≠ 0 ∧ 1 < 2 ^ demoTask.kd.ngrp ∧
    (let g : Group := { grp with barLast := grp.barLast.set 1 (some 0) }
     g.barLast.getD 1 none = some 0 ∧ (demoBlock.bar 1).phase = 0 ∧
       (({ demoBlock with bars := demoBlock.bars.map fun y => { y with phase := 1 } } : Block).bar 1).phase ≠ 0 ∧
       demo.arrivalsPassed demoBlock 1 0 = true ∧ runsB (demoWith fun _ => g) (aSlot 0xBD) = true) ∧
    (let t : Task := { demoTask with hdr := { demoTask.hdr with coop := true } }
     t.hdr.coop = true ∧ demoBlock.rbar = [] ∧ runsB (demoT fun _ => t) (aSlot 0xBF) = true) := by decide

/-- WorkAndSpawn: a block without a cursor and one at its end; no queue, and a full one; a record without a translation, and a misaligned one. -/
theorem wit_WorkAndSpawn :
    (let n := (((withS [(8, 0x0000_0004_0000_0003)] grp).viewAt 0).rs 8).toNat
     fld n 0 32 ≠ 0 ∧ fld n 32 32 ≠ 0 ∧ demoBlock.work = none ∧
     ∃ c : Cursor, ({ demoBlock with work := some { ntile := 3, kiter := 4, pos := 12, stop := 12 } } : Block).work = some c ∧
       c.pos = c.stop) ∧
    (demo.spawnQueue demoBlock 0).isNone = true ∧ (∃ l, demo.spawnCheck demoBlock demoTask false 0x12000 = .ok l) ∧
    (match ({ demo with ctxs := demo.ctxs.map fun c => { c with maps := [] } } : State).spawnCheck demoBlock demoTask false 0x12000 with
     | .error (c, _) => c == cXlat | .ok _ => false) = true ∧
    (match demo.spawnCheck demoBlock demoTask false 0x12004 with | .error (c, a) => c == cMisaligned && a == 0x12004 | _ => false) = true ∧
    (let q : Queue := { part := 0, ctx := 0, num := 0, ring := 0x13000, slots := 2, dev := true, prio := 0, vec := 2, head := 0,
                        tail := 2, stopped := false }
     let s : State := { demo with queues := [q] }
     (s.spawnQueue demoBlock 0).any fun q => !(q.tail - q.head + (s.spawnsOut demoBlock 0).length < q.slots)) := by
  refine ⟨⟨by decide, by decide, by decide, _, rfl, by decide⟩, by decide, ⟨_, rfl⟩, by decide, by decide, by decide⟩

/-- TrapAndBreakpoint: without a debugger, and with one. -/
theorem wit_TrapAndBreakpoint :
    demo.debugged grp = false ∧
    ({ demo with ctxs := demo.ctxs.map fun c => { c with debug := true } } : State).debugged grp = true ∧
    runsB { demo with ctxs := demo.ctxs.map fun c => { c with debug := true } } (aSlot 0xD6) = true := by decide

/-- FaultEntersTheHandler, FaultWithoutHandlerAborts, HandlerReturn: a partition with a handler and one without, a group in a handler. -/
theorem wit_Faults :
    (let s := demoP fun p => { p with handler := some (0x18000, 0x18000, 0x1000) }
     s.block? grp.block = some demoBlock ∧ (s.part? 0).bind (·.handler) = some (0x18000, 0x18000, 0x1000) ∧ grp.handler = none ∧
       s.group? grp.uid = some grp) ∧
    (demo.task? demoBlock.task = some demoTask ∧ demoTask.run.phase = .running ∧ demoTask.run.status = 0 ∧
      (demo.part? demoBlock.part).bind (·.handler) = none) ∧
    (∃ k, (inHandler grp).handler = some k ∧ k.split = spl ∧ runsB (demoWith inHandler) (aSlot 0xD5) = true) := by
  refine ⟨by decide, by decide, _, rfl, rfl, by decide⟩

/-- LeavingRestoresTheSplits, in HandlerReturn: a precise fault of the split, a deferred one, another's. -/
theorem wit_HandlerReturn :
    ∃ f : FaultInfo, f.defer = false ∧ f.fetch = false ∧ spl.mask = f.mask ∧ { f with defer := true }.defer = true ∧
      ({ spl with mask := 1 } : Split).mask ≠ f.mask :=
  ⟨{ cause := 0x13, fpc := 0x10000, faddr := 0, flane := allLanes, defer := false, fetch := false, mask := allLanes,
     next := 0x10001, req := none }, by decide⟩

/-- HandlerReturn: a handler whose fault keeps a request, which is dropped or goes on. -/
theorem wit_KeptRequest :
    let q := aReq .ld 0x98
    let g : Group := { inHandler grp with
      reqs := [q], handler := (inHandler grp).handler.map fun k => { k with fault := reqEcc q q.lanes } }
    (∃ k, g.handler = some k ∧ k.fault.req = some q.seq ∧ k.fault.fetch = false ∧ k.split = spl) ∧
      g.reqs.find? (·.seq == q.seq) = some q ∧ runsB (demoWith fun _ => g) (aSlot 0xD5) = true := by
  refine ⟨⟨_, rfl, by decide⟩, by decide⟩

/-- SpecialRegistersTimeAndCounts: legal values at their bounds, events allowed and not. -/
theorem wit_SpecialRegistersTimeAndCounts :
    (((withS [(8, 2)] grp).viewAt 0).rs 8).toNat ≤ 2 ∧ (((withS [(8, 4)] grp).viewAt 0).rs 8).toNat ≤ 4 ∧
    (demo.ctx? 0 0).isSome ∧ (demo.part? 0).any (fun p => !p.pmcAllow.getLsbD 1) ∧
    (∀ e ∈ [1, 2, 3, 4, 5, 6], (0x7E : Dword).getLsbD e = true) := by decide

/-- The special registers written run at both ends. -/
theorem wit_spr :
    runsB demo ⟨0xD8, hd, .x { d := 0, a := 8, imm := 0x13 }⟩ = true ∧
    runsB demo ⟨0xD8, hd, .x { d := 0, a := 8, imm := 0x15 }⟩ = true := by decide

/-- The count of an event runs at both ends. -/
theorem wit_pmc :
    runsB demo ⟨0xDA, hd, .x { d := 2, a := 0, imm := 0 }⟩ = true ∧
    runsB demo ⟨0xDA, hd, .x { d := 2, a := 0, imm := 65535 }⟩ = true := by decide

/-- WindowAndHandlerRows: a listed index, of a register that exists. -/
theorem wit_WindowAndHandlerRows :
    let g := inHandler grp
    ((g.viewAt 0).window (winIndex (g.viewAt 0) (xArgs 0xDB))).isSome ∧ winIndex (g.viewAt 0) (xArgs 0xDB) < g.nregs ∧
    winIndex (g.viewAt 0) (xArgs 0xDB) ∉ g.poison ∧
    (windowWrite (winIndex (g.viewAt 0) (xArgs 0xDC)) ((g.viewAt 0).rv 24)).isSome := by decide

/-- ReservedOpcodesFault: both ends of the ranges, and the literal's code. -/
theorem wit_ReservedOpcodesFault :
    (∀ n ∈ [0x3D, 0x3F, 0x4D, 0x4F, 0x85, 0x87, 0x92, 0x97, 0xA9, 0xAF, 0xC2, 0xCF, 0xDF, 0xFE, 0xFF],
      let w : BitVec 80 := BitVec.ofNat 8 n ++ (0 : BitVec 72)
      (slotOp w).toNat = n ∧ ((n = 0xFF) ∨ n ≤ 0xFE)) ∧
    Claims.reserved (slotOp 0x3D000000000000000000) ∧ demo.curGroup = some grp ∧ grp.exec? = some spl := by
  unfold Claims.reserved
  decide

/-- ChecksBeforeTheEffect: operands and groups that fail each check, and pass those before it. -/
theorem wit_ChecksBeforeTheEffect :
    (Slot.mk 0x01 hd (.r { rArgs 0x01 with c := 1 })).ok = false ∧
    ((Slot.mk 0x01 hd (.r { rArgs 0x01 with d := 64 })).ok = true ∧ 64 ≥ grp.nregs) ∧
    ((Slot.mk 0x03 hd (.r (rArgs 0x03))).ok = true ∧ ({ spl with mask := 1 } : Split).mask ≠ grp.live ∧
      (∀ y ∈ namedV 0x03 (.r (rArgs 0x03)), y < grp.nregs)) ∧
    ((Slot.mk 0xD2 { hd with nx := .call } (.x (xArgs 0xD2))).ok = true ∧
      16 ≤ (List.replicate 16 ({ pc := 0, mask := allLanes } : RetEntry)).length) ∧
    ((Slot.mk 0xD2 { hd with nx := .ret } (.x (xArgs 0xD2))).ok = true ∧ rspOf spl.mask grp.rets = 0) ∧
    ((Slot.mk 0xD2 { hd with nx := .call } (.x (xArgs 0xD2))).ok = true ∧
      (((withS [(0, 8)] grp).viewAt 0).rs hd.tgt.toNat).toNat % 32 ≠ 0) ∧
    (let g := withS [(8, 64)] (inHandler grp)
     (Slot.mk 0xDB hd (.x (xArgs 0xDB))).ok = true ∧ winIndex (g.viewAt 0) (xArgs 0xDB) < 0x100 ∧
       g.nregs ≤ winIndex (g.viewAt 0) (xArgs 0xDB)) ∧
    ((Slot.mk 0xB3 hd (.e { eArgs 0xB3 with d := 4 })).ok = true ∧ demoBlock.nacc ≤ 4) := by decide

/-- A request of a `wcnt` that waits for a count of at least `n`. -/
def waitReq (n : Dword) : Req :=
  { aReq .wcnt 0xA8 with lanes := [{ lane := 0, addr := 0x12000, x := n, reg := 0, pa := 0x12000 }] }

/-- EventsOfAGroup: a split to fetch, one whose target is no address, a sleep that is over, a deferred fault, a watchdog that has run out, a `wcnt` whose target is
met at its boundary, and one whose target is not. -/
theorem wit_EventsOfAGroup :
    (let g : Group := { grp with active := [{ spl with fetched := false }] }
     let s : State := { demoWith (fun _ => g) with mem := cellWrite [] codeAddr (leBytes 32 1) }
     (s.awaiting g)[0]? = some { spl with fetched := false } ∧ s.running g = true ∧ g.xlatWait = false ∧ spl.hi = 0 ∧
       (match s.fetch demoTask g.core g.inHandler 0x10000 with | .ok _ => true | _ => false) = true) ∧
    (let y : Split := { spl with fetched := false, hi := 1 }
     let g : Group := { grp with active := [y] }
     ((demoWith fun _ => g).awaiting g)[0]? = some y ∧ y.hi ≠ 0) ∧
    (({ grp with sleep := 5 } : Group).sleep ≠ 0 ∧ 5 ≤ ({ demo with now := 5 } : State).now) ∧
    (let f : FaultInfo := { cause := 0x15, fpc := 0, faddr := 0, flane := 0, defer := true, fetch := false, mask := 0, next := 0, req := none }
     demo.nextFault { grp with deferred := [f] } = some f) ∧
    (let c : Ctx := { part := 0, num := 0, root := 0, maps := [demoMap], watchdog := 1, clk := 24000, debug := false, saved := [] }
     let s : State := { demo with ctxs := [c] }
     s.ctx? 0 0 = some c ∧ c.watchdog ≠ 0 ∧ grp.lastCtx + 24000 * c.watchdog ≤ c.clk ∧ s.running grp = true ∧ grp.live ≠ 0) ∧
    (let g : Group := { grp with reqs := [waitReq 0] }
     let s := demoWith fun _ => g
     g.wcntReq = some (waitReq 0) ∧ g.mayPerform (waitReq 0) = true ∧ s.notLate g (waitReq 0) = true ∧
       ∃ z, (s.recheck g (waitReq 0)).toOption = some [z] ∧ s.reqReaches g demoBlock { waitReq 0 with lanes := [z] } = true ∧
         s.wcntRead demoBlock { waitReq 0 with lanes := [z] } = some 0 ∧ z.x.toNat ≤ 0) ∧
    (let g : Group := { grp with reqs := [waitReq 1] }
     let s := demoWith fun _ => g
     ∃ z, (s.recheck g (waitReq 1)).toOption = some [z] ∧ s.wcntRead demoBlock { waitReq 1 with lanes := [z] } = some 0 ∧
       0 < z.x.toNat) := by
  refine ⟨by decide, by decide, by decide, by decide, by decide, ⟨by decide, by decide, by decide, _, rfl, by decide⟩,
    _, rfl, by decide⟩

/-- A loop of one step on tile 0 with E4M3 on both sides. -/
def aLoop : MOp :=
  { uid := 9, block := 2, group := 3, tile := 0,
    kind := .loop { abase := 0, bbase := 1024, nstep := 1, ars := 32, bcs := 32, ainc := 0, binc := 0, slay := 0, sfmt := false,
                    asbase := 0, bsbase := 0, a2base := 0, b2base := 0 } (List.range 32) 2 5,
    step := 0, ready := 0, batch := 1, rows := [0, 1, 2, 3, 4, 5], wrows := [] }

/-- The machine with a matrix operation at the head of its core's queue, at cycle 1,000. -/
def demoEngine (o : MOp) : State :=
  { demoBound with now := 1000, cores := [(0, { Core.idle with mq := [o] })] }

/-- A copy of 16 bytes from the SHARED region. -/
def aCopy : COp :=
  { uid := 9, block := 2, group := 3
    desc := { dir := false, gaddr := 0x12000, saddr := 0, len := 16, nrow := 1, gstride := 0, sstride := 0 }
    hnt := 0, shared := true, row := 0, byte := 0, ready := 4, rows := [0], wrows := [0], pc := 0, mask := allLanes, paused := none }

set_option maxRecDepth 4000 in
/-- EngineEvents: a loop whose step is over, a loop at its end, `mzero`, an output, a copy whose bytes land. -/
theorem wit_EngineEvents :
    ((demoEngine aLoop).matrixTurn 0 = some (aLoop, demoBlock, 0) ∧ (demoEngine aLoop).opTime demoBlock aLoop ≤ 1000 ∧
      (demoEngine aLoop).engineFmt demoBlock 2 = some e4m3 ∧ (demoEngine aLoop).engineFmt demoBlock 5 = some e4m3 ∧
      demoBlock.stepPoison 0 [(0, 32)] = none) ∧
    ((demoEngine { aLoop with step := 1 }).core 0).stepped = some { aLoop with step := 1 } ∧
    ((demoEngine { aLoop with kind := .zero }).core 0).stepped = none ∧
    (demoEngine { aLoop with kind := .zero }).matrixTurn 0 = some ({ aLoop with kind := .zero }, demoBlock, 0) ∧
    (let o : MOp := { aLoop with kind := .out 0 32 2 0 }
     ((demoEngine o).core 0).stepped = none ∧ (demoEngine o).matrixTurn 0 = some (o, demoBlock, 0) ∧
       (demoEngine o).engineFmt demoBlock 2 = some e4m3 ∧ (demoEngine o).opTime demoBlock o ≤ 1000 ∧
       ∀ x ∈ demoBlock.tileBad, x / 1024 ≠ 0) ∧
    (let s : State := { demo with now := 1000, cores := [(0, { Core.idle with cq := [aCopy] })] }
     s.copyTurn 0 = some (aCopy, demoBlock, 4, 16) ∧
       (match (s.copyRun 17 aCopy 16).2.2 with | .done => true | _ => false) = true) := by decide

/-! ### Tasks, Sparge, contexts -/

/-- The record in the slot at the head of the queue below: it names the descriptor at 0x10080 and its code, one block. -/
def aRecord : Nat := 
  leOf (bytesOf 8 0x10080 ++ bytesOf 8 0x10000 ++ bytesOf 8 0x1000 ++ bytesOf 8 0x11000 ++ bytesOf 8 64 ++
    [1, 0, 0, 0, 1, 0, 0, 0, 1])

/-- The descriptor: version 1, entry 0x10000, 8 registers, one group. -/
def aDescriptor : Nat := 0x10000 + 2 ^ 64 * 1 + 2 ^ 80 * 8 + 2 ^ 96 * 1

/-- A queue with one slot waiting. -/
def aQueue : Queue :=
  { part := 0, ctx := 0, num := 1, ring := 0x13000, slots := 2, dev := false, prio := 0, vec := 2, head := 0, tail := 1,
    stopped := false }

/-- The machine with that record, in its ring, and its descriptor. -/
def demoQueue : State :=
  { demo with
    queues := [aQueue]
    mem := cellWrite (cellWrite [] 0x10080 (leBytes 128 aDescriptor)) 0x13000 (leBytes 256 aRecord) }

set_option maxRecDepth 10000 in
set_option exponentiation.threshold 8192 in
/-- TaskLaunchAndRetirement, `slotConsume`: the record is accepted. -/
theorem wit_slotConsume :
    demoQueue.queue? 0 0 1 = some aQueue ∧ demoQueue.canConsume aQueue = true ∧ (demoQueue.part? 0).isSome ∧
    (demoQueue.submit (demoPart State.reset) 0 (demoQueue.slotRecord aQueue)).1 = 0 := by decide

/-- The task with its running part changed. -/
def taskRun (f : TaskRun → TaskRun) : Task := { demoTask with run := f demoTask.run }

/-- The machine with that task and others behind it. -/
def demoRun (f : TaskRun → TaskRun) (others : List Task := []) : State := { demo with tasks := taskRun f :: others }

set_option maxRecDepth 4000 in
/-- TaskLaunchAndRetirement: a task that may start, one that depends on a failed one, an acknowledgement with a commit
position and with retired blocks on their way, a core that is found, a grant with no mirror and one acknowledged, a placement, and a
block that is done. -/
theorem wit_TaskLaunch :
    (let f (r : TaskRun) : TaskRun := { r with phase := .waiting }
     (demoRun f).canStart (taskRun f) = true ∧ (demoRun f).launchDies (demoPart State.reset) demoHdr = [0]) ∧
    (let f (r : TaskRun) : TaskRun := { r with phase := .waiting }
     let bad : Task := { taskRun fun r => { r with phase := .done, status := 1 } with uid := 9 }
     let t : Task := { taskRun f with seq := 1 }
     ({ demo with tasks := [bad, t] } : State).depFails t = true ∧
       ({ demo with tasks := [bad, t] } : State).task? t.uid = some t) ∧
    (let f (r : TaskRun) : TaskRun := { r with csent := some 1, mirror := some 1 }
     let w : Told := { sent := none, csent := some 1, rsent := [0], csrSent := none }
     w.csent = some 1 ∧ (f demoTask.run).csent = some 1 ∧ (f demoTask.run).mirror ≠ none ∧ (f demoTask.run).told = none ∧
       (demoRun f).inTransit (.ask demoTask.uid) = false ∧ (demoRun f).inTransit (.ack demoTask.uid) = false ∧
       (f { demoTask.run with told := some w }).told = some w ∧ demoTask.run.mirror = none ∧
       (let m : Msg := { src := 0, dst := 1, vc := 3, kind := .tell demoTask.uid }
        { demoRun f with away := [m] }.inTransit (.tell demoTask.uid) = true)) ∧
    (let t := taskRun fun r => { r with granted := 0, acked := 0, cores := [] }
     let s : State := { demo with tasks := [t], blocks := [], groups := [] }
     t.run.grant = none ∧ t.run.ask = none ∧ t.launching = true ∧ s.ctxRuns 0 0 = true ∧
       ∃ c, s.coreFor (demoPart State.reset) t = some c ∧ s.preempted (demoPart State.reset) t c = false) ∧
    (let r : TaskRun := { demoTask.run with ask := some (0, 0) }
     r.ask = some (0, 0) ∧ r.sent = none ∧ r.mirror = none ∧ r.lost = false) ∧
    (let r : TaskRun := { demoTask.run with ask := some (0, 0), mirror := some 1, acked := 2 }
     r.mirror ≠ none ∧ r.acked = r.granted + 1) ∧
    (let f (r : TaskRun) : TaskRun := { r with grant := some (0, 1) }
     (demoRun f).ctxRuns 0 0 = true ∧ (demoRun f).inTransit (.grant demoTask.uid) = false ∧ ((demoRun f).roomFor (demoPart State.reset) (taskRun f) 1).isSome) ∧
    (let s : State := { demo with groups := [{ grp with live := 0 }] }
     s.block? demoBlock.uid = some demoBlock ∧ demoBlock.task = demoTask.uid ∧ s.canRetire demoBlock = true) := by decide

/-- A cooperative task of one block that is ready, with its rectangle. -/
def coopTask (w : Nat) : Task :=
  { demoTask with
    hdr := { demoHdr with coop := true, cl := { x := 0, y := 0, w := w, h := 1 } }
    run := { TaskRun.new with phase := .ready } }

/-- The machine with that task, and no block. -/
def demoCoop (w : Nat) : State := { demo with tasks := [coopTask w], blocks := [], groups := [] }

set_option maxRecDepth 10000 in
/-- CooperativeLaunchAndHeldCores: a rectangle outside the mesh, and one on which the task fits. -/
theorem wit_CooperativeLaunch :
    (demoCoop 17).rectOk (demoPart State.reset) (coopTask 17) = false ∧ (demoCoop 17).ctxRuns 0 0 = true ∧
    (demoCoop 1).rectOk (demoPart State.reset) (coopTask 1) = true ∧
    ((coopTask 1).coopFit demoQuota fun _ => { slots := [], runs := [], accs := [] }) ≠ none ∧
    (∀ c ∈ (coopTask 1).coopCores, (demoCoop 1).preempted (demoPart State.reset) (coopTask 1) c = false) ∧
    ((demoCoop 1).coopNow (demoPart State.reset) (coopTask 1)).isSome := by decide

/-- CooperativeLaunchAndHeldCores: a task that has waited 64 µs, cooperative or not. -/
theorem wit_HeldCores :
    ({ demoCoop 1 with now := 10000000 } : State).waitedLong (coopTask 1) = true ∧
    (let t : Task := { taskRun fun r => { r with phase := .ready, granted := 0 } with hdr := demoHdr }
     ({ demo with tasks := [t], now := 10000000 } : State).waitedLong t = true) := by decide

/-- The task at an action of Sparge's. -/
def spargeTask (phase : Phase) (record action unit : Nat) : Task :=
  { demoTask with
    hdr := { demoHdr with slotimg := List.replicate 8 0x211, nx := 2 }
    regions := { base := 0x12000, ext := 0x1000, mode := 3, op := 0, ety := 0, init := 0, pbase := 0 } ::
      { base := 0x13000, ext := 0x100, mode := 5, op := 0, ety := 0, init := 0, pbase := 0x14000 } ::
      List.replicate 14 { base := 0, ext := 0, mode := 0, op := 0, ety := 0, init := 0, pbase := 0 }
    run := { demoTask.run with phase := phase, cursor := { record := record, action := action, unit := unit } } }

/-- The machine with that task. -/
def demoSparge (t : Task) : State := { demo with tasks := [t] }

/-- SpargeActions: each action in its turn, with more to do; a slot that a core is without, and a slot that the task leaves empty. -/
theorem wit_SpargeActions :
    (let t := spargeTask .starting 7 0 0
     (demoSparge t).spargeOn t 0 = true ∧ t.hdr.slotimg.getD 7 0 ≠ 0 ∧ t.run.kiln = none ∧ (demoSparge t).bindWaits t 7 = false ∧
       7 ∉ (demoPart State.reset).config ∧ (demoPart State.reset).slotImg.getD 7 0 ≠ t.hdr.slotimg.getD 7 0 ∧
       (List.replicate 8 0x211).getD 7 0 = t.hdr.slotimg.getD 7 0 ∧ (∀ x ∈ (demoPart State.reset).bare, x.2 ≠ 7) ∧
       ∃ x ∈ ({ demoPart State.reset with bare := [(47, 7)] } : Part).bare, x.2 = 7) ∧
    (let t : Task := { spargeTask .starting 7 0 0 with hdr := demoHdr }
     (demoSparge t).spargeOn t 0 = true ∧ t.hdr.slotimg.getD 7 0 = 0) ∧
    (let t := spargeTask .starting 1 1 0
     (demoSparge t).spargeOn t 1 = true ∧ ((demoSparge t).translate 0 0 0x14000).isSome ∧
       ∃ r, t.regions[1]? = some r ∧ 128 < t.hdr.nblk * r.rowStride) ∧
    (let t := spargeTask .starting 16 2 0
     (demoSparge t).spargeOn t 2 = true ∧ 1 < lineCount (t.range 16).1 (t.range 16).2) ∧
    (let t := spargeTask .ending 0 3 0
     (demoSparge t).spargeOn t 3 = true ∧ ((demoSparge t).translate 0 0 (t.range 0).1).isSome ∧ 128 < (t.range 0).2) ∧
    (let t := spargeTask .ending 0 4 0
     (demoSparge t).spargeOn t 4 = true ∧ 1 < lineCount (t.range 0).1 (t.range 0).2) ∧
    (let t := spargeTask .ending 1 5 0
     (demoSparge t).spargeOn t 5 = true ∧ (demoSparge t).finalTurn t = true ∧
       ∃ r, t.regions[1]? = some r ∧ (r.base / 128 + 0 + 1) * 128 < r.base + r.ext) ∧
    (let t := spargeTask .ending 0 6 0
     (demoSparge t).spargeOn t 6 = true ∧ t.run.kiln = none ∧ (t.hdr.coop && t.kd.fused) = false) := by
  refine ⟨by decide, by decide, ⟨by decide, by decide, _, rfl, by decide⟩, by decide, by decide, by decide,
    ⟨by decide, by decide, _, rfl, by decide⟩, by decide⟩

/-- SlotConfiguration: a reconfiguration that runs, a slot that a core holds, clean, CORRUPT, and CORRUPT after one reload. -/
theorem wit_SlotConfiguration :
    (taskRun fun r => { r with kiln := some (0, 5) }).run.kiln = some (0, 5) ∧
    (demoBound.slotOwner 47 7).isSome ∧ 7 ∉ (demoPart State.reset).config ∧ (demoPart State.reset).corrupt = [] ∧
    (∀ n ∈ [0, 1], let s := demoP fun p => { p with slotImg := List.replicate 8 0x211, corrupt := [(47, 7, n)] }
      (s.slotOwner 47 7).isSome ∧ ∃ p, s.slotOwner 47 7 = some p ∧
        p.corrupt.find? (fun u => u.1 == 47 && u.2.1 == 7) = some (47, 7, n)) := by
  refine ⟨rfl, by decide, by decide, rfl, ?_⟩
  intro n h
  simp only [List.mem_cons, List.not_mem_nil, or_false] at h
  rcases h with rfl | rfl <;> exact ⟨by decide, _, rfl, by decide⟩

/-- A switch of the partition to context 1, at cycle 0. -/
def aSwitch (saved : List Nat) : Switch := { to_ := some 1, tick := 0, saved := saved, late := [] }

/-- The machine at a cycle, with contexts 0 and 1, a waiting queue of context 1, and a switch. -/
def demoSwitch (now : Nat) (w : Option Switch) : State :=
  { demoP fun p => { p with switch := w } with
    now := now
    ctxs := demo.ctxs ++ [{ part := 0, num := 1, root := 0, maps := [], watchdog := 0, clk := 0, debug := false, saved := [] }]
    queues := [{ aQueue with ctx := 1 }] }

/-- ContextSwitching: a tick that is due with another candidate, a group that can halt, a die that can save, a switch that every
die has saved, with a resize that waits for it and one that does not, a die that is late by each limit, a die's stale line. -/
theorem wit_ContextSwitching :
    (let s := demoSwitch 10000000 none
     ∃ p, s.part? 0 = some p ∧ s.tickDue p = true ∧ p.nextTick ≤ s.now ∧ p.switch = none ∧ p.resident = some 0 ∧
       s.chooseCtx 0 0 = some 1) ∧
    ((demoSwitch 0 (some (aSwitch []))).canHalt grp = true ∧ grp.reqs = [] ∧
      (let g : Group := { grp with reqs := [aReq .ld 0x98] }
       ({ demoSwitch 0 (some (aSwitch [])) with groups := [g] } : State).canHalt g = true)) ∧
    (let s : State := { demoSwitch 0 (some (aSwitch [])) with groups := [{ grp with halted := true }] }
     ∃ p, s.part? 0 = some p ∧ s.canSave p (aSwitch []) 0 = true ∧ (∀ d ∈ s.partDies p, d ∈ (aSwitch [0]).saved) ∧ p.resize = none ∧
       s.bumpWaits p = false ∧ s.partDies p = [0] ∧ (s.ctx? 0 0).isSome ∧
       ({ s with cores := [(0, { Core.idle with left := [(0, (p.genG + 1) % 32)] })] } : State).bumpWaits p = true ∧
       p.resident ≠ (aSwitch [0]).to_ ∧
       ({ p with resize := some (1, demoQuota, false), resident := some 1 } : Part).resident = (aSwitch [0]).to_) ∧
    (let s := demoSwitch 10000000 (some (aSwitch []))
     ∃ p, s.part? 0 = some p ∧ s.lateBy p (aSwitch []) 0 200 = true ∧ s.lateBy p (aSwitch []) 0 1000 = true) ∧
    (let l : LlcLine := { line := 0, die := 0, part := 0, epoch := 1, way := 0, secs := 1, data := [] }
     let s : State := { demo with llc := [l] }
     l ∈ s.llc ∧ l.die = 0 ∧ s.llcStale l = true ∧ ({ demo with llc := [{ l with epoch := 0 }] } : State).llcStale { l with epoch := 0 } = false) := by
  refine ⟨⟨_, rfl, by decide⟩, by decide, ⟨_, rfl, by decide⟩, ⟨_, rfl, by decide⟩, by decide⟩

/-! ### Links, host, commands -/

/-- A message from die 0 to die 1 on CTL. -/
def aMsg : Msg := { src := 0, dst := 1, vc := 3, kind := .data }

/-- A flit with a SEQ and a payload. -/
def aFlit (n : BitVec 12) (b : Body) : Flit := { seq := n, ack := 0xFFF, nak := false, vc := 3, rvc := 0, rcnt := 0, body := b }

/-- The machine with direction 0 of link 0 as given. -/
def demoLink (l : Link) : State := demo.putLink 0 l

/-- FlitsAreSent: a channel with slots; one without, a full replay buffer, an open audit; a replay that is due. -/
theorem wit_FlitsAreSent :
    ((demo.link 0).open_ = true ∧ (demo.link 0).replay.length < 1024 ∧ (demo.link 0).audit = none ∧ 0 < (demo.link 0).avail.getD 3 0) ∧
    ({ Link.idle with avail := [96, 192, 96, 0] } : Link).avail.getD 3 0 = 0 ∧ ({ Link.idle with audit := some 0 } : Link).audit ≠ none ∧
    1024 ≤ ({ Link.idle with replay := List.replicate 1024 (aFlit 0 .none, 0) } : Link).replay.length ∧
    ({ demo with now := 10000 } : State).replayDue { Link.idle with replay := [(aFlit 0 (.msg aMsg), 0)] } = true := by decide +kernel

/-- FlitsAreReceived: the next flit, an audit and the reply of an audit that runs and of one given up; one out of order. -/
theorem wit_FlitsAreReceived :
    (∀ f ∈ [aFlit 0 (.msg aMsg), aFlit 0 (.audit vcSlots), aFlit 0 (.reply vcSlots [0, 0, 0, 0])],
      let l : Link := { Link.idle with wire := [(f, f.crc)] }
      (demoLink l).link 0 = l ∧ l.open_ = true ∧ ((demoLink l).link (otherDir 0)).reply = none ∧ f.seq = l.rxSeq + 1 ∧ f.nak = false) ∧
    (aFlit 1 (.msg aMsg)).seq ≠ Link.idle.rxSeq + 1 ∧ 0 < ({ Link.idle with missed := 1 } : Link).missed ∧ Link.idle.missed = 0 ∧
    ({ Link.idle with audit := some 0 } : Link).audit ≠ none := by
  refine ⟨fun f hf => ?_, by decide⟩
  simp only [List.mem_cons, List.not_mem_nil, or_false] at hf
  rcases hf with rfl | rfl | rfl <;> exact ⟨rfl, rfl, rfl, rfl, rfl⟩

/-- AuditsCount: an audit that is due by its flits and by a retrain, a clean reply, one that says too much, a late one. -/
theorem wit_AuditsCount :
    ({ Link.idle with since := 65536 } : Link).auditDue = true ∧ ({ Link.idle with resend := true } : Link).auditDue = true ∧
    (let l : Link := { Link.idle with audit := some 0, reply := some (vcSlots, [0, 0, 0, 0]) }
     l.open_ = true ∧ (∀ v < 4, vcSlots.getD v 0 ≤ vcSlots.getD v 0) ∧
       (∀ v < 4, l.avail.getD v 0 + [0, 0, 0, 0].getD v 0 = vcSlots.getD v 0) ∧ l.resend = false) ∧
    (∃ v < 4, vcSlots.getD v 0 < [97, 192, 96, 32].getD v 0) ∧
    ({ demo with now := 100000 } : State).auditLate { Link.idle with audit := some 0 } = true := by decide

/-- The machine with a message at a die it cannot leave: the links 0 and 28 of die 0 are down. -/
def demoCut (since : Option Nat) (now : Nat) : State :=
  { demo with links := [(0, { Link.idle with down := true }), (56, { Link.idle with down := true })],
              msgs := [(0, since, aMsg)], away := [aMsg], now := now }

theorem demoCut_cut : (demoCut none 0).cut (0, none, aMsg) = true := by
  have h : (demoCut none 0).distance 0 1 = none := State.distance_of_spread (by decide +kernel) (by decide)
  have hd : (demoCut none 0).deadDies = [] := rfl
  simp [State.cut, State.route, aMsg, h, hd]

/-- LinkTrainingRoutesAndFences: a route of one hop and of two; a link that is up, one that trains, one that must go down by each
limit, a die that serves; a message with no path, seen first, and after 1 ms. -/
theorem wit_LinkTraining :
    (demo.route 0 1).isSome = true ∧ demo.distance 0 1 = some (0 + 1) ∧ demo.distance 0 2 = some (1 + 1) ∧
    (demo.link 103).open_ = true ∧ ((demoLink { Link.idle with training := true }).link 0).training = true ∧
    (demoLink { Link.idle with badAudit := 3 }).downDue 0 = true ∧ (demoLink { Link.idle with fails := [0, 0, 0] }).downDue 0 = true ∧
    31 < 32 ∧ 31 ∉ demo.deadDies ∧ demo.cut (0, none, aMsg) = false ∧
    0 + (demoCut (some 0) 10000000).cyclesOfUs 1000 ≤ (demoCut (some 0) 10000000).now := by
  decide +kernel

/-- The machine with function 1 as given. -/
def demoFn (f : Fn) : State := demo.putFn 1 f

/-- HostRegistersRingsAndAperture: rings that are empty and not, values at the ends of their ranges, counts in range and out of it,
a command that is executed, a queue with room, an aperture into a mapped page, an operating point that has none, a stored record with room for it. -/
theorem wit_HostRegisters :
    demo.fnExists 1 = true ∧ Fn.idle.cmdTail = Fn.idle.cmdHead ∧ ({ Fn.idle with cmdTail := 1 } : Fn).cmdTail ≠ Fn.idle.cmdHead ∧
    (0x1000 : Dword).toNat % 4096 = 0 ∧
    (let f : Fn := { Fn.idle with cmdSize := 4 }
     f.cmdErr = false ∧ f.cmdSize ≠ 0 ∧ (demoFn f).cmdq = [] ∧ ((16 : Dword) - f.cmdTail).toNat ≤ 2 ^ f.cmdSize.toNat ∧
       2 ^ f.cmdSize.toNat < ((17 : Dword) - f.cmdHead).toNat) ∧
    (let s : State := { demo with cmdq := [(1, 0)], fleet := { demo.fleet with busy := true } }
     s.fleet.busy = true ∧ s.cmdq ≠ []) ∧ 4 ≤ State.reset.fleet.op ∧
    (let s : State := { demo with queues := [aQueue] }
     s.queue? (1 - 1) 0 1 = some aQueue ∧ aQueue.dev = false ∧ aQueue.stopped = false ∧
       (dw 2 - dw aQueue.head).toNat ≤ aQueue.slots ∧ aQueue.tail - aQueue.head ≤ (dw 2 - dw aQueue.head).toNat) ∧
    (let s := demoFn { Fn.idle with apert := some (0, 0, 0) }
     s.fleet.op < 4 ∧ (s.fn 1).apert = some (0, 0, 0) ∧
       ∃ p q, s.translate 0 0 0x12000 = some p ∧ s.translate 0 0 0x120FF = some q ∧ q.pa = p.pa + 256 - 1 ∧
         homeDie p.home p.pa ∉ s.deadDies ∧ p.read = true ∧ q.read = true ∧ p.write = true ∧ q.write = true) ∧
    ({ Fn.idle with evtSize := 6, store := [0] } : Fn).evtRoom = true := by
  refine ⟨by decide, by decide, by decide, by decide, by decide, by decide, by decide, by decide,
    ⟨by decide, by decide, _, _, rfl, rfl, by decide⟩, by decide⟩

/-- Resets: a VF that exists. -/
theorem wit_Resets : (1 : Nat) ≠ 0 ∧ demo.fnExists 1 = true := by decide

/-- SideBandAndAttestation: a transition within the clocked points, out of them and into them, a reading at its limit, each message, a log with a record, an index of either kind. -/
theorem wit_SideBand :
    (let s : State := { demo with fleet := { demo.fleet with opTarget := some 3 } }
     s.fleet.opTarget = some 3 ∧ 3 ≠ 5 ∧ s.fleet.op ≤ 2 ∧ (s.fleet.op ≤ 2 ↔ 2 ≤ 2) ∧ 3 ≤ State.reset.fleet.op) ∧
    (let s : State := { demo with fleet := { demo.fleet with sensors := [(0x100, 110)] } }
     110 ≤ s.fleet.sensor 0x100 ∧ s.fleet.thermhalt = false ∧ s.fleet.op ≠ 5) ∧
    (∀ m : SideMsg, ({ demo with side := m } : State).side = m) ∧
    (∃ r t, ({ demo with fleet := { demo.fleet with errlog := [0] } } : State).fleet.errlog = r :: t) ∧
    (demo.measurement .mctp 3).isSome ∧ demo.measurement (.doe 1) 3 = none ∧ (demo.measurement (.doe 1) 0x10).isSome := by
  refine ⟨by decide, by decide, fun _ => rfl, ⟨_, _, rfl⟩, by decide, by decide, by decide⟩

/-- A command of function `f`. -/
def aCmd (f : Nat) (a0 a1 a2 a3 a4 : Dword) : Cmd :=
  { fn := f, rsvd := false, pv := false, part := 0, tag := 0, opc := 0, a0 := a0, a1 := a1, a2 := a2, a3 := a3, a4 := a4 }

/-- The machine with a command at the head of function 0's ring. -/
def demoCmd (c : Cmd) : State := { demo with cmdq := [(c.fn, 0)], cmd := c }

/-- CommandCompletion, CommandRefusals: a command at the head; a reserved bit; THERMHALT; a VF. -/
theorem wit_Commands :
    (demoCmd (aCmd 0 0 0 0 0 0)).cmdq = [(0, 0)] ∧ (demoCmd { aCmd 0 0 0 0 0 0 with rsvd := true }).cmd.rsvd = true ∧
    (let s : State := { demoCmd (aCmd 0 0 0 0 0 0) with fleet := { demo.fleet with thermhalt := true } }
     s.fleet.thermhalt = true ∧ s.fleet.busy = false) ∧
    (let s := demoCmd (aCmd 1 0 0 0 0 0)
     s.fleet.thermhalt = false ∧ s.cmd.rsvd = false ∧ s.cmd.fn ≠ 0 ∧ s.cmd.a1 = 0 ∧ s.cmd.a2 = 0 ∧ s.cmd.a3 = 0 ∧ s.cmd.a4 = 0) := by
  decide

theorem fromPf0 (a0 a1 a2 a3 a4 : Dword) : Claims.FromPf0 (demoCmd (aCmd 0 a0 a1 a2 a3 a4)) := ⟨rfl, rfl, rfl, rfl, rfl⟩
theorem issued (a0 a1 a2 a3 a4 : Dword) : Claims.Issued (demoCmd (aCmd 1 a0 a1 a2 a3 a4)) 0 :=
  ⟨rfl, rfl, .inl ⟨rfl, rfl, rfl⟩⟩

/-- CommandsOfTheModule: PORT_CONFIG before any partition, PART_CREATE beside one, PART_DESTROY and PART_RESIZE of one without a
context or block, MAP2 of a free range and of a range in the second tier, KEY_ENROLL's limits, SET_OP, MEASURE_LOG. -/
theorem wit_CommandsOfTheModule :
    (31 < 32 ∧ (State.reset.ports.getD 31 .idle) ≠ .host ∧ State.reset.fleet.parted = false) ∧
    (let c := aCmd 0 7 0xFFFFFFFE 0x2000000800 0xFFFEFF 0
     ∃ q, Quota.of c.a2.toNat = some q ∧ (demoCmd c).part? 7 = none ∧ 256 ≤ c.a3.toNat ∧ c.a3.toNat < 2 ^ 24 ∧
       ∀ y ∈ (demoCmd c).parts, y.collides (c.a1.setWidth 32) q (c.a3.setWidth 8) (c.a3.extractLsb' 8 16) = false) ∧
    (let s : State := { demoCmd (aCmd 0 0 0 0 0 0) with ctxs := [] }
     (s.part? s.cmd.a0.toNat).isSome ∧ (∀ x ∈ s.ctxs, x.part ≠ 0) ∧
       ∀ l ∈ s.llc, l.part = 0 → l.epoch ≠ ((demoPart State.reset).genE + 1) % 32) ∧
    (let s : State := { demoP fun p => { p with resident := none } with cmd := aCmd 0 0 3 0x2000000800 0 0, blocks := [] }
     ∃ p q, s.part? 0 = some p ∧ p.switch = none ∧ p.resize = none ∧ p.resident = none ∧ Quota.of s.cmd.a2.toNat = some q ∧
       (∀ y ∈ s.parts, y.num ≠ p.num → y.collides (s.cmd.a1.setWidth 32) q p.slotMask 0 = false) ∧
       s.saveRoom p.num (s.cmd.a1.setWidth 32) q ((s.ctxs.filter fun y => y.part == p.num).length) = true) ∧
    (∃ p, (demoP fun p => { p with resize := some (1, demoQuota, true) }).part? 0 = some p ∧ p.resize = some (1, demoQuota, true)) ∧
    (0x7E : Dword) &&& ~~~0x7E = 0 ∧
    (∃ m, Mapping.of (aCmd 0 0 0x40000000 0x40000000 0x807 0) = some m ∧
      (isTier m.to_ m.len = true → m.home ≠ 63) ∧ m.to_ + m.len ≤ demo.memEnd ∧
      ∀ y ∈ (demoPart State.reset).maps, meet m.from_ m.len y.from_ y.len = false) ∧
    (∃ m, Mapping.of (aCmd 0 0 0x40000000 0x40000000 0xBF7 0x40000000000) = some m ∧ isTier m.to_ m.len = true ∧ m.home = 63) ∧
    keyBad (bytesOf 4 0x4B594649 ++ [3, 0, 0, 0, 128] ++ List.replicate 439 0) = false ∧
    (demo.fleet.opTarget = none ∧ (5 : Dword).toNat ≠ demo.fleet.op) ∧
    ∃ n, demo.fleet.modlog.buffer.length ≤ n := by
  refine ⟨by decide, ⟨_, rfl, by decide⟩, by decide, ⟨_, _, rfl, rfl, rfl, rfl, rfl, by decide⟩, ⟨_, rfl, rfl⟩, by decide,
    ⟨_, rfl, by decide⟩, ⟨_, rfl, by decide⟩, by decide, by decide, ⟨_, Nat.le_refl _⟩⟩

/-- HostRegistersRingsAndAperture: the entries that a ring has handed over and the count that moves back, a doorbell out of range, a
vector that is due. -/
theorem wit_Rings :
    (let f : Fn := { Fn.idle with cmdSize := 4, cmdTail := 2 }
     let s : State := { demoFn f with cmdq := [(1, 0), (1, 1)] }
     f.cmdErr = false ∧ s.fleet.busy = false ∧
       s.cmdq.filter (fun c => c.1 == 1) =
         ((List.range (f.cmdTail - f.cmdHead).toNat).map fun i => (1, f.cmdHead + BitVec.ofNat 64 i)) ∧
       ((1 : Dword) - f.cmdHead).toNat ≤ (f.cmdTail - f.cmdHead).toNat) ∧
    (aQueue.slots < (dw 3 - dw aQueue.head).toNat ∧ (dw 0 - dw aQueue.head).toNat < aQueue.tail - aQueue.head) ∧
    ({ Fn.idle with due := [(2, 0)] } : Fn).due.filter (fun d => decide (demo.now < d.2)) = [] := by decide

/-- SideBandAndAttestation: transitions into OFF, out of it and through OP3; certificate slots; indices that are in no list. -/
theorem wit_TransitionsAndSlots :
    (let s : State := { demo with fleet := { demo.fleet with opTarget := some 5 } }
     s.fleet.opTarget = some 5 ∧ s.fleet.op ≠ 5) ∧
    (let s : State := { demo with fleet := { demo.fleet with op := 5, opTarget := some 4 } }
     s.fleet.op = 5 ∧ s.fleet.opTarget = some 4) ∧
    (let s : State := { demo with fleet := { demo.fleet with opTarget := some 4 } }
     s.fleet.op ≤ 2 ∧ 3 < 4 ∧ s.fleet.opTarget = some 4) ∧
    (0 : BitVec 8).toNat % 16 = 0 ∧ (0x81 : BitVec 8).toNat % 16 ≠ 0 ∧ (1 : BitVec 8) ≠ 0 ∧ (1 : BitVec 8) ≠ 0xFF ∧
    (demo.measurement .mctp 1).isSome ∧ demo.measurement .mctp 4 = none := by decide

/-- The machine with a command of VF 0's function at the head of its ring. -/
def demoVf (a0 a1 a2 a3 a4 : Dword) : State := demoCmd (aCmd 1 a0 a1 a2 a3 a4)

/-- A frozen group. -/
def frozenGrp : Group := { grp with wait := .debug allLanes 0x10001 }

/-- CommandsOfAPartition: a context's number that is free, with room (a partition without dies asks for none), one whose tasks are
done, a queue's arguments at both ends, a queue that is empty, a free range, a mapped one that no access uses, a packet that
waits, another partition's, a frozen group, its rows. -/
theorem wit_CommandsOfAPartition :
    ((demoVf 0 0 0 0 0).ctx? 0 0).isSome ∧
    (2 ^ 57 - 1 < (2 : Nat) ^ 57 ∧ (0x10000 : Dword).toNat + (0x1000 : Dword).toNat ≤ 2 ^ 57) ∧
    (let s : State := { demoVf 63 0 0 0 0 with parts := [{ demoPart State.reset with dies := 0 }] }
     ∃ p, s.part? 0 = some p ∧ s.ctx? 0 63 = none ∧
       s.saveRoom 0 p.dies p.quota ((s.ctxs.filter fun y => y.part == 0).length + 1) = true) ∧
    (∀ t ∈ ({ demoVf 0 0 0 0 0 with tasks := [] } : State).tasks, t.part = 0 → t.ctx = 0 → t.run.phase = .done) ∧
    (∃ t ∈ (demoVf 0 0 0 0 0).tasks, t.part = 0 ∧ t.ctx = 0 ∧ t.queue = 0 ∧ t.run.phase ≠ .done) ∧
    ((∃ i < 16, (2 : Dword).toNat = 2 ^ (i + 1)) ∧ (∃ i < 16, (65536 : Dword).toNat = 2 ^ (i + 1)) ∧
      2 ≤ fld (0x20001 : Dword).toNat 16 8 ∧ fld (0x41FF01 : Dword).toNat 16 8 ≤ 65 ∧ fld (0x41FF01 : Dword).toNat 1 7 = 0) ∧
    (let s : State := { demoVf 0 1 0 0 0 with queues := [{ aQueue with tail := 0 }], tasks := [] }
     s.queue? 0 0 1 = some { aQueue with tail := 0 }) ∧ aQueue.stopped = false ∧ aQueue.head < aQueue.tail ∧
      ({ aQueue with stopped := true } : Queue).stopped = true ∧
    (∃ m, Mapping.of (aCmd 1 0 0x20000 0x10000 0x3F7 0x10000) = some m ∧ m.home = 63 ∧
      (demoPart State.reset).tierAt m.to_ m.len = false ∧
      ({ demoPart State.reset with maps := [{ demoMap with to_ := Config.hbmBytes }] } : Part).tierAt m.to_ m.len = true ∧ meet m.from_ m.len 0x10000 0x10000 = false) ∧
    (let s := demoVf 0 0x10000 0x10000 0 0
     ∃ x, s.ctx? 0 0 = some x ∧ (∀ m ∈ x.maps, 0x10000 % m.size = 0) ∧
       s.inUse 0 (fun k va => k == 0 && 0x10000 ≤ va && va < 0x20000) = false ∧
       (s.putCtx { x with maps := x.maps.flatMap fun m => m.cut 0x10000 0x10000 }).inUse 0
         (fun k va => k == 0 && 0x10000 ≤ va && va < 0x20000) = false) ∧
    (let q : Req := { aReq .ld 0x98 with st := .xlat 5 0x12000 1 }
     let s : State := { demoVf 5 0 0 0 0 with groups := [{ grp with reqs := [q] }] }
     (s.answer 0 5 true).isSome ∧ (s.answer 0 5 false).isSome ∧
       (let s : State := { s with parts := s.parts ++ [{ demoPart State.reset with num := 1 }] }
        s.packetOf 1 5 = none ∧ s.pausedOf 1 5 = none ∧ ∃ y ∈ s.parts, (s.packetOf y.num 5).isSome = true)) ∧
    (let s : State := { demoVf 0 0 0 1 0 with groups := [frozenGrp] }
     frozenGrp.frozen = true ∧ grp.frozen = false ∧ s.block? frozenGrp.block = some demoBlock ∧ demoBlock.part = 0 ∧ demoBlock.ctx = 0 ∧
       (s.frozenAt 0 0).toOption = some frozenGrp ∧ 0 < frozenGrp.nregs ∧ ((frozenGrp.viewAt 0).window 0).isSome ∧
       (windowWrite 0 (rowOf 0)).isSome) ∧
    (0x300000000 : Dword).toNat % 2 ^ 32 = 0 := by
  refine ⟨by decide, by decide, ⟨_, rfl, by decide⟩, by decide, ⟨_, .head _, by decide⟩, ⟨⟨0, by decide⟩, ⟨15, by decide⟩, by decide⟩,
    by decide, by decide, by decide, by decide, ⟨_, rfl, by decide⟩, ⟨_, rfl, by decide⟩,
    ⟨by decide, by decide, by decide, by decide, _, .head _, by decide⟩, by decide,
    by decide⟩

/-- CommandsOfTheModule, CommandsOfAPartition: no line for the scrubber; a MAP2 beside the save areas, and one of a whole stack
pair of a die that has a save area. -/
theorem wit_ScrubberAndSaveAreas :
    demo.bumpWaits (demoPart State.reset) = false ∧
    (∃ m, Mapping.of (aCmd 0 0 0x100000 0x100000 0x3F7 0x10000) = some m ∧ demo.sparesAreas (demoPart State.reset) m = true) ∧
    (demo.sparesAreas (demoPart State.reset)
      { demoMap with from_ := 2 ^ 40, to_ := 0, len := 2 * Config.stackBytes, home := 0 } = false) := by
  refine ⟨by decide, ⟨_, rfl, by decide⟩, by decide⟩

/-- The cells of an image of INT8 at IOVA 0x1000 of function 1, of the tenant whose key has id 0: magic, version, SIGNER, PAYLEN, the
CRC of 16 zero bytes, TOTLEN and the descriptor; its signatures are zero bytes. -/
def imageCells : List Host.Cell :=
  [(0x10000000000001000, 0x49), (0x10000000000001001, 0x46), (0x10000000000001002, 0x4D), (0x10000000000001003,
   0x54), (0x10000000000001004, 0x01), (0x10000000000001006, 0x01), (0x10000000000001024, 0x10),
   (0x10000000000001028, 0xEA), (0x10000000000001029, 0x9A), (0x1000000000000102A, 0x70), (0x1000000000000102B,
   0x42), (0x1000000000000102C, 0x70), (0x1000000000000102D, 0x41), (0x10000000000001040, 0x11),
   (0x10000000000001041, 0x08), (0x10000000000001047, 0x01), (0x10000000000001048, 0x01)]

/-- The host's memory with that image, and the partition with the key. -/
def demoImage : State :=
  { demoP fun p => { p with keys := [{ id := 0, bytes := [] }] } with
    cmdq := [(1, 0)], cmd := aCmd 1 0x1000 16752 0 0 0, hmem := imageCells }

/-- Its container. -/
def aContainer : Container := containerOf (demoImage.hostRead 1 0x1000 16752)

set_option maxRecDepth 20000 in
set_option exponentiation.threshold 512 in
/-- ImageLoading: the container, the key, the descriptor, the CRC and the room pass, and a length that does not; whether the
signatures pass is the free functions' (log 10). -/
theorem wit_ImageLoading :
    Claims.Issued demoImage 0 ∧ (demoImage.cmd.a0.toNat % 16 = 0 ∧ demoImage.cmd.a1.toNat ≤ 16736 + 4 * 2 ^ 16 + 4194304) ∧
    aContainer.bad 16752 = false ∧ aContainer.bad 0 = true ∧
    aContainer.key { demoPart State.reset with keys := [{ id := 0, bytes := [] }] } = some (keyBody []) ∧
    aContainer.key (demoPart State.reset) = none ∧ aContainer.descBad = false ∧
    (crc32c aContainer.payload).toNat = fld aContainer.hdr 320 32 := by
  refine ⟨⟨rfl, rfl, .inl ⟨rfl, rfl, rfl⟩⟩, by decide, ?_, ?_, ?_, ?_, ?_, ?_⟩ <;> decide

/-- ImageLoading: bytes that are loaded already. -/
theorem wit_ImageLoading_known (x : Container) (i : Image) :
    ([{ i with digest := sha384 x.bytes }].find? fun y => y.digest == sha384 x.bytes) = some { i with digest := sha384 x.bytes } := by
  simp only [List.find?_cons, beq_self_eq_true]

/-! ### Witnesses for what the statements say of results and of requests performed -/

/-- FunctionExactness, IntegralExactness, ScaledExactness: a positive finite source in both formats, a power of two and an integer,
one whose magnitude is an integer's at least, a NaN, an infinity. -/
theorem wit_FunctionExactness :
    (∀ F ∈ [f32, f64], (fv F 0x3F800000).isFin = true ∧ (fv F 0x3F800000).isZero = false ∧ (fv F 0x3F800000).sign = false) ∧
    (fv f32 0x3F800000).isFin = true ∧ Claims.ratOf (fv f32 0x3F800000) = Claims.pow2 0 ∧
    Claims.ratOf (fv f32 0x3F800000) = ((1 : Int) : Rat) ∧ (1 : Int).natAbs < 512 ∧
    (fv f64 0x7FF8000000000000).isNan = true ∧ fv f64 0xFFF0000000000000 = .inf true := by
  refine ⟨by decide, by decide, by decide +kernel, by decide +kernel, by decide, by decide, by decide⟩

/-- ConversionExactness: every source type has finite codes; those with NaNs and infinities, one of each. -/
theorem wit_ConversionExactness :
    (∀ u ∈ [2, 3, 6, 7, 10, 11, 12, 13], ((cvtFmt u).decode 1).isFin = true) ∧
    ((cvtFmt 12).decode 0x7FC00000).isNan = true ∧ (cvtFmt 12).decode 0xFF800000 = .inf true := by decide

/-- `Held` as a test. -/
def heldB (s : State) (g : Group) (b : Block) (t : Task) (q : Req) : Bool :=
  decide (s.group? g.uid = some g) && decide (s.block? g.block = some b) && decide (s.taskOf g = some t) &&
    decide (g.reqs.find? (·.seq == q.seq) = some q) && cellsWf s.mem && cellsWf s.peer && cellsWf s.hmem

theorem held_of_test {s : State} {g : Group} {b : Block} {t : Task} {q : Req} (h : heldB s g b t q = true) : Claims.Held s g b t q := by
  simp only [heldB, Bool.and_eq_true, decide_eq_true_eq] at h
  obtain ⟨⟨⟨⟨⟨⟨h1, h2⟩, h3⟩, h4⟩, h5⟩, h6⟩, h7⟩ := h
  exact ⟨h1, h2, h3, h4, h5, h6, h7⟩

/-- The group with a request. -/
def reqGrp (q : Req) : Group := { grp with reqs := [q] }

/-- Two lanes of a request: lane 0 and lane 95, at one address. -/
def twoLanes (q : Req) : Req :=
  { q with mask := 1 + 2 ^ 95, lanes := [{ lane := 0, addr := 0x12000, x := 7, reg := 0, pa := 0x12000 },
      { lane := 95, addr := 0x12000, x := 8, reg := 0, pa := 0x12000 }] }

set_option maxRecDepth 10000 in
/-- LoadsReturn, StoresAndAtomicsPerformed: a load, an element load, atomics, a store and an element store of two lanes to SHARED, a
reduction; none meets poison; each can be performed and passes its checks. -/
theorem wit_SharedRequests :
    (∀ k ∈ [(ReqKind.ld, 0x98), (.ldw, 0x9E), (.atom, 0xA0)],
      let q := twoLanes (aReq k.1 k.2)
      heldB (demoWith fun _ => reqGrp q) (reqGrp q) demoBlock demoTask q = true ∧
        (demoWith fun _ => reqGrp q).canLoad (reqGrp q) demoBlock q = true) ∧
    (∀ k ∈ [(ReqKind.st, 0x9A), (.stw, 0x9F), (.red, 0xA2)],
      let q := twoLanes (aReq k.1 k.2)
      heldB (demoWith fun _ => reqGrp q) (reqGrp q) demoBlock demoTask q = true ∧
        (demoWith fun _ => reqGrp q).canStore (reqGrp q) demoBlock demoTask q = true) ∧
    demoTask.modeOf 0 = some .shared ∧ mTy (mArgs 0xA0).b ∈ [2, 3, 6, 7, 8, 9, 12, 13] ∧ (mArgs 0xA0).b.toNat / 16 ≤ 7 ∧
    (((twoLanes (aReq .ld 0x98)).lanes.map (·.lane)).Nodup) ∧ demo.homeBad 0x12000 4 = false ∧
    (let s : State := { demo with bad := [0x12000] }
     s.homeBad 0x12000 4 = true) ∧
    isPeer 0x12000 = false ∧ 0x12000 % 128 = 0 ∧ (mArgs 0x9E).b.toNat % 64 = 4 ∧
    (let q := twoLanes (aReq .redo 0xA3)
     let s : State := { demoWith fun _ => reqGrp q with tasks := [reduceTask] }
     heldB s (reqGrp q) demoBlock reduceTask q = true ∧ s.canStore (reqGrp q) demoBlock reduceTask q = true ∧
       reduceTask.part = demoBlock.part ∧ reduceTask.modeOf 0 = some .reduce ∧ mSize q.op q.m = 4) := by decide

/-- The task with its region in another mode: RD, WR, RW, STACK. -/
def modeTask (n : Nat) : Task := { demoTask with regions := [{ demoRegion with mode := n }] }

/-- A valid sector, written or not, of the SHARED page. -/
def aSector (dirty : BitVec 128) : Sector :=
  { pa := 0x12000, part := 0, ctx := 0, bytes := List.replicate 128 0, valid := BitVec.allOnes 128, dirty := dirty, bad := 0, stack := none }

set_option maxRecDepth 4000 in
/-- CachedLoads, CachedStores: one lane, in a mode that the L1 caches, where the L1 holds no sector, and where it holds one. -/
theorem wit_CachedRequests :
    (∀ n ∈ [1, 3], (modeTask n).modeOf 0 ≠ none ∧ (modeTask n).modeOf 0 ≠ some .shared ∧ (modeTask n).modeOf 0 ≠ some .reduce ∧
      ∀ k ∈ [(ReqKind.ld, 0x98), (.ldw, 0x9E)],
        let q := aReq k.1 k.2
        let s : State := { demoWith fun _ => reqGrp q with tasks := [modeTask n] }
        heldB s (reqGrp q) demoBlock (modeTask n) q = true ∧ s.canLoad (reqGrp q) demoBlock q = true ∧ q.sys = false ∧
          q.lanes.length = 1 ∧ s.sector? 0 (s.l1Core 0 0 0 0x12000) 0x12000 = none ∧ s.homeBad 0x12000 128 = false) ∧
    (∀ n ∈ [2, 3], ∀ k ∈ [(ReqKind.st, 0x9A), (.stw, 0x9F)],
        let q := aReq k.1 k.2
        let s : State := { demoWith fun _ => reqGrp q with tasks := [modeTask n] }
        heldB s (reqGrp q) demoBlock (modeTask n) q = true ∧ s.canStore (reqGrp q) demoBlock (modeTask n) q = true) ∧
    (let s := demo.putCore 0 { demo.core 0 with l1 := [aSector 0] }
     (s.sector? 0 0 0x12000) = some (aSector 0) ∧ (aSector 0).bad = 0 ∧ (aSector 0).dirty = 0 ∧
       ∀ z ∈ (s.core 0).l1, z.pa % 128 = 0) ∧
    (let b : Block := { demoBlock with stk := [0x12000, 0x12001, 0x12002, 0x12003] }
     ∀ i < 4, 0x12000 + i ∈ b.stk) := by decide

/-- PrefetchFenceCommitAndCounterWait, prefetches: a page that is read, in a mode that the L1 caches and in SHARED; a sector on its way
home. -/
theorem wit_Prefetch :
    (let g := withS [(8, shAddr)] grp
     let read := accesses (g.viewAt 0) 0xA4 (mArgs 0xA4) (lanesOf (g.checked spl hd false 0)) true false
     read.length = 1 ∧ (∀ q ∈ read, q.addr = 0x12000 ∧ q.addr % mSize 0xA4 (mArgs 0xA4) = 0) ∧
       runsB (demoS [(8, shAddr)]) (aSlot 0xA4) = true ∧ affineBad (g.viewAt 0) (mArgs 0xA4) = false) ∧
    demoTask.match_ 0x12000 0x12000 none = some (0, .shared) ∧ ((modeTask 3).match_ 0x12000 0x12000 none).map (·.2) = some .rw ∧
    (∃ p, demo.translate 0 0 0x12000 = some p ∧ p.read = true ∧ isPeer p.pa = false ∧
      demo.reaches (coreDie 0) (homeDie p.home p.pa) = true ∧ demo.backPends 0 p.pa = false ∧
      ({ demo with away := [{ src := 0, dst := 1, vc := 2, kind := .wback 0 (aSector 1) }] } : State).backPends 0 p.pa = true) := by
  refine ⟨by decide, by decide, by decide, _, rfl, by decide⟩

/-- EventsOfAGroup: a bundle that another die homes, not yet asked for, on its way, and answered. -/
theorem wit_RemoteFetch :
    let y : Split := { spl with fetched := false }
    let q (sent : Bool) : Req := { fetchReq grp y with sent := sent }
    let g (l : List Req) : Group := { grp with active := [y], reqs := l }
    let s (l : List Req) (m : List Msg) : State := { demoWith (fun _ => g l) with
      away := m
      parts := demo.parts.map fun p => { p with maps := p.maps.map fun m => { m with home := 3 } } }
    (∃ p, (s [] []).translate 0 0 0x10000 = some p ∧ homeDie p.home p.pa ≠ coreDie grp.core) ∧
      (s [] []).running (g []) = true ∧ (g []).fetchOf y = none ∧
      (∀ b, (g [q b]).fetchOf y = some (q b)) ∧ (q true).sent = true ∧ (q false).sent = false ∧
      (s [q true] []).inTransit (.req 3 (q true).seq) = false ∧ (s [q true] []).inTransit (.rsp 3 (q true).seq) = false ∧
      (s [q true] [{ src := 0, dst := 3, vc := 0, kind := .req 3 (q true).seq }]).inTransit (.req 3 (q true).seq) = true := by
  refine ⟨⟨_, rfl, by decide⟩, by decide, by decide, by decide, rfl, rfl, by decide, by decide, by decide⟩

/-- MatrixCells: 32 row indices, records of zero bytes, which are finite numbers, and cells at both ends. -/
theorem wit_MatrixCells :
    (List.range 32).length = 32 ∧ 31 < 32 ∧ (e4m3.decode 0).isFin = true ∧ (accx.decode 0).isFin = true ∧
      (accx.decode (demoBlock.cell 0 1023).toNat).isFin = true := by decide

set_option maxRecDepth 10000 in
/-- CooperativeLaunchAndHeldCores: a mirror that has not acknowledged and one that has; grants on their way and arrived, with room. -/
theorem wit_CooperativePhases :
    (coopTask 1).run.granted = 0 ∧ (coopTask 1).run.sent = none ∧ (coopTask 1).run.mirror = none ∧
    ({ (coopTask 1).run with mirror := some 1 } : TaskRun).mirror ≠ none ∧ (coopTask 1).run.acked ≠ (coopTask 1).hdr.nblk ∧
    (let t : Task := { coopTask 1 with run := { (coopTask 1).run with granted := 1 } }
     let s : State := { demoCoop 1 with tasks := [t] }
     t.run.granted ≠ 0 ∧ s.inTransit (.grant t.uid) = false ∧ (s.coopRoom (demoPart State.reset) t).isSome = true ∧
       ({ s with away := [{ src := 0, dst := 1, vc := 3, kind := .grant t.uid }] } : State).inTransit (.grant t.uid) = true) := by decide

/-- TheBestCore: two cores of which one has more. -/
theorem wit_TheBestCore : bestCore (fun c => c) [5, 7] = some 7 ∧ bestCore (fun _ => 0) [5, 7] = some 5 ∧ [5, 7] ≠ [] := by decide

/-- SlotConfiguration: cores of the partition that are not fenced, and blocks with numbers of their own. -/
theorem wit_BadCores :
    (demoPart State.reset).dies.getLsbD (coreDie 47) = true ∧ 47 ∉ demo.deadCores ∧ (demo.blocks.map (·.uid)).Nodup ∧
      0 < (demoPart State.reset).slotImg.length ∧ (1 : Nat) ≠ 0 := by decide

/-- WhatABumpMakesStale: a core listed, once. -/
theorem wit_WhatABumpMakesStale :
    let s : State := { demo with cores := [(0, { Core.idle with l1 := [aSector 1] })] }
    (0, { Core.idle with l1 := [aSector 1] }) ∈ s.cores ∧ (s.cores.map (·.1)).Nodup ∧
      ∃ k, (0, k) ∈ (s.staleL1 (demoPart State.reset)).cores := by
  exact ⟨List.mem_cons_self .., by decide, _, List.mem_cons_self ..⟩

/-- TheLargestComponentIsKept, of the premises on sizes: a component with dies that serve. -/
theorem wit_TheLargestComponent : 0 < demo.live 1 ∧ demo.distance 0 0 = some 0 := by decide +kernel

/-- TasksOfAFencedDie: a task with a block on the die. -/
theorem wit_TasksOfAFencedDie :
    0 ∉ demo.deadDies ∧ demoTask ∈ demo.tasks ∧ (demo.tasks.map (·.uid)).Nodup ∧ demo.touches 0 demoTask = true ∧
      demoTask.run.status = 0 := by decide

/-- IgnoredRegisterWrites, RefusedApertureAccesses: a ring with an entry, values out of range, no aperture, an access past its end, an
address that no page maps, one that it may not write, a fenced home. -/
theorem wit_RefusedAccesses :
    (let f : Fn := { Fn.idle with cmdTail := 1, evtTail := 1 }
     f.cmdTail ≠ f.cmdHead ∧ f.evtTail ≠ f.evtHead ∧ (demoFn f).fnExists 1 = true) ∧
    (1 : Dword).toNat % 4096 ≠ 0 ∧ ¬ ((13 : Dword) = 0 ∨ 4 ≤ (13 : Dword).toNat ∧ (13 : Dword).toNat ≤ 12) ∧
    demo.fleet.op < 4 ∧ (demo.fn 1).apert = none ∧ 2 ^ 32 < 0xFFFFFFFF + 2 ∧ demo.translate 0 0 0 = none ∧
    (∃ p, ({ demo with ctxs := demo.ctxs.map fun c => { c with maps := c.maps.map fun m => { m with write := false } } } : State).translate
      0 0 0x12000 = some p ∧ p.write = false) ∧
    (∃ p, demo.translate 0 0 0x12000 = some p ∧ ({ demo with deadDies := [0] } : State).homeUp p = false) := by
  refine ⟨by decide, by decide, by decide, by decide, by decide, by decide, by decide, ⟨_, rfl, by decide⟩, _, rfl, by decide⟩

/-- Resets, AContextEnds: the one uncompleted task of its context. -/
theorem wit_AContextEnds :
    demo.task? demoTask.uid = some demoTask ∧ demoTask.part = 0 ∧ demoTask.ctx = 0 ∧ demoTask.run.phase ≠ .done ∧
      (∀ u ∈ demo.tasks, u.part = 0 ∧ u.ctx = 0 → u.run.phase ≠ .done → u = demoTask) ∧
      (demo.tasks.filter (·.uid == demoTask.uid)).length = 1 ∧ (demo.part? (1 - 1)).isSome = true := by decide

/-- Issued: by PF0 in the name of partition 0. -/
theorem issued_pf0 (a0 a1 a2 a3 a4 : Dword) : Claims.Issued (demoCmd { aCmd 0 a0 a1 a2 a3 a4 with pv := true }) 0 :=
  ⟨rfl, rfl, .inr ⟨rfl, rfl, rfl⟩⟩

set_option maxRecDepth 10000 in
/-- CommandsOfTheModule: a buffer that is long enough and one that is not; SET_OP under way, at the present point, in the heat and out of
it; a range that an access uses; and arguments that are refused. -/
theorem wit_RefusalsOfTheModule :
    demo.fleet.modlog.buffer.length ≤ (BitVec.ofNat 64 demo.fleet.modlog.buffer.length).toNat ∧
    (∃ p, demo.part? (1 - 1) = some p ∧ p.log.buffer.length ≤ p.log.buffer.length) ∧ demo.part? (2 - 1) = none ∧
    ({ demo.fleet with opTarget := some 3 } : Fleet).opTarget ≠ none ∧ (0 : Dword).toNat = demo.fleet.op ∧
    (let f : Fleet := { demo.fleet with thermhalt := true, sensors := [(0x100, 100)] }
     f.thermhalt = true ∧ f.cool = false ∧ ({ f with sensors := [] } : Fleet).cool = true) ∧
    (demo.unsettled 0 fun _ _ => true) = false ∧
    (let q := aReq .ld 0x98
     (demoWith fun _ => reqGrp q).unsettled 0 (fun _ va => 0x12000 ≤ va && va < 0x22000) = true) ∧
    (32 ≤ (32 : Dword).toNat ∧ 2 < (3 : Dword).toNat ∧ 8 ≤ (8 : Dword).toNat ∧ 5 < (6 : Dword).toNat) ∧
    (∃ x ∈ demo.ctxs, x.part = 0) ∧ (demoPart State.reset).resize = none ∧
    Mapping.of (aCmd 0 0 1 0x10000 0x3F7 0x10000) = none ∧ keyBad [] = true ∧
    (∃ y ∈ demo.parts, y.collides 1 demoQuota 0 1 = true) ∧ (demo.part? 0).isSome = true ∧
    (State.reset.ports.contains .host = true ∧ demo.fleet.parted = true) := by
  refine ⟨by decide, ⟨_, rfl, Nat.le_refl _⟩, by decide, by decide, by decide, by decide, by decide, by decide, by decide,
    ⟨_, .head _, rfl⟩, rfl, by decide, by decide, ⟨_, .head _, by decide⟩, by decide, by decide⟩

/-- CommandsOfAPartition: arguments that are refused: numbers out of range and not there, a handler past the address space, a context and
a queue that exist, no vector, a range that is not whole pages, a packet that nobody has, a group that is not frozen. -/
theorem wit_RefusalsOfAPartition :
    (64 ≤ (64 : Dword).toNat ∧ demo.ctx? 0 63 = none ∧ (demo.ctx? 0 0).isSome = true ∧ demo.queue? 0 0 15 = none) ∧
    2 ^ 57 ≤ (0x200000000000000 : Dword).toNat ∧ ¬ 2 ≤ fld (0x10000 : Dword).toNat 16 8 ∧
    (({ demo with queues := [aQueue] } : State).queue? 0 0 1).isSome = true ∧
    (0x1000 : Dword).toNat % 65536 ≠ 0 ∧ demo.packetOf 0 7 = none ∧ demo.pausedOf 0 7 = none ∧
    (match demo.frozenAt 0 0 with | .error _ => true | .ok _ => false) = true ∧
    (2 ^ 15 ≤ (0x8000 : Dword).toNat ∧ 48 ≤ fld (1536 : Dword).toNat 5 6) ∧ frozenGrp.nregs ≤ (0xFF : Dword).toNat ∧
    (frozenGrp.viewAt 0).window 0x7FFF = none ∧ (0x100000001 : Dword).toNat % 2 ^ 32 ≠ 0 ∧
    (∃ y ∈ [demoMap], meet 0x10000 0x10000 y.from_ y.len = true) := by
  refine ⟨by decide, by decide, by decide, by decide, by decide, by decide, by decide, by decide, by decide, by decide, by decide,
    by decide, _, .head _, by decide⟩

/-- RegisterInstructionsFrame, beside `wit_SlotInstructions` and `wit_runs_*`: a rounding field that the format permits, special values at
their bounds, an object of the window. -/
theorem wit_Frames :
    (e4m3.mode 0 (grp.viewAt 0).frm.toNat).isSome = true ∧ ((grp.viewAt 0).rs 8).toNat ≤ 2 ∧
    (let g := inHandler grp
     let i := winIndex (g.viewAt 0) (xArgs 0xDB)
     ((g.viewAt 0).window i).isSome = true ∧ i < g.nregs ∧ i ∉ g.poison ∧ (windowWrite i ((g.viewAt 0).rv 24)).isSome = true) ∧
    (demo.block? 2).isSome = true ∧ (demo.task? 1).isSome = true ∧ (demo.part? 0).isSome = true := by decide


/-! ### The whole machine -/

set_option maxRecDepth 4000 in
/-- EveryStepKeepsTheGroupsApart, EveryStepGoesOn, EveryStepKeepsMemoryCanonical: a state with a group, and a step from it. -/
theorem wit_invariants :
    demo.UidsOk ∧ demo.MemOk ∧ (∃ t, step State.reset = .next t) ∧ State.reset.MemOk := by
  refine ⟨⟨by unfold State.Distinct; decide, by decide⟩, ⟨by decide, by decide, by decide⟩, ⟨_, rfl⟩, ⟨by decide, by decide, by decide⟩⟩

/-- A bundle of one `iadd.s32 v2, v2, v1`. -/
def aBundle : BitVec 256 := wordBundle 0x01000000_0702_0201_0000

/-- The machine with that program, placed as `withFetchWord` places it. -/
def placed : State := State.reset.withProgram aBundle

/-- StepRunsTheDecodedInstruction: nothing but the split's instruction is to be done; the bundle is found and it decodes. -/
theorem wit_StepRunsTheDecodedInstruction :
    placed.script = [] ∧ placed.fleet.ready = true ∧ placed.cmdq = [] ∧ placed.clocked = true ∧ placed.nextEvent = none ∧
    placed.bundleAt grp spl = some aBundle ∧ placed.cands.length = 1 ∧ bundleHeaderOk aBundle = true ∧
    slotIndex spl.pc < bundleSc aBundle ∧
    (decodeAt aBundle (slotIndex spl.pc)).toOption = some (.iaddV hd { d := 2, a := .vr 2, b := .vr 1, c := 0, nb := .none, sub := 0 }) ∧
    ({ placed with groups := [] } : State).cands = [] := by decide

/-- Operands that do nothing. -/
def r0 : RArgs := { d := 0, a := .vr 0, b := .vr 0, c := 0, nb := .none, sub := 0 }
def m0 : MArgs := { d := 4, x := 8, b := 2, off := 0, xk := .unif, ord := .none, scp := 0, hnt := 0 }
def e0 : EArgs := { d := 0, s := 8, b := 0, c := 0, ext := 0 }
def x0 : XArgs := { d := 0, a := 0, imm := 0 }

/-- DecodeOfEncode: well-formed instructions of every format. -/
theorem wit_DecodeOfEncode :
    ∀ i ∈ [Instr.iaddV hd r0, .moviS hd { d := 2, imm := .literal 0x123456789, sub := 3 }, .ldV hd m0, .cpy hd e0, .bara hd x0],
      WellFormed i = true := by decide

/-- RegisterInstructionsFrame: the first and the last of each list run. -/
theorem wit_RegisterInstructionsFrame :
    ∀ op ∈ [0x01, 0x0F, 0x03, 0x10, 0x02, 0x0D, 0x3A, 0x40, 0x73, 0x42], runsB demo (aSlot op) = true := by decide

/-- IssueWritesNoMemory: a slot instruction that is no prefetch and goes on. -/
theorem wit_IssueWritesNoMemory :
    (Instr.nop hd r0).slot.isSome = true ∧ (match exec (.nop hd r0) demo with | .next _ => true | _ => false) = true := by decide

/-! ### Encodings that a check refuses -/

/-- The head: SET above 12 (R234), TGT beside SEQ (R236), a guard on a uniform instruction (R237), NX beside `brl` (R374). -/
theorem test_wf_head :
    ∀ i ∈ [Instr.iaddV { hd with set := 13 } r0, .iaddV { hd with tgt := 1 } r0, .iaddS { hd with gp := 1 } r0,
      .brl { hd with nx := .exit } x0], WellFormed i = false := by decide

/-- The R format (R238, R239, R244, R256 to R260): a kind, an odd pair, an affine and a uniform number, a predicate destination, a
C that must be 0, SUB, a neighbour of a uniform operand, an immediate that is the literal's code, a type code, an unused operand. -/
theorem test_wf_r :
    ∀ i ∈ [Instr.iaddS hd { r0 with a := .vr 1 }, .iaddV hd { r0 with d := 3, sub := 2 }, .iaddA hd { r0 with a := .ar 32 },
      .iaddS hd { r0 with a := .sr 64, b := .sr 0 }, .icmpVarying hd { r0 with d := 7 }, .iaddV hd { r0 with c := 1 },
      .iabsV hd { r0 with sub := 1 }, .iaddV hd { r0 with a := .sr 0, nb := .lft }, .iaddV hd { r0 with b := .imm 0x80 },
      .fcvtV hd { r0 with b := .imm 14, c := 0xC0 }, .notV hd { r0 with b := .vr 1 }], WellFormed i = false := by decide

/-- The I format (R240): SUB, a pair. -/
theorem test_wf_i :
    ∀ i ∈ [Instr.moviS hd { d := 2, imm := .signed 0, sub := 4 }, .moviV hd { d := 3, imm := .signed 0, sub := 2 }],
      WellFormed i = false := by decide

/-- The M format (R241, R325, R333, R337, R141, R134): a type, a width, a function, a pair, a quad, an address register, ORD, SCP,
HNT, an offset without an address. -/
theorem test_wf_m :
    ∀ i ∈ [Instr.ldV hd { m0 with b := 14 }, .ldw hd { m0 with b := 1 }, .red hd { m0 with b := 0x62 },
      .ldV hd { m0 with d := 5, b := 3 }, .atomV hd { m0 with d := 6, b := 0x73 }, .ldV hd { m0 with x := 64 },
      .stV hd { m0 with ord := .acq }, .ldV hd { m0 with scp := 3 }, .lds hd { m0 with hnt := 1 },
      .fence hd { d := 0, x := 0, b := 0, off := 1, xk := .v32, ord := .none, scp := 0, hnt := 0 }], WellFormed i = false := by decide

/-- The E and X formats (R346, R357, R361, R377, R386 to R388): a descriptor's number, a slot, a field that must be 0, an object, a
special register, a range of handler rows. -/
theorem test_wf_ex :
    ∀ i ∈ [Instr.cpy hd { e0 with s := 6 }, .mloop hd { e0 with b := 8 }, .mzero hd e0, .bara hd { x0 with imm := 16 },
      .getsr hd { x0 with imm := 0x1A }, .hsave hd { x0 with imm := 9 }, .illegalOpcode 0x40], WellFormed i = false := by decide

/-! ### Words written out from the spec's encoding -/

/-- The encoding examples of 18 and 20: `mov` with a neighbour and a CALL, `redo`, a `nop` with a branch. -/
theorem test_decode_examples :
    decodeTableWord 80 0x40010008_5707_0B00_0008 =
      some (.movV { hd with set := 1, nx := .call, tgt := 5 } { r0 with d := 7, a := .vr 11, nb := .rgt }) ∧
    decodeTableWord 80 0xA3010000_0710_0B03_0080 =
      some (.redo { hd with set := 1 } { d := 16, x := 11, b := 3, off := 0, xk := .unif, ord := .none, scp := 0, hnt := 0 }) ∧
    decodeTableWord 80 0x00010004_4B00_0000_0000 = some (.nop { hd with set := 1, nx := .br, tgt := 4, gp := 0xB } r0) ∧
    decodeTableWord 80 0x38050000_0701_0004_0A20 =
      some (.icmpVarying { hd with set := 5 } { r0 with d := 1, b := .sr 4, c := 0x0A }) := by decide

/-- R242, R243, R251 to R253: words of the engine, barrier, task and system opcodes; R254: a reserved opcode. -/
theorem test_decode_words :
    decodeTableWord 80 0xB0020000_0700_0800_0001 = some (.cpy { hd with set := 2 } { e0 with ext := 1 }) ∧
    decodeTableWord 80 0xBB000000_0700_0000_0005 = some (.bara hd { x0 with imm := 5 }) ∧
    decodeTableWord 80 0xC0000000_0704_0800_0000 = some (.work hd { e0 with d := 4 }) ∧
    decodeTableWord 80 0xD7000000_0702_0000_0002 = some (.getsr hd { x0 with d := 2, imm := 2 }) ∧
    decodeTableWord 80 0xA5030000_0700_0000_0004 =
      some (.fence { hd with set := 3 } { d := 0, x := 0, b := 0, off := 0, xk := .v32, ord := .none, scp := 1, hnt := 0 }) ∧
    decodeTableWord 80 0x8C000000_0702_0100_0000 = some (.ballot hd { r0 with d := 2, a := .vr 1 }) ∧
    decodeTableWord 80 0x85000000_0700_0000_0000 = some (.illegalOpcode 0x85) ∧
    decodeTableWord 80 0x010D0000_0702_0201_0000 = none := by decide

/-! ### Worked examples of the spec -/

/-- What a uniform instruction leaves in a register and STATUS, long after its issue. -/
def result (i : Instr) (l : List (Nat × Dword)) (d : Nat) : Dword × BitVec 9 :=
  match exec i (demoS l) with
  | .next t => match t.group? 3 with
    | some g => ((g.viewAt 1000).rs d, (g.viewAt 1000).status)
    | none => (0, 0)
  | _ => (0, 0)

/-- The registers of the example of 12. -/
def ex12 : List (Nat × Dword) := [(1, 0xFFFFFFFF80000001), (2, 0x00000000FFFFFFFE), (4, 0x0000000080000000), (5, 0)]

/-- Operands s1 and s2 into s3. -/
def r12 (sub : BitVec 2) : RArgs := { r0 with d := 3, a := .sr 1, b := .sr 2, sub := sub }

theorem test_iadd_s32 : (result (.iaddS hd (r12 0)) ex12 3).1 = 0x7FFFFFFF := by decide
theorem test_iaddsat_s32 : (result (.iaddsatS hd (r12 0)) ex12 3).1 = 0xFFFFFFFF80000000 := by decide
theorem test_iaddsat_n32 : (result (.iaddsatS hd (r12 1)) ex12 3).1 = 0xFFFFFFFF := by decide
theorem test_imulh_s32 : (result (.imulhS hd (r12 0)) ex12 3).1 = 0 := by decide
theorem test_imulh_n32 : (result (.imulhS hd (r12 1)) ex12 3).1 = 0x7FFFFFFF := by decide
theorem test_imulw_s32 : (result (.imulwS hd (r12 0)) ex12 3).1 = 0xFFFFFFFE := by decide
theorem test_sar_40 : (result (.sarS hd { r12 0 with b := .imm 40 }) ex12 3).1 = 0xFFFFFFFFFFFFFFFF := by decide
theorem test_shr_40 : (result (.shrS hd { r12 0 with b := .imm 40 }) ex12 3).1 = 0 := by decide
theorem test_rol_36 : (result (.rolS hd { r12 0 with b := .imm 36 }) ex12 3).1 = 0x18 := by decide
theorem test_bfx_28_4 : (result (.bfxS hd { r12 0 with b := .imm 28, c := 4 }) ex12 3).1 = 0xFFFFFFFFFFFFFFF8 := by decide
theorem test_bfx_28_8 : (result (.bfxS hd { r12 0 with b := .imm 28, c := 8 }) ex12 3).1 = 8 := by decide
theorem test_iabs : (result (.iabsS hd { r12 0 with a := .sr 4, b := .vr 0 }) ex12 3).1 = 0xFFFFFFFF80000000 := by decide
theorem test_clz : (result (.clzS hd { r12 0 with a := .sr 5, b := .vr 0 }) ex12 3).1 = 32 := by decide

/-- The registers of the example of 13. -/
def ex13 : List (Nat × Dword) :=
  [(1, 0x3F800000), (2, 0x33800000), (3, 0x7F7FFFFF), (4, 0xBF800000), (6, 0x4F800000), (7, 0x40200000), (8, 0x3F808000),
   (9, 0x7FC00000), (10, 0)]

/-- Operands into s5. -/
def r13 (a b : BitVec 8) : RArgs := { r0 with d := 5, a := .sr a, b := .sr b }

theorem test_fadd_tie : result (.faddF32S hd (r13 1 2)) ex13 5 = (0x3F800000, 0x01) := by decide
theorem test_fadd_overflow : result (.faddF32S hd (r13 3 3)) ex13 5 = (0x7F800000, 0x05) := by decide
theorem test_fcvt_n32 : result (.fcvtS hd { r13 6 0 with b := .imm 12, c := 0x60 }) ex13 5 = (0xFFFFFFFF, 0x10) := by decide
theorem test_fcvt_bf16 : result (.fcvtS hd { r13 8 0 with b := .imm 12, c := 0xB0 }) ex13 5 = (0x3F80, 0x01) := by decide
theorem test_fmin_quiet : result (.fminF32S hd (r13 1 9)) ex13 5 = (0x3F800000, 0) := by decide
theorem test_fsqrt_negative : result (.fsqrtF32S hd { r13 4 0 with b := .vr 0 }) ex13 5 = (0x7FC00000, 0x10) := by decide
theorem test_fdiv_by_zero : result (.fdivF32S hd (r13 1 10)) ex13 5 = (0x7F800000, 0x08) := by decide

/-- R177: 2^24 and a step whose scaled sum is 1 give 16,777,217. -/
theorem test_cell : cellStep 0x217000000 (.fin false 1 1 0) = 0x217000001 := by decide

/-- R169: B8SE3 codes of 1.125, 3 × 2^−18 and 60,000. -/
theorem test_encode_b8se3 :
    let F := single true 5 2 16 true false true
    (F.encode (.fin false 9 1 (-3)) rne).1 = 0x40 ∧ (F.encode (.fin false 3 1 (-18)) rne).1 = 0x02 ∧
    (F.encode (.fin false 60000 1 0) rne).1 = 0x7F := by decide

/-- R460: A2 of the example of 25. -/
theorem test_quota :
    Quota.of 0x040401F001F00808 =
      some { gsBase := 8, gsCnt := 8, rowBase := 496, rowCnt := 496, accBase := 4, accCnt := 4 } := by decide

/-- R465: the save area of that quota. -/
theorem test_save_area :
    (Quota.saveArea { gsBase := 8, gsCnt := 8, rowBase := 496, rowCnt := 496, accBase := 4, accCnt := 4 }) = 87654400 := by decide

/-! ### The first instruction after reset -/

/-- `withFetchWord`: the very next step runs the word placed: it moves to the next slot, with its result in flight. -/
theorem test_first_instruction :
    (match step (State.reset.withFetchWord 80 0x01000000_0702_0201_0000) with
     | .next t => t.groups.map fun g : Group => (g.active.map (·.pc), g.pend.length)
     | _ => []) = [([0x10001], 3)] := by decide

end Sys2Proof.Tests
end

section
/-! SUPPORT. The commands of the module (spec 23 R436, R437): how a command completes, in the words of the statements; who issues it; the
partition that it names. -/

namespace Sys2Proof.Claims

open Sys2Proof.Machine

/-! ### Statuses and completions -/

@[simp] theorem stBadArg_eq : stBadArg = 2 := rfl
@[simp] theorem stBusy_eq : stBusy = 4 := rfl
@[simp] theorem stNotFound_eq : stNotFound = 5 := rfl
@[simp] theorem stExists_eq : stExists = 6 := rfl
@[simp] theorem stNoResource_eq : stNoResource = 7 := rfl
@[simp] theorem stCoopBusy_eq : stCoopBusy = 8 := rfl
@[simp] theorem stThermal_eq : stThermal = 12 := rfl

@[simp] theorem refuse_eq_refused (s : State) (k : Nat) : s.refuse k = refused s k := rfl
@[simp] theorem okCmd_eq_done (s : State) (r : Nat) : s.okCmd r = done s r := rfl
@[simp] theorem waitCmd_eq_waits (s : State) : s.waitCmd = waits s := rfl

/-! ### The partition table -/

theorem part?_num {s : State} {n : Nat} {p : Part} (h : s.part? n = some p) : p.num = n := by
  simpa using List.find?_some h

/-- The partition put under the number of one that exists is the one found there. -/
theorem part?_putPart {s : State} {n : Nat} {p q : Part} (h : s.part? n = some p) (hq : q.num = n) :
    (s.putPart q).part? n = some q := by
  have keep : ∀ x : Part, (x.num == q.num) = true → (q.num == n) = (x.num == n) := by grind
  have found : s.parts.find? (·.num == n) = some p := h
  rw [State.part?, State.putPart, find?_updIf keep, found]
  simp [part?_num h, hq]

/-- A value just set is the one the table gives. -/
theorem getKey_setKey {α : Type} (d : α) (k : Nat) (v : α) (l : List (Nat × α)) : getKey d k (setKey k v l) = v := by
  induction l with
  | nil => simp [setKey, getKey]
  | cons x t ih =>
    by_cases hx : x.1 = k
    · simp [setKey, getKey, hx]
    · simp [setKey, getKey, hx, ih]

/-! ### The issuer (R436) -/

/-- A2 to A4 are zero. -/
abbrev TailZero (s : State) : Prop := s.cmd.a2 = 0 ∧ s.cmd.a3 = 0 ∧ s.cmd.a4 = 0

section
variable {s : State} {p : Part} {ok : Bool} {f : Part → Host.Outcome State Fault Refusal}

/-- A header as R436 has it for a command of PF0. -/
theorem issuer_pf0 (hr : s.cmd.rsvd = false) (hf : s.cmd.fn = 0) (hv : s.cmd.pv = false) (hp : s.cmd.part = 0) :
    s.issuer .pf0 ok = if ok then .ok 0 else .error 2 := by
  cases ok <;> simp [State.issuer, hr, hf, hv, hp]

theorem FromPf0.entitled (h : FromPf0 s) : s.entitled .pf0 ok = if ok then .ok 0 else .error 2 := by
  simp [State.entitled, h.heat, issuer_pf0 h.rsvd h.fn h.pv h.part]

/-- A header as R436 has it for a command that any function may issue. -/
theorem issuer_any (hr : s.cmd.rsvd = false) (hv : s.cmd.pv = false) (hp : s.cmd.part = 0) :
    s.issuer .any true = .ok (s.cmd.fn - 1) := by
  simp [State.issuer, hr, hv, hp]

/-- A partition's number out of range is BAD_ARG, like arguments that are not zero. -/
theorem FromPf0.onPart_out_of_range (h : FromPf0 s) (h8 : 8 ≤ s.cmd.a0.toNat) : s.onPart ok f = refused s 2 := by
  cases ok <;> simp [State.onPart, h.entitled, h8]

theorem FromPf0.onPart_none (h : FromPf0 s) (h8 : s.cmd.a0.toNat < 8) (hn : s.part? s.cmd.a0.toNat = none) :
    s.onPart true f = refused s 5 := by
  simp [State.onPart, h.entitled, Nat.not_le.2 h8, hn]

theorem exists_onPart (hok : ok = true) : ∃ g, s.onPart ok f = s.onPart true g := by subst hok; exact ⟨f, rfl⟩

/-- PF0 issues a command whose argument A0 names partition `p`. -/
structure OnPart (s : State) (p : Part) : Prop extends FromPf0 s where
  range : s.cmd.a0.toNat < 8
  found : s.part? s.cmd.a0.toNat = some p

/-- Such a command goes on to its own checks and effect, on that partition. -/
theorem OnPart.run (h : OnPart s p) (hok : ok = true) : s.onPart ok f = f p := by
  subst hok
  simp [State.onPart, h.toFromPf0.entitled, Nat.not_le.2 h.range, h.found]

end

end Sys2Proof.Claims
end

section
/-! SUPPORT. The commands over ports and partitions, case by case: PORT_CONFIG, PART_CREATE, PART_DESTROY, PART_RESIZE (R19, R460 to R464,
R472, R473). -/

namespace Sys2Proof.Claims

open Sys2Proof.Machine

section
variable {s : State} {p : Part} {q : Quota}

/-! ### PORT_CONFIG (R19, R436) -/

/-- The role that A1 of PORT_CONFIG codes. -/
def portRole (a1 : Dword) : Port := if a1 = 0 then .idle else if a1 = 1 then .cxl else .peer

/-- PORT_CONFIG past its header: its checks, in their order. -/
theorem portConfig_eq (h : FromPf0 s) (ht : TailZero s) :
    exec .portConfig s =
      if 32 ≤ s.cmd.a0.toNat ∨ 2 < s.cmd.a1.toNat then refused s 2
      else if s.ports.getD s.cmd.a0.toNat .idle = .host then refused s (Config.refusedStatus 0).toNat
      else if s.fleet.parted = true then refused s (Config.refusedStatus 1).toNat
      else if s.cmd.a1 = 1 ∧ 16 ≤ ((s.ports.set s.cmd.a0.toNat .idle).filter (· == .cxl)).length then
        refused s (Config.refusedStatus 2).toNat
      else done { s with ports := s.ports.set s.cmd.a0.toNat (portRole s.cmd.a1) } 0 := by
  obtain ⟨h2, h3, h4⟩ := ht
  simp [exec, execPortConfig, h.entitled, h2, h3, h4, portRole]

/-- A code of A1 gives its role to the port. -/
theorem portConfig_done {r : Nat} {role : Port} (h : FromPf0 s) (hr : (r, role) ∈ [(0, Port.idle), (1, .cxl), (2, .peer)])
    (ht : TailZero s) (h0 : s.cmd.a0.toNat < 32) (h1 : s.cmd.a1.toNat = r) (hh : s.ports.getD s.cmd.a0.toNat .idle ≠ .host)
    (hp : s.fleet.parted = false) (hc : r = 1 → ((s.ports.set s.cmd.a0.toNat .idle).filter (· == .cxl)).length < 16) :
    exec .portConfig s = done { s with ports := s.ports.set s.cmd.a0.toNat role } 0 := by
  have a1 : s.cmd.a1 = BitVec.ofNat 64 r := by rw [← h1, BitVec.ofNat_toNat, BitVec.setWidth_eq]
  rw [portConfig_eq h ht]
  simp only [List.mem_cons, Prod.mk.injEq, List.not_mem_nil, or_false] at hr
  rw [if_neg (by omega), if_neg hh, if_neg (by simp [hp]), if_neg fun e => (hc (by rw [← h1, e.1]; rfl)).not_ge e.2, a1]
  rcases hr with ⟨rfl, rfl⟩ | ⟨rfl, rfl⟩ | ⟨rfl, rfl⟩ <;> rfl

/-! ### PART_CREATE (R460, R461) -/

theorem setWidth_eq_zero_iff {x : Dword} (h : x.toNat < 2 ^ 32) : x.setWidth 32 = 0 ↔ x = 0 := by
  constructor
  · intro hx; bv_omega
  · rintro rfl; rfl

theorem ways_eq_zero_iff {x : Dword} (h : x.toNat < 2 ^ 24) : x.extractLsb' 8 16 = 0 ↔ x.toNat < 256 := by
  rw [← BitVec.toNat_inj, BitVec.extractLsb'_toNat, Nat.shiftRight_eq_div_pow]
  change _ = 0 ↔ _
  omega

/-- PART_CREATE past its header and with a quota: its checks, in their order. -/
theorem partCreate_eq (h : FromPf0 s) (h1 : s.cmd.a1.toNat < 2 ^ 32) (h3 : s.cmd.a3.toNat < 2 ^ 24)
    (hq : Quota.of s.cmd.a2.toNat = some q) :
    let dies : BitVec 32 := s.cmd.a1.setWidth 32
    let slots : BitVec 8 := s.cmd.a3.setWidth 8
    let ways : BitVec 16 := s.cmd.a3.extractLsb' 8 16
    exec .partCreate s =
      if 8 ≤ s.cmd.a0.toNat ∨ s.cmd.a1 = 0 ∨ s.cmd.a3.toNat < 256 then refused s 2
      else if (s.part? s.cmd.a0.toNat).isSome = true then refused s 6
      else if ∃ y ∈ s.parts, y.collides dies q slots ways = true then refused s 7
      else done ((State.putFn { s with
        parts := s.parts ++ [Part.new s s.cmd.a0.toNat dies q slots ways s.cmd.a4],
        fleet := { s.fleet with parted := true } } (s.cmd.a0.toNat + 1) Fn.idle).logEntry 6
          (some s.cmd.a0.toNat) 0xFF 0 0 (sha384 (cmdArgs s.cmd))) 0 := by
  intro dies slots ways
  simp only [← setWidth_eq_zero_iff h1, ← ways_eq_zero_iff h3]
  simp [-Nat.reducePow, exec, execPartCreate, h.entitled, h1, h3, hq, or_assoc, dies, slots, ways]

theorem partCreate_badArg (h : FromPf0 s)
    (hb : 2 ^ 32 ≤ s.cmd.a1.toNat ∨ 2 ^ 24 ≤ s.cmd.a3.toNat ∨ Quota.of s.cmd.a2.toNat = none ∨ 8 ≤ s.cmd.a0.toNat ∨
      s.cmd.a1 = 0 ∨ s.cmd.a3.toNat < 256) : exec .partCreate s = refused s 2 := by
  by_cases hd : s.cmd.a1.toNat < 2 ^ 32 ∧ s.cmd.a3.toNat < 2 ^ 24
  · cases hq : Quota.of s.cmd.a2.toNat with
    | none => simp [-Nat.reducePow, exec, execPartCreate, h.entitled, hd, hq]
    | some q =>
      have hb' : 8 ≤ s.cmd.a0.toNat ∨ s.cmd.a1 = 0 ∨ s.cmd.a3.toNat < 256 := by
        simpa [-Nat.reducePow, hq, Nat.not_le.2 hd.1, Nat.not_le.2 hd.2] using hb
      rw [partCreate_eq h hd.1 hd.2 hq, if_pos hb']
  · simp [-Nat.reducePow, exec, execPartCreate, h.entitled, hd]

/-! ### PART_DESTROY (R462, R464) -/

/-- The module without a partition: its entry, its VF and the commands of its ring are gone, its generations are bumped, and the module's
log has an entry more. -/
def withoutPart (s : State) (p : Part) : State :=
  { s.staleL1 p with
    parts := s.parts.filter fun x => x.num != p.num
    gens := setKey p.num ((p.genG + 1) % 32, (p.genE + 1) % 32) s.gens
    fleet := { s.fleet with modlog := s.fleet.modlog.add 6 p.num 0xFF 0 1 (sha384 (cmdArgs s.cmd)) }
    fns := s.fns.filter fun f => f.1 != p.num + 1
    cmdq := s.cmdq.filter fun x => x.1 != p.num + 1 }

theorem withoutPart_parts : ∀ y ∈ (withoutPart s p).parts, y.num ≠ p.num := by simp [withoutPart]
theorem withoutPart_gens : getKey (0, 0) p.num (withoutPart s p).gens = ((p.genG + 1) % 32, (p.genE + 1) % 32) :=
  getKey_setKey ..

/-- PART_DESTROY past its header: BUSY with a context, the wait for the scrubber, its effect. -/
theorem partDestroy_eq (h : OnPart s p) (h1 : s.cmd.a1 = 0) (ht : TailZero s) :
    exec .partDestroy s =
      if ∃ x ∈ s.ctxs, x.part = p.num then refused s 4
      else if (∃ l ∈ s.llc, l.part = p.num ∧ l.epoch = (p.genE + 1) % 32) ∨ s.bumpWaits p = true then waits s
      else done (withoutPart s p) 0 :=
  (h.run (by simp [h1, ht])).trans (by simp [withoutPart])

/-! ### PART_RESIZE (R472, R473) -/

theorem partResize_taken_effect {d : BitVec 32} (h : OnPart s p) (h4 : s.cmd.a4 = 0) (h3 : s.cmd.a3 = 0)
    (h1 : s.cmd.a1.toNat < 2 ^ 32) (hw : p.switch = none) (hr : p.resize = some (d, q, true)) :
    exec .partResize s = done (s.putPart { p with resize := none }) 0 :=
  (h.run (by simpa [h3, h4] using h1)).trans (by simp [hr, hw])

/-- The new die mask and quota leave the other partitions what they have. -/
def ResizeFits (s : State) (p : Part) (q : Quota) : Prop :=
  ∀ y ∈ s.parts, y.num ≠ p.num → y.collides (s.cmd.a1.setWidth 32) q p.slotMask 0 = false

/-- Every die of the new mask has room for the save areas of the partition's contexts. -/
def resizeRoom (s : State) (p : Part) (q : Quota) : Bool :=
  s.saveRoom p.num (s.cmd.a1.setWidth 32) q ((s.ctxs.filter fun y => y.part == p.num).length)

/-- A block of the partition that the new values remove belongs to a cooperative task. -/
def RemovesCoop (s : State) (p : Part) (q : Quota) : Prop :=
  ∃ b ∈ s.blocks, ∃ t, b.part = p.num ∧ b.suspended = false ∧ b.kept (s.cmd.a1.setWidth 32) q = false ∧
    s.task? b.task = some t ∧ t.hdr.coop = true

theorem not_resizeFits_iff : ¬ ResizeFits s p q ↔
    (s.parts.any fun x => x.num != p.num && x.collides (s.cmd.a1.setWidth 32) q p.slotMask 0) = true := by
  simp [ResizeFits]

theorem removesCoop_iff : RemovesCoop s p q ↔
    ((s.blocks.filter fun b => b.part == p.num && !b.suspended && !b.kept (s.cmd.a1.setWidth 32) q).any fun b =>
      ((s.task? b.task).map (·.hdr.coop)).getD false) = true := by
  simp only [RemovesCoop, List.any_filter, List.any_eq_true]
  refine exists_congr fun b => and_congr_right fun _ => ?_
  cases s.task? b.task <;> simp [and_assoc]

/-- PART_RESIZE past its header, with no resize in progress and a quota: its checks, in their order, then its steps. -/
theorem partResize_eq [Decidable (ResizeFits s p q)] [Decidable (RemovesCoop s p q)] (h : OnPart s p) (h4 : s.cmd.a4 = 0)
    (h3 : s.cmd.a3.toNat < 2) (h1 : s.cmd.a1.toNat < 2 ^ 32) (hr : p.resize = none) (hq : Quota.of s.cmd.a2.toNat = some q) :
    exec .partResize s =
      if s.cmd.a1 = 0 then refused s 2
      else if ¬ ResizeFits s p q then refused s 7
      else if resizeRoom s p q = false then refused s 7
      else if s.cmd.a3 = 0 ∧ RemovesCoop s p q then refused s 8
      else
        let p' := { p with resize := some (s.cmd.a1.setWidth 32, q, false) }
        (s.putPart p').resizeStep p' (s.cmd.a1.setWidth 32) q := by
  refine (h.run (by simpa [h3, h4] using h1)).trans ?_
  simp only [← setWidth_eq_zero_iff h1, not_resizeFits_iff, removesCoop_iff, resizeRoom, hr, hq, stBadArg_eq, stNoResource_eq,
    stCoopBusy_eq, refuse_eq_refused, beq_iff_eq, Bool.and_eq_true, Bool.not_eq_true']

theorem partResize_badArg (h : OnPart s p) (h4 : s.cmd.a4 = 0) (h3 : s.cmd.a3.toNat < 2) (h1 : s.cmd.a1.toNat < 2 ^ 32)
    (hr : p.resize = none) (hb : Quota.of s.cmd.a2.toNat = none ∨ s.cmd.a1 = 0) : exec .partResize s = refused s 2 := by
  classical
  cases hq : Quota.of s.cmd.a2.toNat with
  | none => exact (h.run (by simpa [h3, h4] using h1)).trans (by simp [hr, hq])
  | some q => rw [partResize_eq h h4 h3 h1 hr hq, if_pos (by simpa [hq] using hb)]

/-- The new values take effect in the partition as the table holds it. -/
theorem part?_applyResize {n : Nat} {x : Part} (hx : s.part? n = some x) (hn : p.num = n) (d : BitVec 32) :
    ∃ p', (s.applyResize p d q).part? n = some p' ∧ p'.dies = d ∧ p'.quota = q ∧ p'.genG = p.genG ∧ p'.resize.isSome ∧
      p'.switch = p.switch :=
  ⟨_, part?_putPart hx hn, rfl, rfl, rfl, rfl, rfl⟩

/-- Without a block of the partition, a switch or a resident context, the new values take effect at once, with G bumped. -/
theorem resizeStep_of_no_block (hb : ∀ b ∈ s.blocks, b.part ≠ p.num) (hs : p.switch = none) (hp : p.resident = none)
    (hw : s.bumpWaits p = false) (d : BitVec 32) :
    s.resizeStep p d q = waits ((s.staleL1 p).applyResize p.bump d q) := by
  have hout : (s.blocks.any fun b => b.part == p.num && !b.suspended && !b.kept d q) = false := by
    simp only [List.any_eq_false]
    intro b hm
    simp [hb b hm]
  simp [State.resizeStep, hout, hs, hp, hw]

theorem partResize_noResource (h : OnPart s p) (h4 : s.cmd.a4 = 0) (h3 : s.cmd.a3.toNat < 2) (h1 : s.cmd.a1.toNat < 2 ^ 32)
    (hr : p.resize = none) (hq : Quota.of s.cmd.a2.toNat = some q) (h1' : s.cmd.a1 ≠ 0)
    (hno : ¬ ResizeFits s p q ∨ resizeRoom s p q = false) : exec .partResize s = refused s 7 := by
  classical
  rw [partResize_eq h h4 h3 h1 hr hq, if_neg h1']
  by_cases hf : ResizeFits s p q
  · rw [if_neg (not_not.2 hf), if_pos (hno.resolve_left (not_not.2 hf))]
  · rw [if_pos hf]

theorem partResize_coopBusy (h : OnPart s p) (h4 : s.cmd.a4 = 0) (h3 : s.cmd.a3 = 0) (h1 : s.cmd.a1.toNat < 2 ^ 32)
    (hr : p.resize = none) (hq : Quota.of s.cmd.a2.toNat = some q) (h1' : s.cmd.a1 ≠ 0) (hf : ResizeFits s p q)
    (hm : resizeRoom s p q = true) (hc : RemovesCoop s p q) : exec .partResize s = refused s 8 := by
  classical
  rw [partResize_eq h h4 (by simp [h3]) h1 hr hq, if_neg h1', if_neg (not_not.2 hf), if_neg (by simp [hm]), if_pos ⟨h3, hc⟩]

theorem partResize_without_blocks (h : OnPart s p) (h4 : s.cmd.a4 = 0) (h3 : s.cmd.a3 = 0) (h1 : s.cmd.a1.toNat < 2 ^ 32)
    (hs : p.switch = none) (hr : p.resize = none) (hp : p.resident = none) (hw : s.bumpWaits p = false)
    (hb : ∀ b ∈ s.blocks, b.part ≠ p.num) (h1' : s.cmd.a1 ≠ 0) (hq : Quota.of s.cmd.a2.toNat = some q)
    (hf : ResizeFits s p q) (hm : resizeRoom s p q = true) :
    ∃ t p', exec .partResize s = .next t ∧ t.fleet.busy = true ∧ t.part? p.num = some p' ∧ p'.dies = s.cmd.a1.setWidth 32 ∧
      p'.quota = q ∧ p'.genG = (p.genG + 1) % 32 ∧ p'.resize.isSome ∧ p'.switch = none := by
  classical
  let p1 : Part := { p with resize := some (s.cmd.a1.setWidth 32, q, false) }
  have hnum := part?_num h.found
  have hc : ¬ RemovesCoop s p q := fun ⟨b, hmem, _, hbp, _⟩ => hb b hmem hbp
  have step : exec .partResize s =
      waits (((s.putPart p1).staleL1 p1).applyResize p1.bump (s.cmd.a1.setWidth 32) q) := by
    rw [partResize_eq h h4 (by simp [h3]) h1 hr hq, if_neg h1', if_neg (not_not.2 hf), if_neg (by simp [hm]),
      if_neg (by simp [hc])]
    exact resizeStep_of_no_block (s := s.putPart p1) (p := p1) hb hs hp hw _
  have hx : ((s.putPart p1).staleL1 p1).part? p.num = some p1 := part?_putPart (hnum ▸ h.found) rfl
  obtain ⟨p', hp', hd, hq', hg, hr', hs'⟩ := part?_applyResize (p := p1.bump) (q := q) hx rfl (s.cmd.a1.setWidth 32)
  exact ⟨_, p', step, rfl, hp', hd, hq', hg, hr', hs'.trans hs⟩

end

end Sys2Proof.Claims
end

section
/-! SUPPORT. The other commands of PF0 and those of any function, case by case: MAP2, SET_PMC, IMAGE_POLICY, KEY_ENROLL, SET_OP, INVAL,
IDENTIFY, MEASURE_LOG (R128, R136, R436, R474, R480, R484, R502, R503). -/

namespace Sys2Proof.Claims

open Sys2Proof.Machine

section
variable {s : State} {p : Part}

/-! ### Policies of a partition (R436, R474) -/

theorem setPmc_done (h : OnPart s p) (h1 : s.cmd.a1 &&& ~~~0x7E = 0) (ht : TailZero s) :
    exec .setPmc s = done (s.putPart { p with pmcAllow := s.cmd.a1 }) 0 :=
  h.run (by simpa [ht] using h1)

theorem imagePolicy_done (h : OnPart s p) (h1 : s.cmd.a1.toNat < 2 ^ 16) (hz : fld s.cmd.a1.toNat 1 7 = 0) (ht : TailZero s) :
    exec .imagePolicy s =
      done (s.putPart { p with tenantOk := s.cmd.a1.getLsbD 0, pinned := s.cmd.a1.extractLsb' 8 8 }) 0 :=
  h.run (by simpa [hz, ht] using h1)

/-! ### MAP2 (R128, R436, R465) -/

theorem map2_badArg (h : OnPart s p) (hm : Mapping.of s.cmd = none) : exec .map2 s = refused s 2 :=
  (h.run rfl).trans (by simp [hm])

/-- MAP2 with a mapping: its checks, in their order. -/
theorem map2_eq {m : Mapping} (h : OnPart s p) (hm : Mapping.of s.cmd = some m) :
    exec .map2 s =
      if isTier m.to_ m.len = true ∧ m.home = 63 then refused s (Config.refusedStatus 3).toNat
      else if isPeer m.to_ = false ∧ s.memEnd < m.to_ + m.len then refused s (Config.refusedStatus 4).toNat
      else if ∃ y ∈ p.maps, meet m.from_ m.len y.from_ y.len = true then refused s 6
      else if s.sparesAreas p m = false then refused s (Config.refusedStatus 5).toNat
      else done (s.putPart { p with maps := p.maps ++ [m] }) 0 :=
  (h.run rfl).trans (by simp [hm])

/-- A peer's pages, and those below the end of memory, are not where no memory is. -/
theorem map2_memory_there {m : Mapping} (he : isPeer m.to_ = true ∨ m.to_ + m.len ≤ s.memEnd) :
    ¬ (isPeer m.to_ = false ∧ s.memEnd < m.to_ + m.len) := by
  rintro ⟨hpeer, hlt⟩
  exact he.elim (by simp [hpeer]) hlt.not_ge

/-! ### KEY_ENROLL (R480, R483) -/

/-- The key block that KEY_ENROLL names. -/
abbrev keyBlock (s : State) : List Byte := s.hostRead 0 s.cmd.a1.toNat 448

/-- KEY_ENROLL past its header: its checks, in their order. -/
theorem keyEnroll_eq (h : OnPart s p) (ht : TailZero s) :
    exec .keyEnroll s =
      if keyBad (keyBlock s) = true then refused s 2
      else if ∃ k ∈ p.keys, k.id = keyIdOf (keyBody (keyBlock s)) then refused s 6
      else if 4 ≤ p.keys.length then refused s 7
      else done (State.logEntry (s.putPart { p with
        keys := p.keys ++ [{ id := keyIdOf (keyBody (keyBlock s)), bytes := keyBlock s }] })
          1 (some p.num) 0xFF 0 0 (sha384 (keyBody (keyBlock s)))) 0 :=
  (h.run (by simp [ht])).trans (by simp)

/-! ### SET_OP (R502, R503) -/

/-- The state as SET_OP leaves THERMHALT: where the operating point runs the core clock, the groups go on. -/
def leaveHeat (s : State) : State :=
  let out : State := { s with fleet := { s.fleet with thermhalt := false } }
  if s.fleet.op ≤ 2 then out.goOnAll else out

/-- SET_OP to an operating point, past its checks: nothing to do, or the transition begins. -/
def beginTransition (t : State) (n : Nat) : Host.Outcome State Fault Refusal :=
  if n = t.fleet.op then done t 0 else done { t with fleet := { t.fleet with opTarget := some n } } 0

/-- SET_OP past its header: its checks, in their order. -/
theorem setOp_eq (hi : s.issuer .pf0 true = .ok 0) (h1 : s.cmd.a1 = 0) (ht : TailZero s) :
    exec .setOp s =
      if 5 < s.cmd.a0.toNat then refused s 2
      else if s.fleet.opTarget ≠ none then waits s
      else if s.fleet.thermhalt = true ∧ s.cmd.a0.toNat ≠ 5 ∧ s.fleet.cool = false then refused s 0xC
      else beginTransition (if s.fleet.thermhalt = true then leaveHeat s else s) s.cmd.a0.toNat := by
  obtain ⟨h2, h3, h4⟩ := ht
  have stay (hh : s.fleet.thermhalt = false) : ({ s with fleet := { s.fleet with thermhalt := false } } : State) = s := by
    rw [← hh]
  cases hh : s.fleet.thermhalt with
  | false => simp [exec, execSetOp, hi, h1, h2, h3, h4, hh, stay hh, beginTransition, Option.isSome_iff_ne_none]
  | true => simp [exec, execSetOp, hi, h1, h2, h3, h4, hh, leaveHeat, beginTransition, Option.isSome_iff_ne_none]

/-! ### INVAL of PF0 (R136, R436) -/

/-- Whether an address of a context translates into the intermediate range of the command, as its first stage is now. -/
def invalMid (s : State) (p : Part) (ctx va : Nat) : Bool :=
  match (s.ctx? p.num ctx).bind fun x => findMap va x.maps with
  | some m => decide (s.cmd.a1.toNat ≤ m.to_ + (va - m.from_)) &&
      decide (m.to_ + (va - m.from_) < s.cmd.a1.toNat + s.cmd.a2.toNat)
  | none => true

theorem invalCommand_eq (h : FromPf0 s) (hp : s.part? s.cmd.a0.toNat = some p) (h2 : s.cmd.a2 ≠ 0)
    (h1 : s.cmd.a1.toNat % 65536 = 0) (hk : s.cmd.a2.toNat % 65536 = 0) (h3 : s.cmd.a3 = 0) (h4 : s.cmd.a4 = 0) :
    exec .invalCommand s = if s.unsettled p.num (invalMid s p) then waits s else done (s.llcClean p.num) 0 := by
  have h2 : s.cmd.a2.toNat ≠ 0 := fun e => h2 (BitVec.eq_of_toNat_eq e)
  simp [exec, execInvalCommand, State.entitled, h.heat, issuer_any h.rsvd h.pv h.part, h.fn, hp, h2, h1, hk, h3, h4] <;> rfl

/-! ### Commands of any function (R436, R484) -/

theorem identify_done (hi : s.issuer .any true = .ok (s.cmd.fn - 1)) (h0 : s.cmd.a0 = 0) (h1 : s.cmd.a1 = 0) (ht : TailZero s) :
    exec .identify s = done s (Config.arith + 2 ^ 16 * Config.fwRelease + 2 ^ 32 * Config.revisionId +
      2 ^ 40 * (if s.cmd.fn = 0 then 0xFF else s.cmd.fn - 1)) := by
  obtain ⟨h2, h3, h4⟩ := ht
  simp [exec, execIdentify, hi, h0, h1, h2, h3, h4, identOf, done]

/-- The log that MEASURE_LOG reads: the module's for PF0, else that of the issuer's partition. -/
def issuerLog (s : State) : Option MLog :=
  if s.cmd.fn = 0 then some s.fleet.modlog else (s.part? (s.cmd.fn - 1)).map (·.log)

theorem issuerLog_pf0 (hf : s.cmd.fn = 0) : issuerLog s = some s.fleet.modlog := if_pos hf

theorem issuerLog_vf (hf : s.cmd.fn ≠ 0) : issuerLog s = (s.part? (s.cmd.fn - 1)).map (·.log) := if_neg hf

theorem measureLog_none (hi : s.issuer .any true = .ok (s.cmd.fn - 1)) (ht : TailZero s) (hl : issuerLog s = none) :
    exec .measureLog s = refused s 5 := by
  have hl : (if s.cmd.fn = 0 then some s.fleet.modlog else (s.part? (s.cmd.fn - 1)).map (·.log)) = none := hl
  simp [exec, execMeasureLog, hi, ht, hl]

theorem measureLog_some {l : MLog} (hi : s.issuer .any true = .ok (s.cmd.fn - 1)) (ht : TailZero s)
    (hl : issuerLog s = some l) :
    exec .measureLog s =
      if s.cmd.a1.toNat < l.buffer.length then .next (s.finishCmd 7 (dw l.buffer.length))
      else done (s.hostWrite s.cmd.fn s.cmd.a0.toNat l.buffer) l.buffer.length := by
  have hl : (if s.cmd.fn = 0 then some s.fleet.modlog else (s.part? (s.cmd.fn - 1)).map (·.log)) = some l := hl
  simp [exec, execMeasureLog, hi, ht, hl]

end

end Sys2Proof.Claims
end

section
/-! SUPPORT. The statement on the commands of the module, part by part. -/

namespace Sys2Proof.Claims

open Sys2Proof.Machine

/-! ### Effects of the commands of PF0 -/

theorem moduleCommands : ModuleCommands := by
  intro s p h
  refine ⟨?portConfig, ?partCreate, ?partDestroy, ?partResize, ?setPmc, ?map2, ?imagePolicy, ?keyEnroll, ?setOp⟩
  case portConfig =>
    intro r role hr ht h0 h1 hh hp hc
    exact portConfig_done h hr ht h0 h1 hh hp hc
  case partCreate =>
    intro q h1 h3 hq h0 h1' h3' hn hy
    rw [partCreate_eq h h1 h3 hq, if_neg (by simpa [h0, h3'] using h1'), if_neg (by simp [hn]), if_neg (by simpa using hy)]
  case partDestroy =>
    rintro ⟨h8, hp⟩ h1 ht hc hl hw
    refine ⟨withoutPart s p, ?_, withoutPart_parts, withoutPart_gens, rfl, rfl⟩
    rw [partDestroy_eq ⟨h, h8, hp⟩ h1 ht, if_neg (by simpa using hc), if_neg (by simpa [hw] using hl)]
  case partResize =>
    rintro ⟨h8, hp⟩ h4 h3 h1 hs
    refine ⟨fun d q hr => partResize_taken_effect ⟨h, h8, hp⟩ h4 h3 h1 hs hr, ?_⟩
    intro q hr hres hw hb h1' hq hf hm
    exact partResize_without_blocks ⟨h, h8, hp⟩ h4 h3 h1 hs hr hres hw hb h1' hq hf hm
  case setPmc => exact fun ⟨h8, hp⟩ h1 ht => setPmc_done ⟨h, h8, hp⟩ h1 ht
  case map2 =>
    rintro m ⟨h8, hp⟩ hm
    rw [map2_eq ⟨h, h8, hp⟩ hm]
    refine ⟨fun ht hh => if_pos ⟨ht, hh⟩, fun ht he hy => ?_⟩
    rw [if_neg fun e => ht e.1 e.2, if_neg (map2_memory_there he), if_neg (by simpa using hy)]
    exact ⟨fun ha => if_pos ha, fun ha => if_neg (by simp [ha])⟩
  case imagePolicy => exact fun ⟨h8, hp⟩ h1 hz ht => imagePolicy_done ⟨h, h8, hp⟩ h1 hz ht
  case keyEnroll =>
    rintro b keys ⟨h8, hp⟩ ht hb hk hl
    rw [keyEnroll_eq ⟨h, h8, hp⟩ ht, if_neg (ne_true_of_eq_false hb), if_neg (by simpa using hk), if_neg hl.not_ge]
  case setOp =>
    intro h1 ht h5 hn ho
    rw [setOp_eq (issuer_pf0 h.rsvd h.fn h.pv h.part) h1 ht, if_neg h5.not_gt, if_neg (by simp [hn]), if_neg (by simp [h.heat]),
      if_neg (by simp [h.heat]), beginTransition, if_neg ho]

/-! ### Commands of any function -/

theorem commandsOfAnyFunction : CommandsOfAnyFunction := by
  intro s c log hr hv hp h2 h3 h4
  have hi := issuer_any hr hv hp
  have ht : TailZero s := ⟨h2, h3, h4⟩
  have reads (l : MLog) (hl : issuerLog s = some l) : log l := by
    simp only [log, measureLog_some hi ht hl]
    exact ⟨fun hb => if_neg hb.not_gt, fun hb => if_pos hb⟩
  refine ⟨fun h0 h1 => identify_done hi h0 h1 ht, fun hf => reads _ (issuerLog_pf0 hf), fun p hf hpart => reads _ ?_,
    fun hf hn => measureLog_none hi ht ?_⟩
  · rw [issuerLog_vf hf, hpart, Option.map_some]
  · rw [issuerLog_vf hf, hn, Option.map_none]

/-! ### SET_OP in the heat -/

theorem setOpInTheHeat : SetOpInTheHeat := by
  intro s c hr hf hv hp h1 h2 h3 h4 h5
  rw [setOp_eq (issuer_pf0 hr hf hv hp) h1 ⟨h2, h3, h4⟩, if_neg h5.not_gt]
  refine ⟨fun hn => if_pos hn, fun hn hh ho => ?present, fun hn hh h5' hc => ?hot, fun hn hh hc => ?leaves⟩
  case present =>
    rw [if_neg (not_not.2 hn), if_neg (by simp [hh]), if_neg (by simp [hh]), beginTransition, if_pos ho]
  case hot => rw [if_neg (not_not.2 hn), if_pos ⟨hh, h5', hc⟩]
  case leaves =>
    have allowed : ¬ (s.fleet.thermhalt = true ∧ s.cmd.a0.toNat ≠ 5 ∧ s.fleet.cool = false) := by
      rintro ⟨_, h5', hnc⟩
      exact hc.elim h5' (by simp [hnc])
    rw [if_neg (not_not.2 hn), if_neg allowed, if_pos hh]
    rfl

/-! ### INVAL of PF0 -/

theorem invalOfTheModule : InvalOfTheModule := by
  intro s p h c a k mid hp h2 h1 hk h3 h4
  have eq : exec .invalCommand s = if s.unsettled p.num mid then waits s else done (s.llcClean p.num) 0 :=
    invalCommand_eq h hp h2 h1 hk h3 h4
  rw [eq]
  exact ⟨fun hu => if_neg (by simp [hu]), fun hu => if_pos hu⟩

/-! ### Refusals of the commands of PF0 -/

/-- The commands of PF0 whose A0 names a partition. -/
def partCommands : List Instr := [.partDestroy, .partResize, .setPmc, .map2, .imagePolicy, .keyEnroll]

/-- With A1 to A4 zero each of them looks its partition up before anything else. -/
theorem exec_partCommands {s : State} {i : Instr} (hi : i ∈ partCommands) (h1 : s.cmd.a1 = 0) (ht : TailZero s) :
    ∃ f, exec i s = s.onPart true f := by
  obtain ⟨h2, h3, h4⟩ := ht
  simp only [partCommands, List.mem_cons, List.not_mem_nil, or_false] at hi
  rcases hi with rfl | rfl | rfl | rfl | rfl | rfl
  · exact exists_onPart (by simp [h1, h2, h3, h4])
  · exact exists_onPart (by simp [h1, h3, h4])
  · exact exists_onPart (by simp [h1, h2, h3, h4])
  · exact ⟨_, rfl⟩
  · exact exists_onPart (by simp [h1, h2, h3, h4, fld])
  · exact exists_onPart (by simp [h2, h3, h4])

theorem refusalsOfTheModule : RefusalsOfTheModule := by
  intro s p h
  refine ⟨?lookup, ?portConfig, ?partCreate, ?partDestroy, ?partResize, ?map2None, ?map2, ?keyEnroll, ?setOp⟩
  case lookup =>
    intro h1 ht i hi
    obtain ⟨f, hf⟩ := exec_partCommands hi h1 ht
    rw [hf]
    exact ⟨fun h8 => h.onPart_out_of_range h8, fun h8 hn => h.onPart_none h8 hn⟩
  case portConfig =>
    intro ht
    rw [portConfig_eq h ht]
    refine ⟨fun hb => if_pos hb, fun h0 h1 hh => ?_, fun h0 h1 hh hp => ?_, fun h0 h1 hh hp hc => ?_⟩
    · rw [if_neg (by omega), if_pos hh]
    · rw [if_neg (by omega), if_neg hh, if_pos hp]
    · have h1' : s.cmd.a1.toNat = 1 := by rw [h1]; rfl
      rw [if_neg (by omega), if_neg hh, if_neg (by simp [hp]), if_pos ⟨h1, hc⟩]
  case partCreate =>
    refine ⟨partCreate_badArg h, fun q h1 h3 hq h0 h1' h3' => ?_⟩
    rw [partCreate_eq h h1 h3 hq, if_neg (by simpa [h0, h3'] using h1')]
    exact ⟨fun hs => if_pos hs, fun hn hy => by rw [if_neg (by simp [hn]), if_pos hy]⟩
  case partDestroy =>
    rintro ⟨h8, hp⟩ h1 ht hc
    rw [partDestroy_eq ⟨h, h8, hp⟩ h1 ht, if_pos hc]
  case partResize =>
    rintro ⟨h8, hp⟩ h4 h3 h1 hr
    have hP : OnPart s p := ⟨h, h8, hp⟩
    exact ⟨partResize_badArg hP h4 h3 h1 hr, fun q hq h1' => ⟨partResize_noResource hP h4 h3 h1 hr hq h1',
      fun hf hm h3' hc => partResize_coopBusy hP h4 h3' h1 hr hq h1' hf hm hc⟩⟩
  case map2None => exact fun ⟨h8, hp⟩ hm => map2_badArg ⟨h, h8, hp⟩ hm
  case map2 =>
    rintro m ⟨h8, hp⟩ hm ht
    rw [map2_eq ⟨h, h8, hp⟩ hm, if_neg fun e => ht e.1 e.2]
    refine ⟨fun hpeer hlt => if_pos ⟨hpeer, hlt⟩, fun he hy => ?_⟩
    rw [if_neg (map2_memory_there he), if_pos hy]
  case keyEnroll =>
    rintro b ⟨h8, hp⟩ ht
    rw [keyEnroll_eq ⟨h, h8, hp⟩ ht]
    refine ⟨fun hb => if_pos hb, fun hb hk => ?_, fun hb hk hl => ?_⟩
    · rw [if_neg (ne_true_of_eq_false hb), if_pos hk]
    · rw [if_neg (ne_true_of_eq_false hb), if_neg (by simpa using hk), if_pos hl]
  case setOp =>
    intro h1 ht h5
    rw [setOp_eq (issuer_pf0 h.rsvd h.fn h.pv h.part) h1 ht, if_pos h5]

/-- Settles O48: each command past its header is a chain of checks in front of its effect, and each clause picks one link. -/
theorem commandsOfTheModule : Obligations.CommandsOfTheModule :=
  ⟨moduleCommands, commandsOfAnyFunction, setOpInTheHeat, invalOfTheModule, refusalsOfTheModule⟩

end Sys2Proof.Claims
end

section
/-! SUPPORT. The groups stay apart (log 2), operation by operation: what the shared operations of the machine do to the uids of
the groups.  A replaced group keeps its uid, a block that ends takes its groups away, and a uid that is given raises the next. -/

namespace Sys2Proof.Machine

variable {s t : State}

/-! ### What the invariant depends on -/

/-- The invariant depends on the uids of the groups alone: fewer of them, in their order, below a next uid no lower. -/
theorem State.UidsOk.sub (h : s.UidsOk) (hg : (t.groups.map Group.uid).Sublist (s.groups.map Group.uid)) (hu : s.uid ≤ t.uid) :
    t.UidsOk := by
  obtain ⟨hd, hb⟩ := h
  refine ⟨List.Nodup.sublist hg hd, fun g hgt => ?_⟩
  obtain ⟨g', hg', e⟩ := List.mem_map.1 (hg.subset (List.mem_map_of_mem hgt))
  exact e ▸ Nat.lt_of_lt_of_le (hb g' hg') hu

/-- The invariant reads two fields of the state. -/
theorem State.UidsOk.congr (h : s.UidsOk) (hg : t.groups = s.groups) (hu : t.uid = s.uid) : t.UidsOk :=
  h.sub (by rw [hg]) (by rw [hu])

/-- A step that gives one uid more leaves room above the groups. -/
theorem State.UidsOk.grow (h : s.UidsOk) (hg : t.groups = s.groups) (hu : t.uid = s.uid + 1) : t.UidsOk :=
  h.sub (by rw [hg]) (by omega)

/-- Groups changed under their uids. -/
theorem State.UidsOk.mapGroups (h : s.UidsOk) {f : Group → Group} (hf : ∀ g ∈ s.groups, (f g).uid = g.uid)
    (hg : t.groups = s.groups.map f) (hu : t.uid = s.uid) : t.UidsOk := by
  refine h.sub ?_ (by rw [hu])
  rw [hg, List.map_map]
  exact (List.map_congr_left hf : _ = s.groups.map Group.uid) ▸ List.Sublist.refl _

/-- Groups changed where a test holds, under their uids. -/
theorem State.UidsOk.updGroups (h : s.UidsOk) {p : Group → Bool} {f : Group → Group} (hf : ∀ g, p g = true → (f g).uid = g.uid)
    (hg : t.groups = updIf p f s.groups) (hu : t.uid = s.uid) : t.UidsOk := by
  refine h.mapGroups (f := fun g => if p g then f g else g) (fun g _ => ?_) hg hu
  split
  · exact hf g ‹_›
  · rfl

/-- Groups taken away. -/
theorem State.UidsOk.filterGroups (h : s.UidsOk) {p : Group → Bool} (hg : t.groups = s.groups.filter p) (hu : t.uid = s.uid) :
    t.UidsOk :=
  h.sub (by rw [hg]; exact List.filter_sublist.map _) (by rw [hu])

/-- A fold of steps that keep the groups apart keeps them apart. -/
theorem State.UidsOk.foldl {α : Type} {f : State → α → State} (hf : ∀ s a, s.UidsOk → (f s a).UidsOk) (l : List α)
    (h : s.UidsOk) : (l.foldl f s).UidsOk := by
  induction l generalizing s with
  | nil => exact h
  | cons a l ih => exact ih (hf s a h)

/-- What reaches a home touches no group. -/
theorem State.UidsOk.home (h : s.UidsOk) (k : s.Home t) : t.UidsOk :=
  h.congr (k.frame (·.groups) fun _ _ _ _ _ => rfl) (k.frame (·.uid) fun _ _ _ _ _ => rfl)

theorem State.UidsOk.ite {c : Prop} [Decidable c] (hs : s.UidsOk) (ht : t.UidsOk) : (if c then s else t).UidsOk := by
  split
  · exact hs
  · exact ht

/-! ### The parts of State -/

theorem State.UidsOk.putGroup (h : s.UidsOk) (g : Group) : (s.putGroup g).UidsOk :=
  h.updGroups (f := fun _ => g) (fun _ e => (beq_iff_eq.1 e).symm) rfl rfl
theorem State.UidsOk.putBlock (h : s.UidsOk) (b : Block) : (s.putBlock b).UidsOk := h.congr rfl rfl
theorem State.UidsOk.putTask (h : s.UidsOk) (x : Task) : (s.putTask x).UidsOk := h.congr rfl rfl
theorem State.UidsOk.putPart (h : s.UidsOk) (p : Part) : (s.putPart p).UidsOk := h.congr rfl rfl
theorem State.UidsOk.putCtx (h : s.UidsOk) (c : Ctx) : (s.putCtx c).UidsOk := h.congr rfl rfl
theorem State.UidsOk.putQueue (h : s.UidsOk) (q : Queue) : (s.putQueue q).UidsOk := h.congr rfl rfl
theorem State.UidsOk.putCore (h : s.UidsOk) (c : Nat) (k : Core) : (s.putCore c k).UidsOk := h.congr rfl rfl
theorem State.UidsOk.putFn (h : s.UidsOk) (f : Nat) (x : Fn) : (s.putFn f x).UidsOk := h.congr rfl rfl
theorem State.UidsOk.putLink (h : s.UidsOk) (d : Nat) (l : Link) : (s.putLink d l).UidsOk := h.congr rfl rfl
theorem State.UidsOk.putL1 (h : s.UidsOk) (c : Nat) (l : List Sector) : (s.putL1 c l).UidsOk := h.congr rfl rfl
theorem State.UidsOk.putEngines (h : s.UidsOk) (c : Nat) (k : Core) : (s.putEngines c k).UidsOk := h.congr rfl rfl
theorem State.UidsOk.hostWrite (h : s.UidsOk) (f a : Nat) (b : List Byte) : (s.hostWrite f a b).UidsOk := h.congr rfl rfl

/-! ### Event records (R440, R441) -/

theorem State.UidsOk.ringRecord (h : s.UidsOk) (f : Nat) (r : Record) : (s.ringRecord f r).UidsOk :=
  (h.hostWrite _ _ _).putFn _ _

theorem State.UidsOk.deliver (h : s.UidsOk) (f : Nat) (i : RecInfo) : (s.deliver f i).UidsOk := by
  unfold State.deliver
  exact .ite ((h.putFn _ _).ringRecord _ _) (.ite ((h.putFn _ _).putFn _ _) ((h.putFn _ _).putFn _ _))

theorem State.UidsOk.record (h : s.UidsOk) (i : RecInfo) : (s.record i).UidsOk :=
  State.UidsOk.deliver (.ite (by exact h.congr rfl rfl) h) _ _

theorem State.UidsOk.signalQueue (h : s.UidsOk) (f v : Nat) : (s.signalQueue f v).UidsOk := by
  unfold State.signalQueue
  dsimp only
  split
  · exact .ite (.ite h (h.putFn _ _)) (h.putFn _ _)
  · exact h.putFn _ _

/-! ### Messages, homes and L1s (R120 to R133, R498) -/

theorem State.UidsOk.carry (h : s.UidsOk) (m : Msg) : (s.carry m).UidsOk := .ite h (h.congr rfl rfl)

theorem State.UidsOk.countUp (h : s.UidsOk) (p e c : Nat) : (s.countUp p e c).UidsOk := h.home (s.home_countUp p e c)
theorem State.UidsOk.llcTouch (h : s.UidsOk) (p a : Nat) (y : Bool) : (s.llcTouch p a y).UidsOk := h.home (s.home_llcTouch p a y)
theorem State.UidsOk.homeWriteBy (h : s.UidsOk) (p a : Nat) (y : Bool) (b : List Byte) : (s.homeWriteBy p a y b).UidsOk :=
  h.home (s.home_homeWriteBy p a y b)
theorem State.UidsOk.homeWrite (h : s.UidsOk) (p a : Nat) (b : List Byte) : (s.homeWrite p a b).UidsOk :=
  h.home (s.home_homeWrite p a b)
theorem State.UidsOk.llcClean (h : s.UidsOk) (p : Nat) : (s.llcClean p).UidsOk := h.congr rfl rfl
theorem State.UidsOk.poisonMem (h : s.UidsOk) (w : Nat) : (s.poisonMem w).UidsOk := .ite (h.congr rfl rfl) (h.congr rfl rfl)

theorem State.UidsOk.writeBack (h : s.UidsOk) (x : Sector) : (s.writeBack x).UidsOk := by
  refine .ite h (.foldl (fun s i hs => .ite (hs.poisonMem _) hs) _ (.foldl (fun s i hs => .ite (hs.homeWrite _ _ _) hs) _ h))

theorem State.UidsOk.sendBack (h : s.UidsOk) (c : Nat) (x : Sector) : (s.sendBack c x).UidsOk :=
  .ite (h.writeBack x) (h.carry _)

theorem State.UidsOk.landBacks (h : s.UidsOk) (p : Nat → Sector → Bool) (l : List Msg) : (s.landBacks p l).UidsOk := by
  induction l generalizing s with
  | nil => exact h
  | cons m l ih =>
    unfold State.landBacks
    split
    · split
      · exact ih (State.UidsOk.writeBack (by exact h.congr rfl rfl) _)
      · exact ih h
    · exact ih h

theorem State.UidsOk.landSector (h : s.UidsOk) (p a : Nat) : (s.landSector p a).UidsOk := h.landBacks _ _
theorem State.UidsOk.landBack (h : s.UidsOk) (m : Msg) (x : Sector) : (s.landBack m x).UidsOk := .ite (h.landBacks _ _) h

theorem State.UidsOk.l1Trim (h : s.UidsOk) (p c cap n : Nat) : (s.l1Trim p c cap n).UidsOk := by
  induction n generalizing s with
  | zero => exact h
  | succ n ih =>
    unfold State.l1Trim
    refine .ite h ?_
    split
    · exact h
    · exact ih ((h.sendBack _ _).putL1 _ _)

theorem State.UidsOk.l1Fit (h : s.UidsOk) (p c cap : Nat) : (s.l1Fit p c cap).UidsOk := h.l1Trim _ _ _ _
theorem State.UidsOk.putSector (h : s.UidsOk) (c : Nat) (x : Sector) (o : Bool) : (s.putSector c x o).UidsOk :=
  ((h.putL1 _ _).l1Fit _ _ _).putL1 _ _
theorem State.UidsOk.keepSector (h : s.UidsOk) (c : Nat) (x : Sector) : (s.keepSector c x).UidsOk := h.putL1 _ _

theorem State.UidsOk.l1Read (h : s.UidsOk) (p x c a n k : Nat) (o : Option Nat) : (s.l1Read p x c a n k o).2.2.UidsOk := by
  have ht : ∀ b : Bool, (if b then s else s.llcTouch p a).UidsOk := fun b => .ite h (h.llcTouch _ _ _)
  exact .ite (ht _) (State.UidsOk.putSector (.ite (ht _) ((ht _).countUp _ _ _)) _ _ _)

theorem State.UidsOk.l1Write (h : s.UidsOk) (p x c a : Nat) (b : List Byte) (k : Nat) (o : Option Nat) :
    (s.l1Write p x c a b k o).UidsOk := by
  unfold State.l1Write
  dsimp only
  split
  · exact .ite (h.putSector _ _ _) (.ite ((h.homeWrite _ _ _).putSector _ _ _) (h.putSector _ _ _))
  · exact .ite (h.homeWrite _ _ _) (h.putSector _ _ _)

/-- Sectors of an L1 sent back, one after the other. -/
theorem State.UidsOk.sendBacks (h : s.UidsOk) (c : Nat) (p : Sector → Bool) (l : List Sector) :
    (l.foldl (fun s x => if p x then s.sendBack c x else s) s).UidsOk :=
  .foldl (fun _ _ hs => .ite (hs.sendBack _ _) hs) l h

theorem State.UidsOk.l1Purge (h : s.UidsOk) (c : Nat) (p : Sector → Bool) : (s.l1Purge c p).UidsOk := (h.sendBacks c p _).putL1 _ _
theorem State.UidsOk.l1Clean (h : s.UidsOk) (c : Nat) (p : Sector → Bool) : (s.l1Clean c p).UidsOk := (h.sendBacks c p _).putL1 _ _

/-! ### Engines and barriers (R185 to R191, R362 to R365) -/

theorem State.UidsOk.dropOps (h : s.UidsOk) (c : Nat) (m : MOp → Bool) (y : COp → Bool) : (s.dropOps c m y).UidsOk := h.congr rfl rfl

theorem Group.unwait_uid (g : Group) (p : GWait → Bool) : (g.unwait p).uid = g.uid := by
  rfl

theorem State.UidsOk.wake (h : s.UidsOk) (q : Group → Bool) (p : GWait → Bool) : (s.wake q p).UidsOk :=
  h.updGroups (fun g _ => g.unwait_uid p) rfl rfl

theorem State.UidsOk.gbarTest (h : s.UidsOk) (b : Nat) : (s.gbarTest b).UidsOk := by
  unfold State.gbarTest
  split
  · exact h
  · exact .ite h ((h.putBlock _).wake _ _)

theorem State.UidsOk.rbarPass (h : s.UidsOk) (b : Block) (l : Nat) : (s.rbarPass b l).UidsOk := by
  unfold State.rbarPass
  refine State.UidsOk.wake ?_ _ _
  split
  · exact State.UidsOk.putTask (by exact h.congr rfl rfl) _
  · exact h.congr rfl rfl

theorem State.UidsOk.rbarTell (h : s.UidsOk) (x : Task) (k : Nat) (l : List Nat) : (s.rbarTell x k l).UidsOk :=
  .ite h (.foldl (fun _ _ hs => hs.carry _) _ (h.putTask _))

theorem State.UidsOk.rbarTest (h : s.UidsOk) (b : Nat) : (s.rbarTest b).UidsOk := by
  unfold State.rbarTest
  split
  · exact h
  · split
    · exact h
    · refine .ite h ?_
      split
      · have ht := fun x k l => h.rbarTell x k l
        refine .ite (ht _ _ _) (.ite ((ht _ _ _).rbarPass _ _) (.ite (ht _ _ _) ?_))
        split
        · exact (ht _ _ _).putTask _
        · exact ht _ _ _
      · exact h.rbarPass _ _

theorem State.UidsOk.rbarAck (h : s.UidsOk) (x : Task) (ks : List Nat) : (s.rbarAck x ks).UidsOk := by
  refine .foldl (fun s k hs => ?_) ks h
  split
  · exact hs.rbarPass _ _
  · exact hs

theorem State.UidsOk.rbarTestTask (h : s.UidsOk) (x : Nat) : (s.rbarTestTask x).UidsOk := .foldl (fun _ _ hs => hs.rbarTest _) _ h

theorem State.UidsOk.retest (h : s.UidsOk) (g : Nat) : (s.retest g).UidsOk := by
  unfold State.retest
  split
  · exact h
  · refine .ite ?_ h
    split
    · exact (h.gbarTest _).rbarTestTask _
    · exact h

theorem State.UidsOk.passToken (h : s.UidsOk) (b : Block) : (s.passToken b).UidsOk := by
  unfold State.passToken
  split
  · exact h.putBlock _
  · exact (h.putBlock _).wake _ _

theorem State.UidsOk.retireGroup (h : s.UidsOk) (g : Group) : (s.retireGroup g).UidsOk := by
  unfold State.retireGroup
  split
  · exact h
  · exact State.UidsOk.rbarTestTask (.gbarTest (.ite (State.UidsOk.passToken ((h.putGroup _).putBlock _) _) ((h.putGroup _).putBlock _)) _) _

/-! ### Blocks and tasks end (R46, R52, R384) -/

theorem State.UidsOk.commitTell (h : s.UidsOk) (u o : Nat) : (s.commitTell u o).UidsOk := by
  unfold State.commitTell
  split
  · exact h
  · refine .ite h ?_
    split
    · exact h.carry _
    · exact h

theorem State.UidsOk.dropBlock (h : s.UidsOk) (b : Block) : (s.dropBlock b).UidsOk := h.filterGroups rfl rfl
theorem State.UidsOk.stopBlocks (h : s.UidsOk) (x : Nat) : (s.stopBlocks x).UidsOk := .foldl (fun _ _ hs => hs.dropBlock _) _ h

theorem State.UidsOk.endTask (h : s.UidsOk) (x k : Nat) (c : BitVec 8) : (s.endTask x k c).UidsOk := by
  unfold State.endTask
  dsimp only
  split
  · exact h.stopBlocks _
  · exact .ite (h.stopBlocks _) ((h.stopBlocks _).grow rfl rfl)

theorem State.UidsOk.abort (h : s.UidsOk) (g : Group) (f : FaultInfo) (d n : Bool) : (s.abort g f d n).UidsOk := by
  unfold State.abort
  split
  · exact h
  · split
    · exact h
    · exact (h.record _).endTask _ _ _

/-! ### Faults, packets and fetches (R93, R137, R382 to R386) -/

theorem State.UidsOk.takeFault (h : s.UidsOk) (g : Group) (f : FaultInfo) : (s.takeFault g f).UidsOk := by
  unfold State.takeFault
  refine .ite (h.abort _ _ _ _) ?_
  split
  · exact h.abort _ _ _ _
  · exact h.putGroup _

theorem State.UidsOk.packet (h : s.UidsOk) (g : Group) (q : Req) (a : Nat) (l : LaneMask) : (s.packet g q a l).UidsOk :=
  (State.UidsOk.putGroup (s := { s with uid := s.uid + 1 }) (h.grow rfl rfl) _).record _

theorem State.UidsOk.fetchOk (h : s.UidsOk) (g : Group) (x : Split) : (s.fetchOk g x).1.UidsOk := by
  unfold State.fetchOk
  split
  · exact h.putGroup _
  · split
    · exact h
    · exact h.putGroup _
  · exact h.putGroup _

theorem State.UidsOk.fetchSplit (h : s.UidsOk) (g : Group) (x : Split) : (s.fetchSplit g x).1.UidsOk := by
  unfold State.fetchSplit
  split
  · exact h
  · split
    · exact h.takeFault _ _
    · split
      · exact h.fetchOk _ _
      · exact h.takeFault _ _
      · exact h.packet _ _ _ _

theorem State.UidsOk.fetchAll (h : s.UidsOk) (u a : Nat) (l : List Split) : (s.fetchAll u a l).UidsOk := by
  induction l generalizing s with
  | nil => exact h
  | cons x l ih =>
    unfold State.fetchAll
    split
    · exact h
    · rename_i g _
      refine .ite (ih (h.putGroup _)) ?_
      have hf := h.fetchSplit g x
      split
      · exact ih (by simp_all)
      · simp_all

theorem State.UidsOk.settleGroup (h : s.UidsOk) (u a : Nat) : (s.settleGroup u a).UidsOk := by
  unfold State.settleGroup
  split
  · exact h
  · dsimp only
    split
    · exact h.fetchAll _ _ _
    · exact .ite (((h.fetchAll _ _ _).putGroup _).retireGroup _) ((h.fetchAll _ _ _).putGroup _)

/-! ### Issue and sequencing (R371 to R376) -/

theorem State.UidsOk.sequencedAt (h : s.UidsOk) (u c : Nat) (hd : Head) (x : Split) (n : Pc) (m : LaneMask) (a : Dword) :
    (s.sequencedAt u c hd x n m a).UidsOk := by
  unfold State.sequencedAt
  split
  · exact h
  · exact (h.putGroup _).settleGroup _ _

theorem State.UidsOk.goOn (h : s.UidsOk) (u : Nat) (q : Req) : (s.goOn u q).UidsOk := by
  unfold State.goOn
  split
  · exact h
  · exact .ite h (h.sequencedAt _ _ _ _ _ _ _)

theorem State.UidsOk.rte (h : s.UidsOk) (g : Group) (k : Handler) (m : Nat) : (s.rte g k m).UidsOk := by
  have hr := (h.putGroup (g.leave k (m == 1))).retest g.uid
  unfold State.rte
  refine .ite (h.abort _ _ _ _) ?_
  dsimp only
  split
  · exact .ite (hr.goOn _ _) hr
  · exact hr

theorem State.UidsOk.issued (h : s.UidsOk) (u op : Nat) (hd : Head) (p : Payload) (c : Option Nat) :
    (s.issued u op hd p c).UidsOk := by
  unfold State.issued
  split
  · exact h
  · exact (h.putCore _ _).putGroup _

theorem State.UidsOk.finish (h : s.UidsOk) (u op : Nat) (hd : Head) (p : Payload) (x : Split) (m : LaneMask) (a : Dword)
    (c : Option Nat) : (s.finish u op hd p x m a c).UidsOk :=
  (h.issued _ _ _ _ _).sequencedAt _ _ _ _ _ _ _

theorem State.UidsOk.noteSlot (h : s.UidsOk) (g : Group) (k : Nat) : (s.noteSlot g k).UidsOk := by
  unfold State.noteSlot
  split
  · exact h
  · split
    · exact h
    · exact .ite h (h.putPart _)

/-! ### Slot instructions -/

/-- The state that an instruction's own effect leads to, where it leads to one, keeps the groups apart. -/
inductive Own.Apart : Own → Prop
  | ok {t : State} {c : Option Nat} (h : t.UidsOk) : Own.Apart (.ok t c)
  | done {t : State} (h : t.UidsOk) : Own.Apart (.done t)
  | wait : Own.Apart .wait
  | fault {c : BitVec 8} {a : Dword} {l : LaneMask} : Own.Apart (.fault c a l)
  | ecc {a : Nat} {l : LaneMask} : Own.Apart (.ecc a l)
  | packet {q : Req} {a : Nat} {l : LaneMask} : Own.Apart (.packet q a l)
  | await {q : Req} {w : GWait} : Own.Apart (.await q w)

/-- What a step leads to, where it goes on, keeps the groups apart. -/
def Apart (o : Host.Outcome State Fault Refusal) : Prop := ∀ t, o = .next t → t.UidsOk

theorem State.UidsOk.next (h : s.UidsOk) : Apart (.next s) := fun _ e => Host.Outcome.next.inj e ▸ h

theorem apart_fault (f : Fault) : Apart (.fault f) := by simp [Apart]

/-- A slot instruction keeps the groups apart where its own effect does: its checks, faults, issue and sequencing all do. -/
theorem State.UidsOk.runSlot (h : s.UidsOk) {op : Nat} {hd : Head} {p : Payload} {own : Group → Split → Own}
    (ho : ∀ g x, (own g x).Apart) : Apart (runSlot op hd p s own) := by
  unfold Machine.runSlot
  split
  · exact apart_fault _
  split
  · exact apart_fault _
  rename_i g _ _ x _
  have hs : Apart (.next { s with stall := true }) := .next (h.congr rfl rfl)
  split
  · exact hs
  split
  · exact .next (h.takeFault _ _)
  split
  · exact .next (h.takeFault _ _)
  have hx := ho g x
  generalize own g x = o at hx
  cases hx with
  | wait => exact hs
  | done ht => exact .next ht
  | ecc | fault => exact .next (h.takeFault _ _)
  | packet => exact .next ((h.issued _ _ _ _ _).packet _ _ _ _)
  | await => exact .next ((h.issued _ _ _ _ _).putGroup _)
  | ok ht => exact .next (ht.finish _ _ _ _ _ _ _ _)

end Sys2Proof.Machine
end

section
/-! SUPPORT. The groups stay apart (log 2) at slot instructions and at what happens to a group beside them: the own effects that do
more than replace their group, requests performed, packets answered, tasks completed. -/

namespace Sys2Proof.Machine

variable {s : State}

/-! ### Requests performed (R122, R123, R133, R148) -/

theorem State.UidsOk.stackBytes (h : s.UidsOk) (b : Block) (a : Nat) (l : List Byte) : (s.stackBytes b a l).1.UidsOk := by
  induction l generalizing s a with
  | nil => exact h
  | cons x l ih =>
    unfold State.stackBytes
    split
    · exact ih h _
    · exact ih (by exact h.congr rfl rfl) _

theorem State.UidsOk.readAt (h : s.UidsOk) (b : Block) (m : RMode) (k v a n : Nat) : (s.readAt b m k v a n).2.2.UidsOk := by
  cases m with
  | shared | reduce => exact h.llcTouch _ _ _
  | stack => exact (h.l1Read _ _ _ _ _ _ _).stackBytes _ _ _
  | rd | wr | rw | code | args => exact h.l1Read _ _ _ _ _ _ _

theorem State.UidsOk.writeAt (h : s.UidsOk) (b : Block) (m : RMode) (k v a : Nat) (x : List Byte) : (s.writeAt b m k v a x).UidsOk := by
  cases m with
  | shared | reduce => exact h.homeWriteBy _ _ _ _
  | stack => exact (h.l1Write _ _ _ _ _ _ _).putBlock _
  | rd | wr | rw | code | args => exact h.l1Write _ _ _ _ _ _ _

theorem uidsOk_performLane {p : Perf} (h : p.s.UidsOk) (b : Block) (t : Task) (q : Req) (x : LaneReq) :
    (performLane b t q p x).s.UidsOk := by
  unfold performLane
  dsimp only
  generalize (p.s.block? b.uid).getD b = b'
  have hp : (if q.kind == .stw || p.s.goesHome b' t q x then { p with s := p.s.landSector b'.part x.pa } else p).s.UidsOk := by
    split
    · exact h.landSector _ _
    · exact h
  generalize (if q.kind == .stw || p.s.goesHome b' t q x then { p with s := p.s.landSector b'.part x.pa } else p) = p' at hp
  split
  · exact hp.readAt _ _ _ _ _ _
  · exact hp.readAt _ _ _ _ _ _
  · exact hp.writeAt _ _ _ _ _ _
  · exact .ite (hp.writeAt _ _ _ _ _ _) ((hp.writeAt _ _ _ _ _ _).writeAt _ _ _ _ _ _)
  · split
    · exact hp.llcTouch _ _ _
    · exact hp.homeWriteBy _ _ _ _
  · split
    · exact hp.llcTouch _ _ _
    · exact hp.homeWriteBy _ _ _ _
  · exact hp

theorem uidsOk_performLanes {p : Perf} (h : p.s.UidsOk) (b : Block) (t : Task) (q : Req) (l : List LaneReq) :
    (l.foldl (performLane b t q) p).s.UidsOk := by
  induction l generalizing p with
  | nil => exact h
  | cons x l ih => exact ih (uidsOk_performLane h b t q x)

theorem State.UidsOk.performRedo (h : s.UidsOk) (t : Task) (q : Req) : (performRedo t q s).UidsOk := by
  refine .foldl (fun s a hs => ?_) _ h
  split
  · exact hs
  · exact hs.homeWrite _ _ _

theorem State.UidsOk.performLoad (h : s.UidsOk) (g : Group) (b : Block) (t : Task) (q : Req) : (s.performLoad g b t q).UidsOk := by
  have hp := uidsOk_performLanes (p := { s := s }) h b t q q.lanes
  have hs := State.UidsOk.ite (c := q.sys) (hp.llcClean b.part) hp
  exact .ite (hs.putGroup _) (hs.putGroup _)

theorem State.UidsOk.performStore (h : s.UidsOk) (g : Group) (b : Block) (t : Task) (q : Req) : (s.performStore g b t q).UidsOk := by
  have hp := State.UidsOk.ite (c := q.kind == .redo) (h.performRedo t q) (uidsOk_performLanes (p := { s := s }) h b t q q.lanes)
  exact State.UidsOk.putGroup (.ite (hp.llcClean b.part) hp) _

/-! ### Completion records and signals (R103, R440, R451) -/

theorem State.UidsOk.ctxWrite (h : s.UidsOk) {p c a : Nat} {b : List Byte} : ∀ t, s.ctxWrite p c a b = some t → t.UidsOk := by
  unfold State.ctxWrite
  have fold : ∀ (l : List (Nat × Nat)) (o : Option State), (∀ t, o = some t → t.UidsOk) → ∀ t,
      l.foldl (fun t (x : Nat × Nat) => match s.ctxPage p c x.1 true, t with
        | some q, some t => some (t.homeWrite p q.pa ((b.drop (x.1 - a)).take x.2))
        | _, _ => none) o = some t → t.UidsOk := by
    intro l
    induction l with
    | nil => exact fun o ho => ho
    | cons x l ih =>
      refine fun o ho => ih _ fun t e => ?_
      dsimp only at e
      split at e
      · cases e; exact (ho _ rfl).homeWrite _ _ _
      · cases e
  exact fold _ _ (by rintro t ⟨⟩; exact h)

theorem State.UidsOk.getD {o : Option State} (ho : ∀ t, o = some t → t.UidsOk) (h : s.UidsOk) : (o.getD s).UidsOk := by
  cases o with
  | none => exact h
  | some t => exact ho t rfl

theorem State.UidsOk.reWait (h : s.UidsOk) (p c : Nat) : (s.reWait p c).UidsOk := h.congr rfl rfl

theorem State.UidsOk.signal (h : s.UidsOk) (p c a : Nat) : (s.signal p c a).UidsOk := by
  unfold State.signal
  refine .ite h (State.UidsOk.reWait ?_ _ _)
  split
  · exact (State.UidsOk.getD (h.llcClean _).ctxWrite (h.llcClean _)).llcClean _
  · exact h.llcClean _

theorem State.UidsOk.announce (h : s.UidsOk) (t : Task) (n : Nat) : (s.announce t n).UidsOk := by
  unfold State.announce
  split
  · exact h
  · rename_i p _
    have hput : ∀ t', (if t.hdr.cplAddr == 0 then none else s.ctxWrite t.part t.ctx t.hdr.cplAddr (t.record p n)) = some t' → t'.UidsOk := by
      intro t' e
      split at e
      · cases e
      · exact h.ctxWrite t' e
    dsimp only
    generalize (if t.hdr.cplAddr == 0 then none else s.ctxWrite t.part t.ctx t.hdr.cplAddr (t.record p n)) = put at hput
    cases put with
    | none => exact State.UidsOk.signal (.ite h (h.record _)) _ _ _
    | some t' =>
      have hs := (hput t' rfl).signal t.part t.ctx t.hdr.sigctr
      dsimp only
      split
      · exact hs.signalQueue _ _
      · exact hs

theorem State.UidsOk.completeTask (h : s.UidsOk) (u : Nat) : (s.completeTask u).UidsOk := by
  unfold State.completeTask
  split
  · exact h
  · have ha := fun t x n => (h.putTask t).announce x n
    exact .ite ((ha _ _ _).congr rfl rfl) (ha _ _ _)

/-! ### Packets answered (R137) -/

theorem State.UidsOk.decline (h : s.UidsOk) (g : Group) (q : Req) (c : BitVec 8) (a : Nat) (l : LaneMask) : (s.decline g q c a l).UidsOk :=
  h.takeFault _ _

theorem State.UidsOk.reissue (h : s.UidsOk) (g : Group) (q : Req) : (s.reissue g q).UidsOk := by
  unfold State.reissue
  refine .ite (h.putGroup _) ?_
  split
  · exact .ite h (.ite (h.packet _ _ _ _) (h.decline _ _ _ _ _))
  · exact h.putGroup _

theorem State.UidsOk.reissueAll (h : s.UidsOk) (u : Nat) (l : List Req) : (s.reissueAll u l).UidsOk := by
  induction l generalizing s with
  | nil => exact h
  | cons q l ih =>
    unfold State.reissueAll
    split
    · exact h
    · exact .ite (ih h) (.ite h (ih (h.reissue _ _)))

theorem State.UidsOk.goOnPackets (h : s.UidsOk) (u : Nat) : (s.goOnPackets u).UidsOk := by
  unfold State.goOnPackets
  split
  · exact h.reissueAll _ _
  · exact h

theorem State.UidsOk.replay (h : s.UidsOk) (g : Group) (q : Req) : (s.replay g q).UidsOk := by
  unfold State.replay
  refine .ite ((h.putGroup _).settleGroup _ _) ?_
  split
  · exact .ite (h.packet _ _ _ _) (h.decline _ _ _ _ _)
  · exact State.UidsOk.goOnPackets (.ite (h.putGroup _) ((h.putGroup _).goOn _ _)) _

theorem State.UidsOk.answers (h : s.UidsOk) (u : Nat) (l : List Req) : (s.answers u l).UidsOk := by
  induction l generalizing s with
  | nil => exact h
  | cons q l ih =>
    unfold State.answers
    refine ih ?_
    split
    · exact h
    · refine .ite h ?_
      split
      · exact h.replay _ _
      · exact h.decline _ _ _ _ _
      · exact h

theorem State.UidsOk.pickUp (h : s.UidsOk) (u : Nat) : (s.pickUp u).UidsOk := by
  unfold State.pickUp
  split
  · exact (h.goOnPackets _).answers _ _
  · exact h

/-! ### Spawned tasks and commit positions (R202, R368) -/

theorem State.UidsOk.submitImage (h : s.UidsOk) (b : Block) (q : Nat) (l : List Byte) : (s.submitImage b q l).UidsOk := by
  unfold State.submitImage
  split
  · exact h.announce _ _
  · exact State.UidsOk.putQueue (.foldl (fun s k hs => .getD hs.ctxWrite hs) _ h) _

theorem State.UidsOk.performSpawn (h : s.UidsOk) (g : Group) (b : Block) (q : Req) : (s.performSpawn g b q).UidsOk :=
  .ite ((h.putGroup _).submitImage _ _ _) (h.putGroup _)

theorem State.UidsOk.performPass (h : s.UidsOk) (g : Group) (b : Block) (t : Task) (q : Req) : (s.performPass g b t q).UidsOk :=
  .ite (h.performStore _ _ _ _) (.ite (h.putTask _) (((h.putTask _).putGroup _).commitTell _ _))

/-! ### Steps of a group of itself (R230, R343, R378, R382, R390) -/

theorem State.UidsOk.bundleFetch (h : s.UidsOk) (g i : Nat) : Apart (execBundleFetch g i s) := by
  unfold execBundleFetch
  split
  · exact h.next
  split
  · exact h.next
  split
  · exact h.next
  · exact ((h.fetchSplit _ _).settleGroup _ _).next

theorem State.UidsOk.loadDataReturn (h : s.UidsOk) (g q : Nat) : Apart (execLoadDataReturn g q s) := by
  unfold execLoadDataReturn
  split
  · exact h.next
  split
  · split
    · exact h.next
    split
    · exact ((h.performSpawn _ _ _).retest _).next
    · exact ((h.performLoad _ _ _ _).retest _).next
  · exact h.next

theorem State.UidsOk.accessPerformed (h : s.UidsOk) (g q : Nat) : Apart (execAccessPerformed g q s) := by
  unfold execAccessPerformed
  split
  · exact h.next
  split
  · split
    · exact h.next
    split
    · exact ((h.performPass _ _ _ _).retest _).next
    · exact ((h.performStore _ _ _ _).retest _).next
  · exact h.next

theorem State.UidsOk.wcntRecheck (h : s.UidsOk) (g : Nat) : Apart (execWcntRecheck g s) := by
  unfold execWcntRecheck
  split
  · exact h.next
  split
  · split
    · exact h.next
    · split
      · exact h.next
      · exact ((h.llcTouch _ _ _).putGroup _).next
    · exact (h.putGroup _).next
    · exact (State.UidsOk.ite (h.packet _ _ _ _) (h.decline _ _ _ _ _)).next
    · exact ((((h.llcTouch _ _ _).putGroup _).goOn _ _).retest _).next
  · exact h.next

theorem State.UidsOk.sleepExpiry (h : s.UidsOk) (g : Nat) : Apart (execSleepExpiry g s) := by
  unfold execSleepExpiry
  split
  · exact h.next
  · exact (State.UidsOk.ite (h.putGroup _) h).next

theorem State.UidsOk.handlerEntry (h : s.UidsOk) (g : Nat) : Apart (execHandlerEntry g s) := by
  unfold execHandlerEntry
  split
  · exact h.next
  split
  · exact h.next
  · exact (h.takeFault _ _).next

theorem State.UidsOk.watchdog (h : s.UidsOk) (g : Nat) : Apart (execWatchdog g s) := by
  unfold execWatchdog
  split
  · exact h.next
  split
  · exact h.next
  · exact (h.takeFault _ _).next

theorem State.UidsOk.illegalOpcode (h : s.UidsOk) (op : BitVec 8) : Apart (execIllegalOpcode op s) := by
  unfold execIllegalOpcode
  split
  · exact apart_fault _
  split
  · exact apart_fault _
  · exact (h.takeFault _ _).next

/-! ### Own effects of slot instructions -/

theorem State.UidsOk.uniPredOwn (h : s.UidsOk) (hd : Head) (l d : Nat) (c : BitVec 2) (r : Bool) (f : BitVec 9) (g : Group) (x : Split) :
    (uniPredOwn s hd l d c r f g x).Apart := by
  unfold Machine.uniPredOwn
  dsimp only
  split
  · exact .ok h
  · exact .ok (h.putGroup _)

theorem State.UidsOk.noteSlots (h : s.UidsOk) (g : Group) (ks : List Nat) : (ks.foldl (fun s j => s.noteSlot g j) s).UidsOk :=
  .foldl (fun _ _ hs => hs.noteSlot _ _) ks h

theorem State.UidsOk.runSlots (h : s.UidsOk) (op : Nat) (hd : Head) (r : RArgs) (k c : Nat) (f : List Fmt → LaneIn → Rc → LaneOut) :
    Apart (runSlots op hd r s k c f) := by
  refine h.runSlot fun g x => ?_
  dsimp only
  repeat' split
  all_goals constructor
  exact (h.noteSlots _ _).putGroup _

theorem State.UidsOk.memOwnBy (h : s.UidsOk) {op : Nat} {hd : Head} {m : MArgs} {k : ReqKind} {c : Acc} {u o l : Bool} {g : Group}
    {x : Split} {act : Req → Own} (ha : ∀ q, (act q).Apart) : (memOwnBy op hd m k c u o l s g x act).Apart := by
  unfold Machine.memOwnBy
  dsimp only
  repeat' split
  any_goals constructor
  · exact h
  · exact h.putGroup _
  · exact ha _

theorem State.UidsOk.memOwn (h : s.UidsOk) {op : Nat} {hd : Head} {m : MArgs} {k : ReqKind} {c : Acc} {u o l : Bool} {g : Group}
    {x : Split} : (memOwn op hd m k c u o l s g x).Apart :=
  h.memOwnBy fun _ => .ok (h.putGroup _)

theorem apart_scrOwn {op : Nat} {hd : Head} {m : MArgs} {g : Group} {x : Split} {act : Block → LaneMask → List LaneReq → Own}
    (ha : ∀ b k l, (act b k l).Apart) : (scrOwn op hd m s g x act).Apart := by
  unfold scrOwn
  dsimp only
  repeat' split
  any_goals constructor
  exact ha _ _ _

theorem State.UidsOk.lds (h : s.UidsOk) (hd : Head) (m : MArgs) : Apart (execLds hd m s) := by
  refine h.runSlot fun g x => apart_scrOwn fun b k l => ?_
  dsimp only
  repeat' split
  all_goals constructor
  · exact h
  all_goals exact h.putGroup _

theorem State.UidsOk.sts (h : s.UidsOk) (hd : Head) (m : MArgs) : Apart (execSts hd m s) :=
  h.runSlot fun _ _ => apart_scrOwn fun _ _ _ => (.ok (h.putBlock _))

theorem State.UidsOk.prfLane (h : s.UidsOk) (b : Block) (d : Bool) (m : MArgs) (q : LaneReq) (r : Option (Nat × RMode)) :
    (prfLane b d m s q r).UidsOk := by
  unfold Machine.prfLane
  dsimp only
  split
  · exact h
  refine .ite h ?_
  split
  · exact h
  · exact .ite h (.ite (h.llcTouch _ _ _) ((h.landSector _ _).l1Read _ _ _ _ _ _ _))

theorem State.UidsOk.prf (h : s.UidsOk) (hd : Head) (m : MArgs) : Apart (execPrf hd m s) := by
  refine h.runSlot fun g x => ?_
  dsimp only
  split
  · constructor
  split
  · split
    · constructor
    · exact .ok (.foldl (fun _ _ hs => hs.prfLane _ _ _ _ _) _ h)
  · constructor

theorem State.UidsOk.cmtk (h : s.UidsOk) (hd : Head) (m : MArgs) : Apart (execCmtk hd m s) := by
  refine h.runSlot fun g x => ?_
  repeat' split
  all_goals constructor
  · exact h
  · exact h.putGroup _

theorem State.UidsOk.cmtp (h : s.UidsOk) (hd : Head) (m : MArgs) : Apart (execCmtp hd m s) := by
  refine h.runSlot fun g x => ?_
  repeat' split
  all_goals constructor
  · exact h
  · exact h.putGroup _

theorem State.UidsOk.wcnt (h : s.UidsOk) (hd : Head) (m : MArgs) : Apart (execWcnt hd m s) :=
  h.runSlot fun _ _ => h.memOwnBy fun _ => .await

theorem State.UidsOk.clearLast (h : s.UidsOk) (b n : Nat) : (s.clearLast b n).UidsOk :=
  h.updGroups (f := fun g => { g with barLast := g.barLast.set n none }) (fun _ _ => rfl) rfl rfl

theorem State.UidsOk.arrive (h : s.UidsOk) (g : Group) (n : Nat) (w : Word) (k : ReqKind) : (s.arrive g n w k).UidsOk := h.putGroup _

theorem State.UidsOk.bari (h : s.UidsOk) (hd : Head) (a : XArgs) : Apart (execBari hd a s) := by
  refine h.runSlot fun g x => ?_
  dsimp only
  split
  · split
    · constructor
    · exact .ok ((h.putBlock _).clearLast _ _)
  · constructor

theorem State.UidsOk.bara (h : s.UidsOk) (hd : Head) (a : XArgs) : Apart (execBara hd a s) := by
  refine h.runSlot fun g x => ?_
  dsimp only
  repeat' split
  all_goals constructor
  exact (h.putBlock _).arrive _ _ _ _

theorem State.UidsOk.barx (h : s.UidsOk) (hd : Head) (a : XArgs) : Apart (execBarx hd a s) := by
  refine h.runSlot fun g x => ?_
  dsimp only
  repeat' split
  all_goals constructor
  exact (h.putBlock _).arrive _ _ _ _

theorem State.UidsOk.barw (h : s.UidsOk) (hd : Head) (a : XArgs) : Apart (execBarw hd a s) := by
  refine h.runSlot fun g x => ?_
  dsimp only
  repeat' split
  all_goals constructor
  exact h

theorem State.UidsOk.gbar (h : s.UidsOk) (hd : Head) (a : XArgs) : Apart (execGbar hd a s) := by
  refine h.runSlot fun g x => ?_
  dsimp only
  repeat' split
  all_goals constructor
  exact ((h.putBlock _).putGroup _).gbarTest _

theorem State.UidsOk.rbar (h : s.UidsOk) (hd : Head) (a : XArgs) : Apart (execRbar hd a s) := by
  refine h.runSlot fun g x => ?_
  dsimp only
  repeat' split
  all_goals constructor
  exact ((h.putBlock _).putGroup _).rbarTest _

theorem State.UidsOk.work (h : s.UidsOk) (hd : Head) (e : EArgs) : Apart (execWork hd e s) := by
  refine h.runSlot fun g x => ?_
  dsimp only
  split
  · split
    · constructor
    · exact .ok ((h.putBlock _).putGroup _)
  · constructor

theorem State.UidsOk.spawn (h : s.UidsOk) (hd : Head) (e : EArgs) : Apart (execSpawn hd e s) := by
  refine h.runSlot fun g x => ?_
  dsimp only
  repeat' split
  all_goals constructor
  all_goals exact State.UidsOk.putGroup (by exact h.grow rfl rfl) _

theorem State.UidsOk.rteInstr (h : s.UidsOk) (hd : Head) (a : XArgs) : Apart (execRte hd a s) := by
  refine h.runSlot fun g x => ?_
  have hi := h.issued g.uid 0xD5 hd (.x a) none
  dsimp only
  split
  · split
    · exact .done (((hi.rte _ _ _).settleGroup _ _).pickUp _)
    · exact .done hi
  · exact .done hi

theorem State.UidsOk.bkpt (h : s.UidsOk) (hd : Head) (a : XArgs) : Apart (execBkpt hd a s) := by
  refine h.runSlot fun g x => ?_
  dsimp only
  split
  · exact .done ((h.putGroup _).record _)
  · constructor

theorem State.UidsOk.getsr (h : s.UidsOk) (hd : Head) (a : XArgs) : Apart (execGetsr hd a s) := by
  refine h.runSlot fun g x => ?_
  repeat' split
  all_goals constructor
  exact h.putGroup _

theorem State.UidsOk.setsr (h : s.UidsOk) (hd : Head) (a : XArgs) : Apart (execSetsr hd a s) := by
  refine h.runSlot fun g x => ?_
  dsimp only
  split <;> exact .ok (h.putGroup _)

theorem State.UidsOk.pmc (h : s.UidsOk) (hd : Head) (a : XArgs) : Apart (execPmc hd a s) := by
  refine h.runSlot fun g x => ?_
  dsimp only
  repeat' split
  all_goals constructor
  all_goals exact h.putGroup _

theorem State.UidsOk.winld (h : s.UidsOk) (hd : Head) (a : XArgs) : Apart (execWinld hd a s) := by
  refine h.runSlot fun g x => ?_
  dsimp only
  repeat' split
  all_goals constructor
  exact h.putGroup _

theorem State.UidsOk.winst (h : s.UidsOk) (hd : Head) (a : XArgs) : Apart (execWinst hd a s) := by
  refine h.runSlot fun g x => ?_
  dsimp only
  split
  · constructor
  · exact .ok (h.putGroup _)

theorem State.UidsOk.vuni (h : s.UidsOk) (hd : Head) (r : RArgs) : Apart (execVuni hd r s) := by
  refine h.runSlot fun g x => ?_
  dsimp only
  split
  · exact .ok (h.putGroup _)
  · constructor

/-! ### Engine instructions and the quantiser (R185 to R196, R351 to R361) -/

theorem State.UidsOk.qrow (h : s.UidsOk) (hd : Head) (e : EArgs) : Apart (execQrow hd e s) := by
  refine h.runSlot fun g x => ?_
  dsimp only
  repeat' split
  all_goals constructor
  all_goals exact (h.noteSlot _ _).putGroup _

theorem State.UidsOk.qscale (h : s.UidsOk) (hd : Head) (r : RArgs) : Apart (execQscale hd r s) := by
  refine h.runSlot fun g x => ?_
  dsimp only
  split
  all_goals constructor
  exact (h.noteSlot _ _).putGroup _

theorem State.UidsOk.cpy (h : s.UidsOk) (hd : Head) (e : EArgs) : Apart (execCpy hd e s) := by
  refine h.runSlot fun g x => ?_
  dsimp only
  repeat' split
  all_goals constructor
  all_goals exact State.UidsOk.putGroup (by exact h.grow rfl rfl) _

theorem State.UidsOk.queueM (h : s.UidsOk) (g : Group) (b : Block) (t : Nat) (k : MKind) (r w : List Nat) : (s.queueM g b t k r w).UidsOk :=
  h.grow rfl rfl

theorem State.UidsOk.mloopOwn (h : s.UidsOk) (e : EArgs) (f : Group → List Nat) (g : Group) (x : Split) : (mloopOwn e f s g x).Apart := by
  unfold Machine.mloopOwn
  dsimp only
  repeat' split
  all_goals constructor
  exact ((h.noteSlot _ _).noteSlot _ _).queueM _ _ _ _ _ _

theorem State.UidsOk.mout (h : s.UidsOk) (hd : Head) (e : EArgs) : Apart (execMout hd e s) := by
  refine h.runSlot fun g x => ?_
  dsimp only
  repeat' split
  all_goals constructor
  exact (h.noteSlot _ _).queueM _ _ _ _ _ _

theorem State.UidsOk.mzero (h : s.UidsOk) (hd : Head) (e : EArgs) : Apart (execMzero hd e s) := by
  refine h.runSlot fun g x => ?_
  repeat' split
  all_goals constructor
  exact h.queueM _ _ _ _ _ _

theorem State.UidsOk.mbat (h : s.UidsOk) (hd : Head) (a : XArgs) : Apart (execMbat hd a s) := by
  refine h.runSlot fun g x => ?_
  dsimp only
  repeat' split
  all_goals constructor
  exact ((h.putCore _ _).putBlock _).putGroup _

theorem State.UidsOk.mwait (h : s.UidsOk) (hd : Head) (a : XArgs) : Apart (execMwait hd a s) := by
  refine h.runSlot fun g x => ?_
  dsimp only
  repeat' split
  all_goals constructor
  exact h

theorem State.UidsOk.macq (h : s.UidsOk) (hd : Head) (a : XArgs) : Apart (execMacq hd a s) := by
  refine h.runSlot fun g x => ?_
  split
  · constructor
  split
  · exact .ok (h.putBlock _)
  split
  · constructor
  · exact .ok ((h.putBlock _).putGroup _)

theorem State.UidsOk.mrel (h : s.UidsOk) (hd : Head) (a : XArgs) : Apart (execMrel hd a s) := by
  refine h.runSlot fun g x => ?_
  repeat' split
  all_goals constructor
  exact h.passToken _

theorem State.UidsOk.ownq (h : s.UidsOk) (hd : Head) (a : XArgs) : Apart (execOwnq hd a s) := by
  refine h.runSlot fun g x => ?_
  dsimp only
  repeat' split
  all_goals constructor
  all_goals exact h.putGroup _

end Sys2Proof.Machine
end

section
/-! SUPPORT. The groups stay apart (log 2) at the engines' steps, at the launch and the end of tasks, at Sparge's actions and where
slots and cores fail.  A block that is placed is the one place where groups come: each takes a uid above all that stand. -/

namespace Sys2Proof.Machine

variable {s : State}

theorem Apart.ite {c : Prop} [Decidable c] {o p : Host.Outcome State Fault Refusal} (ho : Apart o) (hp : Apart p) :
    Apart (if c then o else p) := by
  split
  · exact ho
  · exact hp

/-! ### Engines (R139, R176 to R190, R353) -/

theorem State.UidsOk.blame (h : s.UidsOk) (u : Nat) (f : FaultInfo) : (s.blame u f).UidsOk := by
  unfold State.blame
  split
  · exact h.putGroup _
  · exact h

theorem State.UidsOk.discardM (h : s.UidsOk) (c : Nat) (o : MOp) (f : FaultInfo) : (s.discardM c o f).UidsOk :=
  (h.dropOps _ _ _).blame _ _

theorem State.UidsOk.copyGone (h : s.UidsOk) (o : COp) : (s.copyGone o).UidsOk := by
  unfold State.copyGone
  split
  · exact (h.putGroup _).retest _
  · exact h

theorem State.UidsOk.discardC (h : s.UidsOk) (c : Nat) (o : COp) (f : FaultInfo) : (s.discardC c o f).UidsOk :=
  State.UidsOk.blame (.foldl (fun _ _ hs => hs.copyGone _) _ (h.dropOps _ _ _)) _ _

theorem State.UidsOk.endStep (h : s.UidsOk) (c : Nat) (o : MOp) (b : Block) : (s.endStep c o b).UidsOk := by
  unfold State.endStep
  split
  · split
    · split
      · exact h.discardM _ _ _
      · exact ((h.putBlock _).countUp _ _ _).putCore _ _
    · exact h
  · exact h

theorem State.UidsOk.endOp (h : s.UidsOk) (c : Nat) (o : MOp) (n : Nat) : (s.endOp c o n).UidsOk := h.putEngines _ _

theorem State.UidsOk.endWhole (h : s.UidsOk) (c : Nat) (o : MOp) (b : Block) : (s.endWhole c o b).UidsOk := by
  unfold State.endWhole
  split
  · exact h
  · exact (h.putBlock _).endOp _ _ _
  · split
    · exact h
    · exact .ite (h.discardM _ _ _) ((h.putBlock _).endOp _ _ _)

theorem State.UidsOk.finishStep (h : s.UidsOk) (c : Nat) : (s.finishStep c).UidsOk := by
  unfold State.finishStep
  split
  · exact h
  · refine .ite h ?_
    split
    · exact h.endStep _ _ _
    · exact h.endWhole _ _ _

theorem State.UidsOk.spoilAt (h : s.UidsOk) (b : Block) (y : Bool) (a : Nat) : (s.spoilAt b y a).UidsOk := by
  unfold State.spoilAt
  dsimp only
  split
  · exact .ite (h.keepSector _ _) ((h.keepSector _ _).poisonMem _)
  · exact h.poisonMem _

theorem State.UidsOk.copySpoil (h : s.UidsOk) (b : Block) (y : Bool) (a p n : Nat) : (s.copySpoil b y a p n).UidsOk :=
  .foldl (fun _ _ hs => hs.spoilAt _ _ _) _ h

theorem uidsOk_fst_ite {α : Type} {c : Prop} [Decidable c] {a b : State × α} (ha : a.1.UidsOk) (hb : b.1.UidsOk) :
    (if c then a else b).1.UidsOk := by
  split
  · exact ha
  · exact hb

theorem State.UidsOk.copyPiece (h : s.UidsOk) (o : COp) (n : Nat) : (s.copyPiece o n).1.UidsOk := by
  unfold State.copyPiece
  split
  · exact h
  dsimp only
  split
  · exact h
  refine uidsOk_fst_ite h (uidsOk_fst_ite h (uidsOk_fst_ite ?store ?load))
  case store =>
    exact uidsOk_fst_ite (.copySpoil (.ite ((h.carry _).homeWriteBy _ _ _ _) ((h.carry _).l1Write _ _ _ _ _ _ _)) _ _ _ _ _)
      (.ite ((h.carry _).homeWriteBy _ _ _ _) ((h.carry _).l1Write _ _ _ _ _ _ _))
  case load =>
    refine uidsOk_fst_ite (State.UidsOk.putBlock ?_ _) (State.UidsOk.putBlock ?_ _)
    all_goals
      split
      · exact (h.carry _).llcTouch _ _ _
      · exact (h.carry _).l1Read _ _ _ _ _ _ _

theorem State.UidsOk.copyRun (h : s.UidsOk) (f : Nat) (o : COp) (n : Nat) : (s.copyRun f o n).1.UidsOk := by
  induction f generalizing s o n with
  | zero => exact h
  | succ f ih =>
    unfold State.copyRun
    split
    · exact h
    · have hp := h.copyPiece o n
      split
      · rename_i e
        rw [e] at hp
        exact ih hp _ _
      · rename_i e
        rw [e] at hp
        exact hp

theorem State.UidsOk.copyEnd (h : s.UidsOk) (c : Nat) (o : COp) (e : CopyStop) : (s.copyEnd c o e).UidsOk := by
  cases e with
  | done => exact (h.putEngines _ _).copyGone _
  | more | held => exact h.putCore _ _
  | missing a =>
    unfold State.copyEnd
    dsimp only
    split
    · exact h.grow rfl rfl
    · exact State.UidsOk.record (by exact h.grow rfl rfl) _
  | failed k => exact .ite (h.discardC _ _ _) (((h.putEngines _ _).copyGone _).blame _ _)

theorem State.UidsOk.copyMove (h : s.UidsOk) (c : Nat) (o : COp) (n : Nat) : (s.copyMove c o n).UidsOk := (h.copyRun _ _ _).copyEnd _ _ _

theorem State.UidsOk.haltCopy (h : s.UidsOk) (c : Nat) : (s.haltCopy c).UidsOk := by
  unfold State.haltCopy
  split
  · exact ((h.copyRun _ _ _).putCore _ _).copyEnd _ _ _
  · exact h

theorem State.UidsOk.finishCopy (h : s.UidsOk) (c u : Nat) : (s.finishCopy c u).UidsOk := by
  refine .foldl (fun s x hs => ?_) _ h
  dsimp only
  split
  · exact .ite hs (hs.copyMove _ _ _)
  · exact hs

theorem State.UidsOk.matrixStep (h : s.UidsOk) (c : Nat) : Apart (execMatrixStep c s) := by
  unfold execMatrixStep
  split
  · exact h.next
  · exact (State.UidsOk.ite h (h.endStep _ _ _)).next

theorem State.UidsOk.matrixOperationComplete (h : s.UidsOk) (c : Nat) : Apart (execMatrixOperationComplete c s) := by
  unfold execMatrixOperationComplete
  split
  · exact (h.putEngines _ _).next
  split
  · exact h.next
  · exact (State.UidsOk.ite h (h.endWhole _ _ _)).next

theorem State.UidsOk.copyComplete (h : s.UidsOk) (c : Nat) : Apart (execCopyComplete c s) := by
  unfold execCopyComplete
  split
  · exact h.next
  · exact (State.UidsOk.ite h ((h.putCore _ _).copyMove _ _ _)).next

/-! ### From a ring entry to the last block (R46, R51, R97, R99, R445, R453) -/

theorem State.UidsOk.slotConsume (h : s.UidsOk) (p c q : Nat) : Apart (execSlotConsume p c q s) := by
  unfold execSlotConsume
  split
  · have hq : ∀ x : Queue, (State.putQueue { s with uid := s.uid + 1 } x).UidsOk := fun x => h.grow rfl rfl
    refine .ite h.next ?_
    generalize s.submit _ _ _ = r
    refine .ite (State.UidsOk.reWait ?_ _ _).next (.ite ((hq _).announce _ _).next (State.UidsOk.completeTask ?_ _).next)
    · exact h.grow rfl rfl
    · exact h.grow rfl rfl
  · exact h.next

theorem State.UidsOk.taskStartable (h : s.UidsOk) (t : Nat) : Apart (execTaskStartable t s) := by
  unfold execTaskStartable
  split
  · exact h.next
  · exact .ite h.next (.ite (h.endTask _ _ _).next (State.UidsOk.next (by exact h.grow rfl rfl)))

theorem State.UidsOk.depFailed (h : s.UidsOk) (t : Nat) : Apart (execDepFailed t s) := by
  unfold execDepFailed
  split
  · exact h.next
  · exact .ite h.next ((h.putTask _).completeTask _).next

theorem map_snd_zip_sublist {α β : Type} (a : List α) (b : List β) : ((a.zip b).map Prod.snd).Sublist b := by
  induction a generalizing b with
  | nil => simp
  | cons x a ih =>
    cases b with
    | nil => simp
    | cons y b => simpa using ih b

/-- The groups of a block that is placed take the uids from its own on: each its own, none of those that stand. -/
theorem State.UidsOk.place (h : s.UidsOk) (t : Task) (id c : Nat) (r : Room) : (s.place t id c r).UidsOk := by
  have hnew : ∀ l : List (Nat × Nat), (l.map Prod.snd).Nodup → (∀ x ∈ l, x.2 < t.kd.ngrp) → ∀ f : Nat × Nat → Group,
      (∀ x, (f x).uid = s.uid + 1 + x.2) → ∀ b k, State.UidsOk { s with
        uid := s.uid + 1 + t.kd.ngrp, blocks := b, groups := s.groups ++ l.map f, cores := k } := by
    intro l hl hlt f hf b k
    obtain ⟨hd, hb⟩ := h
    refine ⟨?_, fun g hg => ?_⟩
    · change ((s.groups ++ l.map f).map Group.uid).Nodup
      rw [List.map_append, List.map_map]
      refine List.Nodup.append hd ?_ ?_
      · have : (Group.uid ∘ f) = (fun i => s.uid + 1 + i) ∘ Prod.snd := funext hf
        rw [this, ← List.map_map]
        exact hl.map fun i j e => by simpa using e
      · intro u hu hu'
        obtain ⟨g, hg, rfl⟩ := List.mem_map.1 hu
        obtain ⟨x, -, e⟩ := List.mem_map.1 hu'
        have := hb g hg
        have := hf x
        simp only [Function.comp] at e
        omega
    · rcases List.mem_append.1 hg with hg | hg
      · have := hb g hg
        change g.uid < s.uid + 1 + t.kd.ngrp
        omega
      · obtain ⟨x, hx, rfl⟩ := List.mem_map.1 hg
        change (f x).uid < s.uid + 1 + t.kd.ngrp
        rw [hf]
        have := hlt x hx
        omega
  refine State.UidsOk.l1Fit ?_ _ _ _
  refine hnew (r.slots.zip (List.range t.kd.ngrp)) ?_ (fun x hx => List.mem_range.1 (List.of_mem_zip hx).2) _ (fun x => rfl) _ _
  exact (map_snd_zip_sublist _ _).nodup List.nodup_range

theorem State.UidsOk.blockPlace (h : s.UidsOk) (t c : Nat) : Apart (execBlockPlace t c s) := by
  unfold execBlockPlace
  split
  · exact h.next
  split
  · exact h.next
  refine .ite h.next ?_
  split
  · split
    · exact .ite h.next ((h.putTask _).place _ _ _ _).next
    · exact h.next
  · exact .ite h.next ((h.putTask _).carry _).next

theorem State.UidsOk.mirrorAck (h : s.UidsOk) (t : Nat) : Apart (execMirrorAck t s) := by
  unfold execMirrorAck
  split
  · exact h.next
  split
  · exact (State.UidsOk.ite h ((h.putTask _).carry _)).next
  · exact (State.UidsOk.ite h (((h.putTask _).commitTell _ _).rbarAck _ _)).next

theorem State.UidsOk.idGrant (h : s.UidsOk) (t d : Nat) : Apart (execIdGrant t d s) := by
  unfold execIdGrant
  split
  · exact h.next
  split
  · exact h.next
  · exact .ite h.next ((h.putTask _).carry _).next

theorem State.UidsOk.widen (h : s.UidsOk) (x : Task) : (s.widen x).UidsOk := h.congr rfl rfl

theorem State.UidsOk.coopGrant (h : s.UidsOk) (x : Task) : (s.coopGrant x).UidsOk := .foldl (fun _ _ hs => hs.carry _) _ (h.putTask _)

/-- The L1s of the cores of a list purged, one after the other. -/
theorem State.UidsOk.l1Purges (h : s.UidsOk) (l : List Nat) (p : Nat → Sector → Bool) : (l.foldl (fun s c => s.l1Purge c (p c)) s).UidsOk :=
  .foldl (fun _ _ hs => hs.l1Purge _ _) l h

theorem State.UidsOk.coopPlace (h : s.UidsOk) (x : Task) (l : List (Nat × Nat × Room)) : (s.coopPlace x l).UidsOk := by
  refine .foldl (fun s b hs => ?_) _ (State.UidsOk.putTask (.ite ((h.widen x).l1Purges _ fun _ y => y.part == x.part) h) _)
  split
  · exact hs.place _ _ _ _
  · exact hs

theorem State.UidsOk.coopLaunch (h : s.UidsOk) (t : Nat) : Apart (execCoopLaunch t s) := by
  unfold execCoopLaunch
  split
  · exact h.next
  split
  · exact h.next
  refine .ite h.next (.ite (h.endTask _ _ _).next (.ite (.ite h.next (.ite (h.putTask _).next (h.coopGrant _).next)) (.ite h.next ?_)))
  split
  · exact h.next
  · exact (h.coopPlace _ _).next

theorem State.UidsOk.heldCore (h : s.UidsOk) (t : Nat) : Apart (execHeldCore t s) := by
  unfold execHeldCore
  split
  · exact h.next
  split
  · exact h.next
  · exact .ite h.next (h.putTask _).next

theorem State.UidsOk.lastBlock (h : s.UidsOk) (u : Nat) : (s.lastBlock u).UidsOk := by
  unfold State.lastBlock
  split
  · exact h
  · exact .ite h (.ite (h.endTask _ _ _) (.ite (h.endTask _ _ _) h))

theorem State.UidsOk.retired (h : s.UidsOk) (u b : Nat) : (s.retired u b).UidsOk := by
  unfold State.retired
  split
  · exact h
  · exact .ite h ((((h.putTask _).commitTell _ _).rbarTestTask _).lastBlock _)

theorem State.UidsOk.blockRetire (h : s.UidsOk) (b : Nat) : Apart (execBlockRetire b s) := by
  unfold execBlockRetire
  split
  · exact h.next
  refine .ite h.next ?_
  dsimp only
  split
  · exact (h.dropBlock _).next
  · exact .ite ((h.dropBlock _).retired _ _).next ((h.dropBlock _).carry _).next

/-! ### Sparge (R100 to R114, R455 to R457) -/

theorem State.UidsOk.logEntry (h : s.UidsOk) (k : Nat) (p : Option Nat) (n i : Nat) (w : BitVec 48) (d : BitVec 384) :
    (s.logEntry k p n i w d).UidsOk := by
  unfold State.logEntry
  dsimp only
  split
  · exact State.UidsOk.putPart (by exact h.congr rfl rfl) _
  · exact h.congr rfl rfl

theorem State.UidsOk.unitDone (h : s.UidsOk) (t n : Task) : (s.unitDone t n).UidsOk := .ite h (h.putTask _)

theorem State.UidsOk.bound (h : s.UidsOk) (t : Task) (p : Part) (k i : Nat) : (s.bound t p k i).UidsOk := (h.putTask _).logEntry _ _ _ _ _ _

theorem State.UidsOk.bind (h : s.UidsOk) (t : Nat) : Apart (execBind t s) := by
  unfold execBind
  split
  · exact h.next
  split
  · exact h.next
  · exact .ite h.next (.ite (h.putTask _).next (.ite h.next (.ite (h.bound _ _ _ _).next ((h.putTask _).putPart _).next)))

theorem State.UidsOk.pinit (h : s.UidsOk) (t : Nat) : Apart (execPinit t s) := by
  unfold execPinit
  split
  · exact h.next
  dsimp only
  split
  · exact h.next
  refine .ite h.next (.ite (State.UidsOk.putTask ?_ _).next (State.UidsOk.putTask ?_ _).next)
  all_goals
    split
    · exact h.homeWrite _ _ _
    · exact h

theorem State.UidsOk.dropLine (h : s.UidsOk) (p c a : Nat) (f : Nat → Bool) : (s.dropLine p c a f).UidsOk := by
  unfold State.dropLine
  split
  · exact h
  · exact h.l1Purges _ fun _ _ => _

theorem State.UidsOk.invstart (h : s.UidsOk) (t : Nat) : Apart (execInvstart t s) := by
  unfold execInvstart
  split
  · exact h.next
  · exact .ite h.next ((h.dropLine _ _ _ _).unitDone _ _).next

theorem State.UidsOk.flush (h : s.UidsOk) (t : Nat) : Apart (execFlush t s) := by
  unfold execFlush
  split
  · exact h.next
  refine .ite h.next (State.UidsOk.unitDone ?_ _ _).next
  split
  · exact .foldl (fun _ _ hs => hs.l1Clean _ _) _ h
  · exact h

theorem State.UidsOk.inval (h : s.UidsOk) (t : Nat) : Apart (execInval t s) := by
  unfold execInval
  split
  · exact h.next
  · exact .ite h.next ((h.dropLine _ _ _ _).unitDone _ _).next

theorem State.UidsOk.final (h : s.UidsOk) (t : Nat) : Apart (execFinal t s) := by
  unfold execFinal
  split
  · exact h.next
  dsimp only
  split
  · exact h.next
  refine .ite h.next (State.UidsOk.putTask (.foldl (fun s' a hs => ?_) _ h) _).next
  split
  · exact hs.homeWrite _ _ _
  · exact hs

theorem State.UidsOk.complete (h : s.UidsOk) (t : Nat) : Apart (execComplete t s) := by
  unfold execComplete
  split
  · exact h.next
  rename_i x _
  have hp := State.UidsOk.ite (c := (x.hdr.coop && x.kd.fused) = true) (h.l1Purges x.rectCores fun _ y => y.part == x.part) h
  exact .ite h.next (State.UidsOk.ite hp (hp.completeTask _)).next

/-! ### Slots and cores that fail (R171 to R173, R482, R497) -/

theorem State.UidsOk.loseTask (h : s.UidsOk) (u : Nat) : (s.loseTask u).UidsOk := by
  unfold State.loseTask
  split
  · exact h
  · exact .ite h (.ite (h.endTask _ _ _) ((h.putTask _).lastBlock _))

theorem State.UidsOk.failTask (h : s.UidsOk) (k : Nat) (t : Task) : (s.failTask k t).UidsOk :=
  .ite (.ite h (h.putTask _)) (h.endTask _ _ _)

theorem State.UidsOk.dropBlocks (h : s.UidsOk) (l : List Block) : (l.foldl (fun s b => s.dropBlock b) s).UidsOk :=
  .foldl (fun _ _ hs => hs.dropBlock _) l h

theorem State.UidsOk.loseTasks (h : s.UidsOk) (l : List Nat) : (l.foldl (fun s u => s.loseTask u) s).UidsOk :=
  .foldl (fun _ _ hs => hs.loseTask _) l h

theorem State.UidsOk.fenceCore (h : s.UidsOk) (c : Nat) (d : BitVec 384) : (s.fenceCore c d).UidsOk :=
  .ite h (.loseTasks ((State.UidsOk.dropBlocks (by exact h.congr rfl rfl) _).putL1 _ _ |>.logEntry _ _ _ _ _ _) _)

theorem State.UidsOk.slotDone (h : s.UidsOk) (x : Task) : (s.slotDone x).UidsOk := by
  unfold State.slotDone
  split
  · exact .ite ((h.putPart _).bound _ _ _ _) (((h.putPart _).putTask _).logEntry _ _ _ _ _ _)
  · exact h

theorem State.UidsOk.reconfigurationDone (h : s.UidsOk) (t : Nat) (l : List Nat) : Apart (execReconfigurationDone t l s) := by
  unfold execReconfigurationDone
  split
  · exact h.next
  split
  · exact (State.UidsOk.foldl (fun _ _ hs => hs.fenceCore _ _) _ (h.slotDone _)).next
  · exact h.next

theorem State.UidsOk.mismatch (h : s.UidsOk) (k u : Nat) : (s.mismatch k u).UidsOk := by
  unfold State.mismatch
  split
  · exact h
  refine .ite h ?_
  dsimp only
  split
  · exact (h.putGroup _).takeFault _ _
  · exact h.putGroup _

theorem State.UidsOk.discardSlot (h : s.UidsOk) (p : Part) (c k : Nat) : (s.discardSlot p c k).UidsOk :=
  .foldl (fun _ _ hs => hs.discardM _ _ _) _ h

theorem State.UidsOk.slotReadback (h : s.UidsOk) (c k : Nat) (y : Bool) : Apart (execSlotReadback c k y s) := by
  unfold execSlotReadback
  split
  · exact State.UidsOk.next (by exact h.congr rfl rfl)
  have hq : ∀ q, State.UidsOk { s with scan := q } := fun q => h.congr rfl rfl
  refine .ite (hq _).next (.ite ((hq _).putPart _).next (State.UidsOk.next (.record (.foldl (fun s g hs => hs.mismatch _ _) _
    (.discardSlot (.foldl (fun s t hs => ?_) _ ?_) _ _ _)) _)))
  · split
    · exact hs.failTask _ _
    · exact hs
  · exact h.congr rfl rfl

theorem State.UidsOk.kilnReloadDone (h : s.UidsOk) (c k : Nat) (y : Bool) : Apart (execKilnReloadDone c k y s) := by
  unfold execKilnReloadDone
  split
  · exact h.next
  split
  · exact h.next
  · have hl := fun p => (h.putPart p).logEntry
    exact .ite (hl _ _ _ _ _ _ _).next (.ite (h.putPart _).next ((hl _ _ _ _ _ _ _).fenceCore _ _).next)

/-! ### Requests as a switch leaves and resumes them (R137, R468, R470) -/

theorem State.UidsOk.drainOne (h : s.UidsOk) (g : Group) (b : Block) (t : Task) (q : Req) : (s.drainOne g b t q).UidsOk := by
  unfold State.drainOne
  refine .ite h ?_
  split
  · exact h.performLoad _ _ _ _
  · exact h.performLoad _ _ _ _
  · exact h.performLoad _ _ _ _
  any_goals exact h.performStore _ _ _ _
  · exact .ite (h.performPass _ _ _ _) h
  · exact .ite (h.performSpawn _ _ _) h
  · exact h.finishCopy _ _
  · exact h
  · exact h

theorem State.UidsOk.drain (h : s.UidsOk) (u : Nat) (b : Block) (t : Task) (l : List Req) : (s.drain u b t l).UidsOk := by
  induction l generalizing s b t with
  | nil => exact h
  | cons q l ih =>
    unfold State.drain
    split
    · exact ih (h.drainOne _ _ _ _) _ _
    · exact h

theorem State.UidsOk.drainAny (h : s.UidsOk) (u n : Nat) : (s.drainAny u n).UidsOk := by
  unfold State.drainAny
  split
  · exact h
  split
  · refine .ite (h.drainOne _ _ _ _) (.ite h ?_)
    split
    · exact h
    · exact h.drainOne _ _ _ _
  · exact h

theorem State.UidsOk.finishAtomics (h : s.UidsOk) (g : Group) (b : Block) (t : Task) : (s.finishAtomics g b t).UidsOk := by
  unfold State.finishAtomics
  dsimp only
  split
  · exact h.drain _ _ _ _
  · exact .foldl (fun _ _ hs => hs.drainAny _ _) _ (h.drain _ _ _ _)

theorem State.UidsOk.resumeGroup (h : s.UidsOk) (u : Nat) : (s.resumeGroup u).UidsOk := by
  unfold State.resumeGroup
  split
  · exact h
  · exact (h.putGroup _).pickUp _

theorem State.UidsOk.answer (h : s.UidsOk) {p i : Nat} {y : Bool} : ∀ t, s.answer p i y = some t → t.UidsOk := by
  unfold State.answer
  intro t e
  dsimp only at e
  split at e
  · split at e
    · split at e
      · cases e; exact .ite (h.replay _ _) (h.decline _ _ _ _ _)
      · cases e; exact h.putGroup _
    · cases e
  · split at e
    · cases e
    · split at e
      · cases e; exact h.putCore _ _
      · cases e; exact ((h.putEngines _ _).copyGone _).blame _ _

end Sys2Proof.Machine
end

section
/-! SUPPORT. The groups stay apart (log 2) where contexts take turns, at the die links and fenced dies, and at the host's registers,
apertures and resets. -/

namespace Sys2Proof.Machine

variable {s : State}

/-! ### Contexts in turn (R462 to R473) -/

theorem State.UidsOk.sendTicks (h : s.UidsOk) (p : Part) : (s.sendTicks p).UidsOk := by
  unfold State.sendTicks
  split
  · exact h
  · exact .foldl (fun _ _ hs => hs.carry _) _ h

theorem State.UidsOk.gangTick (h : s.UidsOk) (n : Nat) : Apart (execGangTick n s) := by
  unfold execGangTick
  split
  · exact h.next
  refine .ite h.next ?_
  dsimp only
  split
  · exact (State.UidsOk.ite (h.putPart _) ((h.putPart _).sendTicks _)).next
  · exact (h.putPart _).next
  · exact (h.putPart _).next

theorem State.UidsOk.haltGroup (h : s.UidsOk) (u : Nat) : (s.haltGroup u).UidsOk := by
  unfold State.haltGroup
  split
  · exact h
  · exact (h.putGroup _).retest _

theorem State.UidsOk.groupHalt (h : s.UidsOk) (g : Nat) : Apart (execGroupHalt g s) := by
  unfold execGroupHalt
  split
  · exact h.next
  split
  · exact .ite h.next ((h.finishAtomics _ _ _).haltGroup _).next
  · exact h.next

theorem State.UidsOk.stopCopy (h : s.UidsOk) (p : Part) (c : Nat) : (s.stopCopy p c).UidsOk := by
  unfold State.stopCopy
  split
  · exact .ite (h.haltCopy _) h
  · exact h

/-- The copies of the cores of a list stopped, one after the other. -/
theorem State.UidsOk.stopCopies (h : s.UidsOk) (p : Part) (l : List Nat) : (l.foldl (fun s c => s.stopCopy p c) s).UidsOk :=
  .foldl (fun _ _ hs => hs.stopCopy _ _) l h

theorem State.UidsOk.savePackets (h : s.UidsOk) (p : Part) (d : Nat) : (s.savePackets p d).UidsOk := by
  unfold State.savePackets
  split
  · exact h
  · exact h.putCtx _

theorem State.UidsOk.dieSaveDone (h : s.UidsOk) (n d : Nat) : Apart (execDieSaveDone n d s) := by
  unfold execDieSaveDone
  split
  · exact h.next
  split
  · exact h.next
  rename_i p _ _ _ _
  have hs := (h.stopCopies p (s.coreNums.filter fun c => coreDie c == d)).l1Purges
  refine .ite h.next ?_
  dsimp only
  split
  · exact (hs _ fun _ x => x.part == n).next
  · exact .ite (hs _ fun _ x => x.part == n).next (((hs _ fun _ x => x.part == n).putPart _).savePackets _ _).next

theorem State.UidsOk.suspendBlocks (h : s.UidsOk) (p : Part) : (s.suspendBlocks p).UidsOk := h.congr rfl rfl
theorem State.UidsOk.handOverAll (h : s.UidsOk) (p : Part) : (s.handOverAll p).UidsOk := h.congr rfl rfl
theorem State.UidsOk.wakeEngines (h : s.UidsOk) (p c : Nat) : (s.wakeEngines p c).UidsOk := h.congr rfl rfl
theorem State.UidsOk.staleL1 (h : s.UidsOk) (p : Part) : (s.staleL1 p).UidsOk := h.congr rfl rfl
theorem State.UidsOk.clearLeft (h : s.UidsOk) (p : Part) : (s.clearLeft p).UidsOk := h.congr rfl rfl
theorem State.UidsOk.applyResize (h : s.UidsOk) (p : Part) (d : BitVec 32) (q : Quota) : (s.applyResize p d q).UidsOk :=
  ((h.putPart _).suspendBlocks _).handOverAll _

theorem State.UidsOk.resumeGroups (h : s.UidsOk) (l : List Group) : (l.foldl (fun s g => s.resumeGroup g.uid) s).UidsOk :=
  .foldl (fun _ _ hs => hs.resumeGroup _) l h

theorem State.UidsOk.contextRestore (h : s.UidsOk) (n : Nat) : Apart (execContextRestore n s) := by
  unfold execContextRestore
  split
  · exact h.next
  split
  · exact h.next
  rename_i p _ _ w _
  have hr : State.UidsOk (match p.resize, p.resident == w.to_ with
      | some (d, q, false), true => ((s.staleL1 p).putPart { p.bump with resident := w.to_, switch := none }).applyResize
          { p.bump with resident := w.to_, switch := none } d q
      | _, _ => (s.staleL1 p).putPart { p.bump with resident := w.to_, switch := none }) := by
    split
    · exact ((h.staleL1 _).putPart _).applyResize _ _ _
    · exact (h.staleL1 _).putPart _
  refine .ite h.next ?_
  dsimp only
  split
  · exact hr.next
  · refine (State.UidsOk.resumeGroups (State.UidsOk.wakeEngines ?_ _ _) _).next
    split
    · exact hr.putCtx _
    · exact hr

theorem State.UidsOk.switchLate (h : s.UidsOk) (n d : Nat) : Apart (execSwitchLate n d s) := by
  unfold execSwitchLate
  split
  · exact h.next
  split
  · exact h.next
  · exact .ite h.next ((h.putPart _).record _).next

theorem State.UidsOk.failTasks (h : s.UidsOk) (k : Nat) (l : List Task) : (l.foldl (fun s t => s.failTask k t) s).UidsOk :=
  .foldl (fun _ _ hs => hs.failTask _ _) l h

theorem State.UidsOk.lateDieFence (h : s.UidsOk) (n d : Nat) : Apart (execLateDieFence n d s) := by
  unfold execLateDieFence
  split
  · exact h.next
  split
  · exact h.next
  · exact .ite h.next (((((h.failTasks _ _).putPart _).record _).suspendBlocks _).handOverAll _).next

theorem State.UidsOk.scrubPass (h : s.UidsOk) (d : Nat) : Apart (execScrubPass d s) := State.UidsOk.next (h.congr rfl rfl)

/-! ### Die links (R487 to R494) -/

theorem State.UidsOk.transmit (h : s.UidsOk) (d v : Nat) (b : Body) : (s.transmit d v b).UidsOk := (h.putLink _ _).putLink _ _
theorem State.UidsOk.sendFlit (h : s.UidsOk) (d v : Nat) (m : Msg) : (s.sendFlit d v m).UidsOk := .ite h ((h.putLink _ _).transmit _ _ _)
theorem State.UidsOk.resendAll (h : s.UidsOk) (d : Nat) : (s.resendAll d).UidsOk := h.putLink _ _
theorem State.UidsOk.heard (h : s.UidsOk) (d : Nat) (f : Flit) : (s.heard d f).UidsOk := .ite ((h.putLink _ _).resendAll _) (h.putLink _ _)
theorem State.UidsOk.replyAudit (h : s.UidsOk) (d : Nat) : (s.replyAudit d).UidsOk := (h.putLink _ _).transmit _ _ _
theorem State.UidsOk.bothDirs (h : s.UidsOk) (d : Nat) (f : Link → Link) : (s.bothDirs d f).UidsOk := (h.putLink _ _).putLink _ _

theorem State.UidsOk.take_ (h : s.UidsOk) (d : Nat) (f : Flit) : (s.take_ d f).UidsOk := by
  unfold State.take_
  split
  · exact h
  all_goals exact h.putLink _ _

theorem State.UidsOk.flitReceive (h : s.UidsOk) (d : Nat) (y : Bool) : Apart (execFlitReceive d y s) := by
  unfold execFlitReceive
  dsimp only
  split
  · exact h.next
  · exact .ite h.next (.ite (h.putLink _ _).next (((h.putLink _ _).heard _ _).take_ _ _).next)

theorem State.UidsOk.replayTimeout (h : s.UidsOk) (d : Nat) : Apart (execReplayTimeout d s) := (State.UidsOk.ite (h.resendAll _) h).next

theorem State.UidsOk.auditStart (h : s.UidsOk) (d : Nat) : Apart (execAuditStart d s) := .ite h.next ((h.transmit _ _ _).putLink _ _).next

theorem State.UidsOk.auditReply (h : s.UidsOk) (d : Nat) : Apart (execAuditReply d s) := by
  unfold execAuditReply
  dsimp only
  split
  · exact h.next
  · refine .ite h.next (.ite (h.putLink _ _).next (State.UidsOk.ite (State.UidsOk.resendAll (.putLink ?_ _ _) _) (.putLink ?_ _ _)).next)
    all_goals exact .foldl (fun _ _ hs => hs.record _) _ h

theorem State.UidsOk.auditTimeout (h : s.UidsOk) (d : Nat) : Apart (execAuditTimeout d s) := (State.UidsOk.ite (h.putLink _ _) h).next

theorem State.UidsOk.retrain (h : s.UidsOk) (d : Nat) : Apart (execRetrain d s) := .ite h.next (h.bothDirs _ _).next

theorem State.UidsOk.retrainComplete (h : s.UidsOk) (d : Nat) (y : Bool) : Apart (execRetrainComplete d y s) :=
  .ite h.next (.ite (h.bothDirs _ _).next (h.bothDirs _ _).next)

theorem State.UidsOk.linkDown (h : s.UidsOk) (l : Nat) : Apart (execLinkDown l s) := .ite h.next ((h.record _).bothDirs _ _).next

theorem State.UidsOk.routeInstall (h : s.UidsOk) : Apart (execRouteInstall s) := by
  refine (State.UidsOk.foldl (fun s d hs => ?_) _ h).next
  exact .ite hs (hs.congr rfl rfl)

/-! ### Messages on their way (R488, R493, R498) -/

/-- A message taken from those on their way, or left among them. -/
theorem State.UidsOk.arrived (h : s.UidsOk) (c : Prop) [Decidable c] (m : Msg) :
    State.UidsOk (if c then s else { s with away := s.away.erase m }) := .ite h (h.congr rfl rfl)

theorem State.UidsOk.handIn (h : s.UidsOk) (m : Msg) : (s.handIn m).UidsOk := by
  unfold State.handIn
  dsimp only
  have hw : State.UidsOk (match m.kind with
      | .wback _ x => if s.deadDies.contains m.dst then s else s.landBack m x
      | _ => s) := by
    split
    · exact .ite h (h.landBack _ _)
    · exact h
  refine .ite (hw.arrived _ m) ?_
  split
  · exact (hw.arrived _ m).carry _
  · exact (hw.arrived _ m).carry _
  · exact (hw.arrived _ m).rbarTestTask _
  · exact (hw.arrived _ m).retired _ _
  · exact hw.arrived _ m

theorem State.UidsOk.moveOne (h : s.UidsOk) : ∀ t, s.moveOne = some t → t.UidsOk := by
  unfold State.moveOne
  intro t e
  split at e
  · cases e
    split
    · exact (h.putLink _ _).handIn _
    · exact h.congr rfl rfl
    · exact (h.putLink _ _).sendFlit _ _ _
  · split at e
    · cases e
      split
      · exact State.UidsOk.handIn (by exact h.congr rfl rfl) _
      · exact State.UidsOk.sendFlit (by exact h.congr rfl rfl) _ _ _
    · split at e
      · cases e
        exact .foldl (fun _ _ hs => hs.carry _) _ (h.putGroup _)
      · cases e
        exact .ite (h.replyAudit _) (h.transmit _ _ _)
      · cases e

/-! ### Fenced dies (R495, R496) -/

theorem State.UidsOk.fenceTask (h : s.UidsOk) (d : Nat) (y : Bool) (t : Task) : (s.fenceTask d y t).UidsOk :=
  .ite ((h.putTask _).failTask _ _) (.ite ((h.putTask _).loseTask _) (.ite ((h.putTask _).loseTask _) (h.putTask _)))

theorem State.UidsOk.dropAsks (h : s.UidsOk) (d : Nat) : (s.dropAsks d).UidsOk := h.congr rfl rfl

theorem State.UidsOk.dropMsgs (h : s.UidsOk) (d : Nat) : (s.dropMsgs d).UidsOk :=
  .foldl (fun _ _ hs => hs.retired _ _) _ (by exact h.congr rfl rfl)

theorem State.UidsOk.fenceDie (h : s.UidsOk) (d : Nat) : (s.fenceDie d).UidsOk := by
  unfold State.fenceDie
  refine .ite h (.foldl (fun s t hs => ?_) _ (((State.UidsOk.record ?_ _).dropAsks _).dropMsgs _))
  · split
    · exact hs.fenceTask _ _ _
    · exact hs
  · have hb := State.UidsOk.dropBlocks (s := { s with deadDies := s.deadDies ++ [d] }) (h.congr rfl rfl)
    exact (hb _).congr rfl rfl

theorem State.UidsOk.loseStranded (h : s.UidsOk) : s.loseStranded.UidsOk := .foldl (fun _ _ hs => (hs.dropBlock _).loseTask _) _ h

theorem State.UidsOk.dieFence (h : s.UidsOk) (d : Nat) : Apart (execDieFence d s) :=
  (State.UidsOk.ite (h.fenceDie _).loseStranded h).next

theorem State.UidsOk.meshSplit (h : s.UidsOk) : Apart (execMeshSplit s) := by
  have hm : ∀ m, State.UidsOk { s with msgs := m } := fun m => h.congr rfl rfl
  exact .ite (hm _).next (State.UidsOk.loseStranded (.foldl (fun _ _ hs => hs.fenceDie _) _ (hm _))).next

/-! ### The host's registers, doorbells and apertures (R430 to R441) -/

theorem State.UidsOk.registerWrite (h : s.UidsOk) (f o : Nat) (x : BitVec 64) : Apart (execRegisterWrite f o x s) :=
  (State.UidsOk.ite (h.putFn _ _) h).next

theorem State.UidsOk.readBar0 (h : s.UidsOk) (f o w : Nat) : (s.readBar0 f o w).UidsOk := h.putFn _ _
theorem State.UidsOk.readBar2 (h : s.UidsOk) (f o w : Nat) : (s.readBar2 f o w).UidsOk := h.putFn _ _
theorem State.UidsOk.readConfig (h : s.UidsOk) (f o w : Nat) : (s.readConfig f o w).UidsOk := h.putFn _ _

theorem State.UidsOk.cmdtail (h : s.UidsOk) (f : Nat) (x : BitVec 64) : Apart (execCmdtail f x s) :=
  .ite h.next (.ite (h.putFn _ _).next (.ite (State.UidsOk.next (by exact h.congr rfl rfl)) (State.UidsOk.next (by exact h.congr rfl rfl))))

theorem State.UidsOk.evthead (h : s.UidsOk) (f : Nat) (x : BitVec 64) : Apart (execEvthead f x s) := (State.UidsOk.ite (h.putFn _ _) h).next

theorem State.UidsOk.eventStoreDrain (h : s.UidsOk) (f : Nat) : Apart (execEventStoreDrain f s) := by
  unfold execEventStoreDrain
  dsimp only
  split
  · exact h.next
  · exact (State.UidsOk.ite ((h.putFn _ _).ringRecord _ _) h).next

theorem State.UidsOk.interruptCoalesceExpiry (h : s.UidsOk) (f : Nat) : Apart (execInterruptCoalesceExpiry f s) := (h.putFn _ _).next

theorem State.UidsOk.queueError (h : s.UidsOk) (p c q : Nat) : (s.queueError p c q).UidsOk := h.record _

theorem State.UidsOk.ring (h : s.UidsOk) (p c q n : Nat) : (s.ring p c q n).UidsOk := by
  unfold State.ring
  split
  · exact h.queueError _ _ _
  · exact .ite h (.ite ((h.putQueue _).queueError _ _ _) (h.putQueue _))

theorem State.UidsOk.doorbell (h : s.UidsOk) (f o : Nat) (x : BitVec 64) : Apart (execDoorbell f o x s) :=
  .ite h.next (State.UidsOk.foldl (fun _ _ hs => hs.reWait _ _) _ (h.ring _ _ _ _)).next

theorem State.UidsOk.cleanSectors (h : s.UidsOk) (a n : Nat) : (s.cleanSectors a n).UidsOk := by
  refine .foldl (fun s k hs => ?_) _ h
  exact .ite (hs.congr rfl rfl) (hs.congr rfl rfl)

theorem State.UidsOk.bar4Access (h : s.UidsOk) (f o n : Nat) (d : Option (List (BitVec 8))) : Apart (execBar4Access f o n d s) := by
  have refuse : ∀ r k x, Apart (.next ((s.record r).putFn k x)) := fun r k x => ((h.record r).putFn k x).next
  unfold execBar4Access
  dsimp only
  refine .ite h.next (.ite (h.putFn _ _).next ?_)
  split
  · exact refuse _ _ _
  refine .ite (refuse _ _ _) ?_
  split
  · refine .ite (refuse _ _ _) ?_
    split
    · exact (h.putFn _ _).next
    · exact (((h.homeWrite _ _ _).cleanSectors _ _).putFn _ _).next
  · exact refuse _ _ _

/-! ### Contexts that end, resets (R431, R444, R462) -/

theorem State.UidsOk.endCtx (h : s.UidsOk) (p c : Nat) : (s.endCtx p c).UidsOk := by
  have h1 := State.UidsOk.foldl (f := fun s (t : Task) => (s.stopBlocks t.uid).slotDone t) (fun _ _ hs => (hs.stopBlocks _).slotDone _)
    (s.tasks.filter fun t => t.part == p && t.ctx == c && t.run.phase != Phase.done) h
  have h2 := fun l => (h1.l1Purges l fun _ x => x.part == p && x.ctx == c).landBacks (fun _ x => x.part == p && x.ctx == c)
  refine State.UidsOk.congr (s := List.foldl _ _ (s.tasks.filter fun t => t.part == p && t.ctx == c && t.run.phase != Phase.done))
    (.foldl (fun s t hs => ?_) _ (h2 _ _)) rfl rfl
  split
  · exact (hs.putTask _).completeTask _
  · exact hs

theorem State.UidsOk.cancelSwitch (h : s.UidsOk) (p : Part) : (s.cancelSwitch p).UidsOk := by
  unfold State.cancelSwitch
  dsimp only
  split
  · exact h.putPart _
  · refine State.UidsOk.resumeGroups (State.UidsOk.wakeEngines ?_ _ _) _
    split
    · exact (h.putPart _).putCtx _
    · exact h.putPart _

theorem State.UidsOk.afterCtx (h : s.UidsOk) (p c : Nat) : (s.afterCtx p c).UidsOk := by
  unfold State.afterCtx
  split
  · exact h
  · refine .ite (((h.clearLeft _).staleL1 _).putPart _) ?_
    split
    · exact h
    · exact .ite h (.ite (h.cancelSwitch _) (h.putPart _))

theorem State.UidsOk.resetVf (h : s.UidsOk) (f : Nat) : (s.resetVf f).UidsOk := by
  have he := State.UidsOk.foldl (f := fun s c => (s.endCtx (f - 1) c).afterCtx (f - 1) c) (fun _ _ hs => (hs.endCtx _ _).afterCtx _ _)
    ((s.ctxs.filter (·.part == f - 1)).map (·.num)) h
  exact he.congr rfl rfl

/-- A reset leaves no group. -/
theorem State.uidsOk_moduleReset (s : State) : s.moduleReset.UidsOk := ⟨List.nodup_nil, fun _ hg => absurd hg List.not_mem_nil⟩

theorem State.UidsOk.functionLevelReset (h : s.UidsOk) (f : Nat) : Apart (execFunctionLevelReset f s) :=
  .ite s.uidsOk_moduleReset.next (State.UidsOk.ite (h.resetVf _) h).next

end Sys2Proof.Machine
end

section
/-! SUPPORT. The groups stay apart (log 2) at the Malthouse commands, the operating points, the side-band and SPDM. -/

namespace Sys2Proof.Machine

variable {s : State}

/-! ### How a command ends (R433 to R437) -/

theorem State.UidsOk.finishCmd (h : s.UidsOk) (k : Nat) (r : Dword) : (s.finishCmd k r).UidsOk := by
  unfold State.finishCmd
  split
  · exact h
  · refine h.congr ?_ ?_
    · simp
    · simp

theorem State.UidsOk.waitCmd (h : s.UidsOk) : Apart s.waitCmd := State.UidsOk.next (h.congr rfl rfl)
theorem State.UidsOk.okCmd (h : s.UidsOk) (r : Nat) : Apart (s.okCmd r) := (h.finishCmd _ _).next
theorem State.UidsOk.refuse (h : s.UidsOk) (k : Nat) : Apart (s.refuse k) := (h.finishCmd _ _).next

theorem State.UidsOk.onPart (h : s.UidsOk) {y : Bool} {f : Part → Host.Outcome State Fault Refusal} (hf : ∀ p, Apart (f p)) :
    Apart (s.onPart y f) := by
  unfold State.onPart
  split
  · exact h.refuse _
  · refine .ite (h.refuse _) ?_
    split
    · exact h.refuse _
    · exact hf _

theorem State.UidsOk.onCtx (h : s.UidsOk) {y : Bool} {f : Nat → Ctx → Host.Outcome State Fault Refusal} (hf : ∀ n c, Apart (f n c)) :
    Apart (s.onCtx y f) := by
  unfold State.onCtx
  split
  · exact h.refuse _
  · refine .ite (h.refuse _) ?_
    split
    · exact h.refuse _
    · exact hf _ _

/-! ### The module, partitions and contexts (R436, R460 to R474) -/

theorem State.UidsOk.identify (h : s.UidsOk) : Apart (execIdentify s) := by
  unfold execIdentify
  dsimp only
  split
  · exact h.refuse _
  · exact (h.finishCmd _ _).next

theorem State.UidsOk.portConfig (h : s.UidsOk) : Apart (execPortConfig s) := by
  unfold execPortConfig
  dsimp only
  split
  · exact h.refuse _
  · exact .ite (h.refuse _) (.ite (h.refuse _) (.ite (h.refuse _) (.ite (h.refuse _) (State.UidsOk.okCmd (by exact h.congr rfl rfl) _))))

theorem State.UidsOk.partCreate (h : s.UidsOk) : Apart (execPartCreate s) := by
  unfold execPartCreate
  dsimp only
  split
  · exact h.refuse _
  split
  · exact h.refuse _
  · refine .ite (h.refuse _) (.ite (h.refuse _) (.ite (h.refuse _) ?_))
    exact (State.UidsOk.logEntry (State.UidsOk.putFn (by exact h.congr rfl rfl) _ _) _ _ _ _ _ _).okCmd _

theorem State.UidsOk.partDestroy (h : s.UidsOk) : Apart (execPartDestroy s) := by
  refine h.onPart fun p => .ite (h.refuse _) (.ite h.waitCmd (State.UidsOk.okCmd ?_ _))
  exact h.congr rfl rfl

theorem State.UidsOk.resizeStep (h : s.UidsOk) (p : Part) (d : BitVec 32) (q : Quota) : Apart (s.resizeStep p d q) :=
  .ite h.waitCmd (.ite (State.UidsOk.ite h ((h.staleL1 _).applyResize _ _ _)).waitCmd (h.putPart _).waitCmd)

theorem State.UidsOk.partResize (h : s.UidsOk) : Apart (execPartResize s) := by
  refine h.onPart fun p => ?_
  dsimp only
  split
  · exact .ite h.waitCmd ((h.putPart _).okCmd _)
  · exact h.resizeStep _ _ _
  split
  · exact h.refuse _
  · exact .ite (h.refuse _) (.ite (h.refuse _) (.ite (h.refuse _) (.ite (h.refuse _) ((h.putPart _).resizeStep _ _ _))))

theorem State.UidsOk.setHandler (h : s.UidsOk) : Apart (execSetHandler s) := by
  unfold execSetHandler
  dsimp only
  split
  · exact h.refuse _
  split
  · exact h.refuse _
  · exact .ite ((h.putPart _).okCmd _) (.ite (h.refuse _) ((h.putPart _).okCmd _))

theorem State.UidsOk.setPmc (h : s.UidsOk) : Apart (execSetPmc s) := h.onPart fun _ => (h.putPart _).okCmd _

theorem State.UidsOk.ctxCreate (h : s.UidsOk) : Apart (execCtxCreate s) := by
  unfold execCtxCreate
  dsimp only
  split
  · exact h.refuse _
  split
  · exact h.refuse _
  · exact .ite (h.refuse _) (.ite (h.refuse _) (.ite (h.refuse _) (State.UidsOk.okCmd (by exact h.congr rfl rfl) _)))

theorem State.UidsOk.ctxDestroy (h : s.UidsOk) : Apart (execCtxDestroy s) :=
  h.onCtx fun _ _ => .ite (h.refuse _) (.ite h.waitCmd (((h.endCtx _ _).afterCtx _ _).okCmd _))

theorem State.UidsOk.queueCreate (h : s.UidsOk) : Apart (execQueueCreate s) :=
  h.onCtx fun _ _ => .ite (h.refuse _) (.ite (h.refuse _) (State.UidsOk.okCmd (by exact h.congr rfl rfl) _))

theorem State.UidsOk.queueDestroy (h : s.UidsOk) : Apart (execQueueDestroy s) := by
  refine h.onCtx fun n x => ?_
  dsimp only
  split
  · exact .ite (h.refuse _) (h.refuse _)
  · exact .ite (h.refuse _) (State.UidsOk.okCmd (by exact h.congr rfl rfl) _)

/-! ### Mappings and packets (R128, R135 to R137, R436) -/

theorem State.UidsOk.map (h : s.UidsOk) : Apart (execMap s) := by
  refine h.onCtx fun n x => ?_
  split
  · exact h.refuse _
  · exact .ite (h.refuse _) (.ite (h.refuse _) ((h.putCtx _).okCmd _))

theorem State.UidsOk.map2 (h : s.UidsOk) : Apart (execMap2 s) := by
  refine h.onPart fun p => ?_
  split
  · exact h.refuse _
  · exact .ite (h.refuse _) (.ite (h.refuse _) (.ite (h.refuse _) (.ite (h.refuse _) ((h.putPart _).okCmd _))))

theorem State.UidsOk.unmap (h : s.UidsOk) : Apart (execUnmap s) :=
  h.onCtx fun _ _ => .ite (h.refuse _) (.ite (h.putCtx _).waitCmd (((h.putCtx _).llcClean _).okCmd _))

theorem State.UidsOk.invalCommand (h : s.UidsOk) : Apart (execInvalCommand s) := by
  unfold execInvalCommand
  dsimp only
  split
  · exact h.refuse _
  refine .ite (h.refuse _) (.ite ?_ ?_)
  · split
    · exact h.refuse _
    · exact .ite h.waitCmd ((h.llcClean _).okCmd _)
  · split
    · exact h.refuse _
    · exact .ite h.waitCmd ((h.llcClean _).okCmd _)

theorem State.UidsOk.answerCmd (h : s.UidsOk) (y : Bool) : Apart (s.answerCmd y) := by
  unfold State.answerCmd
  dsimp only
  split
  · exact h.refuse _
  split
  · rename_i e
    exact .ite h.waitCmd ((h.answer _ e).okCmd _)
  · exact h.refuse _

/-! ### Debuggers and apertures (R385, R387, R430) -/

theorem State.UidsOk.debugAttach (h : s.UidsOk) : Apart (execDebugAttach s) := h.onCtx fun _ _ => (h.putCtx _).okCmd _

theorem State.UidsOk.thaw (h : s.UidsOk) (g : Group) : (s.thaw g).UidsOk := by
  unfold State.thaw
  split
  · exact (h.putGroup _).settleGroup _ _
  · exact h

theorem State.UidsOk.debugDetach (h : s.UidsOk) : Apart (execDebugDetach s) :=
  h.onCtx fun _ _ => (State.UidsOk.foldl (fun _ _ hs => hs.thaw _) _ (h.putCtx _)).okCmd _

theorem State.UidsOk.debugResume (h : s.UidsOk) : Apart (execDebugResume s) := by
  unfold execDebugResume
  dsimp only
  split
  · exact h.refuse _
  split
  · exact (h.thaw _).okCmd _
  · exact h.refuse _

theorem State.UidsOk.debugWindow (h : s.UidsOk) : Apart (execDebugWindow s) := by
  unfold execDebugWindow
  dsimp only
  split
  · exact h.refuse _
  split
  · exact h.refuse _
  refine .ite (h.refuse _) (.ite ?_ ?_)
  · split
    · exact h.refuse _
    · exact (h.hostWrite _ _ _).okCmd _
  · split
    · exact h.refuse _
    · exact (h.putGroup _).okCmd _

theorem State.UidsOk.aperture (h : s.UidsOk) : Apart (execAperture s) := h.onCtx fun _ _ => .ite (h.refuse _) ((h.putFn _ _).okCmd _)

/-! ### Operating points and sensors (R501 to R505) -/

theorem State.UidsOk.standStill (h : s.UidsOk) : s.standStill.UidsOk := by
  refine .foldl (fun s u hs => ?_) _ (.foldl (fun _ _ hs => (hs.finishStep _).haltCopy _) _ h)
  split
  · split
    · dsimp only
      split
      · exact ((hs.finishAtomics _ _ _).putGroup _).retest _
      · exact hs.finishAtomics _ _ _
    · exact hs
  · exact hs

theorem State.UidsOk.goOnAll (h : s.UidsOk) : s.goOnAll.UidsOk := .foldl (fun _ _ hs => hs.pickUp _) _ h

theorem State.UidsOk.setOp (h : s.UidsOk) : Apart (execSetOp s) := by
  unfold execSetOp
  dsimp only
  split
  · exact h.refuse _
  · have hf : ∀ f, State.UidsOk { s with fleet := f } := fun f => h.congr rfl rfl
    refine .ite (h.refuse _) (.ite h.waitCmd (.ite (h.refuse _) (.ite (State.UidsOk.okCmd ?_ _) (State.UidsOk.okCmd ?_ _))))
    · exact .ite (hf _).goOnAll (hf _)
    · exact (State.UidsOk.ite (hf _).goOnAll (hf _)).congr rfl rfl

theorem State.UidsOk.opTransitionDone (h : s.UidsOk) : Apart (execOpTransitionDone s) := by
  unfold execOpTransitionDone
  split
  · exact h.next
  · have hf : ∀ f, State.UidsOk { s with fleet := f } := fun f => h.congr rfl rfl
    have hr : ∀ f, State.UidsOk { s.moduleReset with fleet := f } := fun f => s.uidsOk_moduleReset.congr rfl rfl
    exact .ite (hr _).next (.ite (hr _).next (.ite (hf _).standStill.next (State.UidsOk.ite (hf _).goOnAll (hf _)).next))

theorem State.UidsOk.thermhalt (h : s.UidsOk) (i : Nat) : Apart (execThermhalt i s) := by
  have hf : ∀ f, State.UidsOk { s with fleet := f } := fun f => h.congr rfl rfl
  exact .ite h.next ((hf _).standStill.record _).next

theorem State.UidsOk.sensorRefresh (h : s.UidsOk) (i : Nat) (x : Int) : Apart (execSensorRefresh i x s) :=
  .ite h.next (State.UidsOk.next (by exact h.congr rfl rfl))

theorem State.UidsOk.corrected (h : s.UidsOk) (d : Nat) : (s.corrected d).UidsOk := State.UidsOk.record (by exact h.congr rfl rfl) _

theorem State.UidsOk.patrolScrub (h : s.UidsOk) (a : Nat) (f : SoftError) : Apart (execPatrolScrub a f s) := by
  cases f with
  | clean => exact h.next
  | correctable => exact (h.corrected _).next
  | uncorrectable => exact ((h.poisonMem _).record _).next

theorem State.UidsOk.upset (h : s.UidsOk) (k u p : Nat) : (s.upset k u p).UidsOk := by
  unfold State.upset
  dsimp only
  refine .ite (h.corrected _) (.ite ?_ (.ite ?_ ?_))
  · split
    · exact (h.putGroup _).record _
    · exact h
  · split
    · exact (h.keepSector _ _).record _
    · exact h
  · split
    · exact h
    · exact .ite ((h.putBlock _).record _) ((h.putBlock _).record _)

/-! ### The side-band and SPDM (R485, R486, R500, R504) -/

theorem State.UidsOk.reply (h : s.UidsOk) (v : Via) (b : List Byte) : (s.reply v b).UidsOk := h.congr rfl rfl

theorem State.UidsOk.entdaa (h : s.UidsOk) : Apart (execEntdaa s) := by
  unfold execEntdaa
  split
  · exact (State.UidsOk.reply (by exact h.congr rfl rfl) _ _).next
  · exact h.next

theorem State.UidsOk.mctpControl (h : s.UidsOk) : Apart (execMctpControl s) := by
  unfold execMctpControl
  split
  · exact (State.UidsOk.reply (by exact h.congr rfl rfl) _ _).next
  · exact h.next

theorem State.UidsOk.pldmSensorRead (h : s.UidsOk) : Apart (execPldmSensorRead s) := by
  unfold execPldmSensorRead
  split
  · exact (h.reply _ _).next
  · exact h.next

theorem State.UidsOk.readErrlog (h : s.UidsOk) : Apart (execReadErrlog s) := by
  unfold execReadErrlog
  split
  · exact (h.reply _ _).next
  · exact h.next

theorem State.UidsOk.errlogInfo (h : s.UidsOk) : Apart (execErrlogInfo s) := by
  unfold execErrlogInfo
  split
  · split
    · exact (h.reply _ _).next
    · exact (h.reply _ _).next
  · exact h.next

theorem State.UidsOk.spdmSend (h : s.UidsOk) (b : List Byte) : (s.spdmSend b).UidsOk := h.reply _ _
theorem State.UidsOk.spdmReply (h : s.UidsOk) (b : List Byte) : Apart (s.spdmReply b) := (h.spdmSend _).next
theorem State.UidsOk.slotReply (h : s.UidsOk) : Apart s.slotReply := .ite (h.spdmReply _) (h.spdmSend _).next

theorem State.UidsOk.getMeasurements (h : s.UidsOk) : Apart (execGetMeasurements s) := by
  refine .ite (h.spdmReply _) (.ite (h.spdmReply _) ?_)
  split
  · exact h.spdmReply _
  · exact (h.spdmSend _).next

/-! ### Keys, images and logs (R476 to R484) -/

theorem State.UidsOk.keyEnroll (h : s.UidsOk) : Apart (execKeyEnroll s) :=
  h.onPart fun _ => .ite (h.refuse _) (.ite (h.refuse _) (.ite (h.refuse _) (((h.putPart _).logEntry _ _ _ _ _ _).okCmd _)))

theorem State.UidsOk.imageLoad (h : s.UidsOk) : Apart (execImageLoad s) := by
  unfold execImageLoad
  dsimp only
  split
  · exact h.refuse _
  split
  · exact h.refuse _
  refine .ite (h.refuse _) ?_
  split
  · exact h.refuse _
  refine .ite (h.refuse _) (.ite (h.refuse _) (.ite (h.refuse _) (.ite (h.refuse _) ?_)))
  split
  · exact h.okCmd _
  · exact ((h.putPart _).logEntry _ _ _ _ _ _).okCmd _

theorem State.UidsOk.imagePolicy (h : s.UidsOk) : Apart (execImagePolicy s) := h.onPart fun _ => (h.putPart _).okCmd _

theorem State.UidsOk.measureLog (h : s.UidsOk) : Apart (execMeasureLog s) := by
  unfold execMeasureLog
  dsimp only
  split
  · exact h.refuse _
  split
  · exact h.refuse _
  · exact .ite (h.finishCmd _ _).next ((h.hostWrite _ _ _).okCmd _)

end Sys2Proof.Machine
end

section
/-! SUPPORT. The groups stay apart (log 2) at every instruction, and at every step of the module. -/

namespace Sys2Proof.Machine

variable {s : State}

/-! ### The instructions -/

theorem State.UidsOk.xunpk (h : s.UidsOk) (hd : Head) (r : RArgs) : Apart (execXunpk hd r s) := h.runSlots _ _ _ _ _ _

theorem State.UidsOk.xpack (h : s.UidsOk) (hd : Head) (r : RArgs) : Apart (execXpack hd r s) := h.runSlots _ _ _ _ _ _

theorem State.UidsOk.xcvt (h : s.UidsOk) (hd : Head) (r : RArgs) : Apart (execXcvt hd r s) := h.runSlots _ _ _ _ _ _

theorem State.UidsOk.exec (h : s.UidsOk) (i : Instr) : Apart (exec i s) := by
  cases i with
  -- A register instruction, and one that moves its group alone, replaces its group.
  | iaddV _ _ | iaddA _ _ | iaddS _ _ | isubV _ _ | isubA _ _ | isubS _ _ | imulV _ _ | imulA _ _ | imulS _ _ | imulhV _ _
  | imulhS _ _ | imadV _ _ | imadA _ _ | imadS _ _ | imulwV _ _ | imulwS _ _ | iabsV _ _ | iabsS _ _ | iminV _ _ | iminS _ _
  | imaxV _ _ | imaxS _ _ | iaddsatV _ _ | iaddsatS _ _ | andV _ _ | andS _ _ | orV _ _ | orS _ _ | xorV _ _ | xorS _ _ | notV _ _
  | notS _ _ | shlV _ _ | shlA _ _ | shlS _ _ | shrV _ _ | shrS _ _ | sarV _ _ | sarS _ _ | rolV _ _ | rolS _ _ | bfxV _ _
  | bfxS _ _ | bfiV _ _ | bfiS _ _ | popcV _ _ | popcS _ _ | clzV _ _ | clzS _ _ | brevV _ _ | brevS _ _ | extV _ _ | extS _ _
  | iselV _ _ | iselS _ _ | icmpVarying _ _ | leaV _ _ | leaA _ _ | leaS _ _ | movV _ _ | movA _ _ | movS _ _ | moviV _ _
  | moviS _ _ | amake _ _ | alane _ _ | promUniformToAffine _ _ | promUniformToVarying _ _ | promAffineToVarying _ _ | vfirst _ _
  | faddF32V _ _ | faddF32S _ _ | faddF64V _ _ | faddF64S _ _ | fsubF32V _ _ | fsubF32S _ _ | fsubF64V _ _ | fsubF64S _ _
  | fmulF32V _ _ | fmulF32S _ _ | fmulF64V _ _ | fmulF64S _ _ | ffmaF32V _ _ | ffmaF32S _ _ | ffmaF64V _ _ | ffmaF64S _ _
  | fminF32V _ _ | fminF32S _ _ | fminF64V _ _ | fminF64S _ _ | fmaxF32V _ _ | fmaxF32S _ _ | fmaxF64V _ _ | fmaxF64S _ _
  | fcmpF32V _ _ | fcmpF64V _ _ | fdivF32V _ _ | fdivF32S _ _ | fdivF64V _ _ | fdivF64S _ _ | fsqrtF32V _ _ | fsqrtF32S _ _
  | fsqrtF64V _ _ | fsqrtF64S _ _ | frcp _ _ | frsq _ _ | flog2 _ _ | fexp2 _ _ | fsin _ _ | fcos _ _ | fcvtV _ _ | fcvtS _ _
  | frndV _ _ | frndS _ _ | fclass _ _ | fldexp _ _ | shfl _ _ | shfx _ _ | lredS _ _ | lredV _ _ | lscan _ _ | ballot _ _
  | rng _ _ | hshV _ _ | hshS _ _ | argmx _ _ | clk _ _ | fence _ _ | lcset _ _ | yield _ _ | sleep _ _ | hsave _ _ | hrest _ _ =>
    exact h.runSlot fun _ _ => .ok (h.putGroup _)
  | nop _ _ => exact h.runSlot fun _ _ => .ok h
  | icmpUniform _ _ | atest _ _ | fcmpF32S _ _ | fcmpF64S _ _ =>
    exact h.runSlot fun _ _ => h.uniPredOwn _ _ _ _ _ _ _ _
  | xunpk _ _ => exact h.xunpk _ _
  | xpack _ _ => exact h.xpack _ _
  | xcvt _ _ => exact h.xcvt _ _
  | ldV _ _ | ldS _ _ | stV _ _ | stS _ _ | ldw _ _ | stw _ _ | atomV _ _ | atomS _ _ | red _ _ | redo _ _ =>
    exact h.runSlot fun _ _ => h.memOwn
  | mloop _ _ | mloopg _ _ => exact h.runSlot fun _ _ => h.mloopOwn _ _ _ _
  | brl _ _ => exact h.runSlot fun _ _ => .done (h.finish _ _ _ _ _ _ _ _)
  | trap _ _ => exact h.runSlot fun _ _ => .fault
  | vuni _ _ => exact h.vuni _ _
  | qrow _ _ => exact h.qrow _ _
  | qscale _ _ => exact h.qscale _ _
  | lds _ _ => exact h.lds _ _
  | sts _ _ => exact h.sts _ _
  | prf _ _ => exact h.prf _ _
  | cmtk _ _ => exact h.cmtk _ _
  | cmtp _ _ => exact h.cmtp _ _
  | wcnt _ _ => exact h.wcnt _ _
  | cpy _ _ => exact h.cpy _ _
  | mout _ _ => exact h.mout _ _
  | mzero _ _ => exact h.mzero _ _
  | mbat _ _ => exact h.mbat _ _
  | mwait _ _ => exact h.mwait _ _
  | macq _ _ => exact h.macq _ _
  | mrel _ _ => exact h.mrel _ _
  | ownq _ _ => exact h.ownq _ _
  | bari _ _ => exact h.bari _ _
  | bara _ _ => exact h.bara _ _
  | barx _ _ => exact h.barx _ _
  | barw _ _ => exact h.barw _ _
  | gbar _ _ => exact h.gbar _ _
  | rbar _ _ => exact h.rbar _ _
  | work _ _ => exact h.work _ _
  | spawn _ _ => exact h.spawn _ _
  | rte _ _ => exact h.rteInstr _ _
  | bkpt _ _ => exact h.bkpt _ _
  | getsr _ _ => exact h.getsr _ _
  | setsr _ _ => exact h.setsr _ _
  | pmc _ _ => exact h.pmc _ _
  | winld _ _ => exact h.winld _ _
  | winst _ _ => exact h.winst _ _
  | bundleFetch _ _ => exact h.bundleFetch _ _
  | loadDataReturn _ _ => exact h.loadDataReturn _ _
  | accessPerformed _ _ => exact h.accessPerformed _ _
  | wcntRecheck _ => exact h.wcntRecheck _
  | sleepExpiry _ => exact h.sleepExpiry _
  | handlerEntry _ => exact h.handlerEntry _
  | watchdog _ => exact h.watchdog _
  | matrixStep _ => exact h.matrixStep _
  | matrixOperationComplete _ => exact h.matrixOperationComplete _
  | copyComplete _ => exact h.copyComplete _
  | blockPlace _ _ => exact h.blockPlace _ _
  | idGrant _ _ => exact h.idGrant _ _
  | mirrorAck _ => exact h.mirrorAck _
  | heldCore _ => exact h.heldCore _
  | blockRetire _ => exact h.blockRetire _
  | coopLaunch _ => exact h.coopLaunch _
  | slotConsume _ _ _ => exact h.slotConsume _ _ _
  | taskStartable _ => exact h.taskStartable _
  | depFailed _ => exact h.depFailed _
  | bind _ => exact h.bind _
  | pinit _ => exact h.pinit _
  | invstart _ => exact h.invstart _
  | flush _ => exact h.flush _
  | inval _ => exact h.inval _
  | final _ => exact h.final _
  | complete _ => exact h.complete _
  | slotReadback _ _ _ => exact h.slotReadback _ _ _
  | kilnReloadDone _ _ _ => exact h.kilnReloadDone _ _ _
  | gangTick _ => exact h.gangTick _
  | groupHalt _ => exact h.groupHalt _
  | dieSaveDone _ _ => exact h.dieSaveDone _ _
  | contextRestore _ => exact h.contextRestore _
  | switchLate _ _ => exact h.switchLate _ _
  | lateDieFence _ _ => exact h.lateDieFence _ _
  | scrubPass _ => exact h.scrubPass _
  | patrolScrub _ _ => exact h.patrolScrub _ _
  | sensorRefresh _ _ => exact h.sensorRefresh _ _
  | thermhalt _ => exact h.thermhalt _
  | interruptCoalesceExpiry _ => exact h.interruptCoalesceExpiry _
  | eventStoreDrain _ => exact h.eventStoreDrain _
  | flitReceive _ _ => exact h.flitReceive _ _
  | replayTimeout _ => exact h.replayTimeout _
  | auditStart _ => exact h.auditStart _
  | auditReply _ => exact h.auditReply _
  | auditTimeout _ => exact h.auditTimeout _
  | retrain _ => exact h.retrain _
  | retrainComplete _ _ => exact h.retrainComplete _ _
  | linkDown _ => exact h.linkDown _
  | dieFence _ => exact h.dieFence _
  | bar4Access _ _ _ _ => exact h.bar4Access _ _ _ _
  | registerWrite _ _ _ => exact h.registerWrite _ _ _
  | cmdtail _ _ => exact h.cmdtail _ _
  | evthead _ _ => exact h.evthead _ _
  | doorbell _ _ _ => exact h.doorbell _ _ _
  | functionLevelReset _ => exact h.functionLevelReset _
  | illegalOpcode op => exact h.illegalOpcode op
  | reconfigurationDone _ _ => exact h.reconfigurationDone _ _
  | opTransitionDone => exact h.opTransitionDone
  | routeInstall => exact h.routeInstall
  | meshSplit => exact h.meshSplit
  | identify => exact h.identify
  | portConfig => exact h.portConfig
  | partCreate => exact h.partCreate
  | partDestroy => exact h.partDestroy
  | partResize => exact h.partResize
  | setHandler => exact h.setHandler
  | setPmc => exact h.setPmc
  | ctxCreate => exact h.ctxCreate
  | ctxDestroy => exact h.ctxDestroy
  | queueCreate => exact h.queueCreate
  | queueDestroy => exact h.queueDestroy
  | map => exact h.map
  | unmap => exact h.unmap
  | map2 => exact h.map2
  | invalCommand => exact h.invalCommand
  | imageLoad => exact h.imageLoad
  | imagePolicy => exact h.imagePolicy
  | keyEnroll => exact h.keyEnroll
  | faultReplay => exact h.answerCmd _
  | faultDecline => exact h.answerCmd _
  | setOp => exact h.setOp
  | measureLog => exact h.measureLog
  | debugAttach => exact h.debugAttach
  | debugDetach => exact h.debugDetach
  | debugResume => exact h.debugResume
  | debugWindow => exact h.debugWindow
  | aperture => exact h.aperture
  | entdaa => exact h.entdaa
  | mctpControl => exact h.mctpControl
  | pldmSensorRead => exact h.pldmSensorRead
  | getVersion => exact h.spdmReply _
  | getCapabilities => exact h.spdmReply _
  | negotiateAlgorithms => exact h.spdmReply _
  | getDigests => exact h.spdmReply _
  | getCertificate => exact h.slotReply
  | challenge => exact h.slotReply
  | getMeasurements => exact h.getMeasurements
  | readErrlog => exact h.readErrlog
  | errlogInfo => exact h.errlogInfo
  | badOpcode => exact h.refuse _
  | unsupportedRequest => exact (h.spdmSend _).next
  | moduleReset => exact s.uidsOk_moduleReset.next

end Sys2Proof.Machine
end

section
/-! SUPPORT. The groups stay apart (log 2) at every step of the module: issue, its own steps, commands, the cycle that passes, the
script. -/

namespace Sys2Proof.Machine

variable {s : State}

/-! ### Issue (R33 to R35) -/

theorem State.UidsOk.latch (h : s.UidsOk) (c : Ready) : (s.latch c).UidsOk := h.congr rfl rfl

theorem State.UidsOk.decodeFault (h : s.UidsOk) (e : DecodeError) : Apart (decodeFault e s) := by
  unfold Machine.decodeFault
  split
  · exact apart_fault _
  · split
    · exact apart_fault _
    · exact .next (h.takeFault _ _)

theorem State.UidsOk.issueBad (h : s.UidsOk) (c : Ready) (e : DecodeError) : Apart (s.issueBad c e) := by
  unfold State.issueBad
  split
  · split
    · exact .next (h.congr rfl rfl)
    · exact h.decodeFault e
  · exact h.decodeFault e

theorem State.UidsOk.issue (h : s.UidsOk) (c : Ready) : Apart (s.issue c) := by
  have ho : Apart (match c.dec with
    | .ok i => Machine.exec i (s.latch c)
    | .error e => (s.latch c).issueBad c e) := by
    split
    · exact (h.latch c).exec _
    · exact (h.latch c).issueBad c _
  unfold State.issue
  dsimp only
  split
  · split
    · exact (h.latch c).exec _
    · exact ho
  · exact ho

theorem State.UidsOk.issueFirst (h : s.UidsOk) (l : List Ready) : ∀ o, s.issueFirst l = some o → Apart o := by
  induction l with
  | nil => exact fun o e => nomatch e
  | cons c l ih =>
    intro o e
    unfold State.issueFirst at e
    split at e
    · next s' hs =>
      split at e
      · exact ih o e
      · exact Option.some.inj e ▸ State.UidsOk.next (h.issue c s' hs)
    · exact Option.some.inj e ▸ h.issue c

/-! ### Commands (R433, R435) -/

theorem State.UidsOk.loadCmd (h : s.UidsOk) : s.loadCmd.UidsOk := by
  unfold State.loadCmd
  split
  · exact h
  · exact .ite h (h.congr rfl rfl)

theorem State.UidsOk.runCmd (h : s.UidsOk) : Apart s.runCmd := h.loadCmd.exec _

/-! ### The passing of a cycle -/

theorem Group.uid_apply (g : Group) (w : Write) : (g.apply w).uid = g.uid := by
  cases w with
  | hflag i n =>
    unfold Group.apply
    dsimp only
    split
    · split <;> rfl
    · rfl
  | _ => rfl

theorem Group.uid_land (g : Group) (t : Nat) : (g.land t).uid = g.uid := by
  unfold Group.land
  exact List.foldlRecOn (motive := fun g' : Group => g'.uid = g.uid) _ _ rfl fun g' hg _ _ => (g'.uid_apply _).trans hg

theorem State.uid_tickGroup (s : State) (g : Group) : (s.tickGroup g).uid = g.uid := g.uid_land s.now

theorem State.uid_countUp (s : State) (k e c : Nat) : (s.countUp k e c).uid = s.uid :=
  (s.home_countUp k e c).frame (·.uid) fun _ _ _ _ _ => rfl

theorem State.uid_tickCounts (s : State) (p : Part) : (s.tickCounts p).uid = s.uid := by
  unfold State.tickCounts
  split
  · rfl
  split
  · rfl
  refine List.foldlRecOn (motive := fun s' : State => s'.uid = s.uid) _ _ ?_ fun s' hs _ _ => (s'.uid_countUp _ _ _).trans hs
  exact List.foldlRecOn (motive := fun s' : State => s'.uid = s.uid) _ _ rfl fun s' hs _ _ => (s'.uid_countUp _ _ _).trans hs

theorem State.uid_tickChores (s : State) : s.tickChores.uid = s.uid := by
  unfold State.tickChores
  dsimp only
  split <;> split <;> rfl

theorem State.UidsOk.moreRoom (h : s.UidsOk) : s.moreRoom.UidsOk := .foldl (fun _ _ hs => hs.goOnPackets _) _ h

/-- A cycle changes what its groups hold, and gives no uid. -/
theorem State.UidsOk.advance (h : s.UidsOk) : s.advance.UidsOk := by
  have hu : ((s.parts.foldl (fun s' p => s'.tickCounts p) s).tickChores).uid = s.uid :=
    (State.uid_tickChores _).trans
      (List.foldlRecOn (motive := fun s' : State => s'.uid = s.uid) _ _ rfl fun s' hs _ _ => (s'.uid_tickCounts _).trans hs)
  refine State.UidsOk.moreRoom ?_
  exact h.mapGroups (fun g _ => s.uid_tickGroup g) rfl hu

/-! ### Steps (log 1, log 2) -/

theorem State.UidsOk.selfStep (h : s.UidsOk) : Apart s.selfStep := by
  have wait {t : State} (ht : t.UidsOk) : Apart (if t.fleet.busy && !t.cmdq.isEmpty then t.runCmd else .next t) :=
    Apart.ite ht.runCmd ht.next
  unfold State.selfStep
  split
  · exact .next (h.congr rfl rfl)
  split
  · exact h.runCmd
  split
  · exact h.exec _
  dsimp only
  split
  · exact wait h
  split
  · exact .next (h.moveOne _ ‹_›)
  split
  · exact h.issueFirst _ _ ‹_›
  · exact wait h.advance

theorem State.UidsOk.turn (h : s.UidsOk) (t : Turn) : Apart (s.turn t) := by
  cases t with
  | op i => exact .ite h.next (h.exec i)
  | host => exact .next (h.hostWrite _ _ _)
  | spdm => exact State.UidsOk.exec (by exact h.congr rfl rfl) _
  | side => exact State.UidsOk.exec (by exact h.congr rfl rfl) _
  | message k b =>
    unfold State.turn
    dsimp only
    split
    · exact State.UidsOk.exec (by exact h.congr rfl rfl) _
    · exact State.UidsOk.exec (by exact h.congr rfl rfl) _
    · exact h.next
  | send => exact .next (h.carry _)
  | peer => exact .next (h.congr rfl rfl)
  | until_ => exact h.next
  | hold => exact .next (h.congr rfl rfl)
  | config => exact .next (h.putFn _ _)
  | bar0 f o w v =>
    unfold State.turn
    dsimp only
    split
    · exact h.exec _
    · exact .next (.ite (h.putFn _ _) h)
  | bar2 f o w v =>
    unfold State.turn
    dsimp only
    split
    · exact h.exec _
    · exact .next (.ite (h.putFn _ _) h)
  | upset => exact .next (h.upset _ _ _)

theorem State.UidsOk.step (h : s.UidsOk) : Apart (step s) := by
  unfold Machine.step State.stepOnce
  split
  · exact h.selfStep
  · exact .ite h.selfStep (.next (h.congr rfl rfl))
  · exact State.UidsOk.turn (by exact h.congr rfl rfl) _

end Sys2Proof.Machine

namespace Sys2Proof.Claims

open Sys2Proof.Machine

/-- Settles O54: each step leads through operations that replace a group under its uid, take groups away, or give a group the next
uid and raise it. -/
theorem everyStepKeepsTheGroupsApart : Obligations.EveryStepKeepsTheGroupsApart := fun _ t h e => h.step t e

end Sys2Proof.Claims
end

section
/-! SUPPORT. What the statement of O56 leaves out: what is on its way between dies moves before any issue and before a cycle passes
(R488). -/

namespace Sys2Proof.Machine

/-- The module at OP2, ready, with nothing in it but one message that has come to die 0, where it was going. -/
def State.arrivedMessage : State :=
  { State.reset with fleet := { Fleet.reset with op := 2, ready := true }
                     msgs := [(0, none, { src := 1, dst := 0, vc := 0, kind := .data })] }

/-- The step takes the message in, in the cycle in which it stands. -/
theorem step_arrivedMessage : step State.arrivedMessage = .next { State.arrivedMessage with msgs := [] } := rfl

theorem now_advance_arrivedMessage : State.arrivedMessage.advance.now = State.arrivedMessage.now + 1 := rfl

end Sys2Proof.Machine

namespace Sys2Proof.Claims

open Sys2Proof.Machine

/-- Refutes O56: with no own step and no candidate the step of `State.arrivedMessage` is the arrival of a message (R488), where the
statement has a cycle pass. -/
theorem not_stepRunsTheDecodedInstruction : ¬ Obligations.StepRunsTheDecodedInstruction := by
  intro ⟨_, _, hstep⟩
  obtain ⟨hpass, _⟩ := hstep State.arrivedMessage (demoGroup State.reset) (handlerStart 0 0) 0 [] rfl rfl rfl rfl rfl
  have hcycle : step State.arrivedMessage = .next State.arrivedMessage.advance := hpass rfl
  rw [step_arrivedMessage] at hcycle
  have hnow : State.arrivedMessage.now = State.arrivedMessage.now + 1 :=
    (congrArg State.now (Host.Outcome.next.inj hcycle)).trans now_advance_arrivedMessage
  omega

end Sys2Proof.Claims
end

section
/-! SUPPORT. From a ring entry to the retirement of the last block (R26 to R51, R97, R99, R445, R453). -/

namespace Sys2Proof.Machine

variable {s : State} {t x y : Task} {p : Part} {u : Nat}

/-! ### Tasks replaced under their uids -/

theorem State.uid_of_task? (h : s.task? u = some x) : x.uid = u := by simpa using List.find?_some h

theorem State.task?_putTask (h : s.task? u = some x) : (s.putTask y).task? u = some (if y.uid = u then y else x) := by
  have e : (s.putTask y).task? u = (s.task? u).map fun z => if z.uid == y.uid then y else z :=
    find?_updIf (fun z hz => by rw [beq_iff_eq.1 hz]) s.tasks
  rw [e, h, Option.map_some, State.uid_of_task? h]
  exact congrArg some (if_congr (by rw [beq_iff_eq, eq_comm]) rfl rfl)

theorem State.task?_putTask_self (h : s.task? y.uid = some x) : (s.putTask y).task? y.uid = some y := by
  rw [State.task?_putTask h, if_pos rfl]

/-! ### What passes leave of a launch (R202, R205) -/

/-- A pass moves the commit position, at once or by way of the mirror, and nothing else of the launch. -/
theorem TaskRun.pass_frame {α : Type} (f : TaskRun → α) (hf : ∀ r c k, f { r with commit := c, csent := k } = f r) (r : TaskRun) (c : Nat) :
    f (r.pass c) = f r := by
  unfold TaskRun.pass
  dsimp only
  split
  · rfl
  · split <;> exact hf r _ _

/-- With a mirror the commit position waits for it. -/
theorem TaskRun.commit_pass {r : TaskRun} (h : r.mirror ≠ none) (c : Nat) : (r.pass c).commit = r.commit := by
  unfold TaskRun.pass
  dsimp only
  split
  · rfl
  · split
    · exact absurd ‹_› h
    · rfl

theorem TaskRun.passDone_frame {α : Type} (f : TaskRun → α) (hf : ∀ r c k, f { r with commit := c, csent := k } = f r) (r : TaskRun) :
    f r.passDone = f r := by
  unfold TaskRun.passDone
  split
  · rfl
  · exact (TaskRun.pass_frame f hf _ _).trans (hf r _ _)

/-- The launch before the pass on its way, if any, is performed. -/
def TaskRun.heard (r : TaskRun) (w : Told) : TaskRun :=
  { r with told := none, acked := w.sent.getD r.acked, sent := if r.sent == w.sent then none else r.sent,
           mirrorNew := false, cursor := w.csrSent.getD r.cursor,
           csrSent := if r.csrSent == w.csrSent then none else r.csrSent,
           rsent := r.rsent.filter (!w.rsent.contains ·) }

theorem TaskRun.acknowledged_eq (r : TaskRun) (w : Told) :
    r.acknowledged w = if w.csent.isSome && r.csent == w.csent then (r.heard w).passDone else r.heard w := rfl

theorem TaskRun.acknowledged_frame {α : Type} (f : TaskRun → α) (hf : ∀ r c k, f { r with commit := c, csent := k } = f r) (r : TaskRun)
    (w : Told) : f (r.acknowledged w) = f (r.heard w) := by
  rw [TaskRun.acknowledged_eq]
  split
  · exact TaskRun.passDone_frame f hf _
  · rfl

theorem TaskRun.commit_acknowledged {r : TaskRun} {w : Told} {c : Nat} (hw : w.csent = some c) (hr : r.csent = some c)
    (hm : r.mirror ≠ none) : (r.acknowledged w).commit = c := by
  rw [TaskRun.acknowledged_eq, if_pos (by rw [hw, hr]; simp)]
  have hc : (r.heard w).csent = some c := hr
  unfold TaskRun.passDone
  rw [hc]
  exact TaskRun.commit_pass (r := { r.heard w with commit := c, csent := none }) hm c

/-! ### Steps of a launch -/

theorem exec_slotConsume {q : Queue} {c n : Nat} {h : TaskHdr} {k : KDesc} {regs : List Region} (hp : s.part? n = some p)
    (hq : s.queue? n c q.num = some q) (hc : s.canConsume q = true) (hs : s.submit p c (s.slotRecord q) = (0, h, k, regs)) :
    exec (.slotConsume n c q.num) s = .next (State.reWait { s with
      uid := s.uid + 1, queues := (s.putQueue { q with head := q.head + 1 }).queues
      tasks := s.tasks ++ [{ uid := s.uid, part := n, ctx := c, queue := q.num, dev := q.dev, qprio := q.prio, seq := q.head, hdr := h,
                             kd := k, regions := regs, run := TaskRun.new }] } n c) := by
  change execSlotConsume n c q.num s = _
  unfold execSlotConsume
  simp only [hq, hp, hc, hs]
  rfl

theorem exec_taskStartable (ht : s.task? t.uid = some t) (hp : s.part? t.part = some p) (hc : s.canStart t = true) {d : Nat}
    {rest : List Nat} (hd : s.launchDies p t.hdr = d :: rest) :
    exec (.taskStartable t.uid) s = .next ({ s with uid := s.uid + 1 }.putTask { t with run := { t.run with
      phase := .starting, due := s.uid, leader := d, mirror := rest.head?, cursor := { record := 0, action := 0, unit := 0 } } }) := by
  change execTaskStartable t.uid s = _
  unfold execTaskStartable
  simp only [ht, hp, hc, Option.map_some, Option.getD_some, hd]
  cases rest <;> rfl

theorem exec_depFailed (ht : s.task? t.uid = some t) (hf : s.depFails t = true) :
    exec (.depFailed t.uid) s = .next ((s.putTask { t with run := { t.run with status := 3 } }).completeTask t.uid) := by
  change execDepFailed t.uid s = _
  unfold execDepFailed
  simp only [ht, hf]
  rfl

/-- What a launch's leader and mirror know alike, performed (R51, R205). -/
def State.perform (s : State) (t : Task) (w : Told) : State :=
  ((s.putTask { t with run := t.run.acknowledged w }).commitTell t.uid t.run.commit).rbarAck t w.rsent

/-- `mirrorAck` with something told, or with no mirror to tell. -/
theorem exec_mirrorAck (ht : s.task? t.uid = some t) (h : t.run.mirror = none ∨ t.run.told ≠ none) :
    exec (.mirrorAck t.uid) s =
      .next (if s.telling t.uid then s else s.perform t (t.run.told.getD t.run.telling)) := by
  change execMirrorAck t.uid s = _
  unfold execMirrorAck
  simp only [ht]
  split
  · next hm hw => simp [hm, hw] at h
  · rfl

theorem exec_mirrorAck_tells (ht : s.task? t.uid = some t) {m : Nat} (hm : t.run.mirror = some m) (hw : t.run.told = none)
    (ha : s.inTransit (.ask t.uid) = false) :
    exec (.mirrorAck t.uid) s = .next ((s.putTask { t with run := { t.run with told := some t.run.telling } }).carry
      { src := t.run.leader, dst := m, vc := 3, kind := .tell t.uid }) := by
  change execMirrorAck t.uid s = _
  unfold execMirrorAck
  simp only [ht, hm, hw, ha]
  rfl

theorem exec_blockPlace_asks (ht : s.task? t.uid = some t) (hp : s.part? t.part = some p) {c : Nat} (hg : t.run.grant = none)
    (ha : t.run.ask = none) (hl : t.launching = true) (hr : s.ctxRuns t.part t.ctx = true) (hc : s.coreFor p t = some c)
    (hn : s.preempted p t c = false) :
    exec (.blockPlace t.uid c) s = .next ((s.putTask { t with run := { t.run with
      ask := some (coreDie c, c), sent := t.run.mirror.map fun _ => t.run.granted + 1 } }).carry
        { src := coreDie c, dst := t.run.leader, vc := 3, kind := .ask t.uid }) := by
  change execBlockPlace t.uid c s = _
  unfold execBlockPlace
  simp [ht, hp, hr, hg, ha, hl, hc, hn, State.putRun]

theorem TaskRun.mayGrant_of {r : TaskRun} (hs : r.sent = none) (hm : r.mirror = none ∨ r.acked = r.granted + 1) :
    r.mayGrant = true := by
  simpa [TaskRun.mayGrant, hs] using hm

theorem exec_idGrant (ht : s.task? t.uid = some t) {d c : Nat} (ha : t.run.ask = some (d, c)) (hm : t.run.mayGrant = true)
    (hl : t.run.lost = false) (hi : s.inTransit (.ask t.uid) = false) :
    exec (.idGrant t.uid d) s = .next ((s.putTask { t with run := { t.run with
      granted := t.run.granted + 1, ask := none, grant := some (t.run.granted, c), held := [], waitFrom := s.now } }).carry
        { src := t.run.leader, dst := d, vc := 3, kind := .grant t.uid }) := by
  change execIdGrant t.uid d s = _
  unfold execIdGrant
  simp [ht, ha, hm, hl, hi, State.putRun]

theorem exec_blockPlace_places (ht : s.task? t.uid = some t) (hp : s.part? t.part = some p) {id c : Nat} {r : Room}
    (hg : t.run.grant = some (id, c)) (hr : s.ctxRuns t.part t.ctx = true) (hroom : s.roomFor p t c = some r)
    (hi : s.inTransit (.grant t.uid) = false) :
    exec (.blockPlace t.uid c) s = .next
      ((s.putTask { t with run := { t.run.place (s.served t.part t.ctx c) with grant := none } }).place t id c r) := by
  change execBlockPlace t.uid c s = _
  unfold execBlockPlace
  simp [ht, hp, hr, hg, hroom, hi, State.putRun]

/-! ### Retirement (R46, R498) -/

theorem State.retired_eq (ht : s.task? t.uid = some t) (hr : t.run.phase = .running) (b : Nat) :
    s.retired t.uid b =
      (((s.putTask { t with run := t.run.retire b }).commitTell t.uid t.run.commit).rbarTestTask t.uid).lastBlock t.uid := by
  unfold State.retired
  simp [ht, hr, State.putRun]

theorem State.tasks_dropBlock (s : State) (b : Block) : (s.dropBlock b).tasks = s.tasks := rfl

theorem exec_blockRetire {b : Block} (hb : s.block? b.uid = some b) (ht : s.task? t.uid = some t) (hbt : b.task = t.uid)
    (hr : s.canRetire b = true) :
    exec (.blockRetire b.uid) s = .next (if coreDie b.core = t.run.leader then (s.dropBlock b).retired t.uid b.blkid
      else (s.dropBlock b).carry { src := coreDie b.core, dst := t.run.leader, vc := 3, kind := .retire t.uid b.blkid }) := by
  have ht' : (s.dropBlock b).task? b.task = some t := hbt ▸ ht
  change execBlockRetire b.uid s = _
  unfold execBlockRetire
  simp only [hb, hr, ht']
  by_cases hd : coreDie b.core = t.run.leader <;> simp [hd]

end Sys2Proof.Machine
end

section
/-! SUPPORT. Of several cores the best (R31, R32), and what a launch does, step by step. -/

namespace Sys2Proof.Machine

/-! ### The best core -/

/-- A core that comes no later than another under a measure: it has more, or as much and a place no higher (R31). -/
def NoWorse (m : Nat → Nat) (c d : Nat) : Prop :=
  m d ≤ m c ∧ (m d = m c → coreY c < coreY d ∨ (coreY c = coreY d ∧ coreX c ≤ coreX d))

theorem NoWorse.refl (m : Nat → Nat) (c : Nat) : NoWorse m c c := ⟨le_rfl, fun _ => .inr ⟨rfl, le_rfl⟩⟩

theorem NoWorse.trans {m : Nat → Nat} {a b c : Nat} (h : NoWorse m a b) (k : NoWorse m b c) : NoWorse m a c := by
  unfold NoWorse at *
  omega

/-- Which of two cores `bestCore` keeps. -/
def betterCore (m : Nat → Nat) (d c : Nat) : Nat :=
  if m d < m c || (m c == m d && (coreY c < coreY d || (coreY c == coreY d && coreX c < coreX d))) then c else d

theorem noWorse_betterCore (m : Nat → Nat) (d c : Nat) : NoWorse m (betterCore m d c) d ∧ NoWorse m (betterCore m d c) c := by
  unfold betterCore NoWorse
  split
  · next h => simp at h; omega
  · next h => simp at h; omega

theorem betterCore_mem (m : Nat → Nat) (d c : Nat) : betterCore m d c = d ∨ betterCore m d c = c := by
  unfold betterCore
  split
  · exact .inr rfl
  · exact .inl rfl

theorem bestCore_cons (m : Nat → Nat) (c : Nat) (l : List Nat) : bestCore m (c :: l) = some (l.foldl (betterCore m) c) := by
  unfold bestCore
  rw [List.foldl_cons]
  induction l generalizing c with
  | nil => rfl
  | cons d l ih =>
    rw [List.foldl_cons, List.foldl_cons, ← ih]
    exact congrArg (fun b => List.foldl _ b l) (apply_ite some _ _ _).symm

theorem foldl_betterCore (m : Nat → Nat) (l : List Nat) (c : Nat) :
    l.foldl (betterCore m) c ∈ c :: l ∧ ∀ d ∈ c :: l, NoWorse m (l.foldl (betterCore m) c) d := by
  induction l generalizing c with
  | nil => exact ⟨List.mem_cons_self, by simpa using NoWorse.refl m c⟩
  | cons d l ih =>
    obtain ⟨hm, hb⟩ := ih (betterCore m c d)
    obtain ⟨hc, hd⟩ := noWorse_betterCore m c d
    have hself := hb _ List.mem_cons_self
    rw [List.foldl_cons]
    refine ⟨?_, fun e he => ?_⟩
    · rcases List.mem_cons.1 hm with h | h
      · rcases betterCore_mem m c d with e | e <;> rw [h, e] <;> simp
      · simp [h]
    · rcases List.mem_cons.1 he with rfl | he
      · exact hself.trans hc
      rcases List.mem_cons.1 he with rfl | he
      · exact hself.trans hd
      · exact hb e (List.mem_cons_of_mem _ he)

end Sys2Proof.Machine

namespace Sys2Proof.Claims

open Sys2Proof.Machine

theorem theBestCore : TheBestCore := by
  intro m l
  cases l with
  | nil => exact ⟨fun c h => (nomatch h), fun h => absurd rfl h⟩
  | cons c l =>
    obtain ⟨hm, hb⟩ := foldl_betterCore m l c
    rw [bestCore_cons]
    refine ⟨fun d hd => ?_, fun _ => rfl⟩
    cases hd
    exact ⟨hm, hb⟩

theorem taskLaunch : TaskLaunch := by
  intro s t p ht hp
  refine ⟨?_, ?_, ?_, ?_, ?_, ?_, ?_, ?_, ?_, ?_⟩
  · intro q h k regs hq _ _ hc hs
    exact exec_slotConsume hp hq hc hs
  · intro hc d rest hd
    have ht' : { s with uid := s.uid + 1 }.task? t.uid = some t := ht
    exact ⟨_, _, exec_taskStartable ht hp hc hd, State.task?_putTask_self ht', rfl, rfl, rfl, rfl, rfl⟩
  · exact exec_depFailed ht
  · intro w
    have frame {α : Type} (f : TaskRun → α) (hf : ∀ r c k, f { r with commit := c, csent := k } = f r) :=
      TaskRun.acknowledged_frame f hf t.run w
    refine ⟨frame (·.told) fun _ _ _ => rfl, frame (·.acked) fun _ _ _ => rfl, frame (·.cursor) fun _ _ _ => rfl,
      frame (·.granted) fun _ _ _ => rfl, fun h => ?_, fun h => ?_, fun k hk => ?_, fun c hw hc hm => ?_⟩
    · exact (frame (·.sent) fun _ _ _ => rfl).trans (by simp [TaskRun.heard, h])
    · exact (frame (·.csrSent) fun _ _ _ => rfl).trans (by simp [TaskRun.heard, h])
    · rw [frame (·.rsent) fun _ _ _ => rfl] at hk
      simpa [TaskRun.heard] using hk
    · exact TaskRun.commit_acknowledged hw hc hm
  · refine ⟨fun m hm hw ha => exec_mirrorAck_tells ht hm hw ha, fun w hw h1 h2 => ?_, fun w hw h => ?_, fun hm hw h1 h2 => ?_⟩
    · rw [exec_mirrorAck ht (.inr (by simp [hw]))]
      simp [State.telling, h1, h2, hw, State.perform]
    · rw [exec_mirrorAck ht (.inr (by simp [hw]))]
      simp [State.telling, h]
    · rw [exec_mirrorAck ht (.inl hm)]
      simp [State.telling, h1, h2, hw, State.perform, TaskRun.telling]
  · intro c hg ha hl hr hc hn
    exact exec_blockPlace_asks ht hp hg ha hl hr hc hn
  · intro d c ha hs hm hl hi
    exact exec_idGrant ht ha (TaskRun.mayGrant_of hs hm) hl hi
  · intro id c r hg hr hroom hi
    exact exec_blockPlace_places ht hp hg hr hroom hi
  · intro b hb hbt hr
    refine ⟨fun hd hrun => ?_, fun hd => ?_⟩
    · rw [exec_blockRetire hb ht hbt hr, if_pos hd, State.retired_eq (s := s.dropBlock b) ht hrun]
    · rw [exec_blockRetire hb ht hbt hr, if_neg hd]
  · intro b hr
    exact State.retired_eq ht hr b

end Sys2Proof.Claims
end

section
/-! SUPPORT. What leaves an L1, a message that sets out and an event record leave the tasks, the blocks, the groups, the fenced dies
and the links as they are (R121, R122, R441, R498). -/

namespace Sys2Proof.Machine

variable {s t u : State}

/-- Two states with the same tasks, blocks, groups, fenced dies and links. -/
structure State.SameLaunch (s t : State) : Prop where
  tasks    : t.tasks = s.tasks
  blocks   : t.blocks = s.blocks
  groups   : t.groups = s.groups
  deadDies : t.deadDies = s.deadDies
  links    : t.links = s.links

theorem State.SameLaunch.refl (s : State) : s.SameLaunch s := ⟨rfl, rfl, rfl, rfl, rfl⟩

theorem State.SameLaunch.trans (h : s.SameLaunch t) (k : t.SameLaunch u) : s.SameLaunch u :=
  ⟨k.tasks.trans h.tasks, k.blocks.trans h.blocks, k.groups.trans h.groups, k.deadDies.trans h.deadDies, k.links.trans h.links⟩

theorem State.SameLaunch.foldl {α : Type} {f : State → α → State} (hf : ∀ (s : State) a, s.SameLaunch (f s a)) (l : List α) (s : State) :
    s.SameLaunch (l.foldl f s) := by
  induction l generalizing s with
  | nil => exact .refl s
  | cons a l ih => exact (hf s a).trans (ih _)

theorem State.task?_congr (h : t.tasks = s.tasks) (n : Nat) : t.task? n = s.task? n := by rw [State.task?, State.task?, h]

theorem State.SameLaunch.ite {c : Prop} [Decidable c] (h : s.SameLaunch t) (k : s.SameLaunch u) : s.SameLaunch (if c then t else u) := by
  split
  · exact h
  · exact k

theorem State.SameLaunch.home (h : s.Home t) : s.SameLaunch t where
  tasks := h.frame (·.tasks) fun _ _ _ _ _ => rfl
  blocks := h.frame (·.blocks) fun _ _ _ _ _ => rfl
  groups := h.frame (·.groups) fun _ _ _ _ _ => rfl
  deadDies := h.frame (·.deadDies) fun _ _ _ _ _ => rfl
  links := h.frame (·.links) fun _ _ _ _ _ => rfl

variable (s)

theorem State.sameLaunch_putCore (c : Nat) (k : Core) : s.SameLaunch (s.putCore c k) := ⟨rfl, rfl, rfl, rfl, rfl⟩
theorem State.sameLaunch_putFn (f : Nat) (x : Fn) : s.SameLaunch (s.putFn f x) := ⟨rfl, rfl, rfl, rfl, rfl⟩

theorem State.sameLaunch_hostWrite (f a : Nat) (b : List Byte) : s.SameLaunch (s.hostWrite f a b) := ⟨rfl, rfl, rfl, rfl, rfl⟩

theorem State.sameLaunch_carry (m : Msg) : s.SameLaunch (s.carry m) := .ite (.refl s) ⟨rfl, rfl, rfl, rfl, rfl⟩

theorem State.sameLaunch_poisonMem (w : Nat) : s.SameLaunch (s.poisonMem w) := .ite ⟨rfl, rfl, rfl, rfl, rfl⟩ ⟨rfl, rfl, rfl, rfl, rfl⟩

theorem State.sameLaunch_writeBack (x : Sector) : s.SameLaunch (s.writeBack x) :=
  .ite (.refl s) <| .trans
    (.foldl (fun s _ => .ite (.home (s.home_homeWrite _ _ _)) (.refl s)) _ s)
    (.foldl (fun s _ => .ite (s.sameLaunch_poisonMem _) (.refl s)) _ _)

theorem State.sameLaunch_sendBack (c : Nat) (x : Sector) : s.SameLaunch (s.sendBack c x) :=
  .ite (s.sameLaunch_writeBack x) (s.sameLaunch_carry _)

theorem State.sameLaunch_l1Trim (p c cap n : Nat) : s.SameLaunch (s.l1Trim p c cap n) := by
  induction n generalizing s with
  | zero => exact .refl s
  | succ n ih =>
    unfold State.l1Trim
    refine .ite (.refl s) ?_
    split
    · exact .refl s
    · exact ((s.sameLaunch_sendBack _ _).trans (State.sameLaunch_putCore _ _ _)).trans (ih _)

theorem State.sameLaunch_l1Fit (p c cap : Nat) : s.SameLaunch (s.l1Fit p c cap) := s.sameLaunch_l1Trim _ _ _ _

theorem State.sameLaunch_l1Purge (c : Nat) (p : Sector → Bool) : s.SameLaunch (s.l1Purge c p) :=
  .trans (.foldl (fun s _ => .ite (s.sameLaunch_sendBack _ _) (.refl s)) _ s) (State.sameLaunch_putCore _ _ _)

theorem State.sameLaunch_ringRecord (f : Nat) (r : Record) : s.SameLaunch (s.ringRecord f r) :=
  (s.sameLaunch_hostWrite _ _ _).trans (State.sameLaunch_putFn _ _ _)

theorem State.sameLaunch_deliver (f : Nat) (i : RecInfo) : s.SameLaunch (s.deliver f i) :=
  (s.sameLaunch_putFn f { s.fn f with evtSeq := (s.fn f).evtSeq + 1 }).trans
    (.ite (State.sameLaunch_ringRecord _ _ _) (.ite (State.sameLaunch_putFn _ _ _) (State.sameLaunch_putFn _ _ _)))

theorem State.sameLaunch_record (i : RecInfo) : s.SameLaunch (s.record i) :=
  State.SameLaunch.trans (t := if logged i.type then { s with fleet := s.fleet.log i } else s)
    (.ite ⟨rfl, rfl, rfl, rfl, rfl⟩ (.refl s)) (State.sameLaunch_deliver _ _ _)

end Sys2Proof.Machine
end

section
/-! SUPPORT. Cooperative launches (R26, R27; log 79): which core each block's room is found on, and what their placement leaves. -/

namespace Sys2Proof.Machine

variable {s : State} {t x : Task} {p : Part}

/-! ### Where each block's room is found (R26, R27) -/

theorem Quota.length_fitMany {q : Quota} {k : KDesc} {n : Nat} {r : Room} {l : List Room} (h : q.fitMany k n r = some l) :
    l.length = n := by
  induction n generalizing r l with
  | zero => cases h; rfl
  | succ n ih =>
    unfold Quota.fitMany at h
    split at h
    · cases h
    · obtain ⟨l', hl', rfl⟩ := Option.map_eq_some_iff.1 h
      rw [List.length_cons, ih hl']

/-- Block `id` is the block number `id div C` of those that core `id mod C` receives (R26). -/
theorem div_lt_shareOf {nblk n id : Nat} (h : id < nblk) : id / n < shareOf nblk n (id % n) := by
  have hm : id % n ≤ id := Nat.mod_le _ _
  unfold shareOf
  rw [if_pos (by omega), Nat.lt_succ_iff, Nat.div_eq_sub_mod_div (m := id)]
  exact Nat.div_le_div_right (by omega)

/-- What `coopFit` adds for one core of the rectangle: the rooms of the blocks that it gets. -/
def Task.coopAdd (t : Task) (q : Quota) (held : Nat → Room) (n : Nat) (acc : Option (List (Nat × Nat × Room))) (x : Nat × Nat) :
    Option (List (Nat × Nat × Room)) :=
  match acc, q.fitMany t.kd (shareOf t.hdr.nblk n x.2) (held x.1) with
  | some l, some rs => some (l ++ (rs.zip (List.range rs.length)).map fun (r, j) => (x.2 + j * n, x.1, r))
  | _, _ => none

theorem Task.coopFit_eq (t : Task) (q : Quota) (held : Nat → Room) :
    t.coopFit q held = if 16 * t.rectCores.length < t.hdr.nblk then none
      else (t.rectCores.zip (List.range t.rectCores.length)).foldl (t.coopAdd q held t.rectCores.length) (some []) := rfl

/-- The blocks of one core: each has the core's number in the rectangle as its id mod C, and none of its share is left out. -/
theorem Task.coopAdd_spec {q : Quota} {held : Nat → Room} {n : Nat} {acc : Option (List (Nat × Nat × Room))} {x : Nat × Nat}
    {l : List (Nat × Nat × Room)} (h : t.coopAdd q held n acc x = some l) :
    ∃ l₀, acc = some l₀ ∧ (∀ e ∈ l, e ∈ l₀ ∨ ∃ j r, e = (x.2 + j * n, x.1, r)) ∧ (∀ e ∈ l₀, e ∈ l) ∧
      ∀ j < shareOf t.hdr.nblk n x.2, ∃ r, (x.2 + j * n, x.1, r) ∈ l := by
  unfold Task.coopAdd at h
  split at h
  · next l₀ rs hrs =>
    cases h
    refine ⟨l₀, rfl, fun e he => ?_, fun e he => List.mem_append_left _ he, fun j hj => ?_⟩
    · rcases List.mem_append.1 he with he | he
      · exact .inl he
      · obtain ⟨⟨r, j⟩, _, rfl⟩ := List.mem_map.1 he
        exact .inr ⟨j, r, rfl⟩
    · have hjr : j < rs.length := (Quota.length_fitMany hrs).symm ▸ hj
      refine ⟨rs[j], List.mem_append_right _ (List.mem_map.2 ⟨(rs[j], j), ?_, rfl⟩)⟩
      exact List.mem_iff_getElem.2 ⟨j, by simpa using hjr, by simp⟩
  · cases h

theorem Task.foldl_coopAdd {q : Quota} {held : Nat → Room} {n : Nat} {xs : List (Nat × Nat)} :
    ∀ {acc : Option (List (Nat × Nat × Room))} {l : List (Nat × Nat × Room)}, xs.foldl (t.coopAdd q held n) acc = some l →
    ∃ l₀, acc = some l₀ ∧ (∀ e ∈ l, e ∈ l₀ ∨ ∃ x ∈ xs, ∃ j r, e = (x.2 + j * n, x.1, r)) ∧ (∀ e ∈ l₀, e ∈ l) ∧
      ∀ x ∈ xs, ∀ j < shareOf t.hdr.nblk n x.2, ∃ r, (x.2 + j * n, x.1, r) ∈ l := by
  induction xs with
  | nil => exact fun h => ⟨_, h, fun e he => .inl he, fun e he => he, fun x hx => (nomatch hx)⟩
  | cons x xs ih =>
    intro acc l h
    obtain ⟨l₁, h₁, hl, hl₁, hx⟩ := ih h
    obtain ⟨l₀, h₀, ha, ha₀, hshare⟩ := Task.coopAdd_spec h₁
    refine ⟨l₀, h₀, fun e he => ?_, fun e he => hl₁ e (ha₀ e he), fun y hy j hj => ?_⟩
    · rcases hl e he with he | ⟨y, hy, hj⟩
      · exact (ha e he).imp_right fun hj => ⟨x, List.mem_cons_self, hj⟩
      · exact .inr ⟨y, List.mem_cons_of_mem _ hy, hj⟩
    · rcases List.mem_cons.1 hy with rfl | hy
      · obtain ⟨r, hr⟩ := hshare j hj
        exact ⟨r, hl₁ _ hr⟩
      · exact hx y hy j hj

/-- Where the blocks of a cooperative task fit: every block has room, and its core is number id mod C of the rectangle (R26). -/
theorem Task.coopFit_spec {q : Quota} {held : Nat → Room} {l : List (Nat × Nat × Room)} (h : t.coopFit q held = some l) :
    (∀ e ∈ l, e.2.1 = t.rectCores.getD (e.1 % t.rectCores.length) 0) ∧ ∀ id < t.hdr.nblk, ∃ c r, (id, c, r) ∈ l := by
  rw [Task.coopFit_eq] at h
  split at h
  · cases h
  next hn =>
  obtain ⟨l₀, h₀, hl, _, hall⟩ := Task.foldl_coopAdd h
  cases h₀
  refine ⟨fun e he => ?_, fun id hid => ?_⟩
  · obtain ⟨x, hx, j, r, rfl⟩ := (hl e he).resolve_left List.not_mem_nil
    obtain ⟨i, hi, rfl⟩ := List.mem_iff_getElem.1 hx
    have hi' : i < t.rectCores.length := by simpa using hi
    simp [Nat.mod_eq_of_lt hi', hi']
  · have hlt : id % t.rectCores.length < t.rectCores.length := Nat.mod_lt _ (by omega)
    have hmem : (t.rectCores[id % t.rectCores.length], id % t.rectCores.length) ∈
        t.rectCores.zip (List.range t.rectCores.length) :=
      List.mem_iff_getElem.2 ⟨id % t.rectCores.length, by simpa using hlt, by simp⟩
    obtain ⟨r, hr⟩ := hall _ hmem (id / t.rectCores.length) (div_lt_shareOf hid)
    rw [Nat.mod_add_div'] at hr
    exact ⟨_, r, hr⟩

/-! ### Placement -/

theorem State.tasks_place (s : State) (t : Task) (id c : Nat) (r : Room) : (s.place t id c r).tasks = s.tasks :=
  (State.sameLaunch_l1Fit _ _ _ _).tasks

theorem State.blocks_place (s : State) (t : Task) (id c : Nat) (r : Room) :
    (s.place t id c r).blocks = s.blocks ++ [Block.placed s.uid t id c r] := (State.sameLaunch_l1Fit _ _ _ _).blocks

theorem State.groups_place (s : State) (t : Task) (id c : Nat) (r : Room) :
    (s.place t id c r).groups = s.groups ++ (r.slots.zip (List.range t.kd.ngrp)).map fun (sl, i) =>
      Group.placed (s.uid + 1 + i) s.uid c sl i t.kd.nregs t.kd.entry s.now (((s.ctx? t.part t.ctx).map (·.clk)).getD 0) :=
  (State.sameLaunch_l1Fit _ _ _ _).groups

/-- Block `id` of a task stands on a core with the slots, rows and tiles of a room, one group in each slot. -/
def State.Stands (s : State) (t : Task) (id c : Nat) (r : Room) : Prop :=
  ∃ b ∈ s.blocks, b.task = t.uid ∧ b.blkid = id ∧ b.core = c ∧ b.slots = r.slots ∧ b.runs = r.runs ∧ b.accs = r.accs ∧
    ∀ i sl, r.slots[i]? = some sl → i < t.kd.ngrp →
      ∃ g ∈ s.groups, g.block = b.uid ∧ g.core = b.core ∧ g.gslot = sl ∧ g.gindex = i ∧ g.live = allLanes

theorem State.stands_place (s : State) (t : Task) (id c : Nat) (r : Room) : (s.place t id c r).Stands t id c r := by
  refine ⟨Block.placed s.uid t id c r, by simp [State.blocks_place], rfl, rfl, rfl, rfl, rfl, rfl, fun i sl hi hg => ?_⟩
  rw [State.groups_place]
  obtain ⟨hi', rfl⟩ := List.getElem?_eq_some_iff.1 hi
  refine ⟨_, List.mem_append_right _ (List.mem_map.2 ⟨(r.slots[i], i), ?_, rfl⟩), rfl, rfl, rfl, rfl, rfl⟩
  exact List.mem_iff_getElem.2 ⟨i, by simpa using ⟨hi', hg⟩, by simp⟩

theorem State.Stands.place {id c : Nat} {r : Room} (h : s.Stands t id c r) (x : Task) (id' c' : Nat) (r' : Room) :
    (s.place x id' c' r').Stands t id c r := by
  obtain ⟨b, hb, h1, h2, h3, h4, h5, h6, hg⟩ := h
  refine ⟨b, by simp [State.blocks_place, hb], h1, h2, h3, h4, h5, h6, fun i sl hi hlt => ?_⟩
  obtain ⟨g, hgm, hg⟩ := hg i sl hi hlt
  exact ⟨g, by rw [State.groups_place]; exact List.mem_append_left _ hgm, hg⟩

/-- One block of a cooperative task placed where there is room for it. -/
def State.placeIn (x : Task) (l : List (Nat × Nat × Room)) (s : State) (b : Nat) : State :=
  match l.find? (·.1 == b) with
  | some (_, c, r) => s.place x b c r
  | none => s

theorem State.tasks_placeIn (l : List (Nat × Nat × Room)) (s : State) (b : Nat) : (s.placeIn x l b).tasks = s.tasks := by
  unfold State.placeIn
  split
  · exact State.tasks_place _ _ _ _ _
  · rfl

theorem State.Stands.placeIn {id c : Nat} {r : Room} (h : s.Stands t id c r) (l : List (Nat × Nat × Room)) (b : Nat) :
    (s.placeIn x l b).Stands t id c r := by
  unfold State.placeIn
  split
  · exact h.place _ _ _ _
  · exact h

theorem State.stands_placeIn {l : List (Nat × Nat × Room)} {id : Nat} (h : ∃ c r, (id, c, r) ∈ l) (s : State) :
    ∃ c r, (id, c, r) ∈ l ∧ (s.placeIn x l id).Stands x id c r := by
  obtain ⟨c, r, hm⟩ := h
  obtain ⟨⟨id', c', r'⟩, hf⟩ := Option.isSome_iff_exists.1 ((List.find?_isSome (p := fun e => e.1 == id)).2 ⟨_, hm, by simp⟩)
  obtain rfl : id' = id := by simpa using List.find?_some hf
  refine ⟨c', r', List.mem_of_find?_eq_some hf, ?_⟩
  unfold State.placeIn
  rw [hf]
  exact State.stands_place _ _ _ _ _

theorem State.foldl_placeIn (l : List (Nat × Nat × Room)) (ids : List Nat) (s : State) :
    (ids.foldl (State.placeIn x l) s).tasks = s.tasks ∧
    (∀ id c r, s.Stands x id c r → (ids.foldl (State.placeIn x l) s).Stands x id c r) ∧
    ∀ id ∈ ids, (∃ c r, (id, c, r) ∈ l) → ∃ c r, (id, c, r) ∈ l ∧ (ids.foldl (State.placeIn x l) s).Stands x id c r := by
  induction ids generalizing s with
  | nil => exact ⟨rfl, fun _ _ _ h => h, fun _ h => (nomatch h)⟩
  | cons b ids ih =>
    obtain ⟨ht, hk, hall⟩ := ih (s.placeIn x l b)
    refine ⟨ht.trans (State.tasks_placeIn _ _ _), fun id c r h => hk id c r (h.placeIn l b), fun id hid hl => ?_⟩
    rcases List.mem_cons.1 hid with rfl | hid
    · obtain ⟨c, r, hm, hs⟩ := State.stands_placeIn hl s
      exact ⟨c, r, hm, hk _ _ _ hs⟩
    · exact hall id hid hl

end Sys2Proof.Machine
end

section
/-! SUPPORT. The steps of a cooperative launch (R26, R27), and the cores that are held (R32). -/

namespace Sys2Proof.Machine

variable {s : State} {t x : Task} {p : Part}

/-- The state in which a cooperative task's blocks are placed: a fused one's L1s are emptied first (R125). -/
def State.coopReady (s : State) (x : Task) : State :=
  if x.kd.fused then x.rectCores.foldl (fun s c => s.l1Purge c (·.part == x.part)) (s.widen x) else s

/-- The cores that a cooperative task runs on. -/
def State.coopServed (s : State) (x : Task) : List Nat :=
  if x.kd.fused then x.rectCores else (x.coopCores.flatMap ((s.coopReady x).served x.part x.ctx)).eraseDups

theorem State.coopPlace_eq (s : State) (x : Task) (l : List (Nat × Nat × Room)) :
    s.coopPlace x l =
      (List.range x.hdr.nblk).foldl (State.placeIn x l) ((s.coopReady x).putTask { x with run := x.run.place (s.coopServed x) }) := rfl

theorem State.task?_widen {u : Nat} (h : s.task? u = some t) (x : Task) : ∃ t', (s.widen x).task? u = some t' := by
  unfold State.widen State.task?
  dsimp only
  rw [find?_updIf, show s.tasks.find? (·.uid == u) = some t from h]
  · exact ⟨_, rfl⟩
  · intros; rfl

theorem State.task?_coopReady {u : Nat} (h : s.task? u = some t) (x : Task) : ∃ t', (s.coopReady x).task? u = some t' := by
  unfold State.coopReady
  split
  · obtain ⟨t', ht'⟩ := State.task?_widen h x
    have k := State.SameLaunch.foldl (fun s c => s.sameLaunch_l1Purge c (·.part == x.part)) x.rectCores (s.widen x)
    exact ⟨t', (State.task?_congr k.tasks u).trans ht'⟩
  · exact ⟨t, h⟩

theorem State.coopPlace_spec (ht : s.task? t.uid = some t) {l : List (Nat × Nat × Room)}
    (hl : ∀ id < t.hdr.nblk, ∃ c r, (id, c, r) ∈ l) :
    (∃ t', (s.coopPlace t l).task? t.uid = some t' ∧ t'.run.granted = t.run.granted ∧ t'.run.phase = .running) ∧
    ∀ id < t.hdr.nblk, ∃ c r, (id, c, r) ∈ l ∧ (s.coopPlace t l).Stands t id c r := by
  rw [State.coopPlace_eq]
  obtain ⟨htasks, _, hall⟩ := State.foldl_placeIn (x := t) l (List.range t.hdr.nblk)
    ((s.coopReady t).putTask { t with run := t.run.place (s.coopServed t) })
  obtain ⟨t', ht'⟩ := State.task?_coopReady ht t
  refine ⟨⟨{ t with run := t.run.place (s.coopServed t) }, ?_, rfl, rfl⟩, fun id hid => hall id (List.mem_range.2 hid) (hl id hid)⟩
  exact (State.task?_congr htasks _).trans (State.task?_putTask_self (y := { t with run := t.run.place (s.coopServed t) }) ht')

/-- What `coopLaunch` does for a cooperative task that is ready (R26, R27). -/
def State.coopNext (s : State) (p : Part) (t : Task) : State :=
  if s.coopUnfit p t then s.endTask t.uid 0x17 0
  else if t.run.granted == 0 then
    if t.coopCores.any (s.preempted p t) || (s.coopNow p t).isNone || t.run.sent.isSome then s
    else if t.run.mirror.isSome && t.run.acked != t.hdr.nblk then s.putTask { t with run := { t.run with sent := some t.hdr.nblk } }
    else s.coopGrant t
  else if s.inTransit (.grant t.uid) then s
  else ((s.coopRoom p t).map fun l => s.coopPlace t l).getD s

theorem exec_coopLaunch (ht : s.task? t.uid = some t) (hp : s.part? t.part = some p) (hc : t.hdr.coop = true)
    (hr : t.run.phase = .ready) (hx : s.ctxRuns t.part t.ctx = true) : exec (.coopLaunch t.uid) s = .next (s.coopNext p t) := by
  change execCoopLaunch t.uid s = _
  unfold execCoopLaunch State.coopNext
  simp only [ht, hp, hc, hr, hx, apply_ite Host.Outcome.next]
  cases s.coopRoom p t <;> rfl

theorem State.coopUnfit_iff : s.coopUnfit p t = true ↔
    s.rectOk p t = false ∨ (t.coopFit p.quota fun _ => { slots := [], runs := [], accs := [] }) = none := by
  simp [State.coopUnfit]

theorem exec_heldCore (ht : s.task? t.uid = some t) (hp : s.part? t.part = some p) (hw : s.waitedLong t = true) :
    exec (.heldCore t.uid) s = .next (s.putTask { t with run := { t.run with
      waitFrom := s.now
      held := if t.hdr.coop then t.rectCores else (s.launchDies p t.hdr).filterMap fun d =>
        bestCore (s.freeRows p t.ctx) (((List.range 48).map (48 * d + ·)).filter (s.coreOk p)) } }) := by
  change execHeldCore t.uid s = _
  unfold execHeldCore
  simp only [ht, hp, hw]
  rfl

end Sys2Proof.Machine

namespace Sys2Proof.Claims

open Sys2Proof.Machine

theorem cooperativeLaunchAndHeldCores : CooperativeLaunchAndHeldCores := by
  intro s t p ht hp free
  refine ⟨fun hc hr hx hu => ?_, fun hc hr hx hrect hfit => ?_, exec_heldCore ht hp⟩
  · rw [exec_coopLaunch ht hp hc hr hx, State.coopNext, if_pos (State.coopUnfit_iff.2 hu)]
  have hfits : ¬ s.coopUnfit p t = true := fun h => (State.coopUnfit_iff.1 h).elim (by simp [hrect]) hfit
  rw [exec_coopLaunch ht hp hc hr hx, State.coopNext, if_neg hfits]
  refine ⟨fun hg hs hpre hnow => ?_, fun hg hi => ?_, fun l hg hi hroom => ?_⟩
  · have hfree : ¬ (t.coopCores.any (s.preempted p t) || (s.coopNow p t).isNone || t.run.sent.isSome) = true := by
      simpa [hs, ← Option.isSome_iff_ne_none, hnow] using hpre
    rw [if_pos (by simp [hg]), if_neg hfree]
    refine ⟨fun hm ha => ?_, fun h => ?_⟩
    · rw [if_pos (by simp [ha, Option.isSome_iff_ne_none, hm])]
    · rw [if_neg (by rcases h with h | h <;> simp [h])]
      rfl
  · rw [if_neg (by simpa using hg), if_pos hi]
  · rw [if_neg (by simpa using hg), if_neg (by simp [hi]), hroom]
    obtain ⟨hfit', _⟩ := Option.filter_eq_some_iff.1 hroom
    obtain ⟨hcore, hall⟩ := Task.coopFit_spec hfit'
    obtain ⟨htask, hblocks⟩ := State.coopPlace_spec ht hall
    refine ⟨s.coopPlace t l, rfl, htask, fun id hid => ?_⟩
    obtain ⟨c, r, hm, b, hb, hbt, hbi, hbc, hbs, hbr, hba, hbg⟩ := hblocks id hid
    exact ⟨b, r, hb, hbt, hbi, hbc.trans (hcore _ hm), hbc ▸ hm, hbs, hbr, hba, hbg⟩

/-- Settles O37: each step is the arm of its constructor; placement adds each block with its groups and takes none away. -/
theorem taskLaunchAndRetirement : Obligations.TaskLaunchAndRetirement :=
  ⟨taskLaunch, theBestCore, cooperativeLaunchAndHeldCores⟩

end Sys2Proof.Claims
end

section
/-! SUPPORT. Hops, paths and components of the mesh of dies (R493, R495). -/

namespace Sys2Proof.Machine

variable {s : State} {a b c d e n t : Nat}

/-! ### Neighbours and walks -/

/-- Two dies with an up link between them. -/
def State.Near (s : State) (a b : Nat) : Prop := ∃ l < 52, s.linkUp l = true ∧ (linkDies l = (a, b) ∨ linkDies l = (b, a))

/-- A walk of `n` hops over up links. -/
inductive State.Walk (s : State) : Nat → Nat → Nat → Prop
  | nil (a : Nat) : s.Walk 0 a a
  | cons {n a b c : Nat} (h : s.Near a b) (w : s.Walk n b c) : s.Walk (n + 1) a c

theorem linkDies_lt : ∀ l < 52, (linkDies l).1 < 32 ∧ (linkDies l).2 < 32 := by decide

theorem State.Near.lt (h : s.Near a b) : a < 32 ∧ b < 32 := by
  obtain ⟨l, hl, _, h | h⟩ := h
  · simpa [h] using linkDies_lt l hl
  · simpa [h, and_comm] using linkDies_lt l hl

/-- What one link adds to a set of dies. -/
def State.across (s : State) (m : BitVec 32) (n : BitVec 32) (l : Nat) : BitVec 32 :=
  if s.linkUp l then
    n ||| (if m.getLsbD (linkDies l).1 then BitVec.twoPow 32 (linkDies l).2 else 0) |||
      (if m.getLsbD (linkDies l).2 then BitVec.twoPow 32 (linkDies l).1 else 0)
  else n

theorem State.spread_eq (s : State) (m : BitVec 32) : s.spread m = (List.range 52).foldl (s.across m) m := rfl

theorem State.getLsbD_across (s : State) (m n : BitVec 32) {l : Nat} (hl : l < 52) (t : Nat) :
    (s.across m n l).getLsbD t = true ↔ n.getLsbD t = true ∨
      (s.linkUp l = true ∧ ∃ c, m.getLsbD c = true ∧ (linkDies l = (c, t) ∨ linkDies l = (t, c))) := by
  obtain ⟨h1, h2⟩ := linkDies_lt l hl
  unfold State.across
  generalize linkDies l = x at *
  obtain ⟨x, y⟩ := x
  dsimp only at h1 h2 ⊢
  split
  · next hu =>
    have bit (p : Bool) {z : Nat} (hz : z < 32) : (if p then BitVec.twoPow 32 z else 0).getLsbD t = true ↔ p = true ∧ z = t := by
      cases p <;> simp [BitVec.getLsbD_twoPow, hz]
    simp only [BitVec.getLsbD_or, Bool.or_eq_true]
    rw [bit _ h2, bit _ h1]
    simp only [hu, true_and, Prod.mk.injEq]
    constructor
    · rintro ((h | ⟨hx, rfl⟩) | ⟨hy, rfl⟩)
      · exact .inl h
      · exact .inr ⟨x, hx, .inl ⟨rfl, rfl⟩⟩
      · exact .inr ⟨y, hy, .inr ⟨rfl, rfl⟩⟩
    · rintro (h | ⟨c, hc, ⟨rfl, rfl⟩ | ⟨rfl, rfl⟩⟩)
      · exact .inl (.inl h)
      · exact .inl (.inr ⟨hc, rfl⟩)
      · exact .inr ⟨hc, rfl⟩
  · next hu => simp [hu]

theorem State.getLsbD_foldl_across (s : State) (m : BitVec 32) (t : Nat) (ls : List Nat) (hl : ∀ l ∈ ls, l < 52) (n : BitVec 32) :
    (ls.foldl (s.across m) n).getLsbD t = true ↔ n.getLsbD t = true ∨ ∃ l ∈ ls,
      s.linkUp l = true ∧ ∃ c, m.getLsbD c = true ∧ (linkDies l = (c, t) ∨ linkDies l = (t, c)) := by
  induction ls generalizing n with
  | nil => simp
  | cons l ls ih =>
    rw [List.foldl_cons, ih (fun k hk => hl k (List.mem_cons_of_mem _ hk)), s.getLsbD_across m n (hl l List.mem_cons_self),
      or_assoc, List.exists_mem_cons_iff]

/-- A set of dies extended by one hop holds its own and their neighbours. -/
theorem State.getLsbD_spread (s : State) (m : BitVec 32) (t : Nat) :
    (s.spread m).getLsbD t = true ↔ m.getLsbD t = true ∨ ∃ c, m.getLsbD c = true ∧ s.Near c t := by
  rw [s.spread_eq, s.getLsbD_foldl_across m t _ (fun l hl => List.mem_range.1 hl)]
  refine or_congr_right ⟨?_, ?_⟩
  · rintro ⟨l, hl, hu, c, hc, h⟩
    exact ⟨c, hc, l, List.mem_range.1 hl, hu, h⟩
  · rintro ⟨c, hc, l, hl, hu, h⟩
    exact ⟨l, List.mem_range.2 hl, hu, c, hc, h⟩

theorem State.within_iff (s : State) (t n : Nat) (m : BitVec 32) :
    s.within t n m = true ↔ ∃ k ≤ n, ∃ c, m.getLsbD c = true ∧ s.Walk k c t := by
  induction n generalizing m with
  | zero =>
    constructor
    · exact fun h => ⟨0, le_rfl, t, h, .nil t⟩
    · rintro ⟨k, hk, c, hc, w⟩
      obtain rfl := Nat.le_zero.1 hk
      cases w
      exact hc
  | succ n ih =>
    rw [State.within, Bool.or_eq_true, ih]
    constructor
    · rintro (h | ⟨k, hk, c, hc, w⟩)
      · exact ⟨0, Nat.zero_le _, t, h, .nil t⟩
      · rcases (s.getLsbD_spread m c).1 hc with hc | ⟨d, hd, hn⟩
        · exact ⟨k, by omega, c, hc, w⟩
        · exact ⟨k + 1, by omega, d, hd, .cons hn w⟩
    · rintro ⟨k, hk, c, hc, w⟩
      cases w with
      | nil => exact .inl hc
      | cons hn w => exact .inr ⟨_, by omega, _, (s.getLsbD_spread m _).2 (.inr ⟨c, hc, hn⟩), w⟩

theorem State.within_twoPow : s.within t n (BitVec.twoPow 32 d) = true ↔ d < 32 ∧ ∃ k ≤ n, s.Walk k d t := by
  simp only [s.within_iff, BitVec.getLsbD_twoPow, Bool.and_eq_true, decide_eq_true_eq]
  constructor
  · rintro ⟨k, hk, c, ⟨hd, rfl⟩, w⟩
    exact ⟨hd, k, hk, w⟩
  · rintro ⟨hd, k, hk, w⟩
    exact ⟨k, hk, d, ⟨hd, rfl⟩, w⟩

/-! ### Distances and routes (R493) -/

theorem State.distance_eq_some : s.distance d t = some n ↔ d < 32 ∧ n < 32 ∧ s.Walk n d t ∧ ∀ k < n, ¬ s.Walk k d t := by
  rw [State.distance, List.find?_range_eq_some]
  simp only [List.mem_range, Bool.not_eq_true', ← Bool.not_eq_true, State.within_twoPow]
  constructor
  · rintro ⟨⟨hd, k, hk, w⟩, hn, hmin⟩
    have hk' : k = n := by
      by_contra hne
      exact hmin k (by omega) ⟨hd, k, le_rfl, w⟩
    exact ⟨hd, hn, hk' ▸ w, fun j hj wj => hmin j hj ⟨hd, j, le_rfl, wj⟩⟩
  · rintro ⟨hd, hn, w, hmin⟩
    exact ⟨⟨hd, n, le_rfl, w⟩, hn, fun j hj ⟨_, k, hk, wk⟩ => hmin k (by omega) wk⟩

/-- A shortest path goes on over a neighbour that is one hop nearer. -/
theorem State.distance_succ (h : s.distance a b = some (n + 1)) : ∃ c, s.Near a c ∧ s.distance c b = some n := by
  obtain ⟨_, hn, w, hmin⟩ := State.distance_eq_some.1 h
  cases w with
  | cons hac w =>
    exact ⟨_, hac, State.distance_eq_some.2 ⟨hac.lt.2, by omega, w, fun k hk wk => hmin (k + 1) (by omega) (.cons hac wk)⟩⟩

/-- The hop over one link from a die, where it is up and ends there. -/
def State.hopOver (s : State) (d l : Nat) : Option (Nat × Nat) :=
  if !s.linkUp l then none
  else if (linkDies l).1 == d then some (2 * l, (linkDies l).2)
  else if (linkDies l).2 == d then some (2 * l + 1, (linkDies l).1) else none

theorem State.hops_eq (s : State) (d : Nat) : s.hops d = ((List.range 24).map (28 + ·) ++ List.range 28).filterMap (s.hopOver d) := rfl

theorem two_mul_add_one_div (l : Nat) : (2 * l + 1) / 2 = l := by omega

theorem State.hopOver_spec {l : Nat} (h : s.hopOver d l = some (e, c)) : dirFrom e = d ∧ dirTo e = c ∧ s.linkUp (e / 2) = true := by
  unfold State.hopOver at h
  split at h
  · cases h
  next hu =>
  have hu : s.linkUp l = true := by simpa using hu
  split at h
  · next hd =>
    cases h
    exact ⟨by simpa [dirFrom, dirTo, otherDir, two_mul_add_one_div] using hd, by simp [dirTo], by simpa using hu⟩
  split at h
  · next hd =>
    cases h
    exact ⟨by simpa [dirFrom, dirTo, otherDir] using hd, by simp [dirTo, two_mul_add_one_div], by simpa [two_mul_add_one_div] using hu⟩
  · cases h

theorem State.Near.hop (h : s.Near d c) : ∃ e, (e, c) ∈ s.hops d := by
  obtain ⟨l, hl, hu, hd⟩ := h
  have hmem : l ∈ (List.range 24).map (28 + ·) ++ List.range 28 := by
    rw [List.mem_append, List.mem_map, List.mem_range]
    by_cases h28 : l < 28
    · exact .inr h28
    · exact .inl ⟨l - 28, List.mem_range.2 (by omega), by omega⟩
  have hop : ∃ e, s.hopOver d l = some (e, c) := by
    unfold State.hopOver
    rw [if_neg (by simp [hu])]
    rcases hd with hd | hd
    · exact ⟨2 * l, by simp [hd]⟩
    · by_cases hcd : c = d
      · exact ⟨2 * l, by simp [hd, hcd]⟩
      · exact ⟨2 * l + 1, by simp [hd, hcd]⟩
  obtain ⟨e, he⟩ := hop
  exact ⟨e, s.hops_eq d ▸ List.mem_filterMap.2 ⟨l, hmem, he⟩⟩

theorem State.route_spec (h : s.route a b = some e) :
    dirFrom e = a ∧ s.linkUp (e / 2) = true ∧ ∃ n, s.distance a b = some (n + 1) ∧ s.distance (dirTo e) b = some n := by
  unfold State.route at h
  split at h
  · cases h
  next n hn =>
  obtain ⟨⟨e', c⟩, hf, rfl⟩ := Option.map_eq_some_iff.1 h
  obtain ⟨l, _, hop⟩ := List.mem_filterMap.1 (s.hops_eq a ▸ List.mem_of_find?_eq_some hf)
  obtain ⟨hfrom, hto, hup⟩ := State.hopOver_spec hop
  have hany : (s.distance c b).any (fun m => m + 1 == n) = true := by simpa using List.find?_some hf
  obtain ⟨m, hm, hmn⟩ := (Option.any_eq_true _ _).1 hany
  obtain rfl : m + 1 = n := by simpa using hmn
  exact ⟨hfrom, hup, m, hn, hto ▸ hm⟩

theorem State.isSome_route (h : s.distance a b = some (n + 1)) : (s.route a b).isSome = true := by
  obtain ⟨c, hac, hc⟩ := State.distance_succ h
  obtain ⟨e, he⟩ := hac.hop
  unfold State.route
  rw [h]
  rw [Option.isSome_map, List.find?_isSome]
  exact ⟨(e, c), he, by simp [hc]⟩

end Sys2Proof.Machine
end

section
/-! SUPPORT. The component that is kept when the mesh splits (R495). -/

namespace Sys2Proof.Machine

variable {s : State} {d : Nat}

/-! ### Components -/

theorem State.foldl_spread (s : State) (t : Nat) (l : List Nat) (m : BitVec 32) :
    (l.foldl (fun m _ => s.spread m) m).getLsbD t = s.within t l.length m := by
  induction l generalizing m with
  | nil => rfl
  | cons a l ih =>
    rw [List.foldl_cons, ih, List.length_cons, State.within]
    have hsub : m.getLsbD t = true → s.within t l.length (s.spread m) = true := fun h =>
      (s.within_iff t _ _).2 ⟨0, Nat.zero_le _, t, (s.getLsbD_spread m t).2 (.inl h), .nil t⟩
    cases hm : m.getLsbD t
    · rfl
    · exact hsub hm

/-- A component holds what lies within 32 hops. -/
theorem State.getLsbD_component (s : State) (a b : Nat) : (s.component a).getLsbD b = s.within b 32 (BitVec.twoPow 32 a) :=
  s.foldl_spread b (List.range 32) _

theorem State.getLsbD_component_of_distance {a b n : Nat} (h : s.distance a b = some n) : (s.component a).getLsbD b = true := by
  obtain ⟨ha, hn, w, _⟩ := State.distance_eq_some.1 h
  rw [State.getLsbD_component]
  exact State.within_twoPow.2 ⟨ha, n, by omega, w⟩

/-! ### The largest component -/

/-- The component of a die instead of another, where more of its dies are not fenced. -/
def State.larger (s : State) (m : BitVec 32) (d : Nat) : BitVec 32 := if s.live m < s.live (s.component d) then s.component d else m

theorem State.keptComponent_eq (s : State) : s.keptComponent = (List.range 32).foldl s.larger 0 := rfl

theorem State.live_zero (s : State) : s.live 0 = 0 := by simp [State.live]

theorem State.live_larger (s : State) (m : BitVec 32) (d : Nat) : s.live (s.larger m d) = max (s.live m) (s.live (s.component d)) := by
  unfold State.larger
  split <;> omega

theorem State.live_foldl_larger (s : State) {e : Nat} {l : List Nat} {m : BitVec 32} (h : e ∈ l) :
    s.live (s.component e) ≤ s.live (l.foldl s.larger m) ∧ s.live m ≤ s.live (l.foldl s.larger m) := by
  have mono (l : List Nat) (m : BitVec 32) : s.live m ≤ s.live (l.foldl s.larger m) :=
    List.foldlRecOn (motive := fun m' => s.live m ≤ s.live m') l _ le_rfl fun m' h d _ => by rw [s.live_larger]; omega
  refine ⟨?_, mono l m⟩
  induction l generalizing m with
  | nil => cases h
  | cons a l ih =>
    rw [List.foldl_cons]
    rcases List.mem_cons.1 h with rfl | h
    · exact le_trans (by rw [s.live_larger]; omega) (mono l (s.larger m e))
    · exact ih h

/-- Of the components looked at so far, that of the first die whose component is as large as any is kept. -/
theorem State.foldl_larger_range (h0 : 0 < s.live (s.component d)) {n : Nat}
    (hmax : ∀ e < n, s.live (s.component e) ≤ s.live (s.component d)) (hlow : ∀ e < d, s.live (s.component e) < s.live (s.component d)) :
    (n ≤ d → s.live ((List.range n).foldl s.larger 0) < s.live (s.component d)) ∧
    (d < n → (List.range n).foldl s.larger 0 = s.component d) := by
  induction n with
  | zero => exact ⟨fun _ => (s.live_zero.symm ▸ h0 : s.live 0 < _), fun h => absurd h (Nat.not_lt_zero d)⟩
  | succ n ih =>
    obtain ⟨hlt, heq⟩ := ih fun e he => hmax e (by omega)
    rw [List.range_succ, List.foldl_concat]
    refine ⟨fun hn => ?_, fun hn => ?_⟩
    · rw [s.live_larger]
      exact max_lt (hlt (by omega)) (hlow n hn)
    · by_cases hd : d = n
      · subst hd
        exact if_pos (hlt le_rfl)
      · rw [heq (by omega)]
        exact if_neg (Nat.not_lt.2 (hmax n (by omega)))

end Sys2Proof.Machine

namespace Sys2Proof.Claims

open Sys2Proof.Machine

theorem routesAreShortest : RoutesAreShortest := fun _ _ _ => ⟨fun _ => State.route_spec, fun _ => State.isSome_route⟩

theorem theLargestComponentIsKept : TheLargestComponentIsKept := by
  intro s
  refine ⟨fun a _ b _ => ⟨fun n => State.getLsbD_component_of_distance, fun h => s.getLsbD_component a b ▸ h⟩, fun m => rfl,
    fun e he => (s.live_foldl_larger (List.mem_range.2 he)).1, fun d hd h0 hmax hlow => ?_⟩
  exact (State.foldl_larger_range h0 hmax hlow).2 hd

end Sys2Proof.Claims
end

section
/-! SUPPORT. What follows the fence of a die (R390, R459, R495, R496): no block moves, no other die is fenced, and the launches of the
tasks go on or end. -/

namespace Sys2Proof.Machine

variable {s t v : State} {x y : Task} {r r' r'' : TaskRun} {u : Nat}

/-! ### Launches -/

/-- A launch that has begun and is not done; while its end actions do not run it has no status but DIE_LOST. -/
def TaskRun.Live (r : TaskRun) : Prop := r.phase ≠ .waiting ∧ r.phase ≠ .done ∧ (r.phase ≠ .ending → r.status = 0 ∨ r.status = 4)

/-- A launch that has the status DIE_LOST, or will have it as its last block ends. -/
def TaskRun.Lost (r : TaskRun) : Prop := r.status = 4 ∨ r.lost = true

/-- A launch goes on, or its end actions begin; one that is lost stays so. -/
structure TaskRun.Onward (r r' : TaskRun) : Prop where
  live : r.Live → r'.Live
  lost : r.Live → r.Lost → r'.Lost

/-- A launch in its phase and with its status, which has lost no less. -/
structure TaskRun.Keeps (r r' : TaskRun) : Prop where
  phase  : r'.phase = r.phase
  status : r'.status = r.status
  lost   : r.lost = true → r'.lost = true

theorem TaskRun.Onward.refl (r : TaskRun) : r.Onward r := ⟨id, fun _ => id⟩

theorem TaskRun.Onward.trans (h : r.Onward r') (k : r'.Onward r'') : r.Onward r'' :=
  ⟨fun l => k.live (h.live l), fun l o => k.lost (h.live l) (h.lost l o)⟩

theorem TaskRun.Keeps.onward (h : r.Keeps r') : r.Onward r' where
  live l := by simpa [TaskRun.Live, h.phase, h.status] using l
  lost _ o := o.imp (fun e => h.status.trans e) h.lost

theorem TaskRun.keeps_pass (r : TaskRun) (c : Nat) : r.Keeps (r.pass c) where
  phase := TaskRun.pass_frame (·.phase) (fun _ _ _ => rfl) r c
  status := TaskRun.pass_frame (·.status) (fun _ _ _ => rfl) r c
  lost h := (TaskRun.pass_frame (·.lost) (fun _ _ _ => rfl) r c).trans h

theorem TaskRun.keeps_retire (r : TaskRun) (b : Nat) : r.Keeps (r.retire b) :=
  have h := TaskRun.keeps_pass { r with retired := r.retired ++ [b] } r.commit
  ⟨h.phase, h.status, h.lost⟩

theorem TaskRun.keeps_countRbar (r : TaskRun) (k : Option Nat) : r.Keeps (r.countRbar k) := by
  cases k with
  | none => exact ⟨rfl, rfl, id⟩
  | some k => exact ⟨rfl, rfl, id⟩

theorem TaskRun.keeps_handOver (r : TaskRun) (dies : List Nat) (die : Nat) : r.Keeps (r.handOver dies die) := by
  unfold TaskRun.handOver
  dsimp only
  split
  · split
    · exact ⟨rfl, rfl, fun _ => rfl⟩
    · split
      · exact ⟨rfl, rfl, fun _ => rfl⟩
      · split
        · split <;> exact ⟨rfl, rfl, id⟩
        · exact ⟨rfl, rfl, id⟩
  · split <;> exact ⟨rfl, rfl, id⟩

theorem State.keeps_handOver (s : State) (die : Nat) (x : Task) : x.run.Keeps (s.handOver die x).run := by
  have h := x.run.keeps_handOver ((((s.part? x.part).map fun p => s.launchDies p x.hdr).getD []).filter (· != die)) die
  unfold State.handOver
  dsimp only
  split
  · exact h
  · exact ⟨h.phase, h.status, h.lost⟩

theorem Task.keeps_at (x : Task) (c : SCursor) : x.run.Keeps (x.at_ c).run := by
  unfold Task.at_
  dsimp only
  split <;> exact ⟨rfl, rfl, id⟩

/-- A launch whose end actions run is live with any status. -/
theorem TaskRun.live_of_ending (h : r.phase = .ending) : r.Live := by simp [TaskRun.Live, h]

/-- A launch whose end actions begin keeps the status that it has. -/
theorem Task.onward_toEnd (x : Task) (st : Nat) (c : BitVec 8) (due : Nat) : x.run.Onward (x.toEnd st c due).run := by
  unfold Task.toEnd
  refine .trans ?_ (Task.keeps_at _ _).onward
  refine ⟨fun _ => TaskRun.live_of_ending rfl, fun _ h => h.imp (fun h => ?_) id⟩
  simp [h]

/-- A launch lost with its blocks, which places no more. -/
theorem TaskRun.onward_lost (h : r.phase ≠ .ending) (h' : r.phase = r'.phase) (hs : r'.status = r.status ∨ r'.status = 4)
    (hl : r.lost = true → r'.lost = true) : r.Onward r' := by
  refine ⟨fun ⟨hw, hd, hst⟩ => ⟨h' ▸ hw, h' ▸ hd, fun _ => ?_⟩, fun _ o => ?_⟩
  · rcases hs with hs | hs
    · exact hs ▸ hst h
    · exact .inr hs
  · rcases hs with hs | hs
    · exact o.imp (fun o => hs.trans o) hl
    · exact .inl hs

/-! ### States -/

/-- No other die is fenced, no block moves, and the launches go on. -/
structure State.Onward (s t : State) : Prop where
  deadDies : t.deadDies = s.deadDies
  blocks   : ∀ b ∈ t.blocks, ∃ b' ∈ s.blocks, b'.core = b.core
  tasks    : ∀ u x, s.task? u = some x → ∃ y, t.task? u = some y ∧ x.run.Onward y.run

theorem State.Onward.refl (s : State) : s.Onward s := ⟨rfl, fun b hb => ⟨b, hb, rfl⟩, fun _ x h => ⟨x, h, .refl _⟩⟩

theorem State.Onward.trans (h : s.Onward t) (k : t.Onward v) : s.Onward v where
  deadDies := k.deadDies.trans h.deadDies
  blocks b hb := by
    obtain ⟨c, hc, e⟩ := k.blocks b hb
    obtain ⟨d, hd, e'⟩ := h.blocks c hc
    exact ⟨d, hd, e'.trans e⟩
  tasks u x hx := by
    obtain ⟨y, hy, o⟩ := h.tasks u x hx
    obtain ⟨z, hz, o'⟩ := k.tasks u y hy
    exact ⟨z, hz, o.trans o'⟩

theorem State.Onward.foldl {α : Type} {f : State → α → State} (hf : ∀ (s : State) a, s.Onward (f s a)) (l : List α) (s : State) :
    s.Onward (l.foldl f s) := by
  induction l generalizing s with
  | nil => exact .refl s
  | cons a l ih => exact (hf s a).trans (ih _)

theorem State.Onward.ite {c : Prop} [Decidable c] (h : s.Onward t) (k : s.Onward v) : s.Onward (if c then t else v) := by
  split
  · exact h
  · exact k

theorem State.SameLaunch.onward (h : s.SameLaunch t) : s.Onward t :=
  ⟨h.deadDies, fun b hb => ⟨b, h.blocks ▸ hb, rfl⟩, fun u x hx => ⟨x, (State.task?_congr h.tasks u).trans hx, .refl _⟩⟩

theorem State.onward_carry (s : State) (m : Msg) : s.Onward (s.carry m) := (s.sameLaunch_carry m).onward

/-- A task replaced by itself further on. -/
theorem State.onward_putTask (hx : s.task? u = some x) (hu : y.uid = x.uid) (h : x.run.Onward y.run) : s.Onward (s.putTask y) := by
  refine ⟨rfl, fun b hb => ⟨b, hb, rfl⟩, fun w z hz => ⟨_, State.task?_putTask hz, ?_⟩⟩
  split
  · next e =>
    obtain rfl : u = w := (State.uid_of_task? hx).symm.trans (hu.symm.trans e)
    obtain rfl : x = z := Option.some.inj (hx.symm.trans hz)
    exact h
  · exact .refl _

/-- Blocks changed on their cores, groups changed in any way. -/
theorem State.Onward.of_blocks (ht : t.tasks = s.tasks) (hd : t.deadDies = s.deadDies)
    (hb : ∀ b ∈ t.blocks, ∃ b' ∈ s.blocks, b'.core = b.core) : s.Onward t :=
  ⟨hd, hb, fun u x hx => ⟨x, (State.task?_congr ht u).trans hx, .refl _⟩⟩

theorem State.onward_dropBlock (s : State) (b : Block) : s.Onward (s.dropBlock b) :=
  .of_blocks rfl rfl fun c hc => ⟨c, (List.mem_filter.1 hc).1, rfl⟩

end Sys2Proof.Machine
end

section
/-! SUPPORT. A fence, operation by operation (R390, R459, R496): barriers tested again, launches handed over, lost and ended, messages
dropped. -/

namespace Sys2Proof.Machine

variable {s : State} {x : Task} {u : Nat}

/-! ### Barriers and the commit position -/

theorem State.onward_updBlocks (s : State) (p : Block → Bool) {f : Block → Block} (hf : ∀ b, (f b).core = b.core) :
    s.Onward { s with blocks := updIf p f s.blocks } :=
  .of_blocks rfl rfl fun c hc => by
    obtain ⟨b, hb, rfl⟩ := List.mem_map.1 hc
    exact ⟨b, hb, by split <;> simp [hf]⟩

theorem State.onward_wake (s : State) (q : Group → Bool) (p : GWait → Bool) : s.Onward (s.wake q p) :=
  .of_blocks rfl rfl fun b hb => ⟨b, hb, rfl⟩

theorem State.onward_rbarPass (s : State) (b : Block) (l : Nat) : s.Onward (s.rbarPass b l) := by
  unfold State.rbarPass
  refine State.Onward.trans ?_ (State.onward_wake _ _ _)
  split
  · next hx =>
    refine State.Onward.trans ?_ (State.onward_putTask hx rfl (TaskRun.keeps_countRbar _ _).onward)
    exact s.onward_updBlocks _ fun _ => rfl
  · exact s.onward_updBlocks _ fun _ => rfl

theorem State.onward_rbarTell (hx : s.task? u = some x) (k : Nat) (dies : List Nat) : s.Onward (s.rbarTell x k dies) :=
  .ite (.refl s) <| .trans (State.onward_putTask (y := { x with run := { x.run with rtold := x.run.rtold ++ [k] } }) hx rfl
    (TaskRun.Keeps.onward ⟨rfl, rfl, id⟩)) (.foldl (fun s _ => s.onward_carry _) _ _)

theorem State.onward_rbarTest (s : State) (bu : Nat) : s.Onward (s.rbarTest bu) := by
  unfold State.rbarTest
  split
  · exact .refl s
  split
  · exact .refl s
  dsimp only
  refine .ite (.refl s) ?_
  split
  · next hx _ =>
    refine State.Onward.trans (State.onward_rbarTell hx _ _) (.ite (.refl _) (.ite (State.onward_rbarPass _ _ _) (.ite (.refl _) ?_)))
    split
    · next hy =>
      exact State.onward_putTask hy rfl (TaskRun.Keeps.onward ⟨rfl, rfl, id⟩)
    · exact .refl _
  · exact State.onward_rbarPass _ _ _

theorem State.onward_rbarTestTask (s : State) (t : Nat) : s.Onward (s.rbarTestTask t) := .foldl (fun s _ => s.onward_rbarTest _) _ s

theorem State.onward_commitTell (s : State) (u old : Nat) : s.Onward (s.commitTell u old) := by
  unfold State.commitTell
  split
  · exact .refl s
  · refine .ite (.refl s) ?_
    split
    · exact s.onward_carry _
    · exact .refl s

/-! ### Tasks that end or are lost (R52, R455, R496) -/

theorem State.onward_stopBlocks (s : State) (t : Nat) : s.Onward (s.stopBlocks t) := .foldl (fun s _ => s.onward_dropBlock _) _ s

/-- A new uid given. -/
theorem State.onward_uid (s : State) (n : Nat) : s.Onward { s with uid := n } := .of_blocks rfl rfl fun b hb => ⟨b, hb, rfl⟩

theorem State.onward_endTask (s : State) (t st : Nat) (c : BitVec 8) : s.Onward (s.endTask t st c) := by
  unfold State.endTask
  refine (s.onward_stopBlocks t).trans ?_
  dsimp only
  split
  · exact .refl _
  · next x hx =>
    exact .ite (.refl _) (.trans (State.onward_putTask (y := x.toEnd st c _) hx rfl (x.onward_toEnd _ _ _)) (State.onward_uid _ _))

theorem State.onward_lastBlock (s : State) (u : Nat) : s.Onward (s.lastBlock u) := by
  unfold State.lastBlock
  split
  · exact .refl s
  · exact .ite (.refl s) (.ite (s.onward_endTask _ _ _) (.ite (s.onward_endTask _ _ _) (.refl s)))

theorem State.onward_retired (s : State) (u b : Nat) : s.Onward (s.retired u b) := by
  unfold State.retired
  split
  · exact .refl s
  · next x hx =>
    refine .ite (.refl s) ?_
    refine State.Onward.trans ?_ (State.onward_lastBlock _ _)
    refine State.Onward.trans ?_ (State.onward_rbarTestTask _ _)
    refine State.Onward.trans ?_ (State.onward_commitTell _ _ _)
    exact State.onward_putTask hx rfl (x.run.keeps_retire b).onward

theorem State.onward_loseTask (s : State) (u : Nat) : s.Onward (s.loseTask u) := by
  unfold State.loseTask
  split
  · exact .refl s
  next x hx =>
  split
  · exact .refl s
  next hp =>
  refine .ite (s.onward_endTask _ _ _) (State.Onward.trans ?_ (State.onward_lastBlock _ _))
  have hp : x.run.phase ≠ .ending := fun h => hp (by simp [h])
  exact State.onward_putTask hx rfl (TaskRun.onward_lost hp rfl (.inl rfl) fun _ => rfl)

/-- A launch whose end actions run, with another status. -/
theorem TaskRun.onward_dieLost {r r' : TaskRun} (h : r'.phase = .ending) (hs : r'.status = 4) : r.Onward r' :=
  ⟨fun _ => TaskRun.live_of_ending h, fun _ _ => .inl hs⟩

/-- The task whose end actions run with the status DIE_LOST (R459). -/
def Task.dieLost (x : Task) : Task :=
  let t := { x with run := { x.run with status := 4 } }
  let c := t.run.csrSent.getD t.run.cursor
  if c.action == 5 then t.at_ (t.endFrom 17 (c.record + 1)) else t

theorem Task.dieLost_spec (x : Task) : x.dieLost.uid = x.uid ∧ x.dieLost.run.phase = x.run.phase ∧ x.dieLost.run.status = 4 := by
  unfold Task.dieLost
  dsimp only
  split
  · exact ⟨rfl, (Task.keeps_at _ _).phase, (Task.keeps_at _ _).status⟩
  · exact ⟨rfl, rfl, rfl⟩

theorem State.failTask_dieLost (s : State) (h : x.run.phase = .ending) : s.failTask 4 x = s.putTask x.dieLost := by
  unfold State.failTask
  simp [h, Task.dieLost]

end Sys2Proof.Machine
end

section
/-! SUPPORT. What the fence of a die makes of the tasks that it touches, and of the blocks and dies (R52, R459, R495, R496). -/

namespace Sys2Proof.Machine

variable {s t : State} {x y : Task} {u die : Nat}

/-! ### Tasks that are lost -/

theorem State.task?_putTask_of (h : s.task? u = some x) (hy : y.uid = x.uid) : (s.putTask y).task? u = some y := by
  rw [State.task?_putTask h, if_pos (hy.trans (State.uid_of_task? h))]

theorem State.Onward.lost (h : s.Onward t) (hx : s.task? u = some x) (hl : x.run.Live) (ho : x.run.Lost) :
    ∃ y, t.task? u = some y ∧ y.run.Lost := by
  obtain ⟨y, hy, o⟩ := h.tasks u x hx
  exact ⟨y, hy, o.lost hl ho⟩

theorem State.tasks_dropBlocks (l : List Block) (s : State) : (l.foldl (fun s b => s.dropBlock b) s).tasks = s.tasks := by
  induction l generalizing s with
  | nil => rfl
  | cons b l ih => exact ih (s.dropBlock b)

theorem Task.lost_toEnd (h : x.run.status = 0 ∨ x.run.status = 4) (c : BitVec 8) (due : Nat) : (x.toEnd 4 c due).run.Lost := by
  unfold Task.toEnd
  refine .inl ((Task.keeps_at _ _).status.trans ?_)
  rcases h with h | h <;> simp [h]

theorem State.lost_endTask (hx : s.task? u = some x) (hl : x.run.Live) (hp : x.run.phase ≠ .ending) (c : BitVec 8) :
    ∃ y, (s.endTask u 4 c).task? u = some y ∧ y.run.Lost := by
  obtain ⟨_, hd, hs⟩ := hl
  have hx' : (s.stopBlocks u).task? u = some x := (State.task?_congr (State.tasks_dropBlocks _ s) u).trans hx
  unfold State.endTask
  simp only [hx']
  rw [if_neg (by simp [hp, hd])]
  exact ⟨x.toEnd 4 c _, State.task?_putTask_of (y := x.toEnd 4 c _) hx' rfl, Task.lost_toEnd (hs hp) _ _⟩

theorem State.lost_loseTask (hx : s.task? u = some x) (hl : x.run.Live) (hp : x.run.phase ≠ .ending) :
    ∃ y, (s.loseTask u).task? u = some y ∧ y.run.Lost := by
  unfold State.loseTask
  simp only [hx]
  rw [if_neg (by simp [hp, hl.2.1])]
  split
  · exact State.lost_endTask hx hl hp 0
  · refine (State.onward_lastBlock _ u).lost (State.task?_putTask_of hx rfl) ?_ (.inr rfl)
    exact (TaskRun.Keeps.onward ⟨rfl, rfl, fun _ => rfl⟩).live hl

/-- A task handed over from a die, with the status DIE_LOST. -/
def State.handLost (s : State) (die : Nat) (x : Task) : Task :=
  let t := s.handOver die x
  { t with run := { t.run with status := 4, held := t.run.held.filter fun c => coreDie c != die } }

/-- What a fence does to a task (R52, R459, R496): its launch goes on or ends, and it is lost. -/
theorem State.fenceTask_spec (hx : s.task? u = some x) (die : Nat) (gone : Bool) :
    s.Onward (s.fenceTask die gone x) ∧ (x.run.Live → ∃ y, (s.fenceTask die gone x).task? u = some y ∧ y.run.Lost) := by
  have hk := s.keeps_handOver die x
  have hu := State.uid_of_task? hx
  have h₁ : s.Onward (s.putTask (s.handOver die x)) := State.onward_putTask hx rfl hk.onward
  have hx₁ : (s.putTask (s.handOver die x)).task? u = some (s.handOver die x) := State.task?_putTask_of hx rfl
  unfold State.fenceTask
  dsimp only
  split
  · next hp =>
    have hp : (s.handOver die x).run.phase = .ending := hk.phase.trans (by simpa using hp)
    obtain ⟨hdu, hdp, hds⟩ := (s.handOver die x).dieLost_spec
    rw [State.failTask_dieLost _ hp]
    exact ⟨h₁.trans (State.onward_putTask hx₁ hdu (TaskRun.onward_dieLost (hdp.trans hp) hds)),
      fun _ => ⟨_, State.task?_putTask_of hx₁ hdu, .inl hds⟩⟩
  next hp =>
  have hp : x.run.phase ≠ .ending := by simpa using hp
  have hp₁ : (s.handOver die x).run.phase ≠ .ending := hk.phase ▸ hp
  split
  · exact ⟨h₁.trans (State.onward_loseTask _ _), fun hl => hu ▸ State.lost_loseTask (hu.symm ▸ hx₁) (hk.onward.live hl) hp₁⟩
  · have h₂ : x.run.Onward (s.handLost die x).run := TaskRun.onward_lost hp hk.phase.symm (.inr rfl) hk.lost
    have hs₂ : s.Onward (s.putTask (s.handLost die x)) := State.onward_putTask hx rfl h₂
    have hx₂ : (s.putTask (s.handLost die x)).task? u = some (s.handLost die x) := State.task?_putTask_of hx rfl
    refine ⟨hs₂.trans (.ite (State.onward_loseTask _ _) (.refl _)), fun hl => ?_⟩
    exact State.Onward.lost (.ite (State.onward_loseTask _ _) (.refl _)) hx₂ (h₂.live hl) (.inl rfl)

/-! ### The fence of a die -/

/-- The messages from and to a die dropped (R496). -/
theorem State.onward_dropMsgs (s : State) (die : Nat) : s.Onward (s.dropMsgs die) := by
  unfold State.dropMsgs
  refine State.Onward.trans ?_ (.foldl (fun s (x : Nat × Nat) => s.onward_retired x.1 x.2) _ _)
  exact .of_blocks rfl rfl fun b hb => ⟨b, hb, rfl⟩

theorem State.onward_dropAsks (s : State) (die : Nat) : s.Onward (s.dropAsks die) := by
  refine ⟨rfl, fun b hb => ⟨b, hb, rfl⟩, fun u x hx => ?_⟩
  unfold State.dropAsks State.task?
  dsimp only
  rw [find?_updIf, show s.tasks.find? (·.uid == u) = some x from hx]
  · refine ⟨_, rfl, ?_⟩
    dsimp only
    split
    · exact TaskRun.Keeps.onward ⟨rfl, rfl, id⟩
    · exact .refl _
  · intros; rfl

/-- The state as a die is fenced: it is dead, and its blocks are gone. -/
def State.fenceStart (s : State) (die : Nat) : State :=
  (s.blocks.filter fun b => coreDie b.core == die).foldl (fun s b => s.dropBlock b) { s with deadDies := s.deadDies ++ [die] }

/-- A task that the fence of a die concerns, as it stands now. -/
def State.fenceHit (die : Nat) (gone : List Block) (s : State) (t : Task) : State :=
  match s.task? t.uid with
  | some t => s.fenceTask die (gone.any (·.task == t.uid)) t
  | none => s

/-- The tasks that the fence of a die concerns. -/
def State.fenceHits (s : State) (die : Nat) : List Task :=
  s.tasks.filter fun t => s.touches die t || s.endsOn die t || (t.started && t.run.grant.any fun g => coreDie g.2 == die)

/-- A core without its L1, where it stands on a die. -/
def Core.l1Gone (die : Nat) (c : Nat × Core) : Nat × Core := (c.1, if coreDie c.1 == die then { c.2 with l1 := [] } else c.2)

/-- The state after the blocks and the messages of a fenced die are gone, before its tasks are looked at. -/
def State.fenceCleared (s : State) (die : Nat) : State :=
  ((({ s.fenceStart die with cores := (s.fenceStart die).cores.map (Core.l1Gone die) } : State).record
      { type := 7, detail := Config.recordDetail 7 die 1 }).dropAsks die).dropMsgs die

theorem State.fenceDie_eq (h : die ∉ s.deadDies) :
    s.fenceDie die = (s.fenceHits die).foldl (State.fenceHit die (s.blocks.filter fun b => coreDie b.core == die)) (s.fenceCleared die) := by
  unfold State.fenceDie
  rw [if_neg (by simpa using h)]
  rfl

end Sys2Proof.Machine
end

section
/-! SUPPORT. Links in training and links that go down, routes installed, dies fenced, meshes that split (R492 to R496). -/

namespace Sys2Proof.Machine

variable {s t : State} {x : Task} {die : Nat}

/-! ### The fence of a die -/

theorem State.foldl_dropBlock (l : List Block) (s : State) :
    (l.foldl (fun s b => s.dropBlock b) s).deadDies = s.deadDies ∧
    ∀ b ∈ (l.foldl (fun s b => s.dropBlock b) s).blocks, b ∈ s.blocks ∧ b ∉ l := by
  induction l generalizing s with
  | nil => exact ⟨rfl, fun b hb => ⟨hb, List.not_mem_nil⟩⟩
  | cons c l ih =>
    obtain ⟨hd, hb⟩ := ih (s.dropBlock c)
    refine ⟨hd, fun b h => ?_⟩
    obtain ⟨hm, hn⟩ := hb b h
    obtain ⟨hm, hne⟩ := List.mem_filter.1 hm
    exact ⟨hm, fun h => (List.mem_cons.1 h).elim (fun e => by simp [e] at hne) hn⟩

theorem State.fenceStart_spec (s : State) (die : Nat) :
    (s.fenceStart die).deadDies = s.deadDies ++ [die] ∧ (s.fenceStart die).tasks = s.tasks ∧
    ∀ b ∈ (s.fenceStart die).blocks, b ∈ s.blocks ∧ coreDie b.core ≠ die := by
  obtain ⟨hd, hb⟩ := State.foldl_dropBlock (s.blocks.filter fun b => coreDie b.core == die) { s with deadDies := s.deadDies ++ [die] }
  refine ⟨hd, State.tasks_dropBlocks _ _, fun b h => ?_⟩
  obtain ⟨hm, hn⟩ := hb b h
  exact ⟨hm, fun e => hn (List.mem_filter.2 ⟨hm, by simpa using e⟩)⟩

theorem State.onward_fenceCleared (s : State) (die : Nat) : (s.fenceStart die).Onward (s.fenceCleared die) := by
  refine State.Onward.trans ?_ (State.onward_dropMsgs _ _)
  refine State.Onward.trans ?_ (State.onward_dropAsks _ _)
  refine State.Onward.trans ?_ (State.sameLaunch_record _ _).onward
  exact .of_blocks rfl rfl fun b hb => ⟨b, hb, rfl⟩

theorem State.onward_fenceHit (gone : List Block) (s : State) (x : Task) : s.Onward (s.fenceHit die gone x) := by
  unfold State.fenceHit
  split
  · exact (State.fenceTask_spec ‹_› die _).1
  · exact .refl s

theorem State.onward_fenceDie (h : die ∉ s.deadDies) : (s.fenceStart die).Onward (s.fenceDie die) := by
  rw [State.fenceDie_eq h]
  exact (s.onward_fenceCleared die).trans (.foldl (fun s x => s.onward_fenceHit _ x) _ _)

theorem State.deadDies_fenceDie (h : die ∉ s.deadDies) : (s.fenceDie die).deadDies = s.deadDies ++ [die] :=
  (State.onward_fenceDie h).deadDies.trans (s.fenceStart_spec die).1

theorem State.blocks_fenceDie (h : die ∉ s.deadDies) :
    ∀ b ∈ (s.fenceDie die).blocks, (∃ b' ∈ s.blocks, b'.core = b.core) ∧ coreDie b.core ≠ die := by
  intro b hb
  obtain ⟨c, hc, e⟩ := (State.onward_fenceDie h).blocks b hb
  obtain ⟨hm, hd⟩ := (s.fenceStart_spec die).2.2 c hc
  exact ⟨⟨c, hm, e⟩, e ▸ hd⟩

theorem State.onward_loseStranded (s : State) : s.Onward s.loseStranded :=
  .foldl (fun s _ => (s.onward_dropBlock _).trans (State.onward_loseTask _ _)) _ s

/-! ### The tasks of a fenced die (R52, R459, R496) -/

theorem State.task?_of_mem (hm : x ∈ s.tasks) (hn : (s.tasks.map (·.uid)).Nodup) : s.task? x.uid = some x := by
  obtain ⟨y, hy⟩ := Option.isSome_iff_exists.1 ((List.find?_isSome (p := fun z : Task => z.uid == x.uid)).2 ⟨x, hm, by simp⟩)
  exact hy.trans (congrArg some (List.inj_on_of_nodup_map hn (List.mem_of_find?_eq_some hy) hm (by simpa using List.find?_some hy)))

theorem State.fenceHit_eq {gone : List Block} {y : Task} (hy : s.task? x.uid = some y) :
    s.fenceHit die gone x = s.fenceTask die (gone.any (·.task == y.uid)) y := by
  unfold State.fenceHit
  rw [hy]

theorem State.lost_fenceHits {gone : List Block} {hits : List Task} (hh : x ∈ hits) {y : Task} (hy : s.task? x.uid = some y)
    (hl : y.run.Live) : ∃ z, (hits.foldl (State.fenceHit die gone) s).task? x.uid = some z ∧ z.run.Live ∧ z.run.Lost := by
  obtain ⟨l₁, l₂, rfl⟩ := List.append_of_mem hh
  have on (l : List Task) (s : State) : s.Onward (l.foldl (State.fenceHit die gone) s) := .foldl (fun s x => s.onward_fenceHit _ x) l s
  rw [List.foldl_append, List.foldl_cons]
  obtain ⟨y₁, hy₁, o₁⟩ := (on l₁ s).tasks _ _ hy
  have hhit := State.fenceHit_eq (die := die) (gone := gone) hy₁
  obtain ⟨h₂, hlost⟩ := State.fenceTask_spec hy₁ die (gone.any (·.task == y₁.uid))
  obtain ⟨y₂, hy₂, o₂⟩ := hlost (o₁.live hl)
  obtain ⟨y₂', hy₂', ol⟩ := h₂.tasks _ _ hy₁
  obtain rfl : y₂ = y₂' := Option.some.inj (hy₂.symm.trans hy₂')
  have hl₂ := ol.live (o₁.live hl)
  obtain ⟨y₃, hy₃, o₃⟩ := (on l₂ _).tasks _ _ (hhit ▸ hy₂)
  exact ⟨y₃, hy₃, o₃.live hl₂, o₃.lost hl₂ o₂⟩

theorem State.lost_fenceDie (h : die ∉ s.deadDies) (hm : x ∈ s.tasks) (hn : (s.tasks.map (·.uid)).Nodup)
    (ht : s.touches die x = true) (hs : x.run.phase ≠ .ending → x.run.status = 0 ∨ x.run.status = 4) :
    ∃ y, (s.fenceDie die).loseStranded.task? x.uid = some y ∧ y.run.Lost := by
  have hl : x.run.Live := by
    have hst : x.started = true := by
      unfold State.touches at ht
      exact (Bool.and_eq_true _ _ ▸ ht).1
    obtain ⟨hw, hd⟩ : x.run.phase ≠ .waiting ∧ x.run.phase ≠ .done := by simpa [Task.started] using hst
    exact ⟨hw, hd, hs⟩
  have hx : (s.fenceStart die).task? x.uid = some x := (State.task?_congr (s.fenceStart_spec die).2.1 _).trans (State.task?_of_mem hm hn)
  obtain ⟨y, hy, o⟩ := (s.onward_fenceCleared die).tasks _ _ hx
  have hhit : x ∈ s.fenceHits die := List.mem_filter.2 ⟨hm, by simp [ht]⟩
  obtain ⟨z, hz, hzl, hzo⟩ := State.lost_fenceHits (die := die) (gone := s.blocks.filter fun b => coreDie b.core == die) hhit hy (o.live hl)
  rw [← State.fenceDie_eq h] at hz
  exact (s.fenceDie die).onward_loseStranded.lost hz hzl hzo

/-! ### Meshes that split (R495) -/

theorem State.fenceDie_of_mem (h : die ∈ s.deadDies) : s.fenceDie die = s := if_pos (by simpa using h)

/-- Each die of a list fenced: just those are dead as well, and no block is left on one that was not. -/
theorem State.foldl_fenceDie (l : List Nat) (s : State) :
    (∀ e, e ∈ (l.foldl (fun s d => s.fenceDie d) s).deadDies ↔ e ∈ s.deadDies ∨ e ∈ l) ∧
    ∀ b ∈ (l.foldl (fun s d => s.fenceDie d) s).blocks, (∃ b' ∈ s.blocks, b'.core = b.core) ∧
      (coreDie b.core ∈ l → coreDie b.core ∈ s.deadDies) := by
  induction l generalizing s with
  | nil => exact ⟨fun e => by simp, fun b hb => ⟨⟨b, hb, rfl⟩, fun h => (nomatch h)⟩⟩
  | cons d l ih =>
    obtain ⟨hd, hb⟩ := ih (s.fenceDie d)
    rw [List.foldl_cons]
    by_cases h : d ∈ s.deadDies
    · rw [State.fenceDie_of_mem h] at hd hb ⊢
      refine ⟨fun e => ?_, fun b hbm => ⟨(hb b hbm).1, fun hbd => ?_⟩⟩
      · rw [hd, List.mem_cons]
        refine ⟨Or.imp_right .inr, ?_⟩
        rintro (he | rfl | he)
        exacts [.inl he, .inl h, .inr he]
      · rcases List.mem_cons.1 hbd with e | hbd
        · exact e ▸ h
        · exact (hb b hbm).2 hbd
    · rw [State.deadDies_fenceDie h] at hd hb
      refine ⟨fun e => ?_, fun b hbm => ?_⟩
      · rw [hd, List.mem_append, List.mem_singleton, List.mem_cons, or_assoc]
      · obtain ⟨⟨c, hc, e⟩, hbd⟩ := hb b hbm
        obtain ⟨⟨c', hc', e'⟩, hne⟩ := State.blocks_fenceDie h c hc
        refine ⟨⟨c', hc', e'.trans e⟩, fun hbl => ?_⟩
        rcases List.mem_cons.1 hbl with hd' | hbl
        · exact absurd (e ▸ hd') hne
        · rcases List.mem_append.1 (hbd hbl) with hs | hs
          · exact hs
          · exact absurd (e ▸ List.mem_singleton.1 hs) hne

/-- A message timed from when it has lost its last path. -/
def State.timeOf (s : State) (x : Nat × Option Nat × Msg) : Nat × Option Nat × Msg :=
  (x.1, if s.cut x = true then some (x.2.1.getD s.now) else none, x.2.2)

/-- The waiting messages timed. -/
def State.timed (s : State) : State := { s with msgs := s.msgs.map s.timeOf }

theorem exec_meshSplit (s : State) :
    exec .meshSplit s = .next (if (s.timed.msgs.any fun x => x.2.1.any fun t => t + s.cyclesOfUs 1000 ≤ s.now) = true
      then (((List.range 32).filter fun d => !s.keptComponent.getLsbD d).foldl (fun s d => s.fenceDie d) s.timed).loseStranded
      else s.timed) := by
  have swap (c : Bool) (a b : State) : (if !c then Host.Outcome.next a else .next b : Host.Outcome State Fault Refusal) =
      .next (if c = true then b else a) := by cases c <;> rfl
  exact swap _ _ _

end Sys2Proof.Machine
end

section
/-! SUPPORT. Links in training, links that go down, and new routes (R492 to R494). -/

namespace Sys2Proof.Machine

variable {s : State} {d : Nat}

/-! ### Links under their directions -/

theorem getKey_setKey_of_ne {α : Type} (a : α) {k e : Nat} (h : e ≠ k) (v : α) (l : List (Nat × α)) :
    getKey a e (setKey k v l) = getKey a e l := by
  induction l with
  | nil => simp [setKey, getKey, h.symm]
  | cons x l ih =>
    obtain ⟨j, y⟩ := x
    by_cases hj : j = k
    · simp [setKey, getKey, hj, h.symm]
    · simp [setKey, getKey, hj, ih]

theorem State.link_putLink (s : State) (d e : Nat) (l : Link) : (s.putLink d l).link e = if e = d then l else s.link e := by
  unfold State.putLink State.link
  dsimp only
  split
  · next h => rw [h, Claims.getKey_setKey]
  · next h => rw [getKey_setKey_of_ne _ h]

theorem State.link_bothDirs (s : State) (d e : Nat) (f : Link → Link) :
    (s.bothDirs d f).link e = if e / 2 = d / 2 then f (s.link e) else s.link e := by
  unfold State.bothDirs
  dsimp only
  rw [State.link_putLink, State.link_putLink]
  by_cases h1 : e = d / 2 * 2 + 1
  · rw [if_pos h1, if_pos (by omega), h1]
  by_cases h0 : e = d / 2 * 2
  · rw [if_neg h1, if_pos h0, if_pos (by omega), h0]
  · rw [if_neg h1, if_neg h0, if_neg (by omega)]

theorem State.SameLaunch.link {t : State} (h : s.SameLaunch t) (e : Nat) : t.link e = s.link e := by
  rw [State.link, State.link, h.links]

/-! ### Training (R492) and links that go down (R494) -/

theorem exec_retrain (h : (s.link d).open_ = true) :
    exec (.retrain d) s = .next (s.bothDirs d fun l => { l.noAudit with training := true }) := by
  change execRetrain d s = _
  unfold execRetrain
  rw [if_neg (by simp [h])]

theorem exec_retrainComplete (h : (s.link d).training = true) (locked : Bool) :
    exec (.retrainComplete d locked) s = .next (if locked
      then s.bothDirs d fun l =>
        { l with training := false, resend := true, replay := l.replay.map (fun x => (x.1, 0)), lastAck := s.now }
      else s.bothDirs d fun l => { l with fails := l.fails.filter (fun t => s.now < t + s.cyclesOfUs 1000) ++ [s.now] }) := by
  change execRetrainComplete d locked s = _
  unfold execRetrainComplete
  rw [if_neg (by simp [h])]
  cases locked <;> rfl

/-- A direction of a link that goes down (R494). -/
def Link.goneDown (l : Link) : Link :=
  { l with down := true, training := false, wire := [], audit := none, reply := none, owe := none, asked := 0,
           replay := dropAcked l.rxSeq l.replay }

theorem exec_linkDown (h : s.downDue d = true) :
    exec (.linkDown d) s =
      .next ((s.record { type := 7, detail := Config.recordDetail 7 d 0 }).bothDirs (2 * d) Link.goneDown) := by
  change execLinkDown d s = _
  unfold execLinkDown
  rw [if_neg (by simp [h])]
  rfl

/-! ### New routes (R493, R494) -/

/-- What waits at a direction of a dead link, to be injected again at its die. -/
def State.waitsAt (s : State) (e : Nat) : List (Nat × Option Nat × Msg) :=
  if (s.link e).down = true then ((s.link e).replay.filterMap fun x => x.1.msg).map (fun m => (dirFrom e, none, m)) else []

/-- One direction looked at as new routes install. -/
def State.reroute (s : State) (d : Nat) : State :=
  if !(s.link d).down || (s.link d).replay.isEmpty then s
  else { s.putLink d { s.link d with replay := [] } with
    msgs := s.msgs ++ ((s.link d).replay.filterMap fun x => x.1.msg).map fun m => (dirFrom d, none, m) }

/-- A direction as new routes leave it. -/
def Link.rerouted (l : Link) : Link := if l.down = true then { l with replay := [] } else l

theorem exec_routeInstall (s : State) : exec .routeInstall s = .next ((List.range 104).foldl State.reroute s) := rfl

theorem Link.rerouted_of {l : Link} (h : l.down = true → l.replay = []) : l.rerouted = l := by
  unfold Link.rerouted
  split
  · rw [← h ‹_›]
  · rfl

theorem State.reroute_spec (s : State) (d : Nat) :
    (s.reroute d).mem = s.mem ∧ (s.reroute d).groups = s.groups ∧ (s.reroute d).deadDies = s.deadDies ∧
    (s.reroute d).msgs = s.msgs ++ s.waitsAt d ∧ ∀ e, (s.reroute d).link e = if e = d then (s.link e).rerouted else s.link e := by
  unfold State.reroute
  split
  · next h =>
    have hr : (s.link d).down = true → (s.link d).replay = [] := by simpa [or_iff_not_imp_left] using h
    refine ⟨rfl, rfl, rfl, ?_, fun e => ?_⟩
    · unfold State.waitsAt
      split
      · simp [hr ‹_›]
      · simp
    · split
      · next he => rw [he, Link.rerouted_of hr]
      · rfl
  · next h =>
    obtain ⟨hd, _⟩ : (s.link d).down = true ∧ (s.link d).replay ≠ [] := by simpa using h
    refine ⟨rfl, rfl, rfl, by rw [State.waitsAt, if_pos hd], fun e => ?_⟩
    refine (s.link_putLink d e _).trans ?_
    split
    · next he => rw [he, Link.rerouted, if_pos hd]
    · rfl

theorem State.foldl_reroute (l : List Nat) (hn : l.Nodup) (s : State) :
    (l.foldl State.reroute s).mem = s.mem ∧ (l.foldl State.reroute s).groups = s.groups ∧
    (l.foldl State.reroute s).deadDies = s.deadDies ∧ (l.foldl State.reroute s).msgs = s.msgs ++ l.flatMap s.waitsAt ∧
    ∀ e, (l.foldl State.reroute s).link e = if e ∈ l then (s.link e).rerouted else s.link e := by
  induction l generalizing s with
  | nil => exact ⟨rfl, rfl, rfl, by simp, fun e => by simp⟩
  | cons d l ih =>
    obtain ⟨hd, hn⟩ := List.nodup_cons.1 hn
    obtain ⟨hmem, hgroups, hdead, hmsgs, hlink⟩ := ih hn (s.reroute d)
    obtain ⟨hmem', hgroups', hdead', hmsgs', hlink'⟩ := s.reroute_spec d
    have hwait : l.flatMap (s.reroute d).waitsAt = l.flatMap s.waitsAt := by
      refine List.flatMap_congr fun e he => ?_
      have hne : e ≠ d := fun h => hd (h ▸ he)
      rw [State.waitsAt, hlink' e, if_neg hne]
      rfl
    refine ⟨hmem.trans hmem', hgroups.trans hgroups', hdead.trans hdead', ?_, fun e => ?_⟩
    · rw [List.foldl_cons, hmsgs, hmsgs', hwait, List.flatMap_cons, List.append_assoc]
    · rw [List.foldl_cons, hlink e, hlink' e]
      by_cases he : e = d
      · rw [if_pos he, if_neg (he ▸ hd), if_pos (he ▸ List.mem_cons_self)]
      · rw [if_neg he]
        simp [he]

end Sys2Proof.Machine

namespace Sys2Proof.Claims

open Sys2Proof.Machine

theorem tasksOfAFencedDie : TasksOfAFencedDie := by
  intro s d t hd hnd hm hn ht hs
  refine ⟨(s.fenceDie d).loseStranded, ?_, State.lost_fenceDie hnd hm hn ht hs⟩
  change execDieFence d s = _
  unfold execDieFence
  rw [if_pos hd]

/-- Settles O42: routes and components are those of walks over up links; a fence moves no block and fences no other die, and every
launch that it goes through goes on, ends or is lost. -/
theorem linkTrainingRoutesAndFences : Obligations.LinkTrainingRoutesAndFences := by
  refine ⟨routesAreShortest, theLargestComponentIsKept, tasksOfAFencedDie, fun s d => ⟨?_, ?_, ?_, ?_, ?_, ?_, ?_⟩⟩
  · exact exec_retrain
  · exact fun h => exec_retrainComplete h true
  · exact fun h => exec_retrainComplete h false
  · intro h
    have k := s.sameLaunch_record { type := 7, detail := Config.recordDetail 7 d 0 }
    refine ⟨_, exec_linkDown h, fun e he => ?_, fun e he => ?_⟩
    · rw [State.link_bothDirs, if_neg (by omega), k.link]
    · rw [State.link_bothDirs, if_pos (by omega), k.link]
      exact ⟨rfl, rfl, rfl, rfl⟩
  · obtain ⟨hmem, hgroups, hdead, hmsgs, hlink⟩ := State.foldl_reroute (List.range 104) List.nodup_range s
    exact ⟨_, exec_routeInstall s, hmem, hgroups, hdead, hmsgs, fun e he => (hlink e).trans (if_pos (List.mem_range.2 he))⟩
  · intro hd hnd
    refine ⟨(s.fenceDie d).loseStranded, ?_, ?_, fun b hb => ?_⟩
    · change execDieFence d s = _
      unfold execDieFence
      rw [if_pos hd]
    · rw [(State.onward_loseStranded _).deadDies, State.deadDies_fenceDie hnd]
      simp
    · obtain ⟨c, hc, e⟩ := (State.onward_loseStranded _).blocks b hb
      exact e ▸ (State.blocks_fenceDie hnd c hc).2
  · intro timed late
    have hlate : (s.timed.msgs.any fun x => x.2.1.any fun t => t + s.cyclesOfUs 1000 ≤ s.now) = true ↔ late := by
      change _ ↔ ∃ x ∈ s.timed.msgs, ∃ t, x.2.1 = some t ∧ t + s.cyclesOfUs 1000 ≤ s.now
      simp only [List.any_eq_true, Option.any_eq_true, decide_eq_true_eq]
    rw [exec_meshSplit]
    refine ⟨fun h => by rw [if_neg (hlate.not.2 h)]; rfl, fun h => ?_⟩
    rw [if_pos (hlate.2 h)]
    obtain ⟨hdead, hblocks⟩ := State.foldl_fenceDie ((List.range 32).filter fun d => !s.keptComponent.getLsbD d) s.timed
    refine ⟨_, rfl, fun e => ?_, fun e he hk hnd b hb hbe => ?_⟩
    · rw [(State.onward_loseStranded _).deadDies, hdead e]
      simp [State.timed]
    · obtain ⟨c, hc, hcb⟩ := (State.onward_loseStranded _).blocks b hb
      have hc' := (hblocks c hc).2
      rw [hcb, hbe] at hc'
      exact hnd (hc' (List.mem_filter.2 ⟨List.mem_range.2 he, by rw [hk]; rfl⟩))

end Sys2Proof.Claims
end

section
/-! SUPPORT. The instructions with an affine result (R68, R270 to R283). -/

namespace Sys2Proof.Machine

variable {s : State} {g : Group} {x : Split} {h : Head} {r : RArgs}

theorem RArgs.n_bounds (r : RArgs) : 0 < r.n ∧ r.n ≤ 64 := by
  unfold RArgs.n subWidth
  split <;> decide

/-- `shlA` multiplies by 2^min(200, k), which gives the base, stride and W of 2^k (R272). -/
theorem exec_shlA (hr : Runs s g x ⟨0x22, h, .r r⟩) :
    let v := g.viewAt s.now
    let k : Int := (2 ^ ((v.src .none r.n r.b 0).setWidth 32).toNat : Nat)
    exec (.shlA h r) s = .next (s.doneBy g x ⟨0x22, h, .r r⟩
      (g.aff s.now 1 r.d.toNat (affResult r.n (v.affSrc r.n r.a 0 * k) (v.affSrc r.n r.a 1 * k) (v.srcW r.a))) (s.now + 1)) := by
  obtain ⟨hpos, hle⟩ := RArgs.n_bounds r
  refine hr.ok (s' := s.putGroup _) rfl rfl ?_
  rw [Group.aff, ← affResult_scaled _ _ _ _ _ hpos hle]
  rfl

end Sys2Proof.Machine

namespace Sys2Proof.Claims

open Sys2Proof.Machine

theorem affineArithmetic : AffineArithmetic := by
  simp only [AffineArithmetic, affineForms, List.forall_mem_cons, List.not_mem_nil, IsEmpty.forall_iff, implies_true, and_true]
  refine ⟨?_, ?_, ?_, ?_, ?_⟩ <;> exact fun s g x h r hr => hr.ok rfl

theorem affineMakers : AffineMakers :=
  fun _ _ _ _ _ => ⟨exec_shlA, fun hr => hr.ok rfl, fun hr => hr.ok rfl, fun hr => hr.ok rfl, fun hr => hr.ok rfl⟩

/-- Settles O5: each own effect is the group with its affine result on the way; for `shlA` by `affResult_scaled`. -/
theorem affineResults : Obligations.AffineResults := ⟨affineArithmetic, affineMakers⟩

end Sys2Proof.Claims
end

section
/-! SUPPORT. Addresses that are affine with W set (R71, R94, R390). -/

namespace Sys2Proof.Machine

variable {s : State} {g : Group} {x : Split} {h : Head} {m : MArgs}

theorem affineBad_of (hx : m.xk = .aff) (hw : (g.ra m.x.toNat).w = true) : affineBad g m = true := by
  simp [affineBad, hx, hw]

/-- FADDR of AFFINE_RANGE: the lowest checked lane's address, 0 where there is none (R94; log 53). -/
theorem affineAddr_eq (v : Group) (op : Nat) (m : MArgs) (mask : LaneMask) :
    affineAddr v op m mask = (((lanesOf mask).head?.map fun L => dw (v.addrOf m (mSize op m) L)).getD 0) := by
  unfold affineAddr
  cases lanesOf mask <;> rfl

theorem memOwnBy_of_affineBad {op : Nat} {k : ReqKind} {c : Acc} {u o l : Bool} {act : Req → Own}
    (hb : affineBad (g.viewAt s.now) m = true) :
    memOwnBy op h m k c u o l s g x act =
      .fault cAffine (affineAddr (g.viewAt s.now) op m (g.checked x h u s.now)) (g.checked x h u s.now) :=
  if_pos hb

/-- A scratchpad access that may issue (R150, R203, R329). -/
theorem scrOwn_of_affineBad {op : Nat} {b : Block} {act : Block → LaneMask → List LaneReq → Own}
    (hb : affineBad (g.viewAt s.now) m = true) (hg : s.block? g.block = some b)
    (he : s.engineStall b (scrAccesses op h m s.now g x).2 = false) (hi : g.mayIssue op m = true)
    (hp : op = 0x9D → s.behindPass g s.now = false) :
    scrOwn op h m s g x act =
      .fault cAffine (affineAddr (g.viewAt s.now) op m (g.checked x h false s.now)) (g.checked x h false s.now) := by
  have hpass : (op == 0x9D && s.behindPass g s.now) = false := by
    by_cases h9 : op = 0x9D
    · rw [hp h9, Bool.and_false]
    · rw [beq_false_of_ne h9, Bool.false_and]
  simp only [scrOwn, hg, he, hi, hpass, hb, Bool.not_true, Bool.or_self, Bool.false_eq_true, if_false, if_true]
  rfl

end Sys2Proof.Machine

namespace Sys2Proof.Claims

open Sys2Proof.Machine

/-- Settles O16: an affine address with W set fails the first check of every own effect that reads one. -/
theorem affineAddressWithWFaults : Obligations.AffineAddressWithWFaults := by
  intro s g x h m hx hw
  have hb := affineBad_of hx hw
  simp only [← affineAddr_eq]
  refine ⟨?_, ?_⟩
  · simp only [accesses, List.filter, Bool.not_true, Bool.not_false, List.map, List.cons_append, List.nil_append,
      List.forall_mem_cons, List.not_mem_nil, IsEmpty.forall_iff, implies_true, and_true]
    refine ⟨?_, ?_, ?_, ?_, ?_, ?_, ?_, ?_, fun hr => hr.fault rfl rfl (if_pos hb)⟩ <;>
      exact fun hr => hr.fault rfl rfl (memOwnBy_of_affineBad hb)
  · simp only [List.forall_mem_cons, List.not_mem_nil, IsEmpty.forall_iff, implies_true, and_true]
    exact ⟨fun b hg he hi _ hr => hr.fault rfl rfl (scrOwn_of_affineBad hb hg he hi nofun),
      fun b hg he hi hp hr => hr.fault rfl rfl (scrOwn_of_affineBad hb hg he hi fun _ => hp trivial)⟩

end Sys2Proof.Claims
end

section
/-! SUPPORT. The checks before the own effect of a slot instruction, in their order (R57 to R62, R72, R373, R384): what each of them
says, and that every slot instruction but those of `Claims.mayWait` comes to them. -/

namespace Sys2Proof.Machine

variable {s : State} {g : Group} {x : Split} {w : Slot} {b : Block} {t : Task} {p : Part}

/-! ### The checks by cause -/

/-- The checks whose cause is RESERVED_FIELD. -/
def reservedCheck (s : State) (g : Group) (w : Slot) : Bool :=
  !w.ok || ((w.op.toNat == 0xD5 || 0xDB ≤ w.op.toNat) && !g.inHandler ||
    (g.inHandler && (w.head.nx == .call || w.head.nx == .ret || w.head.nx == .exit) ||
      ((match w.pl with | .x a => w.op.toNat == 0xD7 && 0x20 ≤ a.imm.toNat && !g.inHandler | _ => false) ||
        valueBad s g w.op.toNat w.pl)))

/-- The checks whose cause is REGISTER_RANGE. -/
def rangeCheck (s : State) (g : Group) (w : Slot) : Bool :=
  (namedV w.op.toNat w.pl).any g.vBad || g.winRange s.now w.op.toNat w.pl ||
    match w.pl with
    | .e a => 0xB1 ≤ w.op.toNat && w.op.toNat ≤ 0xB4 && ((s.block? g.block).map (·.nacc)).getD 0 ≤ a.d.toNat
    | _ => false

theorem ite_ite_same {α : Type} (a b : Bool) (u v : α) : (if a then u else if b then u else v) = if a || b then u else v := by
  cases a <;> rfl

theorem precheck_eq (s : State) (g : Group) (x : Split) (w : Slot) :
    precheck s g x w.op.toNat w.head w.pl =
      if reservedCheck s g w then some (cReserved, 0)
      else if rangeCheck s g w then some (cRange, 0)
      else if uniformDst w.op.toNat w.pl && !g.inHandler && x.mask != g.live then some (cPartial, 0)
      else if (w.head.nx == .call && 16 ≤ g.rets.length) || (w.head.nx == .ret && rspOf x.mask g.rets == 0) then some (cDepth, 0)
      else if (w.head.nx == .call || w.head.nx == .jind) && ((g.viewAt s.now).rs w.head.tgt.toNat).extractLsb' 0 5 != 0 then
        some (cMisaligned, (g.viewAt s.now).rs w.head.tgt.toNat)
      else none := by
  simp only [precheck, BitVec.ofNat_toNat, BitVec.setWidth_eq, ite_ite_same]
  rfl

theorem inHandler_eq_false : g.inHandler = false ↔ g.handler = none := by
  simp [Group.inHandler]

theorem inHandler_eq_true : g.inHandler = true ↔ g.handler ≠ none := by
  simp [Group.inHandler, Option.isSome_iff_ne_none]

theorem reservedCheck_iff : reservedCheck s g w = true ↔ Claims.reservedAt s g w := by
  have h5 : w.op.toNat = 0xD5 ↔ w.op = 0xD5 := BitVec.toNat_inj (y := 0xD5)
  have h7 : w.op.toNat = 0xD7 ↔ w.op = 0xD7 := BitVec.toNat_inj (y := 0xD7)
  obtain ⟨op, head, pl⟩ := w
  cases pl <;>
    simp [reservedCheck, Claims.reservedAt, inHandler_eq_false, inHandler_eq_true, or_assoc, and_assoc] at h5 h7 ⊢ <;>
    simp [h5, h7]

theorem rangeCheck_iff (hb : s.block? g.block = some b) : rangeCheck s g w = true ↔ Claims.rangeAt s g w := by
  have h5 : w.op.toNat = 0xDB ↔ w.op = 0xDB := BitVec.toNat_inj (y := 0xDB)
  have h7 : w.op.toNat = 0xDC ↔ w.op = 0xDC := BitVec.toNat_inj (y := 0xDC)
  have hv (r : Nat) : g.vBad r = true ↔ g.nregs ≤ r ∧ ¬ (g.handler ≠ none ∧ 248 ≤ r) := by
    rw [← inHandler_eq_true, Group.vBad]
    cases g.inHandler <;> simp
  obtain ⟨op, head, pl⟩ := w
  simp only [rangeCheck, Claims.rangeAt, Bool.or_eq_true, List.any_eq_true, hv, or_assoc]
  cases pl <;> simp [Group.winRange, hb] at h5 h7 ⊢ <;> simp [h5, h7, and_assoc]

theorem precheck_of_reservedAt (h : Claims.reservedAt s g w) :
    precheck s g x w.op.toNat w.head w.pl = some (cReserved, 0) := by
  rw [precheck_eq, if_pos (reservedCheck_iff.2 h)]

theorem precheck_of_rangeAt (hb : s.block? g.block = some b) (hr : ¬ Claims.reservedAt s g w) (h : Claims.rangeAt s g w) :
    precheck s g x w.op.toNat w.head w.pl = some (cRange, 0) := by
  rw [precheck_eq, if_neg (mt reservedCheck_iff.1 hr), if_pos ((rangeCheck_iff hb).2 h)]

section
variable (hb : s.block? g.block = some b) (hr : ¬ Claims.reservedAt s g w) (hg : ¬ Claims.rangeAt s g w)
include hb hr hg

/-- The checks after RESERVED_FIELD and REGISTER_RANGE, in their order (R72, R373; log 74). -/
theorem precheck_after_range :
    let target := (g.viewAt s.now).rs w.head.tgt.toNat
    let part := uniformDst w.op.toNat w.pl = true ∧ g.handler = none ∧ x.mask ≠ g.live
    let depth := (w.head.nx = .call ∧ 16 ≤ g.rets.length) ∨ (w.head.nx = .ret ∧ rspOf x.mask g.rets = 0)
    let pre := precheck s g x w.op.toNat w.head w.pl
    (part → pre = some (cPartial, 0)) ∧ (¬ part → depth → pre = some (cDepth, 0)) ∧
      (¬ part → ¬ depth → (w.head.nx = .call ∨ w.head.nx = .jind) → target.toNat % 32 ≠ 0 → pre = some (cMisaligned, target)) := by
  have hlow (y : Dword) : y.extractLsb' 0 5 = 0 ↔ y.toNat % 32 = 0 := by
    rw [← BitVec.toNat_inj]
    simp
  have hpart : (uniformDst w.op.toNat w.pl && !g.inHandler && x.mask != g.live) = true ↔
      uniformDst w.op.toNat w.pl = true ∧ g.handler = none ∧ x.mask ≠ g.live := by
    simp [inHandler_eq_false, and_assoc]
  have hdepth : (w.head.nx == .call && decide (16 ≤ g.rets.length) || w.head.nx == .ret && rspOf x.mask g.rets == 0) = true ↔
      (w.head.nx = .call ∧ 16 ≤ g.rets.length) ∨ (w.head.nx = .ret ∧ rspOf x.mask g.rets = 0) := by
    simp
  dsimp only
  rw [precheck_eq, if_neg (mt reservedCheck_iff.1 hr), if_neg (mt (rangeCheck_iff hb).1 hg)]
  refine ⟨fun h => if_pos (hpart.2 h), fun h h' => ?_, fun h h' hnx hy => ?_⟩
  · rw [if_neg (mt hpart.1 h), if_pos (hdepth.2 h')]
  · rw [if_neg (mt hpart.1 h), if_neg (mt hdepth.1 h'), if_pos]
    simpa using ⟨hnx, mt (hlow _).1 hy⟩

end

/-! ### Every slot instruction comes to the checks -/

/-- An instruction that is not eligible waits before any check. -/
theorem runSlot_waits {n : Nat} {h : Head} {y : Payload} {own : Group → Split → Own} (hg : s.curGroup = some g)
    (hx : g.exec? = some x) (hw : (own g x).waits = true) : runSlot n h y s own = .next { s with stall := true } := by
  simp only [runSlot, hg, hx, hw, if_true]

/-- Every slot instruction runs by `runSlot`, and none but those of `Claims.mayWait` waits. -/
theorem exec_eq_runSlot {i : Instr} (hb : s.block? g.block = some b) (ht : s.taskOf g = some t) (hp : s.part? b.part = some p)
    (hi : i.slot = some w) :
    ∃ own, exec i s = runSlot w.op.toNat w.head w.pl s own ∧ (w.op ∉ Claims.mayWait → (own g x).waits = false) := by
  cases i with
  | iaddV _ _ | iaddA _ _ | iaddS _ _ | isubV _ _ | isubA _ _ | isubS _ _ | imulV _ _ | imulA _ _ | imulS _ _ | imulhV _ _
  | imulhS _ _ | imadV _ _ | imadA _ _ | imadS _ _ | imulwV _ _ | imulwS _ _ | iabsV _ _ | iabsS _ _ | iminV _ _ | iminS _ _
  | imaxV _ _ | imaxS _ _ | iaddsatV _ _ | iaddsatS _ _ | andV _ _ | andS _ _ | orV _ _ | orS _ _ | xorV _ _ | xorS _ _ | notV _ _
  | notS _ _ | shlV _ _ | shlA _ _ | shlS _ _ | shrV _ _ | shrS _ _ | sarV _ _ | sarS _ _ | rolV _ _ | rolS _ _ | bfxV _ _
  | bfxS _ _ | bfiV _ _ | bfiS _ _ | popcV _ _ | popcS _ _ | clzV _ _ | clzS _ _ | brevV _ _ | brevS _ _ | extV _ _ | extS _ _
  | iselV _ _ | iselS _ _ | icmpVarying _ _ | leaV _ _ | leaA _ _ | leaS _ _ | movV _ _ | movA _ _ | movS _ _ | moviV _ _
  | moviS _ _ | amake _ _ | alane _ _ | promUniformToAffine _ _ | promUniformToVarying _ _ | promAffineToVarying _ _ | vfirst _ _
  | faddF32V _ _ | faddF32S _ _ | faddF64V _ _ | faddF64S _ _ | fsubF32V _ _ | fsubF32S _ _ | fsubF64V _ _ | fsubF64S _ _
  | fmulF32V _ _ | fmulF32S _ _ | fmulF64V _ _ | fmulF64S _ _ | ffmaF32V _ _ | ffmaF32S _ _ | ffmaF64V _ _ | ffmaF64S _ _
  | fminF32V _ _ | fminF32S _ _ | fminF64V _ _ | fminF64S _ _ | fmaxF32V _ _ | fmaxF32S _ _ | fmaxF64V _ _ | fmaxF64S _ _
  | fcmpF32V _ _ | fcmpF64V _ _ | fdivF32V _ _ | fdivF32S _ _ | fdivF64V _ _ | fdivF64S _ _ | fsqrtF32V _ _ | fsqrtF32S _ _
  | fsqrtF64V _ _ | fsqrtF64S _ _ | frcp _ _ | frsq _ _ | flog2 _ _ | fexp2 _ _ | fsin _ _ | fcos _ _ | fcvtV _ _ | fcvtS _ _
  | frndV _ _ | frndS _ _ | fclass _ _ | fldexp _ _ | shfl _ _ | shfx _ _ | lredS _ _ | lredV _ _ | lscan _ _ | ballot _ _
  | rng _ _ | hshV _ _ | hshS _ _ | argmx _ _ | clk _ _ | fence _ _ | lcset _ _ | yield _ _ | sleep _ _ | hsave _ _ | hrest _ _
  | nop _ _ | brl _ _ | trap _ _ =>
    obtain rfl := Option.some.inj hi
    exact ⟨_, rfl, fun _ => rfl⟩
  | xunpk _ _ | xpack _ _ | xcvt _ _ | qrow _ _ | qscale _ _ | lds _ _ | sts _ _ | prf _ _ | cmtk _ _ | cpy _ _ | mloop _ _
  | mloopg _ _ | mout _ _ | mzero _ _ | mwait _ _ | barw _ _ | spawn _ _ =>
    obtain rfl := Option.some.inj hi
    exact ⟨_, rfl, fun h => absurd (by simp [Claims.mayWait]) h⟩
  | icmpUniform _ _ | atest _ _ | fcmpF32S _ _ | fcmpF64S _ _ | vuni _ _ | setsr _ _ =>
    obtain rfl := Option.some.inj hi
    refine ⟨_, rfl, fun _ => ?_⟩
    dsimp only [uniPredOwn]
    split <;> rfl
  | ldV _ _ | ldS _ _ | stV _ _ | stS _ _ | ldw _ _ | stw _ _ | atomV _ _ | atomS _ _ | red _ _ | redo _ _ | wcnt _ _ =>
    obtain rfl := Option.some.inj hi
    refine ⟨_, rfl, fun _ => ?_⟩
    simp only [memOwn, memOwnBy, hb, ht]
    repeat' split
    all_goals rfl
  | getsr _ _ | pmc _ _ | cmtp _ _ | mbat _ _ | macq _ _ | mrel _ _ | ownq _ _ | bari _ _ | bara _ _ | barx _ _ | gbar _ _
  | rbar _ _ | work _ _ =>
    have htask : s.task? b.task = some t := by simpa [State.taskOf, hb] using ht
    obtain rfl := Option.some.inj hi
    refine ⟨_, rfl, fun _ => ?_⟩
    simp only [hb, ht, htask, hp, Option.bind_some, misuse]
    repeat' split
    all_goals rfl
  | rte _ _ | bkpt _ _ | winld _ _ | winst _ _ =>
    obtain rfl := Option.some.inj hi
    refine ⟨_, rfl, fun _ => ?_⟩
    dsimp only
    repeat' split
    all_goals rfl
  | _ => exact (Option.some_ne_none _ hi.symm).elim

end Sys2Proof.Machine

namespace Sys2Proof.Claims

open Sys2Proof.Machine

/-- Settles O34: `precheck` is the chain of the checks, and a slot instruction that does not wait comes to it. -/
theorem checksBeforeTheEffect : Obligations.ChecksBeforeTheEffect := by
  intro s g x b t p i w hg hx hb ht hp hi fault raises part depth target
  have hraise : ∀ {c a}, precheck s g x w.op.toNat w.head w.pl = some (c, a) → raises c a := by
    intro c a hc
    obtain ⟨own, he, hw⟩ := exec_eq_runSlot (x := x) hb ht hp hi
    by_cases hwait : (own g x).waits = true
    · refine .inr ⟨by_contra fun h => ?_, he.trans (runSlot_waits hg hx hwait)⟩
      rw [hw h] at hwait
      cases hwait
    · exact .inl (he.trans (runSlot_check hg hx (Bool.eq_false_of_not_eq_true hwait) hc))
  refine ⟨fun h => hraise (precheck_of_reservedAt h), fun hr h => hraise (precheck_of_rangeAt hb hr h), fun hr hn => ?_⟩
  obtain ⟨hpart, hdepth, htarget⟩ := precheck_after_range (x := x) hb hr hn
  exact ⟨fun h => hraise (hpart h), fun h h' => hraise (hdepth h h'), fun h h' hnx hy => hraise (htarget h h' hnx hy)⟩

end Sys2Proof.Claims
end

section
/-! SUPPORT. Special registers, time and counts (R77 to R83, R379 to R383). -/

namespace Sys2Proof.Machine

variable {s : State} {g : Group} {x : Split} {w : Slot} {h : Head} {a : XArgs} {b : Block} {t : Task} {p : Part}

/-! ### What the checks leave of a special register's number -/

theorem Runs.not_reservedAt (hr : Runs s g x w) : ¬ Claims.reservedAt s g w := fun h => by
  simpa [precheck_of_reservedAt h] using hr.checks

/-- `getsr` names a register of R77: one of the first 26, or in a handler a fault register. -/
theorem Runs.srListed (hr : Runs s g x ⟨0xD7, h, .x a⟩) :
    a.imm.toNat ≤ 0x19 ∨ (g.inHandler = true ∧ 0x20 ≤ a.imm.toNat ∧ a.imm.toNat ≤ 0x26) := by
  have hres := hr.not_reservedAt
  have hok : xOk 0xD7 a = true := by
    by_contra hbad
    exact hres (.inl (by simp [Slot.ok, hbad]))
  have hfault : 0x20 ≤ a.imm.toNat → g.inHandler = true := fun hi => by
    by_contra hno
    exact hres (.inr (.inr (.inr (.inl ⟨a, rfl, rfl, hi, inHandler_eq_false.1 (Bool.eq_false_of_not_eq_true hno)⟩))))
  have hlisted : Sys2Proof.srListed a.imm.toNat = true := by
    simp only [xOk, Bool.and_eq_true] at hok
    exact hok.2
  simp only [Sys2Proof.srListed, Bool.or_eq_true, Bool.and_eq_true, decide_eq_true_eq] at hlisted
  exact hlisted.imp_right fun hi => ⟨hfault hi.1, hi⟩

/-! ### Results in flight and the handler -/

theorem Group.isSome_handler_apply (g : Group) (y : Write) : (g.apply y).handler.isSome = g.handler.isSome := by
  unfold Group.apply
  split <;> try rfl
  split
  · split <;> simp_all
  · simp_all

theorem Group.inHandler_foldl_apply (g : Group) (l : List Pend) :
    (l.foldl (fun g y => g.apply y.w) g).inHandler = g.inHandler := by
  induction l generalizing g with
  | nil => rfl
  | cons y l ih => exact (ih _).trans (g.isSome_handler_apply y.w)

theorem Group.inHandler_viewAt (g : Group) (n : Nat) : (g.viewAt n).inHandler = g.inHandler := g.inHandler_foldl_apply _

/-! ### The values of the special registers (R77 to R79, R383) -/

/-- The numbers of the special registers; those of the fault registers only in a handler. -/
def srNumbers (v : Group) : List Nat :=
  List.range 0x1A ++ if v.inHandler then [0x20, 0x21, 0x22, 0x23, 0x24, 0x25, 0x26] else []

theorem mem_srNumbers {v : Group} {n : Nat} :
    n ∈ srNumbers v ↔ n ≤ 0x19 ∨ (v.inHandler = true ∧ 0x20 ≤ n ∧ n ≤ 0x26) := by
  cases hv : v.inHandler <;> simp [srNumbers, hv] <;> omega

theorem specialRegisters_eq (b : Block) (t : Task) (p : Part) (v : Group) (x : Split) :
    Claims.specialRegisters b t p v x = (srNumbers v).map fun n => (n, srValue b t p v x n) := by
  have hsum (i j : Nat) : 2 ^ 8 * i + (i + j) = 256 * i + i + j := by omega
  rw [srNumbers, List.map_append, Claims.specialRegisters]
  congr 1
  · rw [hsum]
    rfl
  · cases hv : v.handler with
    | none => simp [Group.inHandler, hv]
    | some k => simp [Group.inHandler, hv, srValue, Handler.reg, maskWord]

end Sys2Proof.Machine

namespace Sys2Proof.Claims

open Sys2Proof.Machine

/-- Settles O30: the table of the special registers is `srValue`; the other instructions by their own effects. -/
theorem specialRegistersTimeAndCounts : Obligations.SpecialRegistersTimeAndCounts := by
  intro s g x h a b t p hb ht hp v y n w e read
  have hpart : ((s.block? g.block).bind fun b => s.part? b.part) = some p := by simp [hb, hp]
  refine ⟨fun hr z hz => ?_, fun hr => ?_, fun hr hn _ => hr.ok rfl rfl ?_, fun hr hn _ => hr.ok rfl rfl ?_,
    fun hr h3 h4 => hr.ok rfl rfl ?_, fun c hc hr => hr.ok rfl rfl ?_, fun hr he => hr.ok rfl rfl ?_,
    fun hr he hal => hr.ok rfl rfl ?_, fun hr h2 h6 hal => hr.ok rfl rfl ?_⟩
  · rw [specialRegisters_eq] at hz
    obtain ⟨_, _, heq⟩ := List.mem_map.1 hz
    obtain ⟨rfl, rfl⟩ := Prod.mk.inj heq
    refine hr.ok rfl rfl ?_
    simp only [hb, ht, hp]
    rfl
  · rw [specialRegisters_eq]
    have hl : a.imm.toNat ≤ 0x19 ∨ (v.inHandler = true ∧ 0x20 ≤ a.imm.toNat ∧ a.imm.toNat ≤ 0x26) :=
      (g.inHandler_viewAt s.now).symm ▸ hr.srListed
    have hn : n = a.imm.toNat := Nat.mod_eq_of_lt (by obtain hi | ⟨_, _, hi⟩ := hl <;> omega)
    exact ⟨_, List.mem_map_of_mem (mem_srNumbers.2 (hn ▸ hl))⟩
  · rw [show a.imm.toNat % 256 = 0x13 from hn]
    rfl
  · rw [show a.imm.toNat % 256 = 0x14 from hn]
    rfl
  · dsimp only
    split
    · exact absurd ‹_› h3
    · exact absurd ‹_› h4
    · rfl
  · simp only [State.ctxClk, hb, hc]
    rfl
  · have hdeny : (a.imm.toNat == 0 || 6 < a.imm.toNat || !p.pmcAllow.getLsbD a.imm.toNat) = true := by
      simpa [or_assoc] using he
    simp only [hpart, hdeny, if_true]
    rfl
  · simp only [hpart, show a.imm.toNat = 1 from he, hal]
    rfl
  · have hpass : (a.imm.toNat == 0 || 6 < a.imm.toNat || !p.pmcAllow.getLsbD a.imm.toNat) = false := by
      have hal : p.pmcAllow.getLsbD a.imm.toNat = true := hal
      have h0 : a.imm.toNat ≠ 0 := Nat.ne_of_gt (Nat.lt_of_succ_lt h2)
      simpa [h0, hal] using h6
    have h1 : (a.imm.toNat == 1) = false := beq_false_of_ne (Nat.ne_of_gt h2)
    simp only [hpart, hpass, h1, Bool.false_eq_true, if_false, Bool.or_eq_true, beq_iff_eq]
    rfl

end Sys2Proof.Claims
end

section
/-! SUPPORT. Instructions that fault on the state they find, or stay unissued on it: slots, commit positions, engines. -/

namespace Sys2Proof.Claims

open Sys2Proof.Machine

theorem unboundSlotFaults : UnboundSlotFaults := by
  intro s g x h r e k j fault
  refine ⟨fun hk => ⟨fun hr => hr.fault rfl rfl ?_, fun hr => hr.fault rfl rfl ?_, fun hr => hr.fault rfl rfl ?_⟩,
    fun hr hj => hr.fault rfl rfl ?_, fun hr hj hk => hr.fault rfl rfl ?_, fun hr hi => hr.fault rfl rfl ?_,
    fun b i hb hq => ⟨fun hi => ⟨fun hr => hr.fault rfl rfl ?_, fun hr => hr.fault rfl rfl ?_⟩, fun hi hr => hr.fault rfl rfl ?_⟩⟩
  · simp [slotsOf, hk, k]
  · simp [slotsOf, hk, k]
  · simp [hk, k]
  · simp [slotsOf, hj, j]
  · simp [slotsOf, hk, k, j]
  · simp [hi]
  · simp [mloopOwn, hb, hi, Nat.not_le.2 hq]
  · simp [mloopOwn, hb, hi, Nat.not_le.2 hq]
  · simp [hb, hi, Nat.not_le.2 hq]

theorem slotModesAndCorruptSlots : SlotModesAndCorruptSlots := by
  intro s g x h r e F G k j i frm fault stays
  refine ⟨fun hk hm => ⟨fun hr => hr.fault rfl rfl ?_, fun hr hj => hr.fault rfl rfl ?_⟩, fun hi hm hr => hr.fault rfl rfl ?_,
    fun hk => ⟨fun hr => hr.stalls rfl rfl ?_, fun hr => hr.stalls rfl rfl ?_, fun hr => hr.stalls rfl rfl ?_⟩,
    fun hi hr => hr.stalls rfl rfl ?_⟩
  · simp [slotsOf, hk, hm, k, frm]
  · simp [slotsOf, hk, hj, hm, k, j, frm]
  · simp only [show s.slotOf g (e.ext.toNat % 8) = .ok F from hi]
    split
    · rfl
    · have hmode : F.mode (e.ext.toNat / 8 % 8) (g.viewAt s.now).frm.toNat ≠ none := by simp [*]
      exact if_pos (beq_iff_eq.2 (hm.resolve_left hmode))
  · simp [slotsOf, hk, k]
  · simp [slotsOf, hk, k]
  · simp [hk, k]
  · simp [hi, i]

theorem commitViolations : CommitViolations := by
  intro s g x h m b t hb ht hd
  refine ⟨fun hr hc => hr.fault rfl rfl ?_, fun hr hc => hr.fault rfl rfl ?_⟩
  · simp [hb, ht, hd, hc, Nat.lt_asymm hc, Nat.ne_of_gt hc]
  · simp [hb, ht, hd, hc, Task.holds_]

theorem engineConflictFaults : EngineConflictFaults := by
  intro s g x h e a b A B fault kA hb
  refine ⟨fun ht => ⟨fun hq => ⟨fun hs => ⟨fun hr => hr.fault rfl rfl ?_, fun hr => hr.fault rfl rfl ?_⟩,
      fun hs hr => hr.fault rfl rfl ?_, fun hr => hr.fault rfl rfl ?_⟩, fun hr => hr.fault rfl rfl ?_, fun hr => hr.fault rfl rfl ?_⟩,
    fun hu hr => hr.fault rfl rfl ?_, fun hm hr => hr.fault rfl rfl ?_, fun ht hr => hr.fault rfl rfl ?_⟩
  · simp [mloopOwn, hb, hs, Nat.not_le.2 hq, Block.owns, ht, kA]
  · simp [mloopOwn, hb, hs, Nat.not_le.2 hq, Block.owns, ht, kA]
  · simp [hb, hs, Nat.not_le.2 hq, Block.owns, ht, kA]
  · simp [hb, Nat.not_le.2 hq, Block.owns, ht]
  · simp [hb, Block.owns, ht]
  · simp [hb, Block.owns, ht]
  · simp [hb, hu]
  · simp [hb, hm]
  · simp [hb, ht]

theorem rangeAndWorkFaults : RangeAndWorkFaults := by
  intro s g x h e a b t v n fault hb ht
  refine ⟨fun hr hs => hr.fault rfl rfl ?_, fun hr hw hn => hr.fault rfl rfl ?_⟩
  · simp [hb, hs, v]
  · simp [hb, ht, hw, hn, n, v]

theorem barrierMisuseFaults : BarrierMisuseFaults := by
  intro s g x h a b t hb ht n l part out fault
  have hpart : part ↔ g.whole x = false := by
    simp [part, Group.whole, inHandler_eq_false]
  refine ⟨fun hr hp => hr.fault rfl rfl ?_, fun hr hp => hr.fault rfl rfl ?_, fun hr hp => hr.fault rfl rfl ?_,
    fun hr hp => hr.fault rfl rfl ?_, fun hr hp => hr.fault rfl rfl ?_, fun hr hp => hr.fault rfl rfl ?_⟩
  all_goals simp only [hpart] at hp
  · have hc : (!g.whole x || (b.bar n).amask != 0) = true := by simpa using hp
    simp only [hb]
    exact if_pos hc
  · have hc : (!g.whole x || (b.bar n).pmask &&& g.bit == 0 || (b.bar n).amask &&& g.bit != 0) = true := by
      simpa [out, or_assoc] using hp
    simp only [hb]
    exact if_pos hc
  · have hc : (!g.whole x || (b.bar n).pmask &&& g.bit == 0) = true := by simpa [out] using hp
    simp only [hb]
    exact if_pos hc
  · simp only [hb]
    split
    · rfl
    next hlast =>
      have hw : g.whole x = false := hp.resolve_right fun hnone => nomatch hnone.symm.trans hlast
      exact if_pos (by rw [hw]; rfl)
  · simp [hb, hp, misuse]
  · have hc : (!g.whole x || !t.hdr.coop || ((s.liveGroups b.uid).any fun y => b.rbar.contains y.gindex) && b.rbarLvl != some l) =
        true := by
      simpa [or_assoc, and_comm] using hp
    simp only [hb, ht]
    exact if_pos hc

/-- A value that its entry forbids raises RESERVED_FIELD wherever the other checks stand: no cause comes before it. -/
theorem runSlot_of_valueBad {s : State} {g : Group} {x : Split} {w : Slot} {own : Group → Split → Own} (hg : s.curGroup = some g)
    (hx : g.exec? = some x) (hw : (own g x).waits = false := by rfl) (hv : valueBad s g w.op.toNat w.pl = true) :
    runSlot w.op.toNat w.head w.pl s own = .next (s.takeFault g (preciseFault s x cReserved 0 x.mask)) :=
  runSlot_check hg hx hw (precheck_of_reservedAt (.inr (.inr (.inr (.inr hv)))))

theorem illegalSpecialValuesFault : IllegalSpecialValuesFault := by
  intro s g x h a e hg hx v y n i fault
  refine ⟨fun hy => ?_, fun t ht hm => ?_, fun b t hb ht hq hd => ?_, fun hi => ?_, fun hi hi' => ?_⟩
  · refine runSlot_of_valueBad (w := ⟨0xD8, h, .x a⟩) hg hx ?_ ?_
    · dsimp only
      split <;> rfl
    · simpa [valueBad] using hy
  · obtain ⟨b, hb, _⟩ := Option.bind_eq_some_iff.1 ht
    refine runSlot_of_valueBad (w := ⟨0xBA, h, .x a⟩) hg hx ?_ (by simp [valueBad, ht, hm])
    simp only [hb, misuse]
    split <;> rfl
  · have hd' : CDesc.of ((g.viewAt s.now).quad e.s.toNat) = none := hd
    refine runSlot_of_valueBad (w := ⟨0xB0, h, .e e⟩) hg hx ?_ (by simp [valueBad, hd'])
    simp only [hb, ht, if_neg (Nat.not_le.2 hq), hd']
    rfl
  · have hw : winWritable (winIndex (g.viewAt s.now) a) = false := decide_eq_false (Nat.not_lt.2 hi)
    refine runSlot_of_valueBad (w := ⟨0xDC, h, .x a⟩) hg hx ?_ (by simp [valueBad, hw])
    dsimp only
    split <;> rfl
  · have hw : winListed (winIndex (g.viewAt s.now) a) = false := by
      change (decide (i < 0x167) || decide (0x200 ≤ i) && decide (i < 0x208)) = false
      simp only [Bool.or_eq_false_iff, Bool.and_eq_false_iff, decide_eq_false_iff_not]
      omega
    refine runSlot_of_valueBad (w := ⟨0xDB, h, .x a⟩) hg hx ?_ (by simp [valueBad, hw])
    dsimp only
    repeat' split
    all_goals rfl

end Sys2Proof.Claims
end

section
/-! SUPPORT. The further faults of copies and matrix operations, in the order of R350 (R139, R178 to R182, R352, R353, R357). -/

namespace Sys2Proof.Machine

variable {s : State} {g : Group} {x : Split} {h : Head} {e : EArgs} {b : Block} {t : Task} {A B : Fmt}

/-! ### Matrix loops (R179, R182, R356) -/

section
variable {gather : Group → List Nat} (hb : s.block? g.block = some b) (hq : s.mqLen g.core < 32) (ht : b.token = some g.gindex)
  (hs : s.slotsOf g [e.b.toNat % 8, e.b.toNat / 16 % 8] = .ok [A, B])
include hb hq ht hs

theorem mloopOwn_reserved (hbad : 25 ≤ max A.precision B.precision ∨
      MDesc.of ((g.viewAt s.now).quad e.s.toNat) A.width B.width = none) :
    mloopOwn e gather s g x = .fault cReserved 0 x.mask := by
  simp only [mloopOwn, hb, hs, if_neg (Nat.not_le.2 hq), Block.owns, ht, beq_self_eq_true, Bool.not_true, Bool.false_eq_true, if_false]
  split
  · rfl
  · rw [hbad.resolve_left ‹_›]

theorem mloopOwn_scratch {d : MDesc} (hp : max A.precision B.precision < 25)
    (hd : MDesc.of ((g.viewAt s.now).quad e.s.toNat) A.width B.width = some d)
    (hr : b.scrSize < rangeEnd (d.stepBytes (gather (g.viewAt s.now)) A.width B.width (d.nstep - 1))) :
    mloopOwn e gather s g x = .fault cScratch 0 x.mask := by
  simp only [mloopOwn, hb, hs, if_neg (Nat.not_le.2 hq), Block.owns, ht, beq_self_eq_true, Bool.not_true, Bool.false_eq_true, if_false,
    if_neg (Nat.not_le.2 hp), hd, if_pos hr]

end

/-! ### Copies (R139, R352, R353, R495) -/

/-- A copy's global bytes match a region only inside the address space (R352). -/
theorem ite_outside_eq {α : Type} (lo hi : Int) (m : Option α) :
    (if lo < 0 || (2 : Int) ^ 57 ≤ hi then none else m) = if 0 ≤ lo ∧ hi < (2 : Int) ^ 57 then m else none := by
  by_cases h : 0 ≤ lo ∧ hi < (2 : Int) ^ 57
  · rw [if_pos h, if_neg (by simp only [Bool.or_eq_true, decide_eq_true_eq]; omega)]
  · rw [if_neg h, if_pos (by simp only [Bool.or_eq_true, decide_eq_true_eq]; omega)]

end Sys2Proof.Machine

namespace Sys2Proof.Claims

open Sys2Proof.Machine

theorem copyAndMatrixFaults : CopyAndMatrixFaults := by
  intro s g x h e b t hb ht v fault
  refine ⟨fun hr hq d hd => ?_, fun A B hq htok => ⟨fun hr hs => ⟨fun hbad => ?_, fun d hp hd hrange => ?_⟩,
    fun hr hs => ⟨fun hbad => ?_, fun d hp hd hrange => ?_⟩, ?_⟩⟩
  · intro lo match_
    have hq' := Nat.not_le.2 hq
    have hd' : CDesc.of ((g.viewAt s.now).quad e.s.toNat) = some d := hd
    refine ⟨fun hs => hr.fault rfl rfl ?_, fun hs => ⟨fun hm => hr.fault rfl rfl ?_, fun i mode hm => ?_⟩⟩
    · simp only [hb, ht, if_neg hq', hd', if_pos hs]
      rfl
    · simp only [match_, lo] at hm
      simp only [hb, ht, if_neg hq', hd', if_neg (Nat.not_lt.2 hs), ite_outside_eq, hm]
      rfl
    · simp only [match_, lo] at hm
      intro ok det
      have hdet : (t.hdr.det && mode == .shared && !t.holds_ b) = true ↔ det := by
        simp [Task.holds_, det, and_assoc]
      have hok : (!ok) = true ↔ ok = false := by simp
      have hsome (h1 : ok = true) := mt hok.1 (by simp [h1])
      refine ⟨fun h1 => hr.fault rfl rfl ?_, fun h1 h2 => hr.fault rfl rfl ?_, fun h1 h2 h3 => hr.fault rfl rfl ?_,
        fun h1 h2 h3 h4 => hr.fault rfl rfl ?_⟩ <;>
      simp only [hb, ht, if_neg hq', hd', if_neg (Nat.not_lt.2 hs), ite_outside_eq, hm]
      · exact if_pos (hok.2 h1)
      · exact (if_neg (hsome h1)).trans (if_pos (hdet.2 h2))
      · exact (if_neg (hsome h1)).trans ((if_neg (mt hdet.1 h2)).trans (if_pos h3))
      · exact (if_neg (hsome h1)).trans ((if_neg (mt hdet.1 h2)).trans ((if_neg (by simp [h3])).trans (if_pos h4)))
  · exact hr.fault rfl rfl (mloopOwn_reserved hb hq htok hs hbad)
  · exact hr.fault rfl rfl (mloopOwn_scratch hb hq htok hs hp hd hrange)
  · exact hr.fault rfl rfl (mloopOwn_reserved hb hq htok hs hbad)
  · exact hr.fault rfl rfl (mloopOwn_scratch hb hq htok hs hp hd hrange)
  · intro w bad hr hs
    have hbad : bad ↔ (6 ≤ e.b.toNat / 16 || fld w 24 8 != 0 || fld w 48 16 != 0 || fld w 32 16 < 4 * A.width) = true ∨
        A.mode (e.b.toNat / 16) v.frm.toNat = none := by
      simp only [bad, Bool.or_eq_true, decide_eq_true_eq, bne_iff_ne, or_assoc]
    refine ⟨fun h1 => hr.fault rfl rfl ?_, fun h1 h2 => hr.fault rfl rfl ?_⟩ <;>
      simp only [hb, hs, if_neg (Nat.not_le.2 hq), Block.owns, htok, beq_self_eq_true, Bool.not_true, Bool.false_eq_true, if_false]
    · split
      · rfl
      next hfields => rw [(hbad.1 h1).resolve_left hfields]
    · obtain ⟨hfields, hmode⟩ := not_or.1 (mt hbad.2 h1)
      obtain ⟨rm, hrm⟩ := Option.ne_none_iff_exists'.1 hmode
      refine (if_neg hfields).trans ?_
      rw [show A.mode (e.b.toNat / 16) (g.viewAt s.now).frm.toNat = some rm from hrm]
      exact if_pos h2

/-- Settles O31, instruction by instruction: each own effect comes to the fault that the clause names, or waits. -/
theorem faultsOfInstructions : Obligations.FaultsOfInstructions :=
  ⟨unboundSlotFaults, slotModesAndCorruptSlots, commitViolations, engineConflictFaults, copyAndMatrixFaults, rangeAndWorkFaults,
    barrierMisuseFaults, illegalSpecialValuesFault⟩

end Sys2Proof.Claims
end

section
/-! SUPPORT. What sequencing leaves unchanged (R53 to R58, R371 to R376): faults, fetches, merges and the end of groups, blocks and
tasks write no register of any group, no result in flight, no scratchpad and no byte of memory. -/

namespace Sys2Proof.Machine

variable {s₀ s : State} {g : Group}

/-! ### The registers of a group -/

/-- What a group is known by and what instructions on registers read and write: its uid, its registers and special registers, and
its results in flight. -/
def Group.regs (g : Group) :=
  (g.uid, g.v, g.s, g.a, g.p, g.edge, g.frm, g.status, g.h, g.hs, g.pend)

theorem Group.regs_parkExtra (g : Group) : g.parkExtra.regs = g.regs := by
  unfold Group.parkExtra
  split
  · split <;> rfl
  · rfl

theorem Group.regs_settle (g : Group) : g.settle.regs = g.regs := by
  unfold Group.settle
  exact Group.regs_parkExtra _

theorem Group.regs_markFetched (g : Group) (m : LaneMask) : (g.markFetched m).regs = g.regs := by
  unfold Group.markFetched
  split <;> rfl

theorem Group.regs_putExec (g : Group) (m : LaneMask) (y : Split) : (g.putExec m y).regs = g.regs := by
  unfold Group.putExec
  split <;> rfl

theorem Group.regs_sequence (g : Group) (x : Split) (h : Head) (n : Pc) (a : Dword) (m : LaneMask) (t : Nat) :
    (g.sequence x h n a m t).regs = g.regs := by
  have hput (y : Split) : (g.putExec x.mask y).regs = g.regs := g.regs_putExec _ _
  unfold Group.sequence
  dsimp only
  split
  case h_4 =>
    split
    · split <;> exact hput _
    · rfl
  case h_5 => split <;> exact hput _
  case h_7 => split <;> exact hput _
  case h_8 => split <;> rfl
  all_goals exact hput _

theorem State.regs_exitMark (s : State) (g : Group) (m : LaneMask) : (s.exitMark g m).regs = g.regs := by
  unfold State.exitMark
  extract_lets shared
  split <;> rfl

/-! ### What is kept of a state -/

/-- What a block is known by and what its groups read and write in it (R118, R178). -/
def Block.scratch (b : Block) := (b.uid, b.scr, b.tiles)

/-- A group of the state has these registers. -/
def State.HasRegs (s : State) (g : Group) : Prop := ∃ z ∈ s.groups, z.regs = g.regs

/-- A block of the state has this scratchpad and these tiles. -/
def State.HasScratch (s : State) (b : Block) : Prop := ∃ z ∈ s.blocks, z.scratch = b.scratch

/-- A state that goes on from `s₀` without a write: every group and every block that is left has what one of `s₀` has, and memory
and the LLC are the same. -/
structure State.Framed (s₀ s : State) : Prop where
  mem    : s.mem = s₀.mem
  llc    : s.llc = s₀.llc
  peer   : s.peer = s₀.peer
  blocks : ∀ b ∈ s.blocks, s₀.HasScratch b
  groups : ∀ y ∈ s.groups, s₀.HasRegs y

theorem State.Framed.refl (s : State) : s.Framed s :=
  ⟨rfl, rfl, rfl, fun b hb => ⟨b, hb, rfl⟩, fun y hy => ⟨y, hy, rfl⟩⟩

/-- The parts that a frame speaks of. -/
theorem State.Framed.congr {t : State} (h : s₀.Framed s) (hm : (t.mem, t.llc, t.peer) = (s.mem, s.llc, s.peer))
    (hb : t.blocks = s.blocks) (hg : t.groups = s.groups) : s₀.Framed t := by
  obtain ⟨mem, llc, peer, blocks, groups⟩ := h
  simp only [Prod.mk.injEq] at hm
  obtain ⟨h1, h2, h3⟩ := hm
  exact ⟨h1.trans mem, h2.trans llc, h3.trans peer, hb ▸ blocks, hg ▸ groups⟩

theorem State.Framed.foldl {α : Type} {f : State → α → State} (hf : ∀ s a, s₀.Framed s → s₀.Framed (f s a)) (l : List α)
    (h : s₀.Framed s) : s₀.Framed (l.foldl f s) := by
  induction l generalizing s with
  | nil => exact h
  | cons a l ih => exact ih (hf s a h)

theorem State.Framed.ite {t : State} {c : Prop} [Decidable c] (hs : s₀.Framed s) (ht : s₀.Framed t) :
    s₀.Framed (if c then s else t) := by
  split
  · exact hs
  · exact ht

theorem State.Framed.group? {u : Nat} (h : s₀.Framed s) (hg : s.group? u = some g) : s₀.HasRegs g :=
  h.groups g (List.mem_of_find?_eq_some hg)

theorem State.Framed.block? {u : Nat} {b : Block} (h : s₀.Framed s) (hb : s.block? u = some b) : s₀.HasScratch b :=
  h.blocks b (List.mem_of_find?_eq_some hb)

theorem forall_mem_updIf {α : Type} {p : α → Bool} {f : α → α} {P : α → Prop} {l : List α} (h : ∀ x ∈ l, P x)
    (hf : ∀ x ∈ l, P x → P (f x)) : ∀ x ∈ updIf p f l, P x := by
  intro y hy
  obtain ⟨x, hx, rfl⟩ := List.mem_map.1 hy
  split
  · exact hf x hx (h x hx)
  · exact h x hx

/-! ### The parts of State -/

theorem State.Framed.putGroup (h : s₀.Framed s) (hg : s₀.HasRegs g) : s₀.Framed (s.putGroup g) :=
  { h with groups := forall_mem_updIf h.groups fun _ _ _ => hg }

/-- A group that differs elsewhere than in its registers. -/
theorem State.HasRegs.of_eq {y : Group} (h : s₀.HasRegs g) (e : y.regs = g.regs := by rfl) : s₀.HasRegs y := by
  obtain ⟨z, hz, ez⟩ := h
  exact ⟨z, hz, ez.trans e.symm⟩

theorem State.HasScratch.of_eq {b y : Block} (h : s₀.HasScratch b) (e : y.scratch = b.scratch := by rfl) : s₀.HasScratch y := by
  obtain ⟨z, hz, ez⟩ := h
  exact ⟨z, hz, ez.trans e.symm⟩

theorem State.Framed.putBlock {b : Block} (h : s₀.Framed s) (hb : s₀.HasScratch b) : s₀.Framed (s.putBlock b) :=
  { h with blocks := forall_mem_updIf h.blocks fun _ _ _ => hb }

theorem State.Framed.putTask (h : s₀.Framed s) (x : Task) : s₀.Framed (s.putTask x) := h.congr rfl rfl rfl
theorem State.Framed.putFn (h : s₀.Framed s) (f : Nat) (x : Fn) : s₀.Framed (s.putFn f x) := h.congr rfl rfl rfl
theorem State.Framed.hostWrite (h : s₀.Framed s) (f a : Nat) (b : List Byte) : s₀.Framed (s.hostWrite f a b) := h.congr rfl rfl rfl
theorem State.Framed.carry (h : s₀.Framed s) (m : Msg) : s₀.Framed (s.carry m) := .ite h (h.congr rfl rfl rfl)

/-! ### Event records (R440, R441) -/

theorem State.Framed.deliver (h : s₀.Framed s) (f : Nat) (i : RecInfo) : s₀.Framed (s.deliver f i) :=
  .ite (((h.putFn _ _).hostWrite _ _ _).putFn _ _) (.ite ((h.putFn _ _).putFn _ _) ((h.putFn _ _).putFn _ _))

theorem State.Framed.record (h : s₀.Framed s) (i : RecInfo) : s₀.Framed (s.record i) :=
  State.Framed.deliver (.ite (by exact h.congr rfl rfl rfl) h) _ _

/-! ### Barriers, the token and the end of a group (R46, R185, R362 to R365) -/

theorem State.Framed.wake (h : s₀.Framed s) (q : Group → Bool) (p : GWait → Bool) : s₀.Framed (s.wake q p) :=
  { h with groups := forall_mem_updIf h.groups fun _ _ hx => hx }

theorem State.Framed.gbarTest (h : s₀.Framed s) (b : Nat) : s₀.Framed (s.gbarTest b) := by
  unfold State.gbarTest
  split
  · exact h
  next hb => exact .ite h (State.Framed.wake (h.putBlock (h.block? hb).of_eq) _ _)

theorem State.Framed.rbarPass (h : s₀.Framed s) (b : Block) (l : Nat) : s₀.Framed (s.rbarPass b l) := by
  unfold State.rbarPass
  extract_lets us pass t t'
  have ht : s₀.Framed t := { h with blocks := forall_mem_updIf h.blocks fun _ _ hx => hx.of_eq }
  refine State.Framed.wake ?_ _ _
  dsimp only [t']
  split
  · exact ht.putTask _
  · exact ht

theorem State.Framed.rbarTell (h : s₀.Framed s) (x : Task) (k : Nat) (l : List Nat) : s₀.Framed (s.rbarTell x k l) :=
  .ite h (.foldl (fun _ _ hs => hs.carry _) _ (h.putTask _))

theorem State.Framed.rbarTest (h : s₀.Framed s) (b : Nat) : s₀.Framed (s.rbarTest b) := by
  unfold State.rbarTest
  split
  · exact h
  · split
    · exact h
    · refine .ite h ?_
      split
      · have ht := fun x k l => h.rbarTell x k l
        refine .ite (ht _ _ _) (.ite ((ht _ _ _).rbarPass _ _) (.ite (ht _ _ _) ?_))
        split
        · exact (ht _ _ _).putTask _
        · exact ht _ _ _
      · exact h.rbarPass _ _

theorem State.Framed.rbarTestTask (h : s₀.Framed s) (x : Nat) : s₀.Framed (s.rbarTestTask x) :=
  .foldl (fun _ _ hs => hs.rbarTest _) _ h

theorem State.Framed.passToken {b : Block} (h : s₀.Framed s) (hb : s₀.HasScratch b) : s₀.Framed (s.passToken b) := by
  unfold State.passToken
  split
  · exact h.putBlock hb.of_eq
  · exact State.Framed.wake (h.putBlock hb.of_eq) _ _

theorem State.Framed.retireGroup (h : s₀.Framed s) (hg : s₀.HasRegs g) : s₀.Framed (s.retireGroup g) := by
  unfold State.retireGroup
  split
  · exact h
  next b hb =>
    extract_lets m s' b'
    have hb' : s₀.HasScratch b' := (h.block? hb).of_eq
    have ht : s₀.Framed (s'.putBlock b') := (h.putGroup hg.of_eq).putBlock hb'
    exact State.Framed.rbarTestTask (.gbarTest (.ite (ht.passToken hb') ht) _) _

/-! ### Blocks and tasks end (R46, R52, R384) -/

theorem State.Framed.dropBlock (h : s₀.Framed s) (b : Block) : s₀.Framed (s.dropBlock b) :=
  { h with blocks := fun y hy => h.blocks y (List.mem_filter.1 hy).1, groups := fun y hy => h.groups y (List.mem_filter.1 hy).1 }

theorem State.Framed.endTask (h : s₀.Framed s) (x k : Nat) (c : BitVec 8) : s₀.Framed (s.endTask x k c) := by
  have hstop : s₀.Framed (s.stopBlocks x) := .foldl (fun _ _ hs => hs.dropBlock _) _ h
  unfold State.endTask
  dsimp only
  split
  · exact hstop
  · exact .ite hstop (hstop.congr rfl rfl rfl)

theorem State.Framed.abort (h : s₀.Framed s) (g : Group) (f : FaultInfo) (d n : Bool) : s₀.Framed (s.abort g f d n) := by
  unfold State.abort
  split
  · exact h
  · split
    · exact h
    · exact (h.record _).endTask _ _ _

/-! ### Faults, packets and fetches (R93, R137, R382 to R386) -/

theorem State.Framed.takeFault (h : s₀.Framed s) (hg : s₀.HasRegs g) (f : FaultInfo) : s₀.Framed (s.takeFault g f) := by
  unfold State.takeFault
  refine .ite (h.abort _ _ _ _) ?_
  split
  · exact h.abort _ _ _ _
  · exact h.putGroup (hg.of_eq g.regs_parkExtra)

theorem State.Framed.packet (h : s₀.Framed s) (hg : s₀.HasRegs g) (q : Req) (a : Nat) (l : LaneMask) :
    s₀.Framed (s.packet g q a l) :=
  State.Framed.record (State.Framed.putGroup (by exact h.congr rfl rfl rfl) hg.of_eq) _

theorem State.Framed.fetchOk (h : s₀.Framed s) (hg : s₀.HasRegs g) (x : Split) : s₀.Framed (s.fetchOk g x).1 := by
  unfold State.fetchOk
  split
  · exact h.putGroup (hg.of_eq (g.regs_markFetched _))
  · split
    · exact h
    · exact h.putGroup (hg.of_eq (Group.regs_markFetched _ _))
  · exact h.putGroup hg

theorem State.Framed.fetchSplit (h : s₀.Framed s) (hg : s₀.HasRegs g) (x : Split) : s₀.Framed (s.fetchSplit g x).1 := by
  unfold State.fetchSplit
  split
  · exact h
  · split
    · exact h.takeFault hg _
    · split
      · exact h.fetchOk hg _
      · exact h.takeFault hg _
      · exact h.packet hg.of_eq _ _ _

theorem State.Framed.fetchAll (h : s₀.Framed s) (u a : Nat) (l : List Split) : s₀.Framed (s.fetchAll u a l) := by
  induction l generalizing s with
  | nil => exact h
  | cons x l ih =>
    unfold State.fetchAll
    split
    · exact h
    next g hg =>
      have hr := h.group? hg
      refine .ite (ih (h.putGroup (hr.of_eq (g.regs_markFetched _)))) ?_
      have hf := h.fetchSplit hr x
      split
      next e => exact ih (by rw [e] at hf; exact hf)
      next e => rw [e] at hf; exact hf

theorem State.Framed.settleGroup (h : s₀.Framed s) (u a : Nat) : s₀.Framed (s.settleGroup u a) := by
  unfold State.settleGroup
  split
  · exact h
  next y hy =>
    have hf := h.fetchAll u a y.unfetched
    dsimp only
    split
    · exact hf
    next g hg =>
      have hr : s₀.HasRegs (if g.inHandler then g else g.settle) := by
        split
        · exact hf.group? hg
        · exact (hf.group? hg).of_eq g.regs_settle
      have hr' : s₀.HasRegs (Group.dropFetches (if g.inHandler then g else g.settle)) := hr.of_eq
      exact .ite ((hf.putGroup hr').retireGroup hr') (hf.putGroup hr')

/-! ### Sequencing (R371 to R376) -/

theorem State.Framed.sequencedAt (h : s₀.Framed s) (u c : Nat) (hd : Head) (x : Split) (n : Pc) (m : LaneMask) (a : Dword) :
    s₀.Framed (s.sequencedAt u c hd x n m a) := by
  unfold State.sequencedAt
  split
  · exact h
  next g hg =>
    refine (h.putGroup (((h.group? hg).of_eq ?_).of_eq (Group.regs_sequence _ _ _ _ _ _ _))).settleGroup _ _
    split
    · exact s.regs_exitMark _ _
    · rfl

end Sys2Proof.Machine
end

section
/-! SUPPORT. What the issue of an instruction adds to its group (R36, R54, R263): results in flight that become readable later, and
completion flags; no register that a read in the cycle of issue finds. -/

namespace Sys2Proof.Machine

variable {p : Write → Prop} {now t n : Nat} {s s' : State} {g g₀ g' : Group} {x : Split} {h : Head} {w : Write}

/-! ### What a read finds -/

/-- The registers of a group as they stand. -/
def Group.reads (g : Group) := (g.v, g.s, g.a, g.p, g.edge, g.frm, g.status, g.h, g.hs)

/-- Whether a result is readable in a cycle, and is no completion flag. -/
def Pend.shows (now : Nat) (e : Pend) : Bool := e.at_ ≤ now && !e.w.clears

theorem Group.reads_apply_clears (g : Group) (hw : w.clears = true) : (g.apply w).reads = g.reads := by
  cases w with
  | flag n => rfl
  | hflag i n =>
    simp only [Group.apply]
    split
    · split <;> rfl
    · rfl
  | _ => exact absurd hw Bool.false_ne_true

theorem Group.reads_apply_congr (e : g'.reads = g.reads) (w : Write) : (g'.apply w).reads = (g.apply w).reads := by
  by_cases hw : w.clears = true
  · rw [g'.reads_apply_clears hw, g.reads_apply_clears hw, e]
  simp only [Group.reads, Prod.mk.injEq] at e
  obtain ⟨hv, hs, ha, hp, hedge, hfrm, hstatus, hh, hhs⟩ := e
  cases w with
  | flag n => exact absurd rfl hw
  | hflag i n => exact absurd rfl hw
  | _ => simp only [Group.apply, Group.reads, hv, hs, ha, hp, hedge, hfrm, hstatus, hh, hhs]

/-- Results in flight land the same in registers that are the same; completion flags are none of them. -/
theorem Group.reads_foldl_apply (e : g'.reads = g.reads) (l : List Pend) :
    (l.foldl (fun g y => g.apply y.w) g').reads = ((l.filter fun y => !y.w.clears).foldl (fun g y => g.apply y.w) g).reads := by
  induction l generalizing g g' with
  | nil => exact e
  | cons y l ih =>
    by_cases hy : y.w.clears = true
    · rw [List.filter_cons_of_neg (by simp [hy])]
      exact ih ((g'.reads_apply_clears hy).trans e)
    · rw [List.filter_cons_of_pos (by simp [hy])]
      exact ih (Group.reads_apply_congr e _)

theorem Group.reads_viewAt (g : Group) (now : Nat) :
    (g.viewAt now).reads = ((g.pend.filter (Pend.shows now)).foldl (fun g y => g.apply y.w) g).reads := by
  unfold Group.viewAt
  rw [Group.reads_foldl_apply rfl, List.filter_filter]
  have hshows : (fun y : Pend => (!y.w.clears && decide (y.at_ ≤ now))) = Pend.shows now :=
    funext fun y => Bool.and_comm _ _
  rw [hshows]

/-- What a read finds depends on the registers and on the results that show. -/
theorem Group.reads_viewAt_congr (hr : g'.reads = g.reads) (hs : g'.pend.filter (Pend.shows now) = g.pend.filter (Pend.shows now)) :
    (g'.viewAt now).reads = (g.viewAt now).reads := by
  have hall (l : List Pend) : (l.foldl (fun g y => g.apply y.w) g').reads = (l.foldl (fun g y => g.apply y.w) g).reads :=
    (Group.reads_foldl_apply hr l).trans (Group.reads_foldl_apply rfl l).symm
  rw [Group.reads_viewAt, Group.reads_viewAt, hs, hall]

/-! ### The instruction's additions -/

/-- A group that differs in what no read in cycle `now` finds: it has every result that was in flight beyond that cycle, and of
others only such as `p` allows. -/
structure Group.Adds (p : Write → Prop) (now : Nat) (g g' : Group) : Prop where
  uid     : g'.uid = g.uid
  handler : g'.inHandler = g.inHandler
  reads   : g'.reads = g.reads
  shown   : g'.pend.filter (Pend.shows now) = g.pend.filter (Pend.shows now)
  kept    : ∀ e ∈ g.pend, now < e.at_ → e ∈ g'.pend
  new     : ∀ e ∈ g'.pend, e ∈ g.pend ∨ p e.w

theorem Group.Adds.refl (g : Group) : g.Adds p now g := ⟨rfl, rfl, rfl, rfl, fun _ he _ => he, fun _ he => .inl he⟩

theorem Group.Adds.trans {g₁ g₂ g₃ : Group} (h : Group.Adds p now g₁ g₂) (k : Group.Adds p now g₂ g₃) :
    Group.Adds p now g₁ g₃ :=
  ⟨k.uid.trans h.uid, k.handler.trans h.handler, k.reads.trans h.reads, k.shown.trans h.shown,
    fun e he hn => k.kept e (h.kept e he hn) hn, fun e he => (k.new e he).elim (h.new e) .inr⟩

theorem Group.Adds.foldl {α : Type} {f : Group → α → Group} (hf : ∀ g a, g₀.Adds p now g → g₀.Adds p now (f g a)) (l : List α)
    (h : g₀.Adds p now g) : g₀.Adds p now (l.foldl f g) := by
  induction l generalizing g with
  | nil => exact h
  | cons a l ih => exact ih (hf g a h)

/-! ### Results put in flight -/

theorem mem_insertPend {e y : Pend} {l : List Pend} : y ∈ insertPend e l ↔ y = e ∨ y ∈ l := by
  induction l with
  | nil => simp [insertPend]
  | cons z l ih =>
    unfold insertPend
    split
    · simp only [List.mem_cons, ih]
      tauto
    · simp only [List.mem_cons]

theorem filter_insertPend {q : Pend → Bool} {e : Pend} (he : q e = false) (l : List Pend) :
    (insertPend e l).filter q = l.filter q := by
  induction l with
  | nil => simp [insertPend, he]
  | cons z l ih =>
    unfold insertPend
    split
    · rw [List.filter_cons, List.filter_cons, ih]
    · rw [List.filter_cons_of_neg (by simp [he])]

/-- A result in flight is seen by no read in the cycle of issue when it becomes readable later, or clears a completion flag. -/
theorem Group.adds_push (g : Group) (k : Nat) (ht : now < t ∨ w.clears = true) (hp : p w) : g.Adds p now (g.push t k w) where
  uid := rfl
  handler := rfl
  reads := rfl
  shown := filter_insertPend (by rcases ht with ht | ht <;> simp [Pend.shows, ht]) _
  kept _ he _ := mem_insertPend.2 (.inr he)
  new e he := (mem_insertPend.1 he).elim (fun h => .inr (h ▸ hp)) .inl

theorem Group.Adds.push (h : g₀.Adds p now g) (k : Nat) (ht : now < t) (hp : p w) : g₀.Adds p now (g.push t k w) :=
  h.trans (g.adds_push k (.inl ht) hp)

theorem Group.Adds.pushStatus {fl : BitVec 9} (h : g₀.Adds p now g) (ht : now < t) (hp : fl = 0 ∨ p (.stSet fl)) :
    g₀.Adds p now (g.pushStatus t fl) := by
  unfold Group.pushStatus
  split
  · exact h
  next hne => exact h.push _ ht (hp.resolve_left fun h0 => hne (beq_iff_eq.2 h0))

/-- The rows of a vector result, one or a pair. -/
theorem Group.Adds.pushRow {wd d : Nat} {m : LaneMask} {f : Nat → Dword} (h : g₀.Adds p now g) (ht : now < t)
    (hp : ∀ y, p (g.wv d m y) ∧ (wd = 64 → p (g.wv (d + 1) m y))) : g₀.Adds p now (g.pushRow t wd d m f) := by
  unfold Group.pushRow
  split
  · exact h
  · have hlow := h.push g.seq ht (hp (mkRow fun i => if m.getLsbD i then (f i).setWidth 32 else 0)).1
    split
    next h64 => exact hlow.push _ ht ((hp _).2 (beq_iff_eq.1 h64))
    · exact hlow

theorem Group.inHandler_pushRow (g : Group) (t wd d : Nat) (m : LaneMask) (f : Nat → Dword) :
    (g.pushRow t wd d m f).inHandler = g.inHandler := by
  unfold Group.pushRow
  split
  · rfl
  · split <;> rfl

/-! ### The issue (R34, R35, R235) -/

theorem Group.uid_foldl_apply (g : Group) (l : List Pend) : (l.foldl (fun g y => g.apply y.w) g).uid = g.uid :=
  List.foldlRecOn (motive := fun y : Group => y.uid = g.uid) _ _ rfl fun y hy _ _ => (y.uid_apply _).trans hy

theorem Group.adds_landFlags (g : Group) (now : Nat) : g.Adds p now (g.landFlags now) where
  uid := g.uid_foldl_apply _
  handler := g.inHandler_foldl_apply _
  reads := by
    refine (Group.reads_foldl_apply (g := g) rfl _).trans ?_
    rw [List.filter_filter, List.filter_eq_nil_iff.2]
    · rfl
    · intro e _ he
      simp only [Bool.and_eq_true, Bool.not_eq_true'] at he
      exact Bool.false_ne_true (he.1.symm.trans he.2.1)
  shown := by
    refine List.filter_filter.trans (List.filter_congr fun e _ => ?_)
    cases hc : e.w.clears <;> simp [Pend.shows, hc]
  kept e he hn := by simp [Group.landFlags, he, Nat.not_le.2 hn]
  new e he := .inl (List.mem_filter.1 he).1

/-- A group that differs elsewhere than in its registers and its results in flight. -/
theorem Group.adds_of_eq (e : g'.regs = g.regs) (hh : g'.inHandler = g.inHandler) : g.Adds p now g' := by
  simp only [Group.regs, Prod.mk.injEq] at e
  obtain ⟨uid, hv, hs, ha, hp, hedge, hfrm, hstatus, hrow, hhs, hpend⟩ := e
  exact ⟨uid, hh, by simp only [Group.reads, hv, hs, ha, hp, hedge, hfrm, hstatus, hrow, hhs], by rw [hpend],
    fun _ he _ => hpend ▸ he, fun _ he => .inl (hpend ▸ he)⟩

theorem Group.adds_putFlags (g : Group) (f : BitVec 12) : g.Adds p now (g.putFlags f) := by
  unfold Group.putFlags
  split
  next k hk => exact Group.adds_of_eq rfl (by simp [Group.inHandler, hk])
  · exact Group.adds_of_eq rfl rfl

theorem Group.clears_flagClear (g : Group) (n : Nat) : (g.flagClear n).clears = true := by
  unfold Group.flagClear
  split <;> rfl

/-- A claim about results that every completion flag meets: it is no register. -/
structure SparesFlags (p : Write → Prop) : Prop where
  flag  : ∀ n, p (.flag n)
  hflag : ∀ i n, p (.hflag i n)

theorem SparesFlags.clears (hp : SparesFlags p) (hw : w.clears = true) : p w := by
  cases w with
  | flag n => exact hp.flag n
  | hflag i n => exact hp.hflag i n
  | _ => exact absurd hw Bool.false_ne_true

theorem Group.adds_issue (hp : SparesFlags p) (g : Group) (h : Head) (now clk : Nat) (yld : Bool)
    (clear : Option Nat) : g.Adds p now (g.issue h now clk yld clear) := by
  have hlast (y : Group) (hy : g.Adds p now y) : g.Adds p now { y with seq := y.seq + 1 } :=
    hy.trans (Group.adds_of_eq rfl rfl)
  unfold Group.issue
  extract_lets n g₁ g₂ g₃ g₄
  have h₂ : g.Adds p now g₂ := (g.adds_landFlags now).trans (Group.adds_of_eq rfl rfl)
  have h₃ : g.Adds p now g₃ := h₂.trans (g₂.adds_putFlags _)
  refine hlast g₄ ?_
  unfold g₄
  split
  · exact h₂
  · split
    · exact h₃.trans (g₃.adds_push _ (.inr (g₃.clears_flagClear n)) (hp.clears (g₃.clears_flagClear n)))
    · exact h₃

end Sys2Proof.Machine
end

section
/-! SUPPORT. A register instruction from its own effect to the state after it: what it puts in flight is all that changes. -/

namespace Sys2Proof.Machine

open Host (Outcome)

variable {p : Write → Prop} {s s₁ s' t : State} {g g' : Group} {x : Split} {h : Head} {pl : Payload}
  {own : Group → Split → Own} {clear : Option Nat} {op : BitVec 8} {n : Nat} {o : Outcome State Fault Refusal}

/-- A state in which the group alone differs, by what an instruction of it puts in flight. -/
structure State.Puts (p : Write → Prop) (s : State) (g : Group) (s' : State) : Prop where
  now    : s'.now = s.now
  mem    : (s'.mem, s'.llc, s'.peer, s'.blocks) = (s.mem, s.llc, s.peer, s.blocks)
  others : ∀ y ∈ s'.groups, y.uid ≠ g.uid → y ∈ s.groups
  own    : ∃ g', s'.group? g.uid = some g' ∧ g.Adds p s.now g'

theorem State.group?_of_curGroup (hg : s.curGroup = some g) : s.group? g.uid = some g := by
  have huid : g.uid = s.cur := beq_iff_eq.1 (List.find?_some hg :)
  rw [huid]
  exact hg

theorem State.puts_refl (hg : s.group? g.uid = some g) : s.Puts p g s :=
  ⟨rfl, rfl, fun _ hy _ => hy, g, hg, .refl g⟩

theorem State.group?_putGroup (hg : s.group? g.uid = some g) (hu : g'.uid = g.uid) : (s.putGroup g').group? g.uid = some g' := by
  unfold State.group? State.putGroup at *
  rw [find?_updIf fun y hy => by rw [beq_iff_eq.1 hy], hg]
  simp [hu]

theorem State.mem_groups_putGroup {y : Group} (hy : y ∈ (s.putGroup g').groups) : y = g' ∨ y.uid ≠ g'.uid ∧ y ∈ s.groups := by
  obtain ⟨z, hz, rfl⟩ := List.mem_map.1 hy
  split
  · exact .inl rfl
  next hne => exact .inr ⟨fun h => hne (beq_iff_eq.2 h), hz⟩

/-- A state that differs in its partitions alone: they note the use of format slots (R172). -/
def State.Noted (s s' : State) : Prop := ∃ l, s' = { s with parts := l }

theorem State.Noted.refl (s : State) : s.Noted s := ⟨s.parts, rfl⟩

theorem State.noted_noteSlot (s : State) (g : Group) (k : Nat) : s.Noted (s.noteSlot g k) := by
  unfold State.noteSlot
  split
  · exact .refl s
  · split
    · exact .refl s
    · split
      · exact .refl s
      · exact ⟨_, rfl⟩

theorem State.Noted.noteSlot (h : s.Noted s₁) (g : Group) (k : Nat) : s.Noted (s₁.noteSlot g k) := by
  obtain ⟨l, rfl⟩ := h
  obtain ⟨l', e⟩ := State.noted_noteSlot { s with parts := l } g k
  exact ⟨l', e⟩

/-- The group with its results in flight. -/
theorem State.puts_putGroup (hg : s.group? g.uid = some g) (ha : g.Adds p s.now g') (hs : s.Noted s₁ := by exact .refl _) :
    s.Puts p g (s₁.putGroup g') := by
  obtain ⟨l, rfl⟩ := hs
  exact ⟨rfl, rfl, fun y hy hne => (State.mem_groups_putGroup hy).elim (fun e => absurd (e ▸ ha.uid) hne) And.right,
    g', State.group?_putGroup hg ha.uid, ha⟩

/-! ### From the own effect to the state after the instruction -/

/-- The issue changes the group alone as well. -/
theorem State.Puts.issued (hp : s.Puts p g s') (hc : SparesFlags p) :
    ∃ g₁, g.Adds p s.now g₁ ∧ (∀ y ∈ (s'.issued g.uid n h pl clear).groups, y = g₁ ∨ y.uid ≠ g.uid ∧ y ∈ s.groups) ∧
      let t := s'.issued g.uid n h pl clear
      (t.mem, t.llc, t.peer, t.blocks) = (s.mem, s.llc, s.peer, s.blocks) := by
  obtain ⟨hnow, hmem, hothers, g', hg', ha⟩ := hp
  have hi : g.Adds p s.now (g'.issue h s'.now (s'.ctxClk g') s'.yld clear) :=
    ha.trans (hnow ▸ Group.adds_issue hc g' h s'.now _ _ _)
  unfold State.issued
  rw [hg']
  refine ⟨_, hi, fun y hy => ?_, hmem⟩
  obtain rfl | ⟨hne, hy⟩ := State.mem_groups_putGroup hy
  · exact .inl rfl
  · rw [hi.uid] at hne
    exact .inr ⟨hne, hothers y hy hne⟩

/-- What goes on from a state in which the group alone has changed, without a write, keeps what `Keeps` speaks of. -/
theorem State.Framed.keeps (hf : s₁.Framed t) (ha : g.Adds p s.now g')
    (hg : ∀ y ∈ s₁.groups, y = g' ∨ y.uid ≠ g.uid ∧ y ∈ s.groups)
    (hm : (s₁.mem, s₁.llc, s₁.peer, s₁.blocks) = (s.mem, s.llc, s.peer, s.blocks)) : Claims.Keeps s t g p := by
  simp only [Prod.mk.injEq] at hm
  obtain ⟨hmem, hllc, hpeer, hblocks⟩ := hm
  refine ⟨hf.mem.trans hmem, hf.llc.trans hllc, hf.peer.trans hpeer, fun b hb => ?_, fun y hy hne => ?_, fun g₂ hg₂ => ?_⟩
  · obtain ⟨z, hz, e⟩ := hf.blocks b hb
    simp only [Block.scratch, Prod.mk.injEq] at e
    exact ⟨z, hblocks ▸ hz, e⟩
  · obtain ⟨z, hz, e⟩ := hf.groups y hy
    simp only [Group.regs, Prod.mk.injEq] at e
    have hz' : z ∈ s.groups := (hg z hz).elim (fun hz => absurd (e.1.symm.trans (hz ▸ ha.uid)) hne) And.right
    exact ⟨z, hz', by simp only [e, and_self]⟩
  · obtain ⟨z, hz, e⟩ := hf.group? hg₂
    have hu : g₂.uid = g.uid := beq_iff_eq.1 (List.find?_some hg₂ :)
    obtain rfl : z = g' := (hg z hz).resolve_right fun hne => hne.1 ((congrArg Prod.fst e).trans hu)
    simp only [Group.regs, Prod.mk.injEq] at e
    have hpend : z.pend = g₂.pend := by simp only [e]
    have hreads : g₂.reads = g.reads := by
      rw [← ha.reads]
      simp only [Group.reads, e]
    have hview := Group.reads_viewAt_congr hreads (hpend ▸ ha.shown)
    simp only [Group.reads, Prod.mk.injEq] at hview
    obtain ⟨hv, hs, ha', hp', hedge, hfrm, hstatus, hh, hhs⟩ := hview
    exact ⟨hv, hs, ha', hp', hedge, hfrm, hstatus, hh, hhs, hpend ▸ ha.kept, hpend ▸ ha.new⟩

theorem State.keeps_done (hp : s.Puts p g s') (hc : SparesFlags p) (w : Slot) :
    Claims.Keeps s (s.done g x w s' clear) g p := by
  obtain ⟨g₁, ha, hg, hm⟩ := hp.issued (n := w.op.toNat) (h := w.head) (pl := w.pl) (clear := clear) hc
  exact State.Framed.keeps ((State.Framed.refl _).sequencedAt _ _ _ _ _ _ _) ha hg hm

theorem Runs.keeps (hr : Runs s g x ⟨op, h, pl⟩) (ht : o = .next t) (e : o = runSlot n h pl s own) (hn : op.toNat = n := by rfl)
    (ho : own g x = .ok s' clear := by rfl) (hp : s.Puts p g s') (hc : SparesFlags p) :
    Claims.Keeps s t g p := by
  have hd := hr.ok e hn ho
  rw [ht] at hd
  cases hd
  exact State.keeps_done hp hc _

end Sys2Proof.Machine
end

section
/-! SUPPORT. The own effects of the register instructions, by their destination: varying, uniform, affine, predicate (R36, R55, R65). -/

namespace Sys2Proof.Claims

open Sys2Proof.Machine

variable {p : Write → Prop} {g g₀ : Group} {x : Split} {m : LaneMask} {r d w : Nat}

/-! ### Where a result goes -/

theorem toVector_wv (hh : g.inHandler = g₀.inHandler) (hm : m &&& ~~~x.mask = 0) (hr : r = d ∨ w = 64 ∧ r = d + 1) (y : Row) :
    toVector g₀ x w d (g.wv r m y) := by
  unfold Group.wv
  cases hg : g.inHandler
  · exact ⟨hr, hm, fun h => absurd (hg.symm.trans (hh.trans h)) Bool.false_ne_true⟩
  · by_cases h248 : 248 ≤ r
    · simp only [Bool.true_and, decide_eq_true h248, if_true]
      exact ⟨by omega, hm, hh ▸ hg⟩
    · simp only [Bool.true_and, decide_eq_false h248, Bool.false_eq_true, if_false]
      exact ⟨hr, hm, fun _ => Nat.lt_of_not_le h248⟩

theorem toRow_wv (g : Group) (r : Nat) (m : LaneMask) (y : Row) : toRow g r (g.wv r m y) := by
  unfold Group.wv
  cases hg : g.inHandler
  · exact ⟨rfl, fun h => absurd (hg.symm.trans h) Bool.false_ne_true⟩
  · by_cases h248 : 248 ≤ r
    · simp only [Bool.true_and, decide_eq_true h248, if_true]
      exact ⟨Nat.sub_add_cancel h248, hg⟩
    · simp only [Bool.true_and, decide_eq_false h248, Bool.false_eq_true, if_false]
      exact ⟨rfl, fun _ => Nat.lt_of_not_le h248⟩

theorem toUniform_ws (hh : g.inHandler = g₀.inHandler) (r : Nat) (y : Dword) : toUniform g₀ r (g.ws r y) := by
  unfold Group.ws
  cases hg : g.inHandler
  · exact ⟨rfl, fun h => absurd (hg.symm.trans (hh.trans h)) Bool.false_ne_true⟩
  · by_cases h56 : 56 ≤ r
    · simp only [Bool.true_and, decide_eq_true h56, if_true]
      exact ⟨Nat.sub_add_cancel h56, hh ▸ hg⟩
    · simp only [Bool.true_and, decide_eq_false h56, Bool.false_eq_true, if_false]
      exact ⟨rfl, fun _ => Nat.lt_of_not_le h56⟩

end Sys2Proof.Claims

namespace Sys2Proof.Machine

open Host (Outcome)

variable {p : Write → Prop} {s s₁ s' t : State} {g g₀ g₁ : Group} {x : Split} {h : Head} {pl : Payload} {m : LaneMask}
  {own : Group → Split → Own} {clear : Option Nat} {op : BitVec 8} {n b lat w d now : Nat} {wide : Bool} {sub : BitVec 2}
  {o : Outcome State Fault Refusal}

/-! ### Beats (R36, R55) -/

theorem and_and_not_self (m a : LaneMask) : m &&& a &&& ~~~m = 0 := by
  rw [BitVec.and_comm m a, BitVec.and_assoc, BitVec.and_not_self]
  exact BitVec.and_zero

theorem beatLanes_subset (g : Group) (x : Split) (h : Head) (t b : Nat) : g.beatLanes x h t b &&& ~~~x.mask = 0 := by
  unfold Group.beatLanes
  rw [BitVec.and_assoc x.mask]
  exact and_and_not_self _ _

theorem lt_beatDone (hl : 0 < lat) (wide : Bool) (now b : Nat) : now < beatDone wide now b lat := by
  unfold beatDone beatStart
  cases wide <;> simp only [Bool.false_eq_true, if_true, if_false] <;> omega

theorem foldl_or_zero {f : Nat → BitVec 9} (hf : ∀ i, f i = 0) (l : List Nat) : l.foldl (fun a i => a ||| f i) 0 = 0 :=
  List.foldlRecOn (motive := fun a => a = 0) l _ rfl fun a ha i _ => by rw [ha, hf i]; rfl

/-- What a vector result puts in flight: lanes of the split in its destination, and STATUS bits where it raises any. -/
theorem Group.Adds.vecBeat {f : Group → Nat → LaneOut} (ha : g₀.Adds p now g) (hl : 0 < lat)
    (hp : ∀ y, Claims.toVector g₀ x w d y → p y) (hf : (∀ v L, (f v L).fl = 0) ∨ ∀ y, p (.stSet y)) :
    g₀.Adds p now (Machine.vecBeat x h wide now lat w d f g b) := by
  have hlow (r : Nat) (hr : r = d ∨ w = 64 ∧ r = d + 1) (y : Row) : p (g.wv r (g.beatLanes x h (beatStart wide now b) b) y) :=
    hp _ (Claims.toVector_wv ha.handler (beatLanes_subset _ _ _ _ _) hr y)
  refine Group.Adds.pushStatus (ha.pushRow (lt_beatDone hl _ _ _) fun y => ⟨hlow d (.inl rfl) y, fun h64 =>
    hlow (d + 1) (.inr ⟨h64, rfl⟩) y⟩) (lt_beatDone hl _ _ _) ?_
  exact hf.imp (fun hf => foldl_or_zero (fun i => hf _ i) _) fun hf => hf _

theorem Group.Adds.predBeat {f : Group → Nat → Bool × BitVec 9} (ha : g₀.Adds p now g) (hl : 0 < lat)
    (hp : ∀ y, Claims.toPred x d y → p y) (hf : (∀ v L, (f v L).2 = 0) ∨ ∀ y, p (.stSet y)) :
    g₀.Adds p now (Machine.predBeat x h wide now lat d sub f g b) := by
  unfold Machine.predBeat
  refine Group.Adds.pushStatus ?_ (lt_beatDone hl _ _ _) (hf.imp (fun hf => foldl_or_zero (fun i => hf _ i) _) fun hf => hf _)
  split
  · exact ha
  · exact ha.push _ (lt_beatDone hl _ _ _) (hp (.p d _ _) ⟨rfl, beatLanes_subset _ _ _ _ _⟩)

/-! ### An instruction by its destination -/

theorem Runs.group? {op' : Slot} (hr : Runs s g x op') : s.group? g.uid = some g := State.group?_of_curGroup hr.group

theorem Runs.keeps_vector {f : Group → Nat → LaneOut} (hr : Runs s g x ⟨op, h, pl⟩) (ht : o = .next t) (hc : SparesFlags p)
    (hp : ∀ y, Claims.toVector g x w d y → p y) (hf : (∀ v L, (f v L).fl = 0) ∨ ∀ y, p (.stSet y)) (e : o = runSlot n h pl s own)
    (hn : op.toNat = n) (ho : own g x = vecOwn s₁ h wide lat w d f g₁ x) (hl : 0 < lat)
    (hs : s.Noted s₁ := by exact .refl _) (ha : g.Adds p s.now g₁ := by exact .refl _) : Claims.Keeps s t g p := by
  obtain ⟨l, rfl⟩ := hs
  exact hr.keeps ht e hn ho (State.puts_putGroup hr.group? (Group.Adds.foldl (fun _ _ ha => ha.vecBeat hl hp hf) _ ha) ⟨l, rfl⟩) hc

theorem Runs.keeps_predicate {f : Group → Nat → Bool × BitVec 9} (hr : Runs s g x ⟨op, h, pl⟩) (ht : o = .next t)
    (hc : SparesFlags p) (hp : ∀ y, Claims.toPred x d y → p y) (hf : (∀ v L, (f v L).2 = 0) ∨ ∀ y, p (.stSet y))
    (e : o = runSlot n h pl s own) (hn : op.toNat = n) (ho : own g x = predOwn s h wide lat d sub f g x) (hl : 0 < lat) :
    Claims.Keeps s t g p :=
  hr.keeps ht e hn ho (State.puts_putGroup hr.group? (Group.Adds.foldl (fun _ _ ha => ha.predBeat hl hp hf) _ (.refl g))) hc

theorem Runs.keeps_uniform {y : Dword} {fl : BitVec 9} (hr : Runs s g x ⟨op, h, pl⟩) (ht : o = .next t) (hc : SparesFlags p)
    (hp : ∀ y, Claims.toUniform g d y → p y) (hf : fl = 0 ∨ p (.stSet fl)) (e : o = runSlot n h pl s own)
    (hn : op.toNat = n) (ho : own g x = uniOwn s₁ lat d y fl g₁) (hl : 0 < lat)
    (hs : s.Noted s₁ := by exact .refl _) (ha : g.Adds p s.now g₁ := by exact .refl _) : Claims.Keeps s t g p := by
  obtain ⟨l, rfl⟩ := hs
  have hlt : s.now < s.now + lat := Nat.lt_add_of_pos_right hl
  exact hr.keeps ht e hn ho (State.puts_putGroup hr.group?
    ((ha.push _ hlt (hp _ (Claims.toUniform_ws ha.handler d y))).pushStatus hlt hf) ⟨l, rfl⟩) hc

theorem Runs.keeps_affine {y : AReg} (hr : Runs s g x ⟨op, h, pl⟩) (ht : o = .next t)
    (e : o = runSlot n h pl s own) (hn : op.toNat = n) (ho : own g x = affOwn s lat d y g) (hl : 0 < lat) :
    Claims.Keeps s t g (Claims.toAffine d) :=
  hr.keeps ht e hn ho (State.puts_putGroup hr.group? ((Group.Adds.refl g).push _ (Nat.lt_add_of_pos_right hl) rfl))
    ⟨fun _ => trivial, fun _ _ => trivial⟩

/-- A compare on the scalar port: no lane that is not in the split, and nothing where no lane is left. -/
theorem Runs.keeps_uniformPredicate {r : Bool} {fl : BitVec 9} (hr : Runs s g x ⟨op, h, pl⟩) (ht : o = .next t) (hc : SparesFlags p)
    (hp : ∀ y, Claims.toPred x d y → p y) (hf : fl = 0 ∨ p (.stSet fl)) (e : o = runSlot n h pl s own)
    (hn : op.toNat = n) (ho : own g x = uniPredOwn s h lat d sub r fl g x) (hl : 0 < lat) : Claims.Keeps s t g p := by
  have hlt : s.now < s.now + lat := Nat.lt_add_of_pos_right hl
  unfold uniPredOwn at ho
  dsimp only at ho
  split at ho
  · exact hr.keeps ht e hn ho (State.puts_refl hr.group?) hc
  · exact hr.keeps ht e hn ho (State.puts_putGroup hr.group?
      (((Group.Adds.refl g).push _ hlt (hp (.p d _ _) ⟨rfl, and_and_not_self _ _⟩)).pushStatus hlt hf)) hc

end Sys2Proof.Machine
end

section
/-! SUPPORT. What the integer, affine and floating-point instructions leave unchanged (R53 to R55, R58, R263, R290). -/

namespace Sys2Proof.Machine

open Host (Outcome)

variable {s t : State} {g : Group} {x : Split} {h : Head} {pl : Payload} {own : Group → Split → Own} {op : BitVec 8}
  {n lat w d : Nat} {wide : Bool} {sub : BitVec 2} {o : Outcome State Fault Refusal}

/-! ### Without STATUS bits -/

theorem Runs.toVector {f : Group → Nat → LaneOut} (hr : Runs s g x ⟨op, h, pl⟩) (ht : o = .next t) (e : o = runSlot n h pl s own)
    (hn : op.toNat = n := by rfl) (ho : own g x = vecOwn s h wide lat w d f g x := by rfl) (hl : 0 < lat := by positivity)
    (hf : ∀ v L, (f v L).fl = 0 := by intros; rfl) : Claims.Keeps s t g (Claims.toVector g x w d) :=
  hr.keeps_vector ht ⟨fun _ => trivial, fun _ _ => trivial⟩ (fun _ hy => hy) (.inl hf) e hn ho hl

theorem Runs.toUniform {y : Dword} {fl : BitVec 9} (hr : Runs s g x ⟨op, h, pl⟩) (ht : o = .next t) (e : o = runSlot n h pl s own)
    (hn : op.toNat = n := by rfl) (ho : own g x = uniOwn s lat d y fl g := by rfl) (hl : 0 < lat := by positivity)
    (hf : fl = 0 := by rfl) : Claims.Keeps s t g (Claims.toUniform g d) :=
  hr.keeps_uniform ht ⟨fun _ => trivial, fun _ _ => trivial⟩ (fun _ hy => hy) (.inl hf) e hn ho hl

theorem Runs.toPred {f : Group → Nat → Bool × BitVec 9} (hr : Runs s g x ⟨op, h, pl⟩) (ht : o = .next t)
    (e : o = runSlot n h pl s own) (hn : op.toNat = n := by rfl) (ho : own g x = predOwn s h wide lat d sub f g x := by rfl)
    (hl : 0 < lat := by positivity) (hf : ∀ v L, (f v L).2 = 0 := by intros; rfl) : Claims.Keeps s t g (Claims.toPred x d) :=
  hr.keeps_predicate ht ⟨fun _ => trivial, fun _ _ => trivial⟩ (fun _ hy => hy) (.inl hf) e hn ho hl

theorem Runs.toPredOfUniform {r : Bool} {fl : BitVec 9} (hr : Runs s g x ⟨op, h, pl⟩) (ht : o = .next t)
    (e : o = runSlot n h pl s own) (hn : op.toNat = n := by rfl) (ho : own g x = uniPredOwn s h lat d sub r fl g x := by rfl)
    (hl : 0 < lat := by positivity) (hf : fl = 0 := by rfl) : Claims.Keeps s t g (Claims.toPred x d) :=
  hr.keeps_uniformPredicate ht ⟨fun _ => trivial, fun _ _ => trivial⟩ (fun _ hy => hy) (.inl hf) e hn ho hl

/-! ### With STATUS bits -/

theorem Runs.toVectorAndFlags {f : Group → Nat → LaneOut} (hr : Runs s g x ⟨op, h, pl⟩) (ht : o = .next t)
    (e : o = runSlot n h pl s own) (hn : op.toNat = n := by rfl) (ho : own g x = vecOwn s h wide lat w d f g x := by rfl)
    (hl : 0 < lat := by positivity) : Claims.Keeps s t g (Claims.orFlags (Claims.toVector g x w d)) :=
  hr.keeps_vector ht ⟨fun _ => .inl trivial, fun _ _ => .inl trivial⟩ (fun _ hy => .inl hy) (.inr fun y => .inr ⟨y, rfl⟩) e hn ho hl

theorem Runs.toUniformAndFlags {y : Dword} {fl : BitVec 9} (hr : Runs s g x ⟨op, h, pl⟩) (ht : o = .next t)
    (e : o = runSlot n h pl s own) (hn : op.toNat = n := by rfl) (ho : own g x = uniOwn s lat d y fl g := by rfl)
    (hl : 0 < lat := by positivity) : Claims.Keeps s t g (Claims.orFlags (Claims.toUniform g d)) :=
  hr.keeps_uniform ht ⟨fun _ => .inl trivial, fun _ _ => .inl trivial⟩ (fun _ hy => .inl hy) (.inr (.inr ⟨fl, rfl⟩)) e hn ho hl

theorem Runs.toPredAndFlags {f : Group → Nat → Bool × BitVec 9} (hr : Runs s g x ⟨op, h, pl⟩) (ht : o = .next t)
    (e : o = runSlot n h pl s own) (hn : op.toNat = n := by rfl) (ho : own g x = predOwn s h wide lat d sub f g x := by rfl)
    (hl : 0 < lat := by positivity) : Claims.Keeps s t g (Claims.orFlags (Claims.toPred x d)) :=
  hr.keeps_predicate ht ⟨fun _ => .inl trivial, fun _ _ => .inl trivial⟩ (fun _ hy => .inl hy) (.inr fun y => .inr ⟨y, rfl⟩) e hn ho hl

theorem Runs.toPredOfUniformAndFlags {r : Bool} {fl : BitVec 9} (hr : Runs s g x ⟨op, h, pl⟩) (ht : o = .next t)
    (e : o = runSlot n h pl s own) (hn : op.toNat = n := by rfl) (ho : own g x = uniPredOwn s h lat d sub r fl g x := by rfl)
    (hl : 0 < lat := by positivity) : Claims.Keeps s t g (Claims.orFlags (Claims.toPred x d)) :=
  hr.keeps_uniformPredicate ht ⟨fun _ => .inl trivial, fun _ _ => .inl trivial⟩ (fun _ hy => .inl hy) (.inr (.inr ⟨fl, rfl⟩)) e hn
    ho hl

theorem Runs.toAffine {y : AReg} (hr : Runs s g x ⟨op, h, pl⟩) (ht : o = .next t) (e : o = runSlot n h pl s own)
    (hn : op.toNat = n := by rfl) (ho : own g x = affOwn s lat d y g := by rfl) (hl : 0 < lat := by positivity) :
    Claims.Keeps s t g (Claims.toAffine d) :=
  hr.keeps_affine ht e hn ho hl

end Sys2Proof.Machine

namespace Sys2Proof.Claims

open Sys2Proof.Machine

/-! ### Integer and affine instructions -/

variable {s t : State} {g : Group} {x : Split} {h : Head} {r : RArgs}

theorem bfi_fl (n k : Nat) (i : LaneIn) : (bfi n k i).fl = 0 := by
  unfold bfi
  dsimp only
  split <;> rfl

theorem keeps_bitVarying : ∀ k ∈ bitVarying,
    Runs s g x ⟨k.op, h, .r r⟩ → exec (k.form h r) s = .next t → Keeps s t g (toVector g x (k.w r) r.d.toNat) := by
  simp only [bitVarying, List.forall_mem_cons, List.not_mem_nil, IsEmpty.forall_iff, implies_true, and_true]
  exact ⟨fun hr ht => hr.toVector ht rfl, fun hr ht => hr.toVector ht rfl (hf := fun _ _ => bfi_fl _ _ _),
    fun hr ht => hr.toVector ht rfl, fun hr ht => hr.toVector ht rfl, fun hr ht => hr.toVector ht rfl,
    fun hr ht => hr.toVector ht rfl⟩

theorem keeps_moveVarying : ∀ k ∈ moveVarying,
    Runs s g x ⟨k.op, h, .r r⟩ → exec (k.form h r) s = .next t → Keeps s t g (toVector g x (k.w r) r.d.toNat) := by
  simp only [moveVarying, List.forall_mem_cons, List.not_mem_nil, IsEmpty.forall_iff, implies_true, and_true]
  exact ⟨fun hr ht => hr.toVector ht rfl, fun hr ht => hr.toVector ht rfl, fun hr ht => hr.toVector ht rfl,
    fun hr ht => hr.toVector ht rfl⟩

theorem keeps_arithmeticVarying : ∀ k ∈ arithVarying ++ multiplyVarying ++ logicVarying ++ shiftVarying,
    Runs s g x ⟨k.op, h, .r r⟩ → exec (k.form h r) s = .next t → Keeps s t g (toVector g x (k.w r) r.d.toNat) := by
  simp only [arithVarying, multiplyVarying, logicVarying, shiftVarying, List.forall_mem_append, List.forall_mem_cons,
    List.not_mem_nil, IsEmpty.forall_iff, implies_true, and_true]
  repeat' apply And.intro
  all_goals exact fun hr ht => hr.toVector ht rfl

theorem keeps_integerVarying : ∀ k ∈ arithVarying ++ multiplyVarying ++ logicVarying ++ shiftVarying ++ bitVarying ++ moveVarying,
    Runs s g x ⟨k.op, h, .r r⟩ → exec (k.form h r) s = .next t → Keeps s t g (toVector g x (k.w r) r.d.toNat) :=
  List.forall_mem_append.2 ⟨List.forall_mem_append.2 ⟨keeps_arithmeticVarying, keeps_bitVarying⟩, keeps_moveVarying⟩

theorem keeps_integerUniform : ∀ k ∈ arithUniform ++ multiplyUniform ++ logicUniform ++ shiftUniform ++ bitUniform ++ moveUniform,
    Runs s g x ⟨k.op, h, .r r⟩ → exec (k.form h r) s = .next t → Keeps s t g (toUniform g r.d.toNat) := by
  simp only [arithUniform, multiplyUniform, logicUniform, shiftUniform, bitUniform, moveUniform, List.forall_mem_append,
    List.forall_mem_cons, List.not_mem_nil, IsEmpty.forall_iff, implies_true, and_true]
  repeat' apply And.intro
  all_goals exact fun hr ht => hr.toUniform ht rfl

theorem keeps_affineForms : ∀ k ∈ affineForms,
    Runs s g x ⟨k.op, h, .r r⟩ → exec (k.form h r) s = .next t → Keeps s t g (toAffine r.d.toNat) := by
  simp only [affineForms, List.forall_mem_cons, List.not_mem_nil, IsEmpty.forall_iff, implies_true, and_true]
  repeat' apply And.intro
  all_goals exact fun hr ht => hr.toAffine ht rfl

theorem maskOf_eq_zero {f : Nat → Bool} (hf : ∀ i < 96, f i = false) : maskOf f = 0 := by
  have hzero : (List.range 96).foldr (fun i a => 2 * a + (f i).toNat) 0 = 0 :=
    List.foldrRecOn (motive := fun a => a = 0) _ _ rfl fun a ha i hi => by rw [ha, hf i (List.mem_range.1 hi)]; rfl
  unfold maskOf
  rw [hzero]
  rfl

/-- `vuni` over lanes that are the same answers their value: no lane differs from the lowest. -/
theorem keeps_vuni (heq : ∀ L < 96, x.mask.getLsbD L →
      (g.viewAt s.now).src r.nb r.n r.a L = (g.viewAt s.now).src r.nb r.n r.a (lowLane x.mask))
    (hr : Runs s g x ⟨0x4C, h, .r r⟩) (ht : exec (.vuni h r) s = .next t) : Keeps s t g (toUniform g r.d.toNat) := by
  refine hr.toUniform ht rfl rfl (if_pos (beq_iff_eq.2 (maskOf_eq_zero fun L hL => ?_)))
  cases hm : x.mask.getLsbD L
  · rfl
  · simp [heq L hL hm]

theorem integerFrames : IntegerFrames := by
  intro s t g x h r i v n
  refine ⟨keeps_integerVarying, keeps_integerUniform, keeps_affineForms, ?_, ?_, ?_, keeps_vuni, fun hr ht => hr.toUniform ht rfl,
    fun hr ht => hr.toVector ht rfl, fun hr ht => hr.toVector ht rfl⟩
  all_goals
    simp only [List.forall_mem_cons, List.not_mem_nil, IsEmpty.forall_iff, implies_true, and_true]
  · exact ⟨fun hr ht => hr.toAffine ht rfl, fun hr ht => hr.toAffine ht rfl, fun hr ht => hr.toAffine ht rfl,
      fun hr ht => hr.toAffine ht rfl, fun hr ht => hr.toAffine ht rfl⟩
  · exact ⟨fun hr ht => hr.toPred ht rfl, fun hr ht => hr.toPredOfUniform ht rfl, fun hr ht => hr.toPredOfUniform ht rfl⟩
  · exact ⟨fun hr ht => hr.toUniform ht rfl, fun hr ht => hr.toUniform ht rfl, fun hr ht => hr.toUniform ht rfl⟩

/-! ### Floating point -/

theorem floatFrames : FloatFrames := by
  intro s t g x h r
  simp only [fArithVarying, fmaVarying, fFunctionVarying, fConvertVarying, fExactVarying, fArithUniform, fmaUniform, fFunctionUniform,
    fConvertUniform, fExactUniform, List.forall_mem_append, List.forall_mem_cons, List.not_mem_nil, IsEmpty.forall_iff, implies_true, and_true]
  refine ⟨?_, ?_, ?_, ?_, ?_⟩
  · repeat' apply And.intro
    all_goals exact fun hr ht => hr.toVectorAndFlags ht rfl
  · repeat' apply And.intro
    all_goals exact fun hr ht => hr.toVectorAndFlags ht rfl
  · repeat' apply And.intro
    all_goals exact fun hr ht => hr.toUniformAndFlags ht rfl
  · repeat' apply And.intro
    all_goals exact fun hr ht => hr.toUniformAndFlags ht rfl
  · exact ⟨fun hr ht => hr.toPredAndFlags ht rfl, fun hr ht => hr.toPredOfUniformAndFlags ht rfl,
      fun hr ht => hr.toPredAndFlags ht rfl, fun hr ht => hr.toPredOfUniformAndFlags ht rfl⟩

end Sys2Proof.Claims
end

section
/-! SUPPORT. What the slot, cross-lane, special-register and window instructions leave unchanged (R77 to R83, R303 to R308,
R314 to R323, R387, R388). -/

namespace Sys2Proof.Machine

open Host (Outcome)

variable {p : Write → Prop} {s s₁ t : State} {g g₀ g₁ : Group} {x : Split} {h : Head} {pl : Payload} {own : Group → Split → Own}
  {clear : Option Nat} {op : BitVec 8} {n w d now : Nat} {o : Outcome State Fault Refusal}

/-! ### Format slots -/

/-- An operation noted on a slot (R171) is no result in flight. -/
theorem Group.Adds.noteOp (ha : g₀.Adds p now g) (x : Split) (next : Pc) (k due flag : Nat) :
    g₀.Adds p now (g.noteOp x next k due flag) :=
  ha.trans (Group.adds_of_eq rfl rfl)

theorem unpack_fl (F : Fmt) (y : Dword) : (unpack F y).fl = 0 := by
  unfold unpack
  split <;> rfl

theorem State.Noted.foldl_noteSlot (s : State) (g : Group) (l : List Nat) : s.Noted (l.foldl (fun s j => s.noteSlot g j) s) :=
  List.foldlRecOn (motive := s.Noted) l _ (.refl s) fun _ hs j _ => hs.noteSlot g j

/-- A list read through a table in which every entry is found. -/
theorem filterMap_eq_of_map_eq {α β γ : Type} {look : α → γ} {c : β → γ} {f : α → Option β} (hf : ∀ a b, look a = c b → f a = some b)
    {l : List α} {fs : List β} (h : l.map look = fs.map c) : l.filterMap f = fs := by
  induction l generalizing fs with
  | nil => exact (List.map_eq_nil_iff.1 h.symm).symm
  | cons a l ih =>
    cases fs with
    | nil => exact absurd h (List.cons_ne_nil _ _)
    | cons b fs =>
      obtain ⟨ha, hl⟩ := List.cons.inj h
      rw [List.filterMap_cons_some (hf a b ha), ih hl]

/-- A slot conversion all of whose slots are BOUND, in a rounding mode that the last permits (R169, R302). -/
theorem Runs.keeps_slots {r : RArgs} {k code mode : Nat} {f : List Fmt → LaneIn → Rc → LaneOut} {fs : List Fmt}
    (hr : Runs s g x ⟨op, h, .r r⟩) (ht : o = .next t) (e : o = runSlots n h r s k code f) (hc : SparesFlags p)
    (hp : ∀ y, Claims.toVector g x 32 r.d.toNat y → p y) (hf : (∀ i c, (f fs i c).fl = 0) ∨ ∀ y, p (.stSet y))
    (hs : (slotsOf n (.r r)).map (s.slotOf g) = fs.map .ok) (hm : (fs.getLastD f32).mode code (g.viewAt s.now).frm.toNat = some mode)
    (hn : op.toNat = n := by rfl) : Claims.Keeps s t g p := by
  have hok (j : Nat) (hj : j ∈ slotsOf n (.r r)) : ∃ F, s.slotOf g j = .ok F := by
    obtain ⟨F, _, hF⟩ := List.mem_map.1 (hs ▸ List.mem_map_of_mem (f := s.slotOf g) hj)
    exact ⟨F, hF.symm⟩
  have hlen : fs.length = (slotsOf n (.r r)).length := by simpa using (congrArg List.length hs).symm
  let s₁ := (slotsOf n (.r r)).foldl (fun s j => s.noteSlot g j) s
  let g₁ := (slotsOf n (.r r)).foldl (fun g j => g.noteOp x s₁.nextPc j (beatDone false s₁.now 2 6) h.set.toNat) g
  refine hr.keeps_vector (wide := false) (lat := 6) (f := fun v L => f fs (rIn n r v L) (s₁.rc g₁ mode L k)) ht hc hp
    (hf.imp (fun hf _ _ => hf _ _) id) e hn ?_ (by decide) (State.Noted.foldl_noteSlot s g (slotsOf n (.r r)))
    (Group.Adds.foldl (fun _ _ ha => ha.noteOp _ _ _ _ _) _ (.refl g) : g.Adds p s.now g₁)
  dsimp only
  rw [List.find?_eq_none.2 fun j hj => by obtain ⟨F, hF⟩ := hok j hj; simp [hF]]
  dsimp only
  rw [filterMap_eq_of_map_eq (fun j F hF => by simp [hF]) hs, if_neg (by simp [hlen]), hm]

theorem Group.Adds.qrowBeat {F : Fmt} {mode k c src b : Nat} {s2 : Option Num} (ha : g₀.Adds p s.now g)
    (hd : ∀ y, Claims.toVector g₀ x 32 d y → p y) (hc : ∀ y, Claims.toVector g₀ x 32 c y → p y) (hf : ∀ y, p (.stSet y)) :
    g₀.Adds p s.now (Machine.qrowBeat s F mode k d c src s2 x h g b) := by
  have hlt : s.now < beatDone false s.now b 16 := lt_beatDone (by decide) _ _ _
  have hrow (g' : Group) (hh : g'.inHandler = g₀.inHandler) (r : Nat) (hp : ∀ y, Claims.toVector g₀ x 32 r y → p y) (y : Row) :
      p (g'.wv r (g.beatLanes x h (beatStart false s.now b) b) y) ∧
        (32 = 64 → p (g'.wv (r + 1) (g.beatLanes x h (beatStart false s.now b) b) y)) :=
    ⟨hp _ (Claims.toVector_wv hh (beatLanes_subset _ _ _ _ _) (.inl rfl) y), nofun⟩
  refine Group.Adds.pushStatus (Group.Adds.pushRow (ha.pushRow hlt ?_) hlt ?_) hlt (.inr (hf _))
  · exact hrow _ ha.handler d hd
  · exact hrow _ ((Group.inHandler_pushRow _ _ _ _ _ _).trans ha.handler) c hc

end Sys2Proof.Machine

namespace Sys2Proof.Claims

open Sys2Proof.Machine

variable {s t : State} {g : Group} {x : Split} {h : Head} {r : RArgs} {F G : Fmt} {mode : Nat}

theorem sparesFlags_orFlags {p : Write → Prop} (hp : SparesFlags p) : SparesFlags (orFlags p) :=
  ⟨fun n => .inl (hp.flag n), fun i n => .inl (hp.hflag i n)⟩

theorem sparesFlags_toVector (g : Group) (x : Split) (w d : Nat) : SparesFlags (toVector g x w d) :=
  ⟨fun _ => trivial, fun _ _ => trivial⟩

theorem keeps_xunpk (hk : s.slotOf g (r.c.toNat % 8) = .ok F) (hr : Runs s g x ⟨0x80, h, .r r⟩) (ht : exec (.xunpk h r) s = .next t) :
    Keeps s t g (toVector g x 32 r.d.toNat) :=
  hr.keeps_slots (n := 0x80) (fs := [F]) ht (rfl : _ = execXunpk h r s) (sparesFlags_toVector _ _ _ _) (fun _ hy => hy) (.inl fun _ _ => unpack_fl _ _)
    (by simp [slotsOf, hk]) rfl

theorem keeps_xpack (hk : s.slotOf g (r.c.toNat % 8) = .ok F) (hm : F.mode (r.c.toNat / 16 % 8) (g.viewAt s.now).frm.toNat = some mode)
    (hr : Runs s g x ⟨0x81, h, .r r⟩) (ht : exec (.xpack h r) s = .next t) :
    Keeps s t g (orFlags (toVector g x 32 r.d.toNat)) :=
  hr.keeps_slots (n := 0x81) (fs := [F]) ht (rfl : _ = execXpack h r s) (sparesFlags_orFlags (sparesFlags_toVector _ _ _ _)) (fun _ hy => .inl hy)
    (.inr fun y => .inr ⟨y, rfl⟩) (by simp [slotsOf, hk]) hm

theorem keeps_xcvt (hj : s.slotOf g (r.b.code % 8) = .ok F) (hk : s.slotOf g (r.c.toNat % 8) = .ok G)
    (hm : G.mode (r.c.toNat / 16 % 8) (g.viewAt s.now).frm.toNat = some mode)
    (hr : Runs s g x ⟨0x82, h, .r r⟩) (ht : exec (.xcvt h r) s = .next t) :
    Keeps s t g (orFlags (toVector g x 32 r.d.toNat)) :=
  hr.keeps_slots (n := 0x82) (fs := [F, G]) ht (rfl : _ = execXcvt h r s) (sparesFlags_orFlags (sparesFlags_toVector _ _ _ _)) (fun _ hy => .inl hy)
    (.inr fun y => .inr ⟨y, rfl⟩) (by simp [slotsOf, hj, hk]) hm

theorem keeps_qrow {e : EArgs} (hk : s.slotOf g (e.ext.toNat % 8) = .ok F)
    (hm : F.mode (e.ext.toNat / 8 % 8) (g.viewAt s.now).frm.toNat = some mode) (hF : F.kind ≠ 2)
    (hr : Runs s g x ⟨0x83, h, .e e⟩) (ht : exec (.qrow h e) s = .next t) :
    Keeps s t g (orFlags fun y => toVector g x 32 e.d.toNat y ∨ toVector g x 32 e.c.toNat y) := by
  let s2 := if e.ext.getLsbD 6 then some (fv f32 (trunc 32 ((g.viewAt s.now).rs e.s.toNat))) else none
  let g₁ := g.noteOp x s.nextPc (e.ext.toNat % 8) (beatDone false s.now 2 16) h.set.toNat
  let f := Machine.qrowBeat s F mode (e.ext.toNat % 8) e.d.toNat e.c.toNat e.b.toNat s2 x h
  have ha : g.Adds (orFlags fun y => toVector g x 32 e.d.toNat y ∨ toVector g x 32 e.c.toNat y) s.now ((List.range 3).foldl f g₁) :=
    Group.Adds.foldl (fun _ _ ha => ha.qrowBeat (fun y hy => .inl (.inl hy)) (fun y hy => .inl (.inr hy)) fun y => .inr ⟨y, rfl⟩) _
      ((Group.Adds.refl g).noteOp _ _ _ _ _)
  refine hr.keeps (clear := some (g₁.vecClear x h false s.now 16)) ht rfl rfl ?_
    (State.puts_putGroup hr.group? ha (s.noted_noteSlot g (e.ext.toNat % 8)))
    ⟨fun _ => .inl (.inl trivial), fun _ _ => .inl (.inl trivial)⟩
  simp only [hk, hm, beq_iff_eq, if_neg hF]
  rfl

theorem keeps_qscale (hk : s.slotOf g (r.c.toNat % 8) = .ok F) (hr : Runs s g x ⟨0x84, h, .r r⟩)
    (ht : exec (.qscale h r) s = .next t) : Keeps s t g (toUniform g r.d.toNat) := by
  refine hr.keeps_uniform (y := dw (qscaleOf F (fv f32 ((g.viewAt s.now).src .none 32 r.a 0)))) ht ⟨fun _ => trivial, fun _ _ => trivial⟩ (fun _ hy => hy) (.inl rfl) rfl rfl ?_ (by decide : 0 < 8)
    (s.noted_noteSlot g (r.c.toNat % 8)) ((Group.Adds.refl g).noteOp x s.nextPc (r.c.toNat % 8) (s.now + 8) h.set.toNat)
  simp only [hk]

theorem redLat_pos (n : Nat) : 0 < redLat n := by
  unfold redLat
  positivity

theorem slotAndCrossLaneFrames : SlotAndCrossLaneFrames := by
  intro s t g x h r e F G mode k frm w d
  refine ⟨fun hr hk ht => keeps_xunpk hk hr ht, fun hr hk hm ht => keeps_xpack hk hm hr ht,
    fun hr hj hk hm ht => keeps_xcvt hj hk hm hr ht, fun hr hk hm hF ht => keeps_qrow hk hm hF hr ht,
    fun hr hk ht => keeps_qscale hk hr ht, ?_, ?_, ?_, ?_⟩
  all_goals simp only [List.forall_mem_cons, List.not_mem_nil, IsEmpty.forall_iff, implies_true, and_true]
  · exact ⟨fun hr ht => hr.toVector ht rfl, fun hr ht => hr.toVector ht rfl, fun hr ht => hr.toVector ht rfl,
      fun hr ht => hr.toVector ht rfl⟩
  · exact ⟨fun hr ht => hr.toVectorAndFlags ht rfl (hl := redLat_pos _), fun hr ht => hr.toVectorAndFlags ht rfl (hl := redLat_pos _)⟩
  · exact ⟨fun hr ht => hr.toUniformAndFlags ht rfl (hl := lt_beatDone (redLat_pos _) _ 0 2),
      fun hr ht => hr.toUniformAndFlags ht rfl (hl := lt_beatDone (redLat_pos _) _ 0 2)⟩
  · exact ⟨fun hr ht => hr.toUniform ht rfl (hl := lt_beatDone (by decide) false 0 2), fun hr ht => hr.toUniform ht rfl⟩

end Sys2Proof.Claims
end

section
/-! SUPPORT. What the special-register and the window instructions leave unchanged (R77 to R83, R379 to R381, R387, R388). -/

namespace Sys2Proof.Machine

open Host (Outcome)

/-- An instruction that puts one result in flight. -/
theorem Runs.keeps_push {p : Write → Prop} {s t : State} {g g₁ : Group} {x : Split} {h : Head} {pl : Payload}
    {own : Group → Split → Own} {op : BitVec 8} {n k lat : Nat} {o : Outcome State Fault Refusal} (w : Write)
    (hr : Runs s g x ⟨op, h, pl⟩) (ht : o = .next t) (e : o = runSlot n h pl s own) (hn : op.toNat = n)
    (ho : own g x = .ok (s.putGroup (g₁.push (s.now + lat) k w)) (some (s.now + lat))) (hl : 0 < lat) (hw : p w) (hc : SparesFlags p)
    (ha : g.Adds p s.now g₁ := by exact .refl _) : Claims.Keeps s t g p :=
  hr.keeps ht e hn ho (State.puts_putGroup hr.group? (ha.push _ (Nat.lt_add_of_pos_right hl) hw)) hc

end Sys2Proof.Machine

namespace Sys2Proof.Claims

open Sys2Proof.Machine

variable {s t : State} {g : Group} {x : Split} {h : Head} {a : XArgs} {b : Block} {task : Task} {p : Part}

theorem onlyTo_of {q : Write → Prop} {w : Write} (hq : q w) : onlyTo q w := by
  cases w with
  | flag n => trivial
  | hflag i n => trivial
  | _ => exact hq

theorem sparesFlags_onlyTo (q : Write → Prop) : SparesFlags (onlyTo q) := ⟨fun _ => trivial, fun _ _ => trivial⟩

/-- The results of a list of writes that a claim allows, in flight together. -/
theorem adds_foldl_push {q : Write → Prop} {now at_ n : Nat} {f : Nat → Write} (ht : now < at_) (hf : ∀ i < n, q (f i)) :
    g.Adds q now ((List.range n).foldl (fun g i => g.push at_ g.seq (f i)) g) :=
  List.foldlRecOn (motive := fun g' => g.Adds q now g') _ _ (.refl g) fun _ ha i hi => ha.push _ ht (hf i (List.mem_range.1 hi))

theorem keeps_getsr (hb : s.block? g.block = some b) (ht : s.task? b.task = some task) (hp : s.part? b.part = some p)
    (hr : Runs s g x ⟨0xD7, h, .x a⟩) (hn : exec (.getsr h a) s = .next t) : Keeps s t g (toUniform g a.d.toNat) := by
  refine hr.toUniform (lat := 1) (y := srValue b task p (g.viewAt s.now) x (a.imm.toNat % 256)) (fl := 0) hn rfl rfl ?_
  simp only [hb, ht, hp]

theorem sparesFlags_pmc : SparesFlags fun w => toUniform g a.d.toNat w ∨ w = .stSet 0x100 :=
  ⟨fun _ => .inl trivial, fun _ _ => .inl trivial⟩

theorem keeps_pmc (hb : s.block? g.block = some b) (hp : s.part? b.part = some p) (hr : Runs s g x ⟨0xDA, h, .x a⟩)
    (hn : exec (.pmc h a) s = .next t) : Keeps s t g fun w => toUniform g a.d.toNat w ∨ w = .stSet 0x100 := by
  have hpart : ((s.block? g.block).bind fun b => s.part? b.part) = some p := by simp [hb, hp]
  by_cases hdeny : (a.imm.toNat == 0 || 6 < a.imm.toNat || !p.pmcAllow.getLsbD a.imm.toNat) = true
  · refine hr.keeps_uniform (y := 0) (lat := 4) hn sparesFlags_pmc (fun _ hy => .inl hy) (.inr (.inr rfl)) rfl rfl ?_ (by decide)
    simp only [hpart, hdeny, if_true]
  by_cases hissued : (a.imm.toNat == 1) = true
  · refine hr.keeps_uniform (y := dw g.issued) (lat := 4) hn sparesFlags_pmc (fun _ hy => .inl hy) (.inl rfl) rfl rfl ?_ (by decide)
    simp only [hpart, if_neg hdeny, hissued, if_true]
  · refine hr.keeps_uniform (y := dw (p.counted a.imm.toNat (if a.imm.toNat == 2 || a.imm.toNat == 4 then coreDie g.core else g.core)))
      (lat := 4) hn sparesFlags_pmc (fun _ hy => .inl hy) (.inl rfl) rfl rfl ?_ (by decide)
    simp only [hpart, if_neg hdeny, if_neg hissued]

/-- Of STATUS, `setsr` clears implemented bits alone (R82). -/
theorem and_statusBits (y : BitVec 9) : y &&& statusBits &&& ~~~0x11F = 0 := by
  rw [BitVec.and_assoc, show statusBits &&& ~~~(0x11F : BitVec 9) = 0 from by decide]
  exact BitVec.and_zero

theorem keeps_setsr (hr : Runs s g x ⟨0xD8, h, .x a⟩) (hn : exec (.setsr h a) s = .next t) : Keeps s t g (onlyTo fun w =>
    (a.imm.toNat % 256 = 0x13 ∧ ∃ y, w = .edge y) ∨ (a.imm.toNat % 256 = 0x14 ∧ ∃ y, w = .frm y) ∨
      (a.imm.toNat % 256 ≠ 0x13 ∧ a.imm.toNat % 256 ≠ 0x14 ∧ ∃ y : BitVec 9, w = .stClr y ∧ y &&& ~~~0x11F = 0)) := by
  by_cases h3 : a.imm.toNat % 256 = 0x13
  · refine hr.keeps_push (g₁ := g) (k := g.seq) (lat := 1) (.edge (((g.viewAt s.now).rs a.a.toNat).setWidth 2)) hn rfl rfl ?_
      (by decide) (onlyTo_of (.inl ⟨h3, _, rfl⟩)) (sparesFlags_onlyTo _)
    rw [h3]
    rfl
  by_cases h4 : a.imm.toNat % 256 = 0x14
  · refine hr.keeps_push (g₁ := g) (k := g.seq) (lat := 1) (.frm (((g.viewAt s.now).rs a.a.toNat).setWidth 3)) hn rfl rfl ?_
      (by decide) (onlyTo_of (.inr (.inl ⟨h4, _, rfl⟩))) (sparesFlags_onlyTo _)
    rw [h4]
    rfl
  · refine hr.keeps_push (g₁ := g) (k := g.seq) (lat := 1) (.stClr (((g.viewAt s.now).rs a.a.toNat).setWidth 9 &&& statusBits)) hn
      rfl rfl ?_ (by decide) (onlyTo_of (.inr (.inr ⟨h3, h4, _, rfl, and_statusBits _⟩))) (sparesFlags_onlyTo _)
    dsimp only
    split
    · exact absurd ‹_› h3
    · exact absurd ‹_› h4
    · rfl

theorem keeps_winld {r : Row} (hw : (g.viewAt s.now).window (winIndex (g.viewAt s.now) a) = some r)
    (hlow : winIndex (g.viewAt s.now) a < 0x100 → winIndex (g.viewAt s.now) a ∉ g.poison)
    (hpark : 0x200 ≤ winIndex (g.viewAt s.now) a → winIndex (g.viewAt s.now) a < 0x208 → winIndex (g.viewAt s.now) a ∉ g.poison)
    (hr : Runs s g x ⟨0xDB, h, .x a⟩) (hn : exec (.winld h a) s = .next t) : Keeps s t g (toRow g a.d.toNat) := by
  refine hr.keeps_push (g₁ := g) (k := g.seq) (lat := 4) (g.wv a.d.toNat allLanes r) hn rfl rfl ?_ (by decide)
    (toRow_wv g a.d.toNat allLanes r) ⟨fun _ => trivial, fun _ _ => trivial⟩
  simp only [hw]
  refine if_neg fun hp => ?_
  simp only [Bool.and_eq_true, Bool.or_eq_true, decide_eq_true_eq, List.contains_iff_mem] at hp
  obtain ⟨hi | ⟨hge, hlt⟩, hmem⟩ := hp
  · exact hlow hi hmem
  · exact hpark hge hlt hmem

theorem keeps_winst {y : Write} (hw : windowWrite (winIndex (g.viewAt s.now) a) ((g.viewAt s.now).rv a.d.toNat) = some y)
    (hr : Runs s g x ⟨0xDC, h, .x a⟩) (hn : exec (.winst h a) s = .next t) : Keeps s t g (onlyTo fun w => w = y) := by
  let i := winIndex (g.viewAt s.now) a
  let g₁ := { g with poison := if i < 0x100 then g.poison.filter (· != i) else g.poison }
  refine hr.keeps_push (g₁ := g₁) (k := g.seq) (lat := 2) y hn rfl rfl ?_ (by decide) (onlyTo_of rfl) (sparesFlags_onlyTo _)
    (Group.adds_of_eq rfl rfl)
  simp only [hw]
  rfl

theorem specialAndWindowFrames : SpecialAndWindowFrames := by
  intro s t g x h a b task p hb ht hp v i n known
  have hrows : s.now < s.now + n + 2 := by omega
  refine ⟨keeps_getsr hb ht hp, fun hr hn => hr.toUniform hn rfl, keeps_pmc hb hp, fun hr _ _ hn => keeps_setsr hr hn,
    fun r hr hw hk hpark hn => keeps_winld hw (fun hi => (hk hi).2) hpark hr hn, fun y hr hw _ hn => keeps_winst hw hr hn,
    fun hr hn => ?_, fun hr hn => ?_⟩
  · exact hr.keeps (clear := some (s.now + n + 2)) hn rfl rfl rfl
      (State.puts_putGroup hr.group? (adds_foldl_push hrows fun k hk => onlyTo_of ⟨k, hk, _, rfl⟩))
      (sparesFlags_onlyTo _)
  · exact hr.keeps (clear := some (s.now + n + 2)) hn rfl rfl rfl
      (State.puts_putGroup hr.group? (adds_foldl_push hrows fun k hk => onlyTo_of ⟨k, hk, _, rfl⟩))
      (sparesFlags_onlyTo _)

/-- Settles O59: an instruction's own effect adds results in flight alone (`Group.Adds`), of its destination's kind, and what follows
it, the issue and the sequencing, writes no register and no memory (`State.Framed`). -/
theorem registerInstructionsFrame : Obligations.RegisterInstructionsFrame :=
  ⟨integerFrames, floatFrames, slotAndCrossLaneFrames, specialAndWindowFrames⟩

end Sys2Proof.Claims
end

section
/-! SUPPORT. Global accesses whose checks fail (R94, R137, R328). -/

namespace Sys2Proof.Claims

open Sys2Proof.Machine

variable {s : State} {g : Group} {x : Split} {h : Head} {m : MArgs} {b : Block} {t : Task}

/-- The instructions of R330 to R339 have one own effect, told apart by what `accesses` lists. -/
theorem exec_access {k : Access} (hk : k ∈ accesses) (h : Head) (m : MArgs) (s : State) :
    exec (k.form h m) s = runSlot k.op.toNat h (.m m) s fun g x =>
      memOwn k.op.toNat h m k.kind k.acc k.uniform (k.one m) k.last s g x := by
  simp only [accesses, List.mem_cons, List.not_mem_nil, or_false] at hk
  rcases hk with rfl | rfl | rfl | rfl | rfl | rfl | rfl | rfl | rfl | rfl <;> rfl

/-- The own effect of a global access of which a check fails: a packet where a translation is missing, else a fault. -/
theorem memOwn_of_firstFault (k : Access) {c : BitVec 8} {a : Nat} {l : LaneMask} (hb : s.block? g.block = some b)
    (ht : s.taskOf g = some t) (haff : affineBad (g.viewAt s.now) m = false)
    (hl : lanesOf (g.checked x h k.uniform s.now) ≠ [])
    (hf : firstFault m (g.checked x h k.uniform s.now) (checks k s g x b t h m) = some (c, a, l)) :
    memOwn k.op.toNat h m k.kind k.acc k.uniform (k.one m) k.last s g x =
      if c == cXlat then
        .packet { mkReq g x s k.op.toNat h m k.kind (t.packed g k.op.toNat m
          (Machine.accesses (g.viewAt s.now) k.op.toNat m (lanesOf (g.checked x h k.uniform s.now)) (k.one m) k.last))
          (k.one m) (g.checked x h k.uniform s.now) with det := t.hdr.det } a l
      else .fault c (dw a) l := by
  rw [checks] at hf
  simp only [memOwn, memOwnBy, haff, hb, ht, hf, List.isEmpty_iff, hl, Bool.false_eq_true, if_false]

theorem access_faults {k : Access} (hk : k ∈ accesses) : k.Faults := by
  intro s g x h m b t c a l mask hr hb ht haff hl hf hc
  refine hr.fault (exec_access hk h m s) rfl ?_
  rw [memOwn_of_firstFault k hb ht haff hl hf, if_neg (by simpa using hc)]

theorem access_packets {k : Access} (hk : k ∈ accesses) : k.Packets := by
  intro s g x h m b t a l v mask s1 q hr hb ht haff hl hf
  exact hr.packet (exec_access hk h m s) rfl (memOwn_of_firstFault k hb ht haff hl hf)

/-- Settles O15: the first cause that `firstFault` finds is the access's own effect, a packet where it is a missing translation. -/
theorem globalAccessesFault : Obligations.GlobalAccessesFault := fun _ hk => ⟨access_faults hk, access_packets hk⟩

end Sys2Proof.Claims
end

section
/-! SUPPORT. The actions of Sparge (R100 to R114, R455 to R457), one unit each: what every action does when its turn has come. -/

namespace Sys2Proof.Machine

variable {s : State} {t : Task} {p : Part}

/-! ### Binding (R113, R114) -/

theorem exec_bind (ht : s.task? t.uid = some t) (hp : s.part? t.part = some p) (ho : s.spargeOn t 0 = true) :
    exec (.bind t.uid) s = .next (
      if t.hdr.slotimg.getD t.run.cursor.record 0 = 0 then s.putTask (t.bindNext s.now t.run.cursor.record)
      else if t.run.kiln.isSome then s
      else if p.slotImg.getD t.run.cursor.record 0 = t.hdr.slotimg.getD t.run.cursor.record 0 ∧
          ∀ x ∈ p.bare, x.2 ≠ t.run.cursor.record then
        s.bound t p t.run.cursor.record (t.hdr.slotimg.getD t.run.cursor.record 0)
      else (s.putTask { t with run := { t.run with kiln := some (t.run.cursor.record, s.now + s.cyclesOfUs 40) } }).putPart
        { p with config := p.config ++ [t.run.cursor.record] }) := by
  rw [show exec (.bind t.uid) s = execBind t.uid s from rfl]
  simp only [execBind, ht, hp, ho, Bool.not_true, Bool.false_eq_true, if_false, beq_iff_eq, Bool.and_eq_true,
    Bool.not_eq_true', List.any_eq_false, apply_ite Host.Outcome.next, State.putRun]

/-! ### Start actions (R113) -/

theorem exec_pinit {r : Region} (ht : s.task? t.uid = some t) (hr : t.regions[t.run.cursor.record]? = some r)
    (ho : s.spargeOn t 1 = true) {m : Page} (hm : s.upPage t.part t.ctx (r.pbase + 128 * t.run.cursor.unit) = some m)
    (hu : 128 * (t.run.cursor.unit + 1) < t.hdr.nblk * r.rowStride) :
    exec (.pinit t.uid) s = .next ((s.homeWrite t.part m.pa (r.identBytes t.run.cursor.unit)).putTask
      (t.at_ { t.run.cursor with unit := t.run.cursor.unit + 1 })) := by
  rw [show exec (.pinit t.uid) s = execPinit t.uid s from rfl]
  simp only [execPinit, ht, hr, ho, hm, hu, Bool.not_true, Bool.false_eq_true, if_false, if_true]

theorem exec_invstart (ht : s.task? t.uid = some t) (ho : s.spargeOn t 2 = true)
    (hu : t.run.cursor.unit + 1 < lineCount (t.range t.run.cursor.record).1 (t.range t.run.cursor.record).2) :
    exec (.invstart t.uid) s = .next ((s.dropLine t.part t.ctx
      (((t.range t.run.cursor.record).1 / 512 + t.run.cursor.unit) * 512) fun _ => true).unitDone t
      (t.at_ { t.run.cursor with unit := t.run.cursor.unit + 1 })) := by
  rw [show exec (.invstart t.uid) s = execInvstart t.uid s from rfl]
  simp only [execInvstart, ht, ho, hu, Bool.not_true, Bool.false_eq_true, if_false, if_true]

/-! ### End actions (R100 to R112) -/

theorem exec_flush (ht : s.task? t.uid = some t) (ho : s.spargeOn t 3 = true) {m : Page}
    (hm : s.translate t.part t.ctx ((t.range t.run.cursor.record).1 + 128 * t.run.cursor.unit) = some m)
    (hu : 128 * (t.run.cursor.unit + 1) < (t.range t.run.cursor.record).2) :
    exec (.flush t.uid) s = .next ((((s.coreNums.filter fun k => t.run.cores.contains k).rotateLeft
        (Config.flushLast t.uid t.run.cursor.unit)).foldl (fun (s : State) k =>
          s.l1Clean k fun y => y.part == t.part && y.stack.isNone && y.pa / 128 == m.pa / 128) s).unitDone t
      (t.at_ { t.run.cursor with unit := t.run.cursor.unit + 1 })) := by
  rw [show exec (.flush t.uid) s = execFlush t.uid s from rfl]
  simp only [execFlush, ht, ho, hm, hu, Bool.not_true, Bool.false_eq_true, if_false, if_true]

theorem exec_inval (ht : s.task? t.uid = some t) (ho : s.spargeOn t 4 = true)
    (hu : t.run.cursor.unit + 1 < lineCount (t.range t.run.cursor.record).1 (t.range t.run.cursor.record).2) :
    exec (.inval t.uid) s = .next ((s.dropLine t.part t.ctx
      (((t.range t.run.cursor.record).1 / 512 + t.run.cursor.unit) * 512) fun k => !t.run.cores.contains k).unitDone t
      (t.at_ { t.run.cursor with unit := t.run.cursor.unit + 1 })) := by
  rw [show exec (.inval t.uid) s = execInval t.uid s from rfl]
  simp only [execInval, ht, ho, hu, Bool.not_true, Bool.false_eq_true, if_false, if_true]

/-- FINAL at a sector that others follow (R111). -/
theorem exec_final {r : Region} (ht : s.task? t.uid = some t) (hr : t.regions[t.run.cursor.record]? = some r)
    (ho : s.spargeOn t 5 = true)
    (hu : (r.base / 128 + t.run.cursor.unit + 1) * 128 < r.base + r.ext) :
    let lo := max r.base ((r.base / 128 + t.run.cursor.unit) * 128)
    exec (.final t.uid) s = .next (
      (((List.range (((r.base / 128 + t.run.cursor.unit + 1) * 128 - lo) / etySize r.ety)).map fun i =>
          lo + i * etySize r.ety).foldl (fun s' a =>
        match s.upPage t.part t.ctx a with
        | some m => s'.homeWrite t.part m.pa (bytesOf (etySize r.ety) (s.finalValue t r a).toNat)
        | none => s') s).putTask (t.at_ { t.run.cursor with unit := t.run.cursor.unit + 1 })) := by
  rw [show exec (.final t.uid) s = execFinal t.uid s from rfl]
  simp only [execFinal, ht, hr, ho, hu, min_eq_right hu.le, Bool.not_true, Bool.false_eq_true, if_false, if_true] <;> rfl

theorem exec_complete (ht : s.task? t.uid = some t) (ho : s.spargeOn t 6 = true) (hk : t.run.kiln = none) :
    let s1 := if t.hdr.coop && t.kd.fused then t.rectCores.foldl (fun s c => s.l1Purge c (·.part == t.part)) s else s
    exec (.complete t.uid) s = .next (if s1.unitPends t then s1 else s1.completeTask t.uid) := by
  rw [show exec (.complete t.uid) s = execComplete t.uid s from rfl]
  simp only [execComplete, ht, ho, hk, Bool.not_true, Option.isSome_none, Bool.or_self, Bool.false_eq_true, if_false]

end Sys2Proof.Machine

namespace Sys2Proof.Claims

open Sys2Proof.Machine

/-- Settles O38, action by action. -/
theorem spargeActions : Obligations.SpargeActions := by
  intro s t p ht hp c next va ext
  refine ⟨fun ho _ hid hk => ⟨fun himg hbare => ?_, fun hnew => ?_⟩, fun ho hid => ?_, fun r m hr ho hm hu => exec_pinit ht hr ho hm hu,
    fun ho hu => exec_invstart ht ho hu, fun m ho hm hu => exec_flush ht ho hm hu, fun ho hu => exec_inval ht ho hu,
    fun r hr ho _ hu => exec_final ht hr ho hu, fun ho hk => exec_complete ht ho hk⟩
  · rw [exec_bind ht hp ho, if_neg hid, if_neg (by simp [hk]), if_pos ⟨himg, hbare⟩]
  · rw [exec_bind ht hp ho, if_neg hid, if_neg (by simp [hk]), if_neg]
    rintro ⟨himg, hbare⟩
    exact hnew.elim (· himg) fun ⟨x, hx, he⟩ => hbare x hx he
  · rw [exec_bind ht hp ho, if_pos hid]

end Sys2Proof.Claims
end

section
/-! SUPPORT. What ends launches and faults groups leaves of the partitions, the fenced cores, the blocks and the L1s (R46, R52, R384,
R497). -/

namespace Sys2Proof.Machine

variable {s t u : State}

/-- Partitions change in their logs alone, no other core is fenced, no block moves and no empty L1 is filled. -/
structure State.Wanes (s t : State) : Prop where
  parts     : ∀ n p, s.part? n = some p → ∃ l, t.part? n = some { p with log := l }
  deadCores : t.deadCores = s.deadCores
  blocks    : ∀ b ∈ t.blocks, ∃ b' ∈ s.blocks, b'.core = b.core
  l1        : ∀ c, (s.core c).l1 = [] → (t.core c).l1 = []

theorem State.Wanes.trans (h : s.Wanes t) (k : t.Wanes u) : s.Wanes u where
  parts n p hp := by
    obtain ⟨l, hl⟩ := h.parts n p hp
    obtain ⟨l', hl'⟩ := k.parts n _ hl
    exact ⟨l', hl'⟩
  deadCores := k.deadCores.trans h.deadCores
  blocks b hb := by
    obtain ⟨b₁, h₁, e₁⟩ := k.blocks b hb
    obtain ⟨b₂, h₂, e₂⟩ := h.blocks b₁ h₁
    exact ⟨b₂, h₂, e₂.trans e₁⟩
  l1 c hc := k.l1 c (h.l1 c hc)

/-- The four fields that the relation speaks of as they were. -/
theorem State.Wanes.of_eq (hp : t.parts = s.parts) (hd : t.deadCores = s.deadCores) (hb : t.blocks = s.blocks)
    (hc : t.cores = s.cores) : s.Wanes t where
  parts n p h := ⟨p.log, by rw [State.part?, hp]; exact h⟩
  deadCores := hd
  blocks b h := ⟨b, hb ▸ h, rfl⟩
  l1 c h := by rw [State.core, hc]; exact h

theorem State.Wanes.refl (s : State) : s.Wanes s := .of_eq rfl rfl rfl rfl

theorem State.Wanes.ite {c : Prop} [Decidable c] (h : s.Wanes t) (k : s.Wanes u) : s.Wanes (if c then t else u) := by
  split
  · exact h
  · exact k

theorem State.Wanes.foldl {α : Type} {f : State → α → State} (hf : ∀ (s : State) a, s.Wanes (f s a)) (l : List α) (s : State) :
    s.Wanes (l.foldl f s) := by
  induction l generalizing s with
  | nil => exact .refl s
  | cons a l ih => exact (hf s a).trans (ih _)

variable (s)

/-! ### The parts of State -/

theorem State.wanes_putGroup (g : Group) : s.Wanes (s.putGroup g) := .of_eq rfl rfl rfl rfl
theorem State.wanes_putTask (x : Task) : s.Wanes (s.putTask x) := .of_eq rfl rfl rfl rfl
theorem State.wanes_putFn (f : Nat) (x : Fn) : s.Wanes (s.putFn f x) := .of_eq rfl rfl rfl rfl
theorem State.wanes_hostWrite (f a : Nat) (b : List Byte) : s.Wanes (s.hostWrite f a b) := .of_eq rfl rfl rfl rfl

theorem State.core_putCore (c d : Nat) (k : Core) : (s.putCore c k).core d = if d = c then k else s.core d := by
  simp only [State.core, State.putCore]
  split
  · next h => rw [h, Claims.getKey_setKey]
  · next h => exact getKey_setKey_of_ne _ h _ _

theorem State.wanes_putCore {c : Nat} {k : Core} (h : (s.core c).l1 = [] → k.l1 = []) : s.Wanes (s.putCore c k) where
  parts _ p hp := ⟨p.log, hp⟩
  deadCores := rfl
  blocks b hb := ⟨b, hb, rfl⟩
  l1 d hd := by
    rw [State.core_putCore]
    split
    · next e => exact h (e ▸ hd)
    · exact hd

/-- What a table gives under a key after a function of its entries that keeps the keys. -/
theorem getKey_map {α : Type} {P : α → Prop} {d : α} {f : Nat × α → Nat × α} (hf : ∀ x, (f x).1 = x.1)
    (hP : ∀ x, P x.2 → P (f x).2) {k : Nat} {l : List (Nat × α)} (hd : P d) (h : P (getKey d k l)) : P (getKey d k (l.map f)) := by
  induction l with
  | nil => exact hd
  | cons x l ih =>
    simp only [List.map_cons, getKey, hf] at h ⊢
    split
    · next e => exact hP x (by rwa [if_pos e] at h)
    · next e => exact ih (by rwa [if_neg e] at h)

/-! ### Blocks and tasks end (R46, R52, R384) -/

theorem Core.l1_release (old new : Core) (now : Nat) : (old.release new now).l1 = new.l1 := rfl

theorem State.wanes_dropOps (c : Nat) (m : MOp → Bool) (y : COp → Bool) : s.Wanes (s.dropOps c m y) := by
  refine s.wanes_putCore fun h => ?_
  rw [Core.l1_release]
  repeat' split
  all_goals exact h

theorem State.wanes_dropBlock (b : Block) : s.Wanes (s.dropBlock b) :=
  (s.wanes_dropOps _ _ _).trans
    { parts := fun _ p hp => ⟨p.log, hp⟩
      deadCores := rfl
      blocks := fun c hc => ⟨c, (List.mem_filter.1 hc).1, rfl⟩
      l1 := fun _ h => getKey_map (P := fun k : Core => k.l1 = [])
        (f := fun x => (x.1, { x.2 with l1 := x.2.l1.filter fun y => y.stack != some b.uid }))
        (fun _ => rfl) (fun x hx => by simp [hx]) rfl h }

theorem State.wanes_stopBlocks (x : Nat) : s.Wanes (s.stopBlocks x) := .foldl (fun s _ => s.wanes_dropBlock _) _ s

theorem State.wanes_endTask (x st : Nat) (c : BitVec 8) : s.Wanes (s.endTask x st c) := by
  unfold State.endTask
  refine (s.wanes_stopBlocks x).trans ?_
  dsimp only
  split
  · exact .refl _
  · exact .ite (.refl _) (.of_eq rfl rfl rfl rfl)

theorem State.wanes_lastBlock (n : Nat) : s.Wanes (s.lastBlock n) := by
  unfold State.lastBlock
  split
  · exact .refl s
  · exact .ite (.refl s) (.ite (s.wanes_endTask _ _ _) (.ite (s.wanes_endTask _ _ _) (.refl s)))

theorem State.wanes_loseTask (n : Nat) : s.Wanes (s.loseTask n) := by
  unfold State.loseTask
  split
  · exact .refl s
  · exact .ite (.refl s) (.ite (s.wanes_endTask _ _ _) ((s.wanes_putTask _).trans (State.wanes_lastBlock _ _)))

theorem State.wanes_failTask (st : Nat) (x : Task) : s.Wanes (s.failTask st x) :=
  .ite (.ite (.refl s) (s.wanes_putTask _)) (s.wanes_endTask _ _ _)

/-! ### Records, logs and faults (R171, R382 to R384, R441, R483) -/

theorem State.wanes_deliver (f : Nat) (i : RecInfo) : s.Wanes (s.deliver f i) :=
  (s.wanes_putFn f { s.fn f with evtSeq := (s.fn f).evtSeq + 1 }).trans
    (.ite ((State.wanes_hostWrite _ _ _ _).trans (State.wanes_putFn _ _ _))
      (.ite (State.wanes_putFn _ _ _) (State.wanes_putFn _ _ _)))

theorem State.wanes_record (i : RecInfo) : s.Wanes (s.record i) :=
  State.Wanes.trans (t := if logged i.type then { s with fleet := s.fleet.log i } else s)
    (.ite (.of_eq rfl rfl rfl rfl) (.refl s)) (State.wanes_deliver _ _ _)

theorem State.part?_putPart (q : Part) (n : Nat) :
    (s.putPart q).part? n = (s.part? n).map fun x => if x.num == q.num then q else x :=
  find?_updIf (by grind) _

/-- A partition whose log has grown. -/
theorem State.wanes_putLog {n : Nat} {p : Part} (hp : s.part? n = some p) (l : MLog) : s.Wanes (s.putPart { p with log := l }) where
  parts m q hq := by
    rw [State.part?_putPart, hq, Option.map_some]
    split
    · next h =>
      have hn : m = n := (Claims.part?_num hq).symm.trans ((beq_iff_eq.1 h : q.num = p.num).trans (Claims.part?_num hp))
      obtain rfl := Option.some.inj (hq.symm.trans (hn ▸ hp))
      exact ⟨l, rfl⟩
    · exact ⟨q.log, rfl⟩
  deadCores := rfl
  blocks b hb := ⟨b, hb, rfl⟩
  l1 _ h := h

theorem State.wanes_logEntry (kind : Nat) (part : Option Nat) (slot image : Nat) (w : BitVec 48) (d : BitVec 384) :
    s.Wanes (s.logEntry kind part slot image w d) := by
  unfold State.logEntry
  refine State.Wanes.trans (t := { s with fleet := { s.fleet with
    modlog := s.fleet.modlog.add kind (part.getD 0xFF) slot image w d } }) (.of_eq rfl rfl rfl rfl) ?_
  dsimp only
  split
  · next q hq =>
    obtain ⟨n, -, hn⟩ := Option.bind_eq_some_iff.1 hq
    exact State.wanes_putLog _ hn _
  · exact .refl _

theorem State.wanes_takeFault (g : Group) (f : FaultInfo) : s.Wanes (s.takeFault g f) := by
  have abort (d n : Bool) : s.Wanes (s.abort g f d n) := by
    unfold State.abort
    split
    · exact .refl s
    split
    · exact .refl s
    · exact (s.wanes_record _).trans (State.wanes_endTask _ _ _ _)
  unfold State.takeFault
  refine .ite (abort _ _) ?_
  split
  · exact abort _ _
  · exact s.wanes_putGroup _

/-! ### A mismatch at a slot (R171, R190) -/

theorem State.wanes_discardSlot (p : Part) (c k : Nat) : s.Wanes (s.discardSlot p c k) := by
  refine .foldl (fun s o => ?_) _ s
  refine (s.wanes_dropOps c (fun x => x.block == o.block && o.uid ≤ x.uid) fun _ => false).trans ?_
  rw [State.discardM, State.blame]
  split
  · exact State.wanes_putGroup _ _
  · exact .refl _

theorem State.wanes_mismatch (k n : Nat) : s.Wanes (s.mismatch k n) := by
  unfold State.mismatch
  split
  · exact .refl s
  · refine .ite (.refl s) ?_
    dsimp only
    split
    · exact (s.wanes_putGroup _).trans (State.wanes_takeFault _ _ _)
    · exact s.wanes_putGroup _

end Sys2Proof.Machine
end

section
/-! SUPPORT. Fenced cores (R173, R497), and the slots that a reconfiguration, a readback and a reload leave (R114, R171 to R173, R482). -/

namespace Sys2Proof.Machine

variable {s t : State}

/-! ### The fence of a core -/

/-- A core fenced: no block stands on it, and its L1 is empty. -/
structure State.Fenced (s : State) (c : Nat) : Prop where
  dead   : c ∈ s.deadCores
  blocks : ∀ b ∈ s.blocks, b.core ≠ c
  l1     : (s.core c).l1 = []

theorem State.Fenced.wanes {c : Nat} (h : s.Fenced c) (k : s.Wanes t) : t.Fenced c where
  dead := k.deadCores ▸ h.dead
  blocks b hb := by
    obtain ⟨b', hb', e⟩ := k.blocks b hb
    exact e ▸ h.blocks b' hb'
  l1 := k.l1 c h.l1

/-- The state in which a core is marked as fenced, and no id is asked for it. -/
def State.coreDead (s : State) (c : Nat) : State :=
  { s with deadCores := s.deadCores ++ [c]
           tasks := updIf (fun t => (t.run.ask.map (·.2)) == some c) (fun t => { t with run := { t.run with ask := none } }) s.tasks }

/-- The state in which a core marked as fenced has lost its blocks. -/
def State.coreLeft (s : State) (c : Nat) : State := (s.blocks.filter (·.core == c)).foldl (fun s b => s.dropBlock b) (s.coreDead c)

variable {c : Nat} (d : BitVec 384)

theorem State.fenceCore_of_mem (h : c ∈ s.deadCores) : s.fenceCore c d = s := if_pos (by simpa using h)

theorem State.wanes_coreLeft (s : State) (c : Nat) : (s.coreDead c).Wanes (s.coreLeft c) := .foldl (fun s b => s.wanes_dropBlock b) _ _

theorem State.wanes_fenceCore (h : c ∉ s.deadCores) : ((s.coreLeft c).putL1 c []).Wanes (s.fenceCore c d) := by
  rw [State.fenceCore, if_neg (by simpa using h)]
  exact (State.wanes_logEntry _ _ _ _ _ _ _).trans (.foldl (fun s u => s.wanes_loseTask u) _ _)

theorem State.wanes_coreDead_fenceCore (h : c ∉ s.deadCores) : (s.coreDead c).Wanes (s.fenceCore c d) :=
  (s.wanes_coreLeft c).trans (.trans (State.wanes_putCore _ fun _ => rfl) (State.wanes_fenceCore d h))

theorem State.fenced_fenceCore (h : c ∉ s.deadCores) : (s.fenceCore c d).Fenced c := by
  refine State.Fenced.wanes ⟨?_, fun b hb he => ?_, ?_⟩ (State.wanes_fenceCore d h)
  · rw [show ((s.coreLeft c).putL1 c []).deadCores = s.deadCores ++ [c] from (s.wanes_coreLeft c).deadCores]
    simp
  · obtain ⟨hm, hn⟩ := (State.foldl_dropBlock _ _).2 b hb
    exact hn (List.mem_filter.2 ⟨hm, by simpa using he⟩)
  · rw [State.putL1, State.core_putCore, if_pos rfl]

theorem State.mem_deadCores_fenceCore {e : Nat} : e ∈ (s.fenceCore c d).deadCores ↔ e ∈ s.deadCores ∨ e = c := by
  by_cases h : c ∈ s.deadCores
  · rw [State.fenceCore_of_mem d h]
    exact ⟨.inl, fun he => he.elim id (· ▸ h)⟩
  · rw [(State.wanes_coreDead_fenceCore d h).deadCores]
    simp [State.coreDead]

/-- Fences of other cores leave a fenced core as it is. -/
theorem State.Fenced.fenceCore {e : Nat} (h : s.Fenced e) : (s.fenceCore c d).Fenced e := by
  by_cases hc : c ∈ s.deadCores
  · rwa [State.fenceCore_of_mem d hc]
  · have hd : (s.coreDead c).Fenced e := ⟨List.mem_append_left _ h.dead, h.blocks, h.l1⟩
    exact hd.wanes (State.wanes_coreDead_fenceCore d hc)

/-- A fence leaves the partitions as they are, but for their logs. -/
theorem State.part?_fenceCore {n : Nat} {p : Part} (h : s.part? n = some p) :
    ∃ l, (s.fenceCore c d).part? n = some { p with log := l } := by
  by_cases hc : c ∈ s.deadCores
  · rw [State.fenceCore_of_mem d hc]
    exact ⟨p.log, h⟩
  · exact (State.wanes_coreDead_fenceCore d hc).parts n p h

/-- Of cores fenced in turn each is dead, and one that was not before is empty. -/
theorem State.foldl_fenceCore (l : List Nat) (s : State) :
    (∀ n p, s.part? n = some p → ∃ q, (l.foldl (fun s c => s.fenceCore c d) s).part? n = some { p with log := q }) ∧
    (∀ c, s.Fenced c → (l.foldl (fun s c => s.fenceCore c d) s).Fenced c) ∧
    (∀ c ∈ s.deadCores, c ∈ (l.foldl (fun s c => s.fenceCore c d) s).deadCores) ∧
    ∀ c ∈ l, c ∉ s.deadCores → (l.foldl (fun s c => s.fenceCore c d) s).Fenced c := by
  induction l generalizing s with
  | nil => exact ⟨fun n p h => ⟨p.log, h⟩, fun _ h => h, fun _ h => h, nofun⟩
  | cons e l ih =>
    obtain ⟨hp, hf, hd, hl⟩ := ih (s.fenceCore e d)
    refine ⟨fun n p h => ?_, fun c h => hf c (h.fenceCore d), fun c h => hd c ((State.mem_deadCores_fenceCore d).2 (.inl h)),
      fun c hc hn => ?_⟩
    · obtain ⟨q, hq⟩ := State.part?_fenceCore (c := e) d h
      obtain ⟨q', hq'⟩ := hp n _ hq
      exact ⟨q', hq'⟩
    · by_cases he : c = e
      · subst he
        exact hf c (State.fenced_fenceCore d hn)
      · exact hl c ((List.mem_cons.1 hc).resolve_left he) fun h => ((State.mem_deadCores_fenceCore d).1 h).elim hn he

/-! ### The end of a reconfiguration (R114, R482) -/

/-- A partition as the end of a reconfiguration of slot `j` leaves it: what was noted of the slot goes with its former image. -/
def Part.withSlot (p : Part) (j id : Nat) : Part :=
  let q := { p with slotImg := p.slotImg.set j id, config := p.config.filter (· != j), bare := p.bare.filter (·.2 != j) }
  if p.slotImg.getD j 0 == id then q
  else { q with corrupt := p.corrupt.filter fun (_, k, _) => k != j, uses := p.uses.filter fun (_, k, _) => k != j }

theorem Part.withSlot_spec (p : Part) (j id : Nat) : (p.withSlot j id).num = p.num ∧ (p.withSlot j id).slotImg = p.slotImg.set j id ∧
    j ∉ (p.withSlot j id).config ∧ ∀ y ∈ (p.withSlot j id).bare, y.2 ≠ j := by
  unfold Part.withSlot
  dsimp only
  split <;> simp

theorem State.wanes_slotDone {x : Task} {p : Part} {j e : Nat} (hp : s.part? x.part = some p) (hk : x.run.kiln = some (j, e)) :
    (s.putPart (p.withSlot j (x.hdr.slotimg.getD j 0))).Wanes (s.slotDone x) := by
  simp only [State.slotDone, hp, hk]
  exact .ite ((State.wanes_putTask _ _).trans (State.wanes_logEntry _ _ _ _ _ _ _))
    ((State.wanes_putTask _ _).trans (State.wanes_logEntry _ _ _ _ _ _ _))

theorem exec_reconfigurationDone {x : Task} {p : Part} {j e : Nat} (hx : s.task? x.uid = some x) (hp : s.part? x.part = some p)
    (hk : x.run.kiln = some (j, e)) (bad : List Nat) :
    exec (.reconfigurationDone x.uid bad) s = .next ((bad.filter fun c => p.dies.getLsbD (coreDie c)).foldl
      (fun s c => s.fenceCore c (p.imageDigest (x.hdr.slotimg.getD j 0))) (s.slotDone x)) := by
  rw [show exec (.reconfigurationDone x.uid bad) s = execReconfigurationDone x.uid bad s from rfl]
  simp only [execReconfigurationDone, hx, hp, hk]

/-! ### Readback and reload (R171 to R173) -/

/-- A partition that holds a slot is in the table. -/
theorem State.part?_putPart_of_slotOwner {p q : Part} {k : Nat} (h : s.slotOwner c k = some p) (hq : q.num = p.num) :
    (s.putPart q).part? p.num = some q := by
  obtain ⟨x, hx⟩ : ∃ x, s.part? p.num = some x := by
    rw [← Option.isSome_iff_exists, State.part?, List.find?_isSome]
    exact ⟨p, List.mem_of_find?_eq_some h, beq_self_eq_true _⟩
  exact Claims.part?_putPart hx hq

section
variable {p : Part} {k : Nat} (ho : s.slotOwner c k = some p)
include ho

theorem exec_slotReadback_clean (hc : k ∉ p.config) (hu : ∀ u ∈ p.corrupt, ¬(u.1 = c ∧ u.2.1 = k)) :
    exec (.slotReadback c k true) s = .next (State.putPart { s with scan := s.scan.filter fun u => !(u.1 == c && u.2 == k) }
      { p with uses := p.uses.filter fun u => !(u.1 == c && u.2.1 == k) }) := by
  rw [show exec (.slotReadback c k true) s = execSlotReadback c k true s from rfl]
  have hany : (p.corrupt.any fun u => u.1 == c && u.2.1 == k) = false := by simpa using hu
  simp only [execSlotReadback, ho, hany, List.contains_eq_mem, hc, decide_false, Bool.or_self, Bool.false_eq_true, if_false, if_true]

/-- A mismatch marks the slot CORRUPT before anything else follows from it. -/
theorem exec_slotReadback_mismatch (hc : k ∉ p.config) (hu : ∀ u ∈ p.corrupt, ¬(u.1 = c ∧ u.2.1 = k)) :
    ∃ t, exec (.slotReadback c k false) s = .next t ∧ (s.putPart { p with
      corrupt := p.corrupt ++ [(c, k, 0)], uses := p.uses.filter fun u => !(u.1 == c && u.2.1 == k) }).Wanes t := by
  rw [show exec (.slotReadback c k false) s = execSlotReadback c k false s from rfl]
  have hany : (p.corrupt.any fun u => u.1 == c && u.2.1 == k) = false := by simpa using hu
  simp only [execSlotReadback, ho, hany, List.contains_eq_mem, hc, decide_false, Bool.or_self, Bool.false_eq_true, if_false]
  refine ⟨_, rfl, .trans ?_ (State.wanes_record _ _)⟩
  refine State.Wanes.trans ?_ (.foldl (fun s _ => s.wanes_mismatch _ _) _ _)
  refine State.Wanes.trans ?_ (State.wanes_discardSlot _ _ _ _)
  refine State.Wanes.trans ?_ (State.Wanes.foldl (fun s x => ?_) _ _)
  · exact .of_eq rfl rfl rfl rfl
  · split
    · exact s.wanes_failTask _ _
    · exact .refl s

section
variable {tries : Nat} (hf : p.corrupt.find? (fun u => u.1 == c && u.2.1 == k) = some (c, k, tries))
include hf

theorem exec_kilnReloadDone (clean : Bool) :
    let rest := p.corrupt.filter fun u => !(u.1 == c && u.2.1 == k)
    let put (l : List (Nat × Nat × Nat)) : State := s.putPart { p with corrupt := l }
    let log (s : State) : State := s.logEntry 4 (some p.num) k (p.slotImg.getD k 0) (placeBytes (coreDie c) (c % 48))
      (p.imageDigest (p.slotImg.getD k 0))
    exec (.kilnReloadDone c k clean) s = .next (if clean then log (put rest) else if tries = 0 then put (rest ++ [(c, k, 1)])
      else (log (put rest)).fenceCore c (p.imageDigest (p.slotImg.getD k 0))) := by
  rw [show exec (.kilnReloadDone c k clean) s = execKilnReloadDone c k clean s from rfl]
  simp only [execKilnReloadDone, ho, hf, beq_iff_eq, apply_ite Host.Outcome.next]

end
end

end Sys2Proof.Machine

namespace Sys2Proof.Claims

open Sys2Proof.Machine

/-- Settles O39: what follows a fence or a mismatch leaves a partition's slots as the step has put them (`State.Wanes`). -/
theorem slotConfiguration : Obligations.SlotConfiguration := by
  intro s p c k
  refine ⟨fun t j e ht hp hk => ⟨exec_reconfigurationDone ht hp hk [], fun bad => ⟨_, exec_reconfigurationDone ht hp hk bad, ?_, ?_⟩⟩,
    fun ho hc hu => ⟨exec_slotReadback_clean ho hc hu, ?_⟩,
    fun tries ho hf => ?_⟩
  · intro c hc hd
    have hdead := (State.wanes_slotDone hp hk).deadCores
    obtain ⟨-, -, hkeep, hnew⟩ := State.foldl_fenceCore (p.imageDigest (t.hdr.slotimg.getD j 0))
      (bad.filter fun c => p.dies.getLsbD (coreDie c)) (s.slotDone t)
    have hnew := hnew c (List.mem_filter.2 ⟨hc, hd⟩)
    refine ⟨?_, fun hn _ => ?_⟩
    · by_cases hc : c ∈ (s.slotDone t).deadCores
      · exact hkeep c hc
      · exact (hnew hc).dead
    · have hf := hnew (hdead ▸ hn)
      exact ⟨hf.blocks, hf.l1⟩
  · intro hj
    obtain ⟨hnum, himg, hconfig, hbare⟩ := p.withSlot_spec j (t.hdr.slotimg.getD j 0)
    obtain ⟨l, hl⟩ := (State.wanes_slotDone hp hk).parts p.num _ (part?_putPart (part?_num hp ▸ hp) hnum)
    obtain ⟨l', hl'⟩ := (State.foldl_fenceCore _ _ _).1 p.num _ hl
    exact ⟨_, hl', hconfig, (congrArg (·.getD j 0) himg).trans (by simp [hj]), hbare⟩
  · obtain ⟨t, ht, hw⟩ := exec_slotReadback_mismatch ho hc hu
    obtain ⟨l, hl⟩ := hw.parts p.num _ (State.part?_putPart_of_slotOwner ho rfl)
    exact ⟨t, ht, _, hl, by simp⟩
  · intro rest
    let d := p.imageDigest (p.slotImg.getD k 0)
    let t := (s.putPart { p with corrupt := rest }).logEntry 4 (some p.num) k (p.slotImg.getD k 0) (placeBytes (coreDie c) (c % 48)) d
    have hw : (s.putPart { p with corrupt := rest }).Wanes t := State.wanes_logEntry _ _ _ _ _ _ _
    refine ⟨?_, fun h0 => ?_, fun h0 => ⟨t.fenceCore c d, ?_, (State.mem_deadCores_fenceCore d).2 (.inr rfl), fun hn _ => ?_, ?_⟩⟩
    · rw [exec_kilnReloadDone ho hf, if_pos rfl]
    · rw [exec_kilnReloadDone ho hf, if_neg Bool.false_ne_true, if_pos h0]
    · rw [exec_kilnReloadDone ho hf, if_neg Bool.false_ne_true, if_neg h0]
    · have hf : (t.fenceCore c d).Fenced c := State.fenced_fenceCore d (hw.deadCores ▸ hn)
      exact ⟨hf.blocks, hf.l1⟩
    · obtain ⟨l, hl⟩ := hw.parts p.num _ (State.part?_putPart_of_slotOwner ho rfl)
      obtain ⟨l', hl'⟩ := State.part?_fenceCore (c := c) d hl
      exact ⟨_, hl', rfl⟩

end Sys2Proof.Claims
end

section
/-! SUPPORT. What the statements of O19 and O20 do not ask of a state: that the LLC lists each line of a partition once.  In a state
that lists one again and again, first as a stale one, a miss of another partition that displaces it takes them all out (R129). -/

namespace Sys2Proof.Machine

/-! ### The lines of other partitions in the LLC -/

/-- Of the lines of other partitions than `part`, `t` has none in its LLC that `s` has not. -/
def State.ForeignLinesFrom (s : State) (part : Nat) (t : State) : Prop := ∀ l ∈ t.llc, l.part ≠ part → l ∈ s.llc

namespace State.ForeignLinesFrom

variable {s t u : State} {part : Nat}

theorem of_llc_eq (h : t.llc = s.llc) : s.ForeignLinesFrom part t := fun _ hl _ => h ▸ hl

theorem trans (h : s.ForeignLinesFrom part t) (h' : t.ForeignLinesFrom part u) : s.ForeignLinesFrom part u :=
  fun l hl hp => h l (h' l hl hp) hp

theorem of_filter {c : LlcLine → Bool} (h : t.llc = s.llc.filter c) : s.ForeignLinesFrom part t :=
  fun _ hl _ => List.mem_of_mem_filter (h ▸ hl)

theorem of_cons {x : LlcLine} (h : t.llc = x :: s.llc) (hx : x.part = part) : s.ForeignLinesFrom part t := fun _ hl hp => by
  rcases List.mem_cons.1 (h ▸ hl) with rfl | hl
  · exact absurd hx hp
  · exact hl

end State.ForeignLinesFrom

theorem llcBack_llc (s : State) (l : LlcLine) : (s.llcBack l).llc = s.llc := by
  unfold State.llcBack
  split <;> rfl

theorem foreignLinesFrom_llcEvict (s : State) (part r a : Nat) : s.ForeignLinesFrom part (s.llcEvict r a) := by
  unfold State.llcEvict
  split
  · exact .of_llc_eq rfl
  · exact .of_filter rfl

theorem foreignLinesFrom_llcRoom (s : State) (part : Nat) (p : Part) (d i : Nat) : s.ForeignLinesFrom part (s.llcRoom p d i) := by
  unfold State.llcRoom
  dsimp only
  split
  · exact .of_llc_eq rfl
  · split
    · exact foreignLinesFrom_llcEvict { s with fresh := s.fresh + 1 } _ _ _
    · exact .of_llc_eq rfl

theorem foreignLinesFrom_llcRenew (s : State) (part a : Nat) : s.ForeignLinesFrom part (s.llcRenew part a) := by
  unfold State.llcRenew
  split
  · exact .of_llc_eq rfl
  · split
    · exact .of_llc_eq rfl
    · extract_lets die t
      have ht : s.ForeignLinesFrom part t := .of_filter rfl
      split
      · exact ht.trans (.of_llc_eq rfl)
      next p _ =>
        have hroom := ht.trans (foreignLinesFrom_llcRoom t part p die (llcSlice a))
        dsimp only
        split
        · exact hroom.trans (.of_cons rfl rfl)
        · exact hroom.trans (.of_llc_eq rfl)

theorem foreignLinesFrom_homeStore (s : State) (part a : Nat) (b : Byte) : s.ForeignLinesFrom part (s.homeStore part a b) := by
  unfold State.homeStore
  split
  · exact .of_llc_eq rfl
  next l hl =>
    have hpart : l.part = part := by
      have := List.find?_some hl
      simp only [Bool.and_eq_true, beq_iff_eq] at this
      exact this.1
    split
    · exact .of_llc_eq rfl
    · intro k hk hp
      obtain ⟨x, hx, rfl⟩ := List.mem_map.1 hk
      split at hp
      · exact absurd hpart hp
      next hc => rwa [if_neg hc]

theorem foreignLinesFrom_homePuts (b : List Byte) (s : State) (part a : Nat) : s.ForeignLinesFrom part (s.homePuts part a b) := by
  induction b generalizing s a with
  | nil => exact .of_llc_eq rfl
  | cons x t ih =>
    exact ((foreignLinesFrom_llcRenew s part a).trans (foreignLinesFrom_homeStore _ part a x)).trans (ih _ (a + 1))

/-- A miss that allocates first makes room, and adds at most a line of the partition's own. -/
theorem foreignLinesFrom_llcTouch_of_miss {s : State} {part a : Nat} {p : Part} (ha : isPeer a = false)
    (hl : s.llcLine? part a = none) (hp : s.part? part = some p) :
    (s.llcRoom p (homeDie (s.homeOf a) a) (llcSlice a)).ForeignLinesFrom part (s.llcTouch part a) := by
  simp only [State.llcTouch, ha, hl, hp, Bool.false_eq_true, if_false]
  split
  · exact .of_llc_eq (countUp_llc ..)
  · exact .of_cons (countUp_llc ..) rfl

/-- Where no place is free and one line alone may be replaced, every line of its key goes. -/
theorem llcRoom_llc_of_victim {s : State} {p : Part} {d i : Nat} {v : LlcLine} (hfree : s.llcFree p d i = none)
    (hv : s.llcVictims p d i = [v]) :
    (s.llcRoom p d i).llc = s.llc.filter fun k => !(k.part == v.part && k.line == v.line) := by
  have hfirst : s.llcLine? v.part (512 * v.line) = some v := by
    have hmem : v ∈ s.llcVictims p d i := hv ▸ List.mem_singleton_self v
    simp only [State.llcVictims, List.mem_filter, Bool.and_eq_true, beq_iff_eq] at hmem
    exact hmem.2.1.2
  have hfirst' : ({ s with fresh := s.fresh + 1 } : State).llcLine? v.part (512 * v.line) = some v := hfirst
  simp [State.llcRoom, hfree, hv, Nat.mod_one, State.llcEvict, hfirst']

/-! ### A request of one lane performed -/

/-- A request that can return data is performed. -/
theorem exec_loadDataReturn_of_held {s : State} {g : Group} {b : Block} {t : Task} {q : Req} (h : Claims.Held s g b t q)
    (hc : s.canLoad g b q = true) (hk : q.kind ≠ .spawn) :
    exec (.loadDataReturn g.uid q.seq) s = .next ((s.performLoad g b t q).retest g.uid) := by
  obtain ⟨hg, hb, ht, hq, -⟩ := h
  show execLoadDataReturn g.uid q.seq s = _
  simp [execLoadDataReturn, hg, hb, ht, hq, hc, hk]

/-- A request that can complete without data is performed. -/
theorem exec_accessPerformed_of_held {s : State} {g : Group} {b : Block} {t : Task} {q : Req} (h : Claims.Held s g b t q)
    (hc : s.canStore g b t q = true) (hk : q.kind ≠ .cmtp) :
    exec (.accessPerformed g.uid q.seq) s = .next ((s.performStore g b t q).retest g.uid) := by
  obtain ⟨hg, hb, ht, hq, -⟩ := h
  show execAccessPerformed g.uid q.seq s = _
  simp [execAccessPerformed, hg, hb, ht, hq, hc, hk]

/-- What the barriers tested again change is not in the LLC. -/
theorem retest_llc (s : State) (g : Nat) : (s.retest g).llc = s.llc := by
  unfold State.retest
  split
  · rfl
  · split
    · split
      · exact (((State.Framed.refl s).gbarTest _).rbarTestTask _).llc
      · rfl
    · rfl

theorem landSector_of_away_nil {s : State} (h : s.away = []) (part a : Nat) : s.landSector part a = s := by
  rw [State.landSector, h]
  rfl

section

variable {s : State} {g : Group} {b : Block} {t : Task} {q : Req} {x : LaneReq}

theorem performLoad_llc (hl : q.lanes = [x]) (hsys : q.sys = false) :
    (s.performLoad g b t q).llc = (performLane b t q { s := s } x).s.llc := by
  simp only [State.performLoad, hl, hsys, List.foldl_cons, List.foldl_nil]
  split <;> rfl

theorem performStore_llc (hl : q.lanes = [x]) (hsys : q.sys = false) (hk : q.kind ≠ .redo) :
    (s.performStore g b t q).llc = (performLane b t q { s := s } x).s.llc := by
  simp only [State.performStore, hl, hsys, List.foldl_cons, List.foldl_nil, beq_eq_false_iff_ne.2 hk]
  rfl

/-- A write inside one sector accesses it once. -/
theorem homeWrite_of_one_sector {part a : Nat} {l : List Byte} (ha : isPeer a = false) (hl : l ≠ [])
    (hfit : a % 128 + l.length ≤ 128) :
    s.homeWrite part a l = (s.llcTouch part (a / 128 * 128)).homePuts part a l := by
  have hpos := List.length_pos_iff.2 hl
  have hone : (a % 128 + l.length + 127) / 128 = 1 := by omega
  simp [State.homeWrite, State.homeWriteBy, ha, State.llcTouches, hl, hone]

/-! A lane that misses in the L1 under the hint NA, with no write-back on its way: the L1 stays, and the home is accessed (R133). -/

variable (haway : s.away = []) (hb : s.block? b.uid = some b) (hmode : t.modeOf x.reg = some .rw) (hhint : q.m.hnt = 1)
  (hmiss : s.sector? b.part (s.l1Core b.part b.ctx b.core x.pa) x.pa = none)
include haway hb hmode hhint hmiss

theorem performLane_load_of_na_miss (hk : q.kind = .ld)
    (hn : bmRange (x.pa % 128) (accRange q.op q.m x.addr (idxOf q.op x)).2.1 ≠ 0) :
    (performLane b t q { s := s } x).s = s.llcTouch b.part x.pa := by
  have hnew : ~~~(Sector.new x.pa b.part b.ctx none).valid = BitVec.allOnes 128 := by simp [Sector.new]
  simp only [performLane, hb, Option.getD_some, landSector_of_away_nil haway, ite_self, hk, hmode, hhint, State.readAt, State.l1Read,
    hmiss, Option.getD_none, hnew, BitVec.and_allOnes, beq_eq_false_iff_ne.2 hn]
  simp

theorem performLane_store_of_na_miss (hk : q.kind = .st) :
    (performLane b t q { s := s } x).s =
      s.homeWrite b.part x.pa (bytesOf (accRange q.op q.m x.addr (idxOf q.op x)).2.1 x.x.toNat) := by
  simp only [performLane, hb, Option.getD_some, landSector_of_away_nil haway, ite_self, hk, hmode, hhint, State.writeAt, State.l1Write,
    hmiss]
  simp

end

/-! ### A state whose LLC lists a line many times -/

/-- A line of partition 1 in the LLC of die 0, in way 0 and in the slice of address 0x12000. -/
def foreignLine : LlcLine := { line := 144, die := 0, part := 1, epoch := 0, way := 0, secs := 0, data := [] }

/-- The same line, stale. -/
def staleForeignLine : LlcLine := { foreignLine with epoch := 1 }

/-- A request of lane 0 for 32 bits at 0x12000 in region 0, under the hint NA. -/
def naRequest (kind : ReqKind) (op : Nat) : Req :=
  { seq := 0, op := op, head := Head.plain
    m := { d := 24, x := 8, b := 6, off := 0, xk := .unif, ord := .none, scp := 0, hnt := 1 }
    cond := allLanes, target := 0, kind := kind, lanes := [{ lane := 0, addr := 0x12000, pa := 0x12000 }], uni := false
    mask := 1, flag := 0, inv := none, pc := 0x10000, next := 0x10001, split := allLanes, st := .flying, gen := 0 }

/-- The task of `withProgram`, its region RW. -/
def rwTask : Task := { demoTask with regions := [{ demoRegion with mode := 3 }] }

/-- The group of `withProgram` with one request. -/
def groupWith (q : Req) : Group := { demoGroup State.reset with reqs := [q] }

/-- The machine with that group, and with the one way of partition 0 filled by one line of partition 1, listed first as a stale one. -/
def State.twoLinesOneKey (q : Req) : State :=
  { State.reset.withProgram 0 with
    tasks := [rwTask], groups := [groupWith q], llc := staleForeignLine :: List.replicate Config.wayLines foreignLine }

theorem twoLinesOneKey_llc (q : Req) :
    (State.twoLinesOneKey q).llc = staleForeignLine :: List.replicate Config.wayLines foreignLine := rfl

theorem held_twoLinesOneKey (kind : ReqKind) (op : Nat) :
    Claims.Held (.twoLinesOneKey (naRequest kind op)) (groupWith (naRequest kind op)) demoBlock rwTask (naRequest kind op) :=
  ⟨rfl, rfl, rfl, rfl, show (State.reset.withProgram 0).MemOk from ⟨by decide, by decide, by decide⟩⟩

/-- The stale line alone may give up its place: the others are not what their key finds. -/
theorem llcVictims_twoLinesOneKey (q : Req) :
    (State.twoLinesOneKey q).llcVictims (demoPart State.reset) 0 20 = [staleForeignLine] := by
  have hother : ((State.twoLinesOneKey q).llcLine? foreignLine.part (512 * foreignLine.line) == some foreignLine) = false := by
    rw [show (State.twoLinesOneKey q).llcLine? foreignLine.part (512 * foreignLine.line) = some staleForeignLine from rfl]
    decide
  rw [State.llcVictims, twoLinesOneKey_llc, List.filter_cons_of_pos (by rfl), List.filter_replicate_of_neg (by simp [hother])]

/-- Way 0, the only one of partition 0, is full. -/
theorem llcFree_twoLinesOneKey (q : Req) : (State.twoLinesOneKey q).llcFree (demoPart State.reset) 0 20 = none := by
  rw [State.llcFree, twoLinesOneKey_llc, List.find?_eq_none]
  intro w hw
  rcases Nat.eq_zero_or_pos w with rfl | hpos
  · rw [List.filter_cons_of_pos (by rfl), List.filter_replicate_of_pos (by rfl)]
    simp
  · have hway : (demoPart State.reset).ways.getLsbD w = false := by
      have hlt := List.mem_range.1 hw
      interval_cases w <;> rfl
    simp [hway]

/-- Partition 0's miss at 0x12000 takes the stale line out, and with it every other of its key. -/
theorem foreignLine_not_mem {q : Req} {t : State} (h : ((State.twoLinesOneKey q).llcTouch 0 0x12000).ForeignLinesFrom 0 t) :
    foreignLine ∉ t.llc := by
  intro hl
  have hmiss : (State.twoLinesOneKey q).llcLine? 0 0x12000 = none := by
    rw [State.llcLine?, twoLinesOneKey_llc, List.find?_eq_none]
    intro l hl
    rcases List.mem_cons.1 hl with rfl | hl
    · decide
    · rw [List.eq_of_mem_replicate hl]
      decide
  have htouch := foreignLinesFrom_llcTouch_of_miss (a := 0x12000) (p := demoPart State.reset) rfl hmiss rfl
  have hroom : foreignLine ∈ ((State.twoLinesOneKey q).llcRoom (demoPart State.reset) 0 20).llc :=
    (htouch.trans h) foreignLine hl (by decide)
  rw [llcRoom_llc_of_victim (llcFree_twoLinesOneKey q) (llcVictims_twoLinesOneKey q)] at hroom
  exact absurd (List.mem_filter.1 hroom).2 (by decide)

/-- `MemoryKeeps` has that line stay: it is another partition's and not stale. -/
theorem not_memoryKeeps {q : Req} {t : State} (h : ((State.twoLinesOneKey q).llcTouch 0 0x12000).ForeignLinesFrom 0 t)
    (pas : List Nat) (stored : Nat → Prop) : ¬ Claims.MemoryKeeps (.twoLinesOneKey q) t 0 pas stored := by
  intro ⟨_, _, _, _, _, hstay⟩
  have hl : foreignLine ∈ (State.twoLinesOneKey q).llc := by
    rw [twoLinesOneKey_llc]
    exact List.mem_cons_of_mem _ (List.mem_replicate.2 ⟨by decide, rfl⟩)
  rcases hstay foreignLine hl (by decide) with hmem | hstale
  · exact foreignLine_not_mem h hmem
  · exact absurd hstale (by rw [show (State.twoLinesOneKey q).llcStale foreignLine = false from rfl]; decide)

/-- The accesses of the request meet what the checks at issue leave. -/
theorem sound_naRequest {kind : ReqKind} {op : Nat} (h : op = 0x98 ∨ op = 0x9A) :
    Claims.Sound (naRequest kind op) { lane := 0, addr := 0x12000, pa := 0x12000 } := by
  rcases h with rfl | rfl <;> exact ⟨rfl, by simp only [naRequest]; decide⟩

end Sys2Proof.Machine

namespace Sys2Proof.Claims

open Sys2Proof.Machine

/-- Refutes O19, in its clause `CachedLoads`: a load from an RW region that misses in the L1 makes room in full ways of the LLC, and the
stale line of partition 1 that goes takes with it the lines that stand under its key and are not stale, which `MemoryKeeps` has stay.
No hypothesis keeps a key from standing twice in the LLC. -/
theorem not_loadsReturn : ¬ Obligations.LoadsReturn := by
  intro ⟨_, hcached⟩
  let q := naRequest .ld 0x98
  have hheld := held_twoLinesOneKey .ld 0x98
  have hcan : (State.twoLinesOneKey q).canLoad (groupWith q) demoBlock q = true := by decide
  obtain ⟨s', hexec, -, hkeeps, -⟩ := hcached _ _ _ _ q _ .rw hheld (.inl ⟨rfl, .inl rfl⟩) hcan rfl rfl (sound_naRequest (.inl rfl)) rfl
    (by decide) (by decide) (by decide) rfl (fun z hz => by cases hz)
  rw [exec_loadDataReturn_of_held hheld hcan (by decide)] at hexec
  obtain rfl := Host.Outcome.next.inj hexec
  refine not_memoryKeeps (.of_llc_eq ?_) _ _ hkeeps
  rw [retest_llc, performLoad_llc rfl rfl, performLane_load_of_na_miss rfl rfl rfl rfl rfl rfl (by decide)]
  rfl

/-- Refutes O20, in its clause `CachedStores`, as O19: a store to an RW region that misses in the L1 under NA is written through to the
home (R133), and the miss there displaces every line of partition 1's key. -/
theorem not_storesAndAtomicsPerformed : ¬ Obligations.StoresAndAtomicsPerformed := by
  intro ⟨_, _, hcached, _⟩
  let q := naRequest .st 0x9A
  have hheld := held_twoLinesOneKey .st 0x9A
  have hcan : (State.twoLinesOneKey q).canStore (groupWith q) demoBlock rwTask q = true := by decide
  obtain ⟨s', hexec, -, hkeeps, -⟩ := hcached _ _ _ _ q _ .rw hheld (.inl ⟨rfl, .inl rfl⟩) hcan rfl rfl (sound_naRequest (.inr rfl)) rfl
    (by decide) (by decide) (fun z hz => by cases hz)
  rw [exec_accessPerformed_of_held hheld hcan (by decide)] at hexec
  obtain rfl := Host.Outcome.next.inj hexec
  refine not_memoryKeeps (State.ForeignLinesFrom.trans (foreignLinesFrom_homePuts (bytesOf 4 0) _ 0 0x12000) (.of_llc_eq ?_)) _ _ hkeeps
  rw [retest_llc, performStore_llc rfl rfl (by decide), performLane_store_of_na_miss rfl rfl rfl rfl rfl rfl,
    homeWrite_of_one_sector rfl (by decide) (by decide)]
  rfl

end Sys2Proof.Claims
end

section
/-! SUPPORT. Scratchpad accesses at issue (R118, R150, R328, R329, R332): what holds one back, the first check that fails, and the values
that `lds` reads. -/

namespace Sys2Proof.Machine

variable {s : State} {g : Group} {x : Split} {h : Head} {m : MArgs} {op : Nat} {b : Block}
  {act : Block → LaneMask → List LaneReq → Own}

@[simp] theorem firstFault_nil (m : MArgs) (mask : LaneMask) : firstFault m mask [] = none := by
  simp [firstFault]

/-- No access meets an engine's row. -/
@[simp] theorem engineStall_nil (s : State) (b : Block) : s.engineStall b [] = false := rfl

/-- Without a checked lane no access is made (R326). -/
theorem scrAccesses_of_no_lane {now : Nat} (hm : (scrAccesses op h m now g x).1 = 0) : scrAccesses op h m now g x = (0, []) := by
  have hmask : g.checked x h false now = 0 := hm
  have hl : lanesOf 0#96 = [] := by decide
  simp [scrAccesses, hmask, hl]

/-- An access waits for an engine's row, and an `sts` behind a `cmtp` that waits (R150, R203, R329). -/
theorem scrOwn_of_held (hb : s.block? g.block = some b)
    (hw : s.engineStall b (scrAccesses op h m s.now g x).2 = true ∨ op = 0x9D ∧ s.behindPass g s.now = true) :
    scrOwn op h m s g x act = .wait := by
  rcases hw with hw | ⟨rfl, hw⟩ <;> simp [scrOwn, hb, hw]

theorem not_behind (hp : op = 0x9D → s.behindPass g s.now = false) : (op == 0x9D && s.behindPass g s.now) = false := by
  simpa using hp

section
variable (hb : s.block? g.block = some b) (haff : affineBad (g.viewAt s.now) m = false)
  (he : s.engineStall b (scrAccesses op h m s.now g x).2 = false) (hi : g.mayIssue op m = true)
  (hp : op = 0x9D → s.behindPass g s.now = false)
include hb haff he hi hp

/-- The first check that fails is the fault of an access that may issue (R328). -/
theorem scrOwn_of_firstFault {c : BitVec 8} {a : Nat} {l : LaneMask}
    (hf : firstFault m (scrAccesses op h m s.now g x).1 (scrChecks b (mSize op m) (scrAccesses op h m s.now g x).2) = some (c, a, l)) :
    scrOwn op h m s g x act = .fault c (dw a) l := by
  simp only [scrOwn, hb, he, hi, not_behind hp, haff, hf, Bool.not_true, Bool.or_self, Bool.false_eq_true, if_false]

/-- An access that may issue and passes its checks has its effect. -/
theorem scrOwn_of_passed
    (hf : firstFault m (scrAccesses op h m s.now g x).1 (scrChecks b (mSize op m) (scrAccesses op h m s.now g x).2) = none) :
    scrOwn op h m s g x act = act b (scrAccesses op h m s.now g x).1 (scrAccesses op h m s.now g x).2 := by
  simp only [scrOwn, hb, he, hi, not_behind hp, haff, hf, Bool.not_true, Bool.or_self, Bool.false_eq_true, if_false]

end

/-- The access that gives lane `L` its value: the one access under a uniform address, else the lane's own (R326). -/
def laneAccess (m : MArgs) (qs : List LaneReq) (L : Nat) : Option LaneReq :=
  if m.xk == .unif then qs.head? else qs.find? fun y => y.lane == L

/-- What `lds` looks up among the values of its accesses. -/
theorem lookup_values (m : MArgs) (qs : List LaneReq) (f : LaneReq → Dword) (L : Nat) :
    (if m.xk == .unif then ((qs.map fun q => (q.lane, f q)).head?.map (·.2)).getD 0
      else (((qs.map fun q => (q.lane, f q)).find? (·.1 == L)).map (·.2)).getD 0) = ((laneAccess m qs L).map f).getD 0 := by
  rw [laneAccess]
  split
  · rw [List.head?_map, Option.map_map]; rfl
  · rw [List.find?_map, Option.map_map]; rfl

end Sys2Proof.Machine

namespace Sys2Proof.Claims

open Sys2Proof.Machine

/-- Settles O17: a scratchpad access that nothing holds back comes to its checks, and past them each clause is one branch of the effect. -/
theorem scratchpadAccesses : Obligations.ScratchpadAccesses := by
  intro s g x h m b hb haff
  refine ⟨?loads, ?noLane, ?loadStalls, ?storeStalls, ?stores, ?loadFaults, ?storeFaults, ?poison⟩
  case loads =>
    intro q n w at_ value hr hm hf he hi hp
    have hclean : q.2.filter (fun z => b.scrPoison z.addr n) = [] := by simpa using hp
    have hvalue : value = fun L => ((laneAccess m q.2 L).map fun y => extendTy (mTy m.b) w (cellRead b.scr y.addr n)).getD 0 := by
      funext L
      change (match laneAccess m q.2 L with | some y => _ | none => _) = _
      cases laneAccess m q.2 L <;> rfl
    refine hr.ok rfl rfl ((scrOwn_of_passed hb haff he hi nofun hf).trans ?_)
    simp only [hvalue, ← lookup_values]
    rw [show q.2.filter _ = [] from hclean]
    exact if_neg (by simpa using hm)
  case noLane =>
    intro hr hm hi
    have hq := scrAccesses_of_no_lane hm
    refine hr.ok rfl rfl ((scrOwn_of_passed hb haff (by simp [hq]) hi nofun (by simp [hq, scrChecks])).trans ?_)
    simp [hq]
  case loadStalls => exact fun hr he => hr.stalls rfl rfl (scrOwn_of_held hb (.inl he))
  case storeStalls => exact fun hr hw => hr.stalls rfl rfl (scrOwn_of_held hb (hw.imp id fun hp => ⟨rfl, hp⟩))
  case stores => exact fun hr hf he hi hp => hr.ok rfl rfl (scrOwn_of_passed hb haff he hi (fun _ => hp) hf)
  case loadFaults => exact fun c y l hr he hi hf => hr.fault rfl rfl (scrOwn_of_firstFault hb haff he hi nofun hf)
  case storeFaults => exact fun c y l hr he hi hp hf => hr.fault rfl rfl (scrOwn_of_firstFault hb haff he hi (fun _ => hp) hf)
  case poison =>
    intro y rest q hr hf he hi hbad
    refine hr.ecc rfl rfl ((scrOwn_of_passed hb haff he hi nofun hf).trans ?_)
    dsimp only
    rw [show List.filter _ (scrAccesses 0x9C h m s.now g x).2 = y :: rest from hbad]

end Sys2Proof.Claims
end

section
/-! SUPPORT. A prefetch in the state of O19 and O20 whose LLC lists a line of another partition again and again (R129, R340): its one miss
takes every one of them out. -/

namespace Sys2Proof.Machine

/-! ### What an instruction's completion leaves -/

theorem issued_llc (s : State) (u op : Nat) (h : Head) (p : Payload) (c : Option Nat) : (s.issued u op h p c).llc = s.llc := by
  unfold State.issued
  split <;> rfl

/-- The issue and the sequencing of an instruction make no access at a home. -/
theorem done_llc (s : State) (g : Group) (x : Split) (w : Slot) (s' : State) (c : Option Nat) : (s.done g x w s' c).llc = s'.llc :=
  ((State.Framed.refl _).sequencedAt ..).llc.trans (issued_llc ..)

/-! ### A miss that displaces a line listed twice -/

/-- Full ways that can give up one line alone give up every line of its key. -/
theorem not_mem_llcTouch_of_victim {s : State} {part a : Nat} {p : Part} {l v : LlcLine} (ha : isPeer a = false)
    (hmiss : s.llcLine? part a = none) (hp : s.part? part = some p) (hfree : s.llcFree p (homeDie (s.homeOf a) a) (llcSlice a) = none)
    (hv : s.llcVictims p (homeDie (s.homeOf a) a) (llcSlice a) = [v]) (hkey : l.part = v.part ∧ l.line = v.line) (hl : l.part ≠ part) :
    l ∉ (s.llcTouch part a).llc := by
  intro h
  have hroom := foreignLinesFrom_llcTouch_of_miss ha hmiss hp l h hl
  rw [llcRoom_llc_of_victim hfree hv] at hroom
  simp [hkey] at hroom

/-! ### A prefetch of one sector -/

/-- A prefetch under a uniform address that waits for no write-back makes its one access (R340). -/
theorem Runs.prf_of_one {s : State} {g : Group} {x : Split} {h : Head} {m : MArgs} {b : Block} {t : Task} {q : LaneReq}
    (hr : Runs s g x ⟨0xA4, h, .m m⟩) (hb : s.block? g.block = some b) (ht : s.taskOf g = some t) (hu : m.xk = .unif)
    (hq : accesses (g.viewAt s.now) 0xA4 m (lanesOf (g.checked x h false s.now)) true false = [q])
    (hback : ((s.translate b.part b.ctx q.addr).any fun p => s.backPends b.part p.pa) = false) :
    exec (.prf h m) s = .next (s.done g x ⟨0xA4, h, .m m⟩
      (prfLane b t.hdr.det m s q (t.match_ q.addr (q.addr + mSize 0xA4 m - 1) none)) (some (s.now + 1))) := by
  refine hr.ok rfl rfl ?_
  simp [hb, ht, hu, hq, hback, affineBad]

/-- Such an access of a SHARED page that is there to be read goes to its home. -/
theorem prfLane_shared {s : State} {b : Block} {m : MArgs} {q : LaneReq} {i : Nat} {p : Page} (hal : q.addr % mSize 0xA4 m = 0)
    (hp : s.translate b.part b.ctx q.addr = some p) (hread : p.read = true) (hpeer : isPeer p.pa = false)
    (hreach : s.reaches (coreDie b.core) (homeDie p.home p.pa) = true) :
    prfLane b false m s q (some (i, .shared)) = s.llcTouch b.part p.pa (m.hnt.toNat == 2) := by
  simp [prfLane, hal, hp, hread, hpeer, hreach]

/-! ### The state -/

/-- The group of `withProgram` with the address of the SHARED region in s8. -/
def prefetcher : Group := { demoGroup State.reset with s := (demoGroup State.reset).s.set 8 0x12000 }

/-- Its split. -/
def prefetcherSplit : Split :=
  { pc := 0x10000, mask := allLanes, lc := 0, hold := false, last := none, prev := 0, ready := 0, fetched := true }

/-- 32 bits at the address in s8. -/
def prefetchArgs : MArgs := { d := 0, x := 8, b := 6, off := 0, xk := .unif, ord := .none, scp := 0, hnt := 0 }

/-- The machine with the one way of partition 0 full of one line of partition 1, its group about to prefetch. -/
def State.prefetching : State :=
  { State.twoLinesOneKey (naRequest .ld 0x98) with
    tasks := [demoTask], groups := [prefetcher], cur := 3, nextPc := 0x10001 }

theorem runs_prefetching : Runs .prefetching prefetcher prefetcherSplit ⟨0xA4, Head.plain, .m prefetchArgs⟩ := by
  refine ⟨by decide, by decide, by decide, by decide⟩

theorem foreignLine_mem_prefetching : foreignLine ∈ State.prefetching.llc :=
  List.mem_cons_of_mem _ (List.mem_replicate.2 ⟨by decide, rfl⟩)

theorem foreignLine_not_mem_llcTouch : foreignLine ∉ (State.prefetching.llcTouch 0 0x12000).llc := by
  refine not_mem_llcTouch_of_victim (v := staleForeignLine) rfl ?_ (p := demoPart State.reset) rfl
    (llcFree_twoLinesOneKey (naRequest .ld 0x98)) (llcVictims_twoLinesOneKey (naRequest .ld 0x98)) ⟨rfl, rfl⟩ (by decide)
  rw [State.llcLine?, List.find?_eq_none]
  intro l hl
  rcases List.mem_cons.1 hl with rfl | hl
  · decide
  · rw [List.eq_of_mem_replicate hl]
    decide

/-- The address of the prefetch, and its page. -/
def prefetchAccess : LaneReq := { lane := 0, addr := 0x12000 }

/-- See `prefetchAccess`. -/
def prefetchPage : Page := { pa := 0x12000, read := true, write := true, exec := true, home := 0 }

/-- The prefetch is one access at the home. -/
theorem exec_prefetching :
    exec (.prf Head.plain prefetchArgs) .prefetching = .next (State.prefetching.done prefetcher prefetcherSplit
      ⟨0xA4, Head.plain, .m prefetchArgs⟩ (State.prefetching.llcTouch 0 0x12000) (some (State.prefetching.now + 1))) := by
  have hpage : State.prefetching.translate demoBlock.part demoBlock.ctx prefetchAccess.addr = some prefetchPage := by decide
  have hmatch : demoTask.match_ prefetchAccess.addr (prefetchAccess.addr + mSize 0xA4 prefetchArgs - 1) none = some (0, .shared) := by
    decide
  have hone := runs_prefetching.prf_of_one (b := demoBlock) (t := demoTask) (q := prefetchAccess) rfl rfl rfl (by decide)
    (by rw [hpage]; rfl)
  rw [hone, hmatch, show demoTask.hdr.det = false from rfl, prfLane_shared (by decide) hpage rfl rfl (by decide)]
  rfl

end Sys2Proof.Machine

namespace Sys2Proof.Claims

open Sys2Proof.Machine

/-- Refutes O18, in its first clause: a prefetch from a SHARED region that misses in full ways of the LLC displaces a stale line of
partition 1, and with it the lines that stand under its key and are not stale, which `MemoryKeeps` has stay (as for O19 and O20). -/
theorem not_prefetchFenceCommitAndCounterWait : ¬ Obligations.PrefetchFenceCommitAndCounterWait := by
  intro hall
  obtain ⟨hprefetch, -⟩ := hall .prefetching prefetcher prefetcherSplit Head.plain prefetchArgs demoBlock demoTask rfl rfl
  have hmem : State.prefetching.MemOk := (held_twoLinesOneKey .ld 0x98).mem
  obtain ⟨s', hexec, ⟨-, -, -, -, -, -, -, -, -, hstay⟩, -⟩ := (hprefetch runs_prefetching (by decide) hmem).2
    fun ⟨_, _, _, _, hp⟩ => Bool.false_ne_true hp
  rw [exec_prefetching] at hexec
  have hllc : (State.prefetching.llcTouch 0 0x12000).llc = s'.llc := by
    rw [← done_llc, Host.Outcome.next.inj hexec, done_llc]
  rcases hstay foreignLine foreignLine_mem_prefetching (by decide) with hl | hstale
  · exact foreignLine_not_mem_llcTouch (by rwa [hllc])
  · exact absurd hstale (by rw [show State.prefetching.llcStale foreignLine = false from rfl]; decide)

end Sys2Proof.Claims
end

section
/-! SUPPORT. The commands of a partition, case by case (R128, R135 to R137, R382, R385, R387, R430, R436, R437, R465): who issues them,
the context that they name, their checks in order and their effects. -/

namespace Sys2Proof.Claims

open Sys2Proof.Machine

@[simp] theorem stNotPermitted_eq : stNotPermitted = 3 := rfl

/-! ### The issuer and the context (R436) -/

/-- A command for partition `n`, which exists, from its VF or from PF0 in its name. -/
structure ForPart (s : State) (n : Nat) (p : Part) : Prop extends Issued s n where
  here : s.part? n = some p

/-- The same, with a context of the partition that A0 names. -/
structure OnCtx (s : State) (n : Nat) (p : Part) (x : Ctx) : Prop extends ForPart s n p where
  range : s.cmd.a0.toNat < 64
  found : s.ctx? n s.cmd.a0.toNat = some x

section
variable {s : State} {n : Nat} {p : Part} {x : Ctx} {ok : Bool} {f : Nat → Ctx → Host.Outcome State Fault Refusal}

theorem ForPart.entitled (h : ForPart s n p) : s.entitled .vf ok = if ok then .ok n else .error 2 := by
  obtain ⟨⟨hr, ht, hh⟩, hp⟩ := h
  rcases hh with ⟨hf, hv, h0⟩ | ⟨hf, hv, h0⟩ <;> cases ok <;> simp [State.entitled, State.issuer, ht, hr, hf, hv, h0, hp]

/-- A context's number out of range is BAD_ARG, like arguments that are not zero. -/
theorem ForPart.onCtx_out_of_range (h : ForPart s n p) (h64 : 64 ≤ s.cmd.a0.toNat) : s.onCtx ok f = refused s 2 := by
  cases ok <;> simp [State.onCtx, h.entitled, h64]

theorem ForPart.onCtx_none (h : ForPart s n p) (h64 : s.cmd.a0.toNat < 64) (hn : s.ctx? n s.cmd.a0.toNat = none) :
    s.onCtx true f = refused s 5 := by
  simp [State.onCtx, h.entitled, Nat.not_le.2 h64, hn]

theorem exists_onCtx (hok : ok = true) : ∃ g, s.onCtx ok f = s.onCtx true g := by subst hok; exact ⟨f, rfl⟩

/-- A command on a context goes on to its own checks and effect. -/
theorem OnCtx.run (h : OnCtx s n p x) (hok : ok = true) : s.onCtx ok f = f n x := by
  subst hok
  simp [State.onCtx, h.toForPart.entitled, Nat.not_le.2 h.range, h.found]

/-! ### SET_HANDLER (R382, R436) -/

/-- SET_HANDLER past its header: its checks, in their order. -/
theorem setHandler_eq (h : ForPart s n p) (h3 : s.cmd.a3 = 0) (h4 : s.cmd.a4 = 0) :
    exec .setHandler s =
      if s.cmd.a0 = 0 then done (s.putPart { p with handler := none }) 0
      else if 2 ^ 57 ≤ s.cmd.a0.toNat ∨ 2 ^ 57 < s.cmd.a1.toNat + s.cmd.a2.toNat then refused s 2
      else done (s.putPart { p with handler := some (s.cmd.a0.toNat, s.cmd.a1.toNat, s.cmd.a2.toNat) }) 0 := by
  simp [-Nat.reducePow, exec, execSetHandler, h.entitled, h.here, h3, h4]

/-! ### Contexts (R436, R462, R465) -/

/-- The context that CTX_CREATE makes. -/
def newCtx (s : State) (n : Nat) : Ctx :=
  { part := n, num := s.cmd.a0.toNat, root := s.cmd.a1, maps := [], watchdog := s.cmd.a2.toNat, clk := 0, debug := false, saved := [] }

/-- Every die of the partition has room for the save area of one context more. -/
def ctxRoom (s : State) (n : Nat) (p : Part) : Bool :=
  s.saveRoom n p.dies p.quota ((s.ctxs.filter fun y => y.part == n).length + 1)

/-- CTX_CREATE past its header: its checks, in their order. -/
theorem ctxCreate_eq (h : ForPart s n p) (h3 : s.cmd.a3 = 0) (h4 : s.cmd.a4 = 0) :
    exec .ctxCreate s =
      if 64 ≤ s.cmd.a0.toNat then refused s 2
      else if (s.ctx? n s.cmd.a0.toNat).isSome = true then refused s 6
      else if ctxRoom s n p = false then refused s 7
      else done { s with ctxs := s.ctxs ++ [newCtx s n] } p.genG := by
  simp [exec, execCtxCreate, h.entitled, h.here, h3, h4, ctxRoom, newCtx]
  rfl

/-- Every task of the context is done. -/
def CtxIdle (s : State) (n : Nat) (x : Ctx) : Prop := ∀ t ∈ s.tasks, t.part = n → t.ctx = x.num → t.run.phase = .done

theorem not_ctxIdle_iff : ¬ CtxIdle s n x ↔
    (s.tasks.any fun t => t.part == n && t.ctx == x.num && t.run.phase != Phase.done) = true := by
  simp [CtxIdle, and_assoc]

/-- CTX_DESTROY past its header: BUSY, the wait for the scrubber, its effect. -/
theorem ctxDestroy_eq [Decidable (CtxIdle s n x)] (h : OnCtx s n p x) (h1 : s.cmd.a1.toNat < 2) (h2 : s.cmd.a2 = 0)
    (h3 : s.cmd.a3 = 0) (h4 : s.cmd.a4 = 0) :
    exec .ctxDestroy s =
      if s.cmd.a1 = 0 ∧ ¬ CtxIdle s n x then refused s 4
      else if p.resident = some x.num ∧ s.bumpWaits p = true then waits s
      else done ((s.endCtx n x.num).afterCtx n x.num) 0 := by
  refine (h.run (by simp [h1, h2, h3, h4])).trans ?_
  simp only [not_ctxIdle_iff, h.here]
  simp

/-! ### Queues (R436, R439) -/

/-- The arguments of QUEUE_CREATE are in range. -/
def QueueArgs (s : State) : Prop :=
  s.cmd.a1.toNat < 16 ∧ s.cmd.a2.toNat % 4096 = 0 ∧ (∃ m < 16, s.cmd.a3.toNat = 2 ^ (m + 1)) ∧ 2 ≤ fld s.cmd.a4.toNat 16 8 ∧
    fld s.cmd.a4.toNat 16 8 ≤ 65

/-- The queue that QUEUE_CREATE makes. -/
def newQueue (s : State) (n : Nat) (x : Ctx) : Queue :=
  { part := n, ctx := x.num, num := s.cmd.a1.toNat, ring := s.cmd.a2.toNat, slots := s.cmd.a3.toNat, dev := bitOf s.cmd.a4.toNat 0,
    prio := fld s.cmd.a4.toNat 8 8, vec := fld s.cmd.a4.toNat 16 8, head := 0, tail := 0, stopped := false }

theorem not_queueArgs_iff : ¬ QueueArgs s ↔
    (16 ≤ s.cmd.a1.toNat || s.cmd.a2.toNat % 4096 != 0 || !((List.range 16).any fun i => s.cmd.a3.toNat == 2 ^ (i + 1)) ||
      fld s.cmd.a4.toNat 16 8 < 2 || 65 < fld s.cmd.a4.toNat 16 8) = true := by
  simp [QueueArgs, or_assoc, imp_iff_not_or]

/-- QUEUE_CREATE past its header: its checks, in their order. -/
theorem queueCreate_eq [Decidable (QueueArgs s)] (h : OnCtx s n p x) (h4 : s.cmd.a4.toNat < 2 ^ 24) (hz : fld s.cmd.a4.toNat 1 7 = 0) :
    exec .queueCreate s =
      if ¬ QueueArgs s then refused s 2
      else if (s.queue? n x.num s.cmd.a1.toNat).isSome = true then refused s 6
      else done { s with queues := s.queues ++ [newQueue s n x] } 0 := by
  refine (h.run (by simpa [hz] using h4)).trans ?_
  simp only [not_queueArgs_iff, newQueue]
  rfl

theorem queueDestroy_none (h : OnCtx s n p x) (ht : TailZero s) (hq : s.queue? n x.num s.cmd.a1.toNat = none) :
    exec .queueDestroy s = refused s (if 16 ≤ s.cmd.a1.toNat then 2 else 5) := by
  refine (h.run (by simp [ht])).trans ?_
  simp only [hq]
  split <;> rfl

/-- The queue is empty or has stopped, and every task of it is done. -/
def QueueIdle (s : State) (n : Nat) (x : Ctx) (q : Queue) : Prop :=
  (q.stopped = true ∨ q.tail ≤ q.head) ∧
    ∀ t ∈ s.tasks, t.part = n → t.ctx = x.num → t.queue = q.num → t.run.phase = .done

theorem not_queueIdle_iff {q : Queue} : ¬ QueueIdle s n x q ↔
    (s.tasks.any (fun t => (t.part == n && t.ctx == x.num && t.queue == q.num) && t.run.phase != Phase.done) ||
      (!q.stopped && q.head < q.tail)) = true := by
  simp only [QueueIdle, not_and_or]
  rw [or_comm]
  simp [and_assoc]

/-- The module without a queue and its tasks. -/
def withoutQueue (s : State) (n : Nat) (x : Ctx) (q : Queue) : State :=
  { s with queues := s.queues.filter fun y => !(y.part == n && y.ctx == x.num && y.num == q.num)
           tasks := s.tasks.filter fun t => !(t.part == n && t.ctx == x.num && t.queue == q.num) }

theorem withoutQueue_queue? (q : Queue) : (withoutQueue s n x q).queue? n x.num q.num = none := by
  simp only [State.queue?, withoutQueue, List.find?_eq_none, List.mem_filter]
  rintro y ⟨-, hy⟩
  simpa [imp_iff_not_or, or_assoc] using hy

theorem queueDestroy_some {q : Queue} [Decidable (QueueIdle s n x q)] (h : OnCtx s n p x) (ht : TailZero s)
    (hq : s.queue? n x.num s.cmd.a1.toNat = some q) :
    exec .queueDestroy s = if ¬ QueueIdle s n x q then refused s 4 else done (withoutQueue s n x q) 0 := by
  refine (h.run (by simp [ht])).trans ?_
  simp only [not_queueIdle_iff, hq]
  rfl

/-! ### Mappings (R128, R135, R136, R140, R436) -/

theorem map_badArg (h : OnCtx s n p x) (hm : Mapping.of s.cmd = none) : exec .map s = refused s 2 :=
  (h.run rfl).trans (by simp [hm])

/-- MAP with a mapping: its checks, in their order. -/
theorem map_eq {m : Mapping} (h : OnCtx s n p x) (hm : Mapping.of s.cmd = some m) :
    exec .map s =
      if m.home = 63 ∧ p.tierAt m.to_ m.len = true then refused s (Config.refusedStatus 3).toNat
      else if ∃ y ∈ x.maps, meet m.from_ m.len y.from_ y.len = true then refused s 6
      else done (s.putCtx { x with maps := x.maps ++ [m] }) 0 :=
  (h.run rfl).trans (by simp [hm, h.here])

/-- The range of UNMAP and INVAL is some pages of the smallest size. -/
def RangeArgs (s : State) : Prop := s.cmd.a2 ≠ 0 ∧ s.cmd.a1.toNat % 65536 = 0 ∧ s.cmd.a2.toNat % 65536 = 0

/-- The range takes from each mapping of the context whole pages of its size. -/
def WholePages (s : State) (x : Ctx) : Prop :=
  ∀ m ∈ x.maps, meet s.cmd.a1.toNat s.cmd.a2.toNat m.from_ m.len = true →
    s.cmd.a1.toNat % m.size = 0 ∧ s.cmd.a2.toNat % m.size = 0

/-- Whether an address of a context lies in the range. -/
def inRange (s : State) (x : Ctx) (k va : Nat) : Bool :=
  k == x.num && s.cmd.a1.toNat ≤ va && va < s.cmd.a1.toNat + s.cmd.a2.toNat

/-- The context without the pages of the range. -/
def unmapped (s : State) (x : Ctx) : State :=
  s.putCtx { x with maps := x.maps.flatMap fun m => m.cut s.cmd.a1.toNat s.cmd.a2.toNat }

theorem not_rangeArgs_iff : ¬ RangeArgs s ↔
    (s.cmd.a2.toNat == 0 || s.cmd.a1.toNat % 65536 != 0 || s.cmd.a2.toNat % 65536 != 0) = true := by
  simp [RangeArgs, ← BitVec.toNat_inj, or_assoc, imp_iff_not_or]

theorem not_wholePages_iff : ¬ WholePages s x ↔
    ((x.maps.filter fun m => meet s.cmd.a1.toNat s.cmd.a2.toNat m.from_ m.len).any fun m =>
      s.cmd.a1.toNat % m.size != 0 || s.cmd.a2.toNat % m.size != 0) = true := by
  simp [WholePages, imp_iff_not_or]

/-- UNMAP past its header: its check, the wait, its effect. -/
theorem unmap_eq [Decidable (RangeArgs s)] [Decidable (WholePages s x)] (h : OnCtx s n p x) (h3 : s.cmd.a3 = 0) (h4 : s.cmd.a4 = 0) :
    exec .unmap s =
      if ¬ RangeArgs s ∨ ¬ WholePages s x then refused s 2
      else if (unmapped s x).unsettled n (inRange s x) = true then waits (unmapped s x)
      else done ((unmapped s x).llcClean n) 0 := by
  refine (h.run (by simp [h3, h4])).trans ?_
  simp only [not_rangeArgs_iff, not_wholePages_iff, ← Bool.or_eq_true]
  rfl

/-- INVAL of a VF past its header: its check, the wait, its completion. -/
theorem invalCommand_vf_eq [Decidable (RangeArgs s)] (h : OnCtx s n p x) (hf : s.cmd.fn ≠ 0) (h3 : s.cmd.a3 = 0) (h4 : s.cmd.a4 = 0) :
    exec .invalCommand s =
      if ¬ RangeArgs s then refused s 2
      else if s.unsettled n (inRange s x) = true then waits s else done (s.llcClean n) 0 := by
  obtain ⟨hfn, hv, h0⟩ := h.head.resolve_right fun e => hf e.1
  have he : s.entitled .any (s.cmd.a3 == 0 && s.cmd.a4 == 0) = .ok n := by
    simp [State.entitled, h.heat, h3, h4, issuer_any h.rsvd hv h0, hfn]
  show execInvalCommand s = _
  simp only [execInvalCommand, he, not_rangeArgs_iff, beq_false_of_ne hf, h.found]
  rfl

/-- What an invalidation waits for: an access that translated an address of the range, or a write-back of the partition. -/
theorem unsettled_iff (range : Nat → Nat → Bool) : s.unsettled n range = true ↔
    s.inUse n range = true ∨ ∃ m ∈ s.away, ∃ k y, m.kind = .wback k y ∧ y.part = n := by
  rw [State.unsettled, Bool.or_eq_true, State.backs, List.any_eq_true]
  refine or_congr_right (exists_congr fun m => and_congr_right fun _ => ?_)
  cases m.kind <;> simp

/-! ### Packets (R137, R437, R441) -/

/-- An answer to a packet that the partition has: the wait for the packet's record, the effect. -/
theorem answerCmd_some {again : Bool} {t : State} (h : ForPart s n p) (h1 : s.cmd.a1 = 0) (ht : TailZero s)
    (ha : s.answer n s.cmd.a0.toNat again = some t) :
    s.answerCmd again = if s.unwritten s.cmd.a0.toNat = true then waits s else done t 0 := by
  simp [State.answerCmd, h.entitled, h1, ht, ha]

/-- A partition answers the packets that it has. -/
theorem answer_none {k : Nat} (again : Bool) (hp : s.packetOf n k = none) (hc : s.pausedOf n k = none) : s.answer n k again = none := by
  simp [State.answer, hp, hc]

/-- An answer to a packet that the partition does not have (R437). -/
theorem answerCmd_none {again : Bool} (h : ForPart s n p) (h1 : s.cmd.a1 = 0) (ht : TailZero s)
    (hp : s.packetOf n s.cmd.a0.toNat = none) (hc : s.pausedOf n s.cmd.a0.toNat = none) :
    s.answerCmd again = refused s (s.noPacket s.cmd.a0.toNat) := by
  simp [State.answerCmd, h.entitled, h1, ht, answer_none again hp hc]

/-- NOT_PERMITTED for a packet of some partition. -/
theorem noPacket_of_mem {y : Part} {k : Nat} (hy : y ∈ s.parts) (hp : (s.packetOf y.num k).isSome = true) : s.noPacket k = 3 :=
  if_pos (List.any_eq_true.2 ⟨y, hy, by simp [hp]⟩)

/-- NOT_FOUND for a packet that no partition has. -/
theorem noPacket_of_none {k : Nat} (hn : ∀ y ∈ s.parts, s.packetOf y.num k = none ∧ s.pausedOf y.num k = none) :
    s.noPacket k = 5 := by
  refine if_neg ?_
  simp only [List.any_eq_true, not_exists, not_and]
  intro y hy
  obtain ⟨hp, hc⟩ := hn y hy
  simp [hp, hc]

/-! ### Debuggers and apertures (R385, R387, R430, R436) -/

theorem debugAttach_done (h : OnCtx s n p x) (h1 : s.cmd.a1 = 0) (ht : TailZero s) :
    exec .debugAttach s = done (s.putCtx { x with debug := true }) 0 :=
  h.run (by simp [h1, ht])

/-- The frozen groups of a context. -/
def frozenOf (s : State) (n : Nat) (x : Ctx) : List Group :=
  s.groups.filter fun g => g.frozen && (match s.block? g.block with
    | some b => b.part == n && b.ctx == x.num
    | none => false)

theorem debugDetach_eq (h : OnCtx s n p x) (h1 : s.cmd.a1 = 0) (ht : TailZero s) :
    exec .debugDetach s = done ((frozenOf s n x).foldl (fun s g => s.thaw g) (s.putCtx { x with debug := false })) 0 :=
  h.run (by simp [h1, ht])

theorem frozenOf_of_not_frozen (hf : ∀ g ∈ s.groups, g.frozen = false) : frozenOf s n x = [] :=
  List.filter_eq_nil_iff.2 fun g hg => by simp [hf g hg]

theorem frozenOf_of_singleton {g : Group} {b : Block} (hg : s.groups = [g]) (hf : g.frozen = true) (hb : s.block? g.block = some b)
    (hp : b.part = n) (hc : b.ctx = x.num) : frozenOf s n x = [g] := by
  simp [frozenOf, hg, hf, hb, hp, hc]

/-- No die, core or slot has such a number. -/
theorem frozenAt_badArg {k : Nat} (hk : 2 ^ 15 ≤ k ∨ 48 ≤ fld k 5 6) : s.frozenAt n k = .error 2 :=
  if_pos (by simpa [-Nat.reducePow] using hk)

theorem debugResume_error {e : Nat} (h : ForPart s n p) (h1 : s.cmd.a1 = 0) (ht : TailZero s)
    (hg : s.frozenAt n s.cmd.a0.toNat = .error e) : exec .debugResume s = refused s e := by
  simp [exec, execDebugResume, h.entitled, h1, ht, hg]

theorem debugResume_done {g : Group} (h : ForPart s n p) (h1 : s.cmd.a1 = 0) (ht : TailZero s)
    (hg : s.frozenAt n s.cmd.a0.toNat = .ok g) : exec .debugResume s = done (s.thaw g) 0 := by
  simp [exec, execDebugResume, h.entitled, h1, ht, hg]

theorem debugWindow_error {e : Nat} (h : ForPart s n p) (h3 : s.cmd.a3.toNat < 2) (h4 : s.cmd.a4 = 0)
    (hg : s.frozenAt n s.cmd.a0.toNat = .error e) : exec .debugWindow s = refused s e := by
  simp [exec, execDebugWindow, h.entitled, h3, h4, hg]

/-- A row past the group's registers, or that the window does not list. -/
theorem debugWindow_badArg {g : Group} (h : ForPart s n p) (h3 : s.cmd.a3.toNat < 2) (h4 : s.cmd.a4 = 0)
    (hg : s.frozenAt n s.cmd.a0.toNat = .ok g)
    (hi : (s.cmd.a1.toNat < 0x100 ∧ g.nregs ≤ s.cmd.a1.toNat) ∨
      (s.cmd.a3 = 0 ∧ (g.viewAt s.now).window s.cmd.a1.toNat = none)) : exec .debugWindow s = refused s 2 := by
  rcases hi with hi | ⟨hz, hw⟩
  · simp [exec, execDebugWindow, h.entitled, h3, h4, hg, hi]
  · simp [exec, execDebugWindow, h.entitled, h4, hg, hz, hw]

theorem debugWindow_read {g : Group} {r : Row} (h : ForPart s n p) (h3 : s.cmd.a3 = 0) (h4 : s.cmd.a4 = 0)
    (hg : s.frozenAt n s.cmd.a0.toNat = .ok g) (hi : s.cmd.a1.toNat < 0x100 → s.cmd.a1.toNat < g.nregs)
    (hw : (g.viewAt s.now).window s.cmd.a1.toNat = some r) :
    exec .debugWindow s = done (s.hostWrite s.cmd.fn s.cmd.a2.toNat (r.flatMap fun y => bytesOf 4 y.toNat)) 0 := by
  have hi' : ¬ (s.cmd.a1.toNat < 0x100 ∧ g.nregs ≤ s.cmd.a1.toNat) := fun e => (hi e.1).not_ge e.2
  simp [exec, execDebugWindow, h.entitled, h3, h4, hg, hi', hw]

/-- The row that DEBUG_WINDOW reads from the memory of the function that issues it (log 29). -/
def hostRow (s : State) : Row := mkRow fun L => wd (leOf (((s.hostRead s.cmd.fn s.cmd.a2.toNat 384).drop (4 * L)).take 4))

theorem debugWindow_write {g : Group} {w : Write} (h : ForPart s n p) (h3 : s.cmd.a3 = 1) (h4 : s.cmd.a4 = 0)
    (hg : s.frozenAt n s.cmd.a0.toNat = .ok g) (hi : s.cmd.a1.toNat < 0x100 → s.cmd.a1.toNat < g.nregs)
    (hw : windowWrite s.cmd.a1.toNat (hostRow s) = some w) :
    exec .debugWindow s = done (s.putGroup { g.push s.now g.seq w with
      seq := g.seq + 1
      poison := if s.cmd.a1.toNat < 0x100 then g.poison.filter (fun r => r != s.cmd.a1.toNat) else g.poison }) 0 := by
  have hi' : ¬ (s.cmd.a1.toNat < 0x100 ∧ g.nregs ≤ s.cmd.a1.toNat) := fun e => (hi e.1).not_ge e.2
  rw [hostRow] at hw
  simp [exec, execDebugWindow, h.entitled, h3, h4, hg, hi', hw]

/-- APERTURE past its header: its check, its effect. -/
theorem aperture_eq (h : OnCtx s n p x) (ht : TailZero s) :
    exec .aperture s =
      if s.cmd.a1.toNat % 2 ^ 32 ≠ 0 then refused s 2
      else done (s.putFn s.cmd.fn { s.fn s.cmd.fn with apert := some (n, x.num, s.cmd.a1.toNat) }) 0 :=
  (h.run (by simp [ht])).trans (by simp)

end

end Sys2Proof.Claims
end

section
/-! SUPPORT. The statement on the commands of a partition, part by part. -/

namespace Sys2Proof.Claims

open Sys2Proof.Machine

/-! ### Effects -/

theorem partitionCommands : PartitionCommands := by
  classical
  intro s n p x hi hp
  have h : ForPart s n p := ⟨hi, hp⟩
  refine ⟨?setHandler, ?noHandler, ?ctxCreate, ?ctxDestroy, ?queueCreate, ?queueDestroy, ?map, ?unmap, ?inval, fun r => unsettled_iff r,
    ?answer, ?foreign, ?attach, ?detach, ?resume, ?windowRead, ?windowWrite, ?aperture⟩
  case setHandler =>
    intro ⟨h3, h4⟩ h0 ha hr
    rw [setHandler_eq h h3 h4, if_neg h0, if_neg (not_or.2 ⟨ha.not_ge, hr.not_gt⟩)]
  case noHandler =>
    intro ⟨h3, h4⟩ h0
    rw [setHandler_eq h h3 h4, if_pos h0]
  case ctxCreate =>
    intro new ⟨h3, h4⟩ h0 hn hr
    rw [ctxCreate_eq h h3 h4, if_neg h0.not_ge, if_neg (by simp [hn])]
    exact if_neg (ne_false_of_eq_true hr)
  case ctxDestroy =>
    intro ⟨h0, hx, _⟩ h2 ⟨h3, h4⟩
    have hc : OnCtx s n p x := ⟨h, h0, hx⟩
    refine ⟨fun hw hb => ?_, fun h1 hidle => ?_⟩
    · have h1 : s.cmd.a1.toNat < 2 := by rcases hw with e | ⟨e, -⟩ <;> simp [e]
      rw [ctxDestroy_eq hc h1 h2 h3 h4, if_neg, if_neg]
      · exact fun ⟨hr, hbump⟩ => hb.elim (· hr) (ne_true_of_eq_false · hbump)
      · rcases hw with e | ⟨-, hidle⟩
        · simp [e]
        · exact fun e => e.2 hidle
    · rw [ctxDestroy_eq hc (by simp [h1]) h2 h3 h4]
      exact if_pos ⟨h1, hidle⟩
  case queueCreate =>
    intro new ⟨h0, hx, _⟩ h1 h2 h3 h4 hz hv hv' hq
    rw [queueCreate_eq ⟨h, h0, hx⟩ h4 hz, if_neg (not_not.2 ⟨h1, h2, h3, hv, hv'⟩), if_neg (by simp [hq])]
    rfl
  case queueDestroy =>
    intro q ⟨h0, hx, _⟩ h2 ⟨h3, h4⟩ hq _
    rw [queueDestroy_some ⟨h, h0, hx⟩ ⟨h2, h3, h4⟩ hq]
    exact ⟨fun hidle => ⟨_, if_neg (not_not.2 hidle), withoutQueue_queue? q⟩, fun hidle => if_pos hidle⟩
  case map =>
    intro m ⟨h0, hx, _⟩ hm
    rw [map_eq ⟨h, h0, hx⟩ hm]
    refine ⟨fun hh ht => if_pos ⟨hh, ht⟩, fun ht hy => ?_⟩
    rw [if_neg fun e => ne_true_of_eq_false (ht e.1) e.2, if_neg (by simpa using hy)]
  case unmap =>
    intro ⟨h0, hx, _⟩ ⟨h3, h4⟩ h2 ha hk hw t range
    rw [unmap_eq ⟨h, h0, hx⟩ h3 h4, if_neg (by simpa using ⟨⟨h2, ha, hk⟩, hw⟩)]
    exact ⟨fun hu => if_neg (ne_true_of_eq_false hu), fun hu => if_pos hu⟩
  case inval =>
    intro hf ⟨h0, hx, _⟩ ⟨h3, h4⟩ h2 ha hk range
    rw [invalCommand_vf_eq ⟨h, h0, hx⟩ hf h3 h4, if_neg (not_not.2 ⟨h2, ha, hk⟩)]
    exact ⟨fun hu => if_neg (ne_true_of_eq_false hu), fun hu => if_pos hu⟩
  case answer =>
    intro t h1 h2 ⟨h3, h4⟩
    exact ⟨answerCmd_some h h1 ⟨h2, h3, h4⟩, answerCmd_some h h1 ⟨h2, h3, h4⟩⟩
  case foreign =>
    intro y hy h1 h2 ⟨h3, h4⟩ hq hc hs
    rw [← noPacket_of_mem hy hs]
    exact ⟨answerCmd_none h h1 ⟨h2, h3, h4⟩ hq hc, answerCmd_none h h1 ⟨h2, h3, h4⟩ hq hc⟩
  case attach => exact fun ⟨h0, hx, _⟩ h1 h2 ⟨h3, h4⟩ => debugAttach_done ⟨h, h0, hx⟩ h1 ⟨h2, h3, h4⟩
  case detach =>
    intro ⟨h0, hx, _⟩ h1 h2 ⟨h3, h4⟩
    rw [debugDetach_eq ⟨h, h0, hx⟩ h1 ⟨h2, h3, h4⟩]
    refine ⟨fun hf => ?_, fun g b hg hf hb hbp hbc => ?_⟩
    · rw [frozenOf_of_not_frozen hf, List.foldl_nil]
    · rw [frozenOf_of_singleton hg hf hb hbp hbc, List.foldl_cons, List.foldl_nil]
  case resume => exact fun g h1 h2 ⟨h3, h4⟩ hg => debugResume_done h h1 ⟨h2, h3, h4⟩ hg
  case windowRead => exact fun g r ⟨h3, h4⟩ hg hi hw => debugWindow_read h h3 h4 hg hi hw
  case windowWrite => exact fun g w h3 h4 hg hi hw => debugWindow_write h h3 h4 hg hi hw
  case aperture =>
    intro ⟨h0, hx, _⟩ h2 ⟨h3, h4⟩ h1
    rw [aperture_eq ⟨h, h0, hx⟩ ⟨h2, h3, h4⟩, if_neg (not_not.2 h1)]

/-! ### Refusals -/

/-- The commands whose A0 names a context. -/
def ctxCommands : List Instr := [.ctxDestroy, .queueCreate, .queueDestroy, .map, .unmap, .debugAttach, .debugDetach, .aperture]

/-- With A1 to A4 zero each of them looks its context up before anything else. -/
theorem exec_ctxCommands {s : State} {i : Instr} (hi : i ∈ ctxCommands) (h1 : s.cmd.a1 = 0) (ht : TailZero s) :
    ∃ f, exec i s = s.onCtx true f := by
  obtain ⟨h2, h3, h4⟩ := ht
  simp only [ctxCommands, List.mem_cons, List.not_mem_nil, or_false] at hi
  rcases hi with rfl | rfl | rfl | rfl | rfl | rfl | rfl | rfl
  · exact exists_onCtx (by simp [h1, h2, h3, h4])
  · exact exists_onCtx (by simp [h4, fld])
  · exact exists_onCtx (by simp [h2, h3, h4])
  · exact ⟨_, rfl⟩
  · exact exists_onCtx (by simp [h3, h4])
  · exact exists_onCtx (by simp [h1, h2, h3, h4])
  · exact exists_onCtx (by simp [h1, h2, h3, h4])
  · exact exists_onCtx (by simp [h2, h3, h4])

theorem refusalsOfAPartition : RefusalsOfAPartition := by
  classical
  intro s n p x hi hp
  have h : ForPart s n p := ⟨hi, hp⟩
  refine ⟨?lookup, ?setHandler, ?ctxCreate, ?queueCreate, ?queueDestroy, ?mapNone, ?map, ?unmap, ?answer, ?frozen,
    fun hk => frozenAt_badArg hk, ?window, ?aperture⟩
  case lookup =>
    intro ⟨h1, ht⟩ i hi
    obtain ⟨f, hf⟩ := exec_ctxCommands hi h1 ht
    rw [hf]
    exact ⟨fun h64 => h.onCtx_out_of_range h64, fun h64 hn => h.onCtx_none h64 hn⟩
  case setHandler =>
    intro ⟨h3, h4⟩ h0 hb
    rw [setHandler_eq h h3 h4, if_neg h0, if_pos hb]
  case ctxCreate =>
    intro ⟨h3, h4⟩
    rw [ctxCreate_eq h h3 h4]
    refine ⟨fun h0 => if_pos h0, fun h0 hs => ?_, fun h0 hn hr => ?_⟩
    · rw [if_neg h0.not_ge, if_pos hs]
    · rw [if_neg h0.not_ge, if_neg (by simp [hn])]
      exact if_pos hr
  case queueCreate =>
    intro ⟨h0, hx, _⟩ h4 hz vec good
    rw [queueCreate_eq ⟨h, h0, hx⟩ h4 hz]
    refine ⟨fun hg => if_pos hg, fun hg hs => ?_⟩
    rw [if_neg (not_not.2 (show QueueArgs s from hg)), if_pos hs]
  case queueDestroy => exact fun ⟨h0, hx, _⟩ h2 ⟨h3, h4⟩ hq => queueDestroy_none ⟨h, h0, hx⟩ ⟨h2, h3, h4⟩ hq
  case mapNone => exact fun ⟨h0, hx, _⟩ hm => map_badArg ⟨h, h0, hx⟩ hm
  case map =>
    intro m ⟨h0, hx, _⟩ hm ht hy
    rw [map_eq ⟨h, h0, hx⟩ hm, if_neg fun e => ne_true_of_eq_false (ht e.1) e.2, if_pos hy]
  case unmap =>
    intro ⟨h0, hx, _⟩ ⟨h3, h4⟩ hb
    rw [unmap_eq ⟨h, h0, hx⟩ h3 h4, if_pos]
    by_contra hgood
    obtain ⟨⟨h2, ha, hk⟩, hw⟩ : RangeArgs s ∧ WholePages s x := by simpa [not_or] using hgood
    rcases hb with e | e | e | ⟨m, hm, hmeet, e⟩
    · exact h2 e
    · exact e ha
    · exact e hk
    · exact e.elim (· (hw m hm hmeet).1) (· (hw m hm hmeet).2)
  case answer =>
    intro ⟨h1, ht⟩ hq hc hn
    rw [← noPacket_of_none hn]
    exact ⟨answerCmd_none h h1 ht hq hc, answerCmd_none h h1 ht hq hc⟩
  case frozen =>
    intro e he
    exact ⟨fun ⟨h1, ht⟩ => debugResume_error h h1 ht he, fun h3 h4 => debugWindow_error h h3 h4 he⟩
  case window => exact fun g hg h3 h4 hw => debugWindow_badArg h h3 h4 hg hw
  case aperture =>
    intro ⟨h0, hx, _⟩ h2 ⟨h3, h4⟩ h1
    rw [aperture_eq ⟨h, h0, hx⟩ ⟨h2, h3, h4⟩, if_pos h1]

/-- Settles O49: each command past its header is a chain of checks in front of its effect, and each clause picks one link. -/
theorem commandsOfAPartition : Obligations.CommandsOfAPartition := ⟨partitionCommands, refusalsOfAPartition⟩

end Sys2Proof.Claims
end

section
/-! SUPPORT. Rounding and Encode in the IEEE-policy formats, F16, BF16, F32 and F64 among them (R154, R157 to R165). -/

namespace Sys2Proof.Machine

variable {F : Fmt} {c : Rc} {fl : Flags} {s : Bool} {n d : Nat} {e : Int}

/-! ### Exact values and flags -/

@[simp] theorem Num.isFin_fin : (Num.fin s n d e).isFin = true := rfl
@[simp] theorem Num.isZero_fin : (Num.fin s n d e).isZero = (n == 0) := rfl
@[simp] theorem Num.isNan_fin : (Num.fin s n d e).isNan = false := rfl
@[simp] theorem Num.sign_fin : (Num.fin s n d e).sign = s := rfl
@[simp] theorem Num.isFin_inf : (Num.inf s).isFin = false := rfl
@[simp] theorem Num.isZero_inf : (Num.inf s).isZero = false := rfl
@[simp] theorem Num.isNan_inf : (Num.inf s).isNan = false := rfl
@[simp] theorem Num.sign_inf : (Num.inf s).sign = s := rfl
@[simp] theorem Num.isFin_nan : Num.nan.isFin = false := rfl
@[simp] theorem Num.isZero_nan : Num.nan.isZero = false := rfl
@[simp] theorem Num.isNan_nan : Num.nan.isNan = true := rfl

theorem Num.eq_nan_of_isNan {x : Num} (h : x.isNan = true) : x = .nan := by
  cases x with
  | nan => rfl
  | inf _ => cases h
  | fin _ _ _ _ => cases h

theorem Num.exists_of_isFin {x : Num} (h : x.isFin = true) : ∃ s n d e, x = .fin s n d e := by
  cases x with
  | fin s n d e => exact ⟨s, n, d, e, rfl⟩
  | nan => cases h
  | inf _ => cases h

theorem Num.isNan_of_isFin {x : Num} (h : x.isFin = true) : x.isNan = false := by
  obtain ⟨s, n, d, e, rfl⟩ := Num.exists_of_isFin h
  rfl

@[simp] theorem Flags.or_none (f : Flags) : f.or Flags.none = f := by simp [Flags.or, Flags.none]
@[simp] theorem Flags.none_or (f : Flags) : Flags.none.or f = f := by simp [Flags.or, Flags.none]
@[simp] theorem Flags.bits_none : Flags.none.bits = 0 := rfl

/-! ### The formats -/

/-- A format of R154's shape, with zeros, subnormals, infinities and NaNs. -/
def Fmt.IsIeee (F : Fmt) : Prop := ∃ eb fb bias, F = ieee eb fb bias

theorem isIeee_of_mem (hF : F ∈ [f32, f64]) : F.IsIeee := by
  simp only [List.mem_cons, List.not_mem_nil, or_false] at hF
  obtain rfl | rfl := hF <;> exact ⟨_, _, _, rfl⟩

theorem isIeee_f32 : f32.IsIeee := ⟨_, _, _, rfl⟩

theorem kind_of_isIeee (hF : F.IsIeee) : F.kind = 0 := by
  obtain ⟨eb, fb, bias, rfl⟩ := hF
  rfl

theorem maxIdx_of_isIeee (hF : F.IsIeee) : F.maxIdx = (2 ^ F.ebits - 1) * 2 ^ F.fbits - 1 := by
  obtain ⟨eb, fb, bias, rfl⟩ := hF
  simp [Fmt.maxIdx, Fmt.topIdx, ieee]

theorem decode_of_isIeee (hF : F.IsIeee) (code : Nat) : F.decode code = F.decodeFloat code := by
  simp [Fmt.decode, kind_of_isIeee hF]

/-! ### Results that need no rounding -/

section
variable (hF : F.IsIeee)
include hF

theorem fOut_nan : fOut F .nan fl c = Claims.signedCode F F.nanCode false fl := by
  obtain ⟨eb, fb, bias, rfl⟩ := hF
  simp [fOut, Fmt.encode, Fmt.roundFloat, ieee, Claims.signedCode]

theorem fOut_inf : fOut F (.inf s) fl c = Claims.signedCode F F.infIdx s fl := by
  obtain ⟨eb, fb, bias, rfl⟩ := hF
  cases s <;> simp [fOut, Fmt.encode, Fmt.roundFloat, ieee, Claims.signedCode, Fmt.signed_]

theorem fOut_zero : fOut F (.fin s 0 d e) fl c = Claims.signedCode F 0 s fl := by
  obtain ⟨eb, fb, bias, rfl⟩ := hF
  cases s <;> simp [fOut, Fmt.encode, Fmt.roundFloat, ieee, Claims.signedCode, Fmt.signed_]

theorem encode_zero_flags : (F.encode (.fin s 0 d e) c).2 = Flags.none := by
  rw [Fmt.encode, kind_of_isIeee hF]
  obtain ⟨eb, fb, bias, rfl⟩ := hF
  simp [Fmt.roundFloat, ieee]

end

/-- One is exact: its fraction above the lower neighbour is zero, so no mode is asked. -/
theorem fOut_one : fOut f32 (.ofInt 1) Flags.none c = Claims.signedCode f32 0x3F800000 false {} := by rfl

theorem fOut_nan_of_integer (hF : F.kind = 1) (nv : Bool) :
    fOut F .nan { nv := nv } c = { x := 0, fl := ({ nv := true } : Flags).bits } := by
  simp [fOut, Fmt.encode, hF, Fmt.roundInteger, Flags.or, dw]

theorem fOut_inf_of_integer (hF : F.kind = 1) (neg : Bool) :
    fOut F (.inf neg) Flags.none c =
      { x := dw (truncInt (if neg then F.bounds.1 else F.bounds.2) F.width), fl := ({ nv := true } : Flags).bits } := by
  simp [fOut, Fmt.encode, hF, Fmt.roundInteger]

/-! ### Sources -/

/-- What a finite code can decode to, as ± n × 2^e (R159), and the code of a zero. -/
structure Fmt.Holds (F : Fmt) (code : Nat) (s : Bool) (n : Nat) (e : Int) : Prop where
  num  : n < 2 ^ (F.fbits + 1)
  low  : 1 - (F.bias : Int) - F.fbits ≤ e
  high : e < (2 ^ F.ebits : Nat) - (F.bias : Int) - F.fbits
  zero : n = 0 → code % 2 ^ F.width = if s then 2 ^ (F.width - 1) else 0

theorem holds_of_decodeFloat (hF : F.IsIeee) {code : Nat} (h : F.decodeFloat code = .fin s n d e) :
    d = 1 ∧ F.Holds code s n e := by
  obtain ⟨eb, fb, bias, rfl⟩ := hF
  have hp : 0 < 2 ^ fb := by positivity
  have hp' : 2 ^ (fb + 1) = 2 * 2 ^ fb := pow_succ' 2 fb
  have hE : code % 2 ^ (eb + fb) / 2 ^ fb < 2 ^ eb :=
    Nat.div_lt_of_lt_mul (by rw [← pow_add, add_comm fb]; exact Nat.mod_lt _ (by positivity))
  have hfr : code % 2 ^ (eb + fb) % 2 ^ fb < 2 ^ fb := Nat.mod_lt _ hp
  have hparts := Nat.div_add_mod (code % 2 ^ (eb + fb)) (2 ^ fb)
  have hsign : code % 2 ^ (eb + fb + 1) = code % 2 ^ (eb + fb) + 2 ^ (eb + fb) * (code / 2 ^ (eb + fb) % 2) := Nat.mod_pow_succ
  have hw : 1 + eb + fb - 1 = eb + fb := by omega
  simp only [Fmt.decodeFloat, ieee, Fmt.idxVal, bitOf, Bool.true_and, Bool.not_false, Bool.and_true, beq_self_eq_true, if_true,
    beq_iff_eq, hw] at h
  generalize code % 2 ^ (eb + fb) = m at *
  generalize m / 2 ^ fb = E at *
  generalize m % 2 ^ fb = fr at *
  split at h
  · split at h <;> cases h
  split at h
  next h0 =>
    injection h with hs hn hd he
    refine ⟨hd.symm, by simp only [ieee]; omega, by simp only [ieee]; omega, by simp only [ieee]; omega, fun hz => ?_⟩
    rw [h0, hn, hz] at hparts
    rw [ieee, hw, ← hs, show 1 + eb + fb = eb + fb + 1 by omega, hsign, ← hparts, Nat.testBit_eq_decide_div_mod_eq]
    obtain h2 | h2 := Nat.mod_two_eq_zero_or_one (code / 2 ^ (eb + fb)) <;> simp [h2]
  next h0 =>
    injection h with hs hn hd he
    exact ⟨hd.symm, by simp only [ieee]; omega, by simp only [ieee]; omega, by simp only [ieee]; omega, fun hz => by omega⟩

theorem exists_of_isFin (hF : F.IsIeee) {x : Dword} (h : (fv F x).isFin = true) :
    ∃ s n e, fv F x = .fin s n 1 e ∧ F.Holds x.toNat s n e := by
  obtain ⟨s, n, d, e, hx⟩ := Num.exists_of_isFin h
  obtain ⟨rfl, hh⟩ := holds_of_decodeFloat hF hx
  exact ⟨s, n, e, hx, hh⟩

theorem sNan_of_not_isNan {x : Dword} (h : (fv F x).isNan = false) : sNan F x = false := by simp [sNan, h]

/-! ### Pick (R162), mode by mode -/

section
variable {r den : Nat} {odd : Bool}

theorem pickHi_rne (h : c.mode = 0) : pickHi r den odd s c = (decide (den < 2 * r) || (den == 2 * r && odd)) := by
  simp only [pickHi, h]

theorem pickHi_rtz (h : c.mode = 1) : pickHi r den odd s c = false := by
  simp only [pickHi, h]

theorem pickHi_rup (h : c.mode = 2) : pickHi r den odd s c = !s := by
  simp only [pickHi, h]

theorem pickHi_rdn (h : c.mode = 3) : pickHi r den odd s c = s := by
  simp only [pickHi, h]

theorem pickHi_stochastic (h : 4 ≤ c.mode) : pickHi r den odd s c = decide (c.g < r * 2 ^ 24 / den) := by
  obtain ⟨k, hk⟩ := Nat.exists_eq_add_of_le' h
  simp only [pickHi, hk]

/-- Where the fraction is under half of 2^-24 of the spacing, the mode and the sign alone decide. -/
theorem pickHi_small (hr : r * 2 ^ 25 < den) :
    pickHi r den false s c = (c.mode == 2 && !s || c.mode == 3 && s) := by
  have h1 : ¬ den < 2 * r := by omega
  have hlt : r * 2 ^ 24 < den := (Nat.mul_le_mul_left r (Nat.pow_le_pow_right two_pos (Nat.le_succ 24))).trans_lt hr
  have h0 : r * 2 ^ 24 / den = 0 := Nat.div_eq_of_lt hlt
  obtain h | h | h | h | h : c.mode = 0 ∨ c.mode = 1 ∨ c.mode = 2 ∨ c.mode = 3 ∨ 4 ≤ c.mode := by omega
  · simp [pickHi_rne h, h, h1]
  · simp [pickHi_rtz h, h]
  · simp [pickHi_rup h, h]
  · simp [pickHi_rdn h, h]
  · rw [pickHi_stochastic h, h0]
    simp [show c.mode ≠ 2 by omega, show c.mode ≠ 3 by omega]

end

/-! ### Round of a nonzero number (R161, R163) -/

theorem log2Ratio_one (hn : n ≠ 0) : log2Ratio n 1 = n.log2 := by
  have h : 2 ^ n.log2 ≤ n := Nat.log2_self_le hn
  simp [log2Ratio, show Nat.log2 1 = 0 from rfl, h]

/-- Encode of a nonzero number whose magnitude code is known. -/
theorem encode_fin (hF : F.IsIeee) (hn : n ≠ 0) {i : Nat} {exact tiny : Bool} (h : F.roundIdx s n d e c = (i, exact, tiny)) :
    F.encode (.fin s n d e) c =
      if F.maxIdx < i then
        (F.signed_ s (if c.away s then F.infIdx else F.maxIdx), { of_ := true, nx := true, uf := tiny })
      else (F.signed_ s i, { nx := !exact, uf := tiny }) := by
  rw [Fmt.encode, kind_of_isIeee hF]
  simp only [Fmt.roundFloat, h]
  obtain ⟨eb, fb, bias, rfl⟩ := hF
  cases c.away s <;> simp [ieee, hn]

theorem roundIdx_of_not_tiny (hF : F.IsIeee) (hk : 1 - (F.bias : Int) ≤ log2Ratio n d + e) :
    ∃ i exact, F.roundIdx s n d e c = (i, exact, false) ∧ (log2Ratio n d + e - (1 - F.bias)).toNat * 2 ^ F.fbits ≤ i := by
  obtain ⟨eb, fb, bias, rfl⟩ := hF
  simp only [ieee] at hk
  simp only [Fmt.roundIdx, ieee, Bool.not_true, Bool.and_false, Bool.false_eq_true, if_false, max_eq_left hk, hk.not_gt,
    decide_false, Nat.sub_zero]
  refine ⟨_, _, rfl, ?_⟩
  split
  · exact (Nat.le_add_right _ _).trans (Nat.le_succ _)
  · exact Nat.le_add_right _ _

/-- From the exponent of the infinities on, the exact magnitude no longer matters. -/
theorem encode_huge (hF : F.IsIeee) (heb : 0 < F.ebits) (hn : n ≠ 0) (he : (2 ^ F.ebits : Nat) - (F.bias : Int) ≤ e) :
    F.encode (.fin s n 1 e) c = (F.signed_ s (if c.away s then F.infIdx else F.maxIdx), { of_ := true, nx := true }) := by
  have hl := log2Ratio_one hn
  have h1 : 1 < 2 ^ F.ebits := Nat.one_lt_two_pow heb.ne'
  obtain ⟨i, exact, h, hi⟩ := roundIdx_of_not_tiny (s := s) (n := n) (d := 1) (e := e) (c := c) hF (by omega)
  have hle : (2 ^ F.ebits - 1) * 2 ^ F.fbits ≤ i := le_trans (Nat.mul_le_mul_right _ (by omega)) hi
  have hpos : 0 < (2 ^ F.ebits - 1) * 2 ^ F.fbits := Nat.mul_pos (by omega) (by positivity)
  rw [encode_fin hF hn h, if_pos]
  rw [maxIdx_of_isIeee hF]
  omega

/-- Far below the least magnitude, the exact magnitude no longer matters. -/
theorem roundIdx_far_below (hF : F.IsIeee) (hn : n ≠ 0) (hlt : n < 2 ^ (F.fbits + 1))
    (he : e ≤ -(F.bias : Int) - 2 * F.fbits - 25) :
    F.roundIdx s n 1 e c = (if c.mode == 2 && !s || c.mode == 3 && s then 1 else 0, false, true) := by
  obtain ⟨eb, fb, bias, rfl⟩ := hF
  simp only [ieee] at hlt he
  have hlog : n.log2 < fb + 1 := (Nat.log2_lt hn).2 hlt
  have hk : log2Ratio n 1 + e < 1 - (bias : Int) := by rw [log2Ratio_one hn]; omega
  have hnum : (e - (1 - (bias : Int) - fb)).toNat = 0 := by omega
  have hden : n * 2 ^ 25 < 2 ^ ((1 - (bias : Int) - fb) - e).toNat :=
    calc n * 2 ^ 25 < 2 ^ (fb + 1) * 2 ^ 25 := Nat.mul_lt_mul_of_pos_right hlt (by positivity)
      _ = 2 ^ (fb + 26) := by rw [← pow_add]
      _ ≤ _ := Nat.pow_le_pow_right two_pos (by omega)
  have hsmall : n < 2 ^ ((1 - (bias : Int) - fb) - e).toNat := by omega
  simp [Fmt.roundIdx, ieee, max_eq_right hk.le, hk, hnum, Nat.mod_eq_of_lt hsmall, Nat.div_eq_of_lt hsmall, hn, pickHi_small hden]

theorem roundIdx_whole (hF : F.IsIeee) (hn : n ≠ 0) (hb : 1 ≤ F.bias) (hl : n.log2 ≤ F.fbits) :
    F.roundIdx s n 1 0 c = ((n.log2 + F.bias - 1) * 2 ^ F.fbits + n * 2 ^ (F.fbits - n.log2), true, false) := by
  obtain ⟨eb, fb, bias, rfl⟩ := hF
  simp only [ieee] at hb hl
  have hk : 1 - (bias : Int) ≤ n.log2 := by omega
  have h1 : ((n.log2 : Int) - (1 - bias)).toNat = n.log2 + bias - 1 := by omega
  simp [Fmt.roundIdx, ieee, log2Ratio_one hn, max_eq_left hk, hk.not_gt, h1, Nat.sub_eq_zero_of_le hl, Nat.mod_one]

/-- A whole number up to 2^FBITS is exact. -/
theorem encode_whole_flags (hF : F.IsIeee) (hb : 1 ≤ F.bias) (hw : F.fbits + F.bias + 2 ≤ 2 ^ F.ebits) (h : n ≤ 2 ^ F.fbits) :
    (F.encode (.fin s n 1 0) c).2 = Flags.none := by
  by_cases hn : n = 0
  · rw [hn]
    exact encode_zero_flags hF
  have hl : n.log2 < F.fbits + 1 := (Nat.log2_lt hn).2 (h.trans_lt (Nat.pow_lt_pow_right one_lt_two (Nat.lt_succ_self _)))
  have hfrac : n * 2 ^ (F.fbits - n.log2) < 2 * 2 ^ F.fbits :=
    calc n * 2 ^ (F.fbits - n.log2) < 2 ^ (n.log2 + 1) * 2 ^ (F.fbits - n.log2) :=
          Nat.mul_lt_mul_of_pos_right Nat.lt_log2_self (by positivity)
      _ = 2 * 2 ^ F.fbits := by rw [← pow_add, ← pow_succ']; congr 1; omega
  have hmax : ¬ F.maxIdx < (n.log2 + F.bias - 1) * 2 ^ F.fbits + n * 2 ^ (F.fbits - n.log2) := by
    have : (n.log2 + F.bias - 1 + 2) * 2 ^ F.fbits ≤ (2 ^ F.ebits - 1) * 2 ^ F.fbits := Nat.mul_le_mul_right _ (by omega)
    rw [maxIdx_of_isIeee hF]
    rw [add_mul] at this
    omega
  rw [encode_fin hF hn (roundIdx_whole hF hn hb (by omega)), if_neg hmax]
  rfl

end Sys2Proof.Machine
end

section
/-! SUPPORT. The rational value of an exact number (R159), and what it is to round one. -/

namespace Sys2Proof.Claims

open Sys2Proof.Machine

variable {F : Fmt} {c : Rc} {s : Bool} {n d : Nat} {e : Int}

/-- A sign as a factor. -/
def signFactor (s : Bool) : Rat := if s then -1 else 1

theorem signFactor_ne_zero (s : Bool) : signFactor s ≠ 0 := by
  cases s <;> simp [signFactor]

@[simp] theorem abs_signFactor_mul (s : Bool) (v : Rat) : |signFactor s * v| = |v| := by
  cases s <;> simp [signFactor]

theorem two_zpow_eq_div (e : Int) : (2 : Rat) ^ e = 2 ^ e.toNat / 2 ^ (-e).toNat := by
  rw [← zpow_natCast, ← zpow_natCast, ← zpow_sub₀ two_ne_zero]
  congr 1
  omega

theorem ratOf_fin : ratOf (.fin s n d e) = signFactor s * (n / d * 2 ^ e) := by
  rw [ratOf, Rat.mkRat_eq_div, two_zpow_eq_div, signFactor]
  cases s <;> simp [mul_div_mul_comm, neg_div]

theorem ratOf_fin_one : ratOf (.fin s n 1 e) = signFactor s * (n * 2 ^ e) := by
  rw [ratOf_fin, Nat.cast_one, div_one]

theorem ratOf_positive : ratOf (.fin false n 1 e) = n * 2 ^ e := by
  rw [ratOf_fin_one, signFactor, if_neg Bool.false_ne_true, one_mul]

theorem pow2_eq (k : Int) : pow2 k = 2 ^ k := by
  rw [pow2, ratOf_positive, Nat.cast_one, one_mul]

theorem ratOf_ofInt (j : Int) : ratOf (.ofInt j) = j := by
  rw [Num.ofInt, ratOf_fin_one, zpow_zero, mul_one, Nat.cast_natAbs]
  obtain hj | hj := lt_or_ge j 0
  · simp [signFactor, hj, abs_of_neg hj]
  · simp [signFactor, hj.not_gt, abs_of_nonneg hj]

theorem ratOf_sticky : ratOf (sticky false n e) = (n + 1 / 2) * 2 ^ e := by
  rw [sticky, ratOf_positive, zpow_sub_one₀ two_ne_zero]
  push_cast
  ring

theorem abs_ratOf : |ratOf (.fin s n 1 e)| = n * 2 ^ e := by
  rw [ratOf_fin_one, abs_signFactor_mul]
  exact abs_of_nonneg (by positivity)

theorem sign_of_value_pos (h : 0 < ratOf (.fin s n 1 e)) : s = false := by
  cases s with
  | false => rfl
  | true =>
    have : (0 : Rat) ≤ n * 2 ^ e := by positivity
    rw [ratOf_fin_one, signFactor, if_pos rfl] at h
    linarith

/-- ⌊log2⌋ of a number against a bound on its magnitude. -/
theorem le_log2Ratio_iff (hn : n ≠ 0) (e k : Int) : k ≤ log2Ratio n 1 + e ↔ (2 : Rat) ^ k ≤ n * 2 ^ e := by
  have hpos : (0 : Rat) < 2 ^ e := zpow_pos two_pos e
  have h1 : ((2 ^ n.log2 : Nat) : Rat) ≤ n := by exact_mod_cast Nat.log2_self_le hn
  have h2 : (n : Rat) < (2 ^ (n.log2 + 1) : Nat) := by exact_mod_cast Nat.lt_log2_self
  rw [log2Ratio_one hn, ← sub_le_iff_le_add, ← div_le_iff₀ hpos, ← zpow_sub₀ two_ne_zero]
  constructor
  · intro h
    refine (zpow_le_zpow_right₀ one_le_two h).trans ?_
    rw [zpow_natCast]
    exact_mod_cast h1
  · intro h
    have h3 : (2 : Rat) ^ (k - e) < 2 ^ ((n.log2 : Int) + 1) := h.trans_lt (by exact_mod_cast h2)
    have := (zpow_lt_zpow_iff_right₀ one_lt_two).1 h3
    omega

theorem signedAt_eq {lo : Int} (h : lo ≤ e) : (signedAt s n e lo : Rat) = ratOf (.fin s n 1 e) / 2 ^ lo := by
  have : (2 : Rat) ^ (e - lo).toNat = 2 ^ e / 2 ^ lo := by
    rw [← zpow_natCast, Int.toNat_of_nonneg (by omega), zpow_sub₀ two_ne_zero]
  rw [ratOf_fin_one, signedAt, signFactor]
  cases s <;> simp [this, mul_div_assoc, neg_div]

theorem roundsExact_fOut {z : Machine.Num} {q : Rat} {neg : Bool} (hz : z.isFin = true) (hq : ratOf z = q)
    (hs : q = 0 → z.sign = neg) : RoundsExact F c q neg (fOut F z Flags.none c) :=
  ⟨z, hz, hq, hs, by simp [fOut]⟩

end Sys2Proof.Claims
end

section
/-! SUPPORT. The functions of one source: their special results, and the values that stand for roots (R208, R295). -/

namespace Sys2Proof.Machine

section
variable {F : Fmt} {c : Rc} {s : Bool} {n d : Nat} {e : Int} {zero inf : Bool → Num × Flags} {f : Bool → Nat → Int → Num × Flags}
  {i : LaneIn}

theorem funary_of_isNan (hF : F.IsIeee) (h : (fv F i.a).isNan = true) :
    funary F zero inf f i c = Claims.signedCode F F.nanCode false { nv := sNan F i.a } := by
  rw [funary, Num.eq_nan_of_isNan h]
  exact fOut_nan hF

theorem funary_of_inf (h : fv F i.a = .inf s) : funary F zero inf f i c = fOut F (inf s).1 (inf s).2 c := by
  rw [funary, h]

theorem funary_of_isZero (h : (fv F i.a).isZero = true) :
    funary F zero inf f i c = fOut F (zero (fv F i.a).sign).1 (zero (fv F i.a).sign).2 c := by
  rw [funary]
  cases hx : fv F i.a with
  | nan => simp [hx] at h
  | inf _ => simp [hx] at h
  | fin _ _ _ _ => rw [hx, Num.isZero_fin] at h; simp only [h, if_true, Num.sign_fin]

theorem funary_of_fin (h : fv F i.a = .fin s n d e) (hn : n ≠ 0) : funary F zero inf f i c = fOut F (f s n e).1 (f s n e).2 c := by
  simp only [funary, h, beq_iff_eq, hn, if_false]

theorem funary_of_plain {z : Num} (h : fv F i.a = .fin s n d e) (hn : n ≠ 0) (hf : f s n e = plain z) :
    funary F zero inf f i c = fOut F z Flags.none c := by
  rw [funary_of_fin h hn, hf]
  rfl

/-- A function that has no value below zero. -/
theorem funary_of_negative (hF : F.IsIeee) (h : (fv F i.a).isNan = false) (h0 : (fv F i.a).isZero = false)
    (hs : (fv F i.a).sign = true) (hinf : inf true = invalid) (hf : ∀ n e, f true n e = invalid) :
    funary F zero inf f i c = Claims.signedCode F F.nanCode false { nv := true } := by
  cases hx : fv F i.a with
  | nan => simp [hx] at h
  | inf s =>
    obtain rfl : s = true := by simpa [hx] using hs
    rw [funary_of_inf hx, hinf]
    exact fOut_nan hF
  | fin s n d e =>
    obtain rfl : s = true := by simpa [hx] using hs
    rw [funary_of_fin hx (by simpa [hx] using h0), hf]
    exact fOut_nan hF

end

/-! ### The integer square root -/

theorem isqrtGo_spec (x k r : Nat) (hlo : r * r ≤ x) (hhi : x < (r + 2 ^ k) * (r + 2 ^ k)) :
    isqrtGo x k r * isqrtGo x k r ≤ x ∧ x < (isqrtGo x k r + 1) * (isqrtGo x k r + 1) := by
  induction k generalizing r with
  | zero => exact ⟨hlo, hhi⟩
  | succ k ih =>
    rw [isqrtGo]
    split
    next h => exact ih _ h (by rwa [pow_succ, mul_two, ← add_assoc] at hhi)
    next h => exact ih _ hlo (not_le.1 h)

theorem isqrt_eq_sqrt (x : Nat) : isqrt x = Nat.sqrt x := by
  have hx : x < 2 ^ (x.log2 / 2 + 1) * 2 ^ (x.log2 / 2 + 1) := by
    rw [← pow_add]
    exact Nat.lt_log2_self.trans_le (Nat.pow_le_pow_right two_pos (by omega))
  exact Nat.eq_sqrt.2 (isqrtGo_spec x _ 0 (Nat.zero_le _) (by simpa using hx))

/-- The same value at an even exponent. -/
theorem evenExp_spec {m : Nat} (hm : m ≠ 0) (e : Int) :
    (evenExp m e).2 % 2 = 0 ∧ 0 < (evenExp m e).1 ∧ ((evenExp m e).1 : Rat) * 2 ^ (evenExp m e).2 = m * 2 ^ e := by
  by_cases h : e % 2 = 0
  · rw [evenExp, if_pos (by simpa using h)]
    exact ⟨h, Nat.pos_of_ne_zero hm, rfl⟩
  · rw [evenExp, if_neg (by simpa using h)]
    refine ⟨by simp only; omega, by simp only; omega, ?_⟩
    simp only [zpow_sub_one₀ (two_ne_zero' Rat)]
    push_cast
    ring

end Sys2Proof.Machine

namespace Sys2Proof.Claims

open Sys2Proof.Machine

/-! ### Roots -/

/-- The value that stands for a root whose floor is r: r where the root is whole, else half a unit above. -/
def rootNum (r : Nat) (e : Int) (whole : Prop) [Decidable whole] : Machine.Num :=
  if whole then .fin false r 1 e else sticky false r e

theorem ratOf_rootNum (r : Nat) (e : Int) (whole : Prop) [Decidable whole] :
    ratOf (rootNum r e whole) = (if whole then (r : Rat) else r + 1 / 2) * 2 ^ e := by
  unfold rootNum
  split
  · exact ratOf_positive
  · exact ratOf_sticky

section
variable {F : Fmt} {c : Rc} {u X y : Rat} {r m : Nat} {e : Int}

/-- A whole number, or one below r, compares with √X as it does with r where √X is r, and else with r + 1/2. -/
theorem sq_compare (hlo : (r : Rat) ^ 2 ≤ X) (hhi : X < (r + 1) ^ 2) (h0 : 0 ≤ u) (hu : (∃ m : Nat, u = m) ∨ u < r) :
    (u ^ 2 < X ↔ u < if (r : Rat) ^ 2 = X then (r : Rat) else r + 1 / 2) ∧
      (u ^ 2 = X ↔ u = if (r : Rat) ^ 2 = X then (r : Rat) else r + 1 / 2) := by
  have hr : (0 : Rat) ≤ r := Nat.cast_nonneg r
  split
  next h =>
    subst h
    exact ⟨pow_lt_pow_iff_left₀ h0 hr two_ne_zero, pow_left_inj₀ h0 hr two_ne_zero⟩
  next h =>
    have hX := lt_of_le_of_ne hlo h
    obtain hle | hge : u ≤ r ∨ (r : Rat) + 1 ≤ u := by
      obtain ⟨m, rfl⟩ | hlt := hu
      · obtain hm | hm := le_or_gt m r
        · exact .inl (by exact_mod_cast hm)
        · exact .inr (by exact_mod_cast hm)
      · exact .inl hlt.le
    · have h2 : u ^ 2 < X := (pow_le_pow_left₀ h0 hle 2).trans_lt hX
      have h3 : u < r + 1 / 2 := by linarith
      exact ⟨iff_of_true h2 h3, iff_of_false h2.ne h3.ne⟩
    · have h2 : X < u ^ 2 := hhi.trans_le (pow_le_pow_left₀ (by linarith) hge 2)
      have h3 : r + 1 / 2 < u := by linarith
      exact ⟨iff_of_false h2.not_gt h3.not_gt, iff_of_false h2.ne' h3.ne'⟩

/-- A number of at most 100 bits is whole or below 2^100. -/
theorem whole_or_small {k : Nat} (hk : k < 2 ^ 100) (j : Int) :
    (∃ m : Nat, (k * 2 ^ j : Rat) = m) ∨ (k * 2 ^ j : Rat) < (2 ^ 100 : Nat) := by
  obtain hj | hj := le_or_gt 0 j
  · obtain ⟨t, rfl⟩ := Int.eq_ofNat_of_zero_le hj
    exact .inl ⟨k * 2 ^ t, by push_cast; rfl⟩
  · have h1 : (2 : Rat) ^ j ≤ 1 := zpow_le_one_of_nonpos₀ one_le_two hj.le
    have h2 : (k : Rat) < (2 ^ 100 : Nat) := by exact_mod_cast hk
    exact .inr ((mul_le_of_le_one_right (Nat.cast_nonneg k) h1).trans_lt h2)

/-- R208: the value rounded in the place of 2^e √X, whose floor on the grid of spacing 2^e is r. -/
theorem roundsRoot_rootNum {below meets : Rat → Prop} (hlo : (r : Rat) ^ 2 ≤ X) (hhi : X < (r + 1) ^ 2) (hr : 2 ^ 100 ≤ r)
    (hbelow : ∀ u : Rat, below (u * 2 ^ e) ↔ u ^ 2 < X) (hmeets : ∀ u : Rat, meets (u * 2 ^ e) ↔ u ^ 2 = X) :
    RoundsRoot F c below meets (fOut F (rootNum r e ((r : Rat) ^ 2 = X)) Flags.none c) := by
  have hpos : (0 : Rat) < 2 ^ e := zpow_pos two_pos e
  refine ⟨rootNum r e ((r : Rat) ^ 2 = X), by unfold rootNum; split <;> rfl, by unfold rootNum; split <;> rfl, by simp [fOut], ?_⟩
  intro k j hk q
  have hq : q = k * 2 ^ (j - e) * 2 ^ e := by
    rw [mul_assoc, ← zpow_add₀ two_ne_zero, sub_add_cancel]
    exact ratOf_positive
  have hu : (∃ m : Nat, (k * 2 ^ (j - e) : Rat) = m) ∨ (k * 2 ^ (j - e) : Rat) < r :=
    (whole_or_small hk _).imp_right fun h => h.trans_le (by exact_mod_cast hr)
  obtain ⟨h1, h2⟩ := sq_compare hlo hhi (by positivity) hu
  rw [ratOf_rootNum, hq, hbelow, hmeets]
  exact ⟨h1.trans (mul_lt_mul_iff_left₀ hpos).symm, h2.trans (mul_left_inj' hpos.ne').symm⟩

theorem sqrtNum_rounds (hm : m ≠ 0) (hy : y = m * 2 ^ e) :
    RoundsRoot F c (fun q => q * q < y) (fun q => q * q = y) (fOut F (sqrtNum m e) Flags.none c) := by
  obtain ⟨he, hp, hv⟩ := evenExp_spec hm e
  generalize hm' : (evenExp m e).1 = m' at *
  generalize he' : (evenExp m e).2 = e' at *
  set big := m' * 2 ^ 256 with hbig
  have hz : sqrtNum m e = rootNum big.sqrt (e' / 2 - 128) ((big.sqrt : Rat) ^ 2 = big) := by
    simp only [sqrtNum, hm', he', isqrt_eq_sqrt, rootNum, beq_iff_eq, ← hbig, sq]
    norm_cast
  have hs : ∀ u : Rat, (u * 2 ^ (e' / 2 - 128)) * (u * 2 ^ (e' / 2 - 128)) = u ^ 2 * (2 ^ (e' - 256)) := fun u => by
    rw [show e' - 256 = (e' / 2 - 128) + (e' / 2 - 128) by omega, zpow_add₀ two_ne_zero]
    ring
  have hyb : y = big * 2 ^ (e' - 256) := by
    rw [hy, ← hv, zpow_sub₀ two_ne_zero, hbig]
    push_cast
    field_simp
  have hpos : (0 : Rat) < 2 ^ (e' - 256) := zpow_pos two_pos _
  rw [hz]
  refine roundsRoot_rootNum (by exact_mod_cast Nat.sqrt_le' big) (by exact_mod_cast Nat.lt_succ_sqrt' big)
    (Nat.le_sqrt.2 (by omega)) (fun u => ?_) (fun u => ?_)
  · simp only [hs, hyb]
    exact mul_lt_mul_iff_left₀ hpos
  · simp only [hs, hyb]
    exact mul_left_inj' hpos.ne'

theorem rsqrtNum_rounds (hm : m ≠ 0) (hy : y = m * 2 ^ e) :
    RoundsRoot F c (fun q => q * q * y < 1) (fun q => q * q * y = 1) (fOut F (rsqrtNum m e) Flags.none c) := by
  obtain ⟨he, hp, hv⟩ := evenExp_spec hm e
  generalize hm' : (evenExp m e).1 = m' at *
  generalize he' : (evenExp m e).2 = e' at *
  set k := 128 + m'.log2 with hk
  set r := (2 ^ (2 * k) / m').sqrt with hr
  have hpm : (0 : Rat) < m' := by exact_mod_cast hp
  have hX : (0 : Rat) < 2 ^ (2 * k) / m' := by positivity
  have hwhole : (r * r * m' = 2 ^ (2 * k)) ↔ ((r : Rat) ^ 2 = 2 ^ (2 * k) / m') := by
    rw [eq_div_iff hpm.ne', sq]
    norm_cast
  have hz : rsqrtNum m e = rootNum r (-(k : Int) - e' / 2) ((r : Rat) ^ 2 = 2 ^ (2 * k) / m') := by
    simp only [rsqrtNum, hm', he', isqrt_eq_sqrt, rootNum, beq_iff_eq, ← hk, ← hr, ← hwhole]
  have hexp : (2 : Rat) ^ (-(k : Int) - e' / 2) * 2 ^ (-(k : Int) - e' / 2) * 2 ^ e' = (2 ^ (2 * k))⁻¹ := by
    rw [← zpow_natCast, ← zpow_neg, ← zpow_add₀ two_ne_zero, ← zpow_add₀ two_ne_zero]
    congr 1
    push_cast
    omega
  have hs : ∀ u : Rat, (u * 2 ^ (-(k : Int) - e' / 2)) * (u * 2 ^ (-(k : Int) - e' / 2)) * y = u ^ 2 / (2 ^ (2 * k) / m') := fun u => by
    rw [hy, ← hv, div_div_eq_mul_div, div_eq_mul_inv, ← hexp]
    ring
  rw [hz]
  refine roundsRoot_rootNum ?floor ?ceiling ?bits (fun u => ?_) (fun u => ?_)
  case floor =>
    have : r ^ 2 ≤ 2 ^ (2 * k) / m' := Nat.sqrt_le' _
    rw [le_div_iff₀ hpm]
    exact_mod_cast (Nat.le_div_iff_mul_le hp).1 this
  case ceiling =>
    have := Nat.lt_succ_sqrt' (2 ^ (2 * k) / m')
    rw [div_lt_iff₀ hpm]
    exact_mod_cast (Nat.div_lt_iff_lt_mul hp).1 this
  case bits =>
    refine Nat.le_sqrt.2 ((Nat.le_div_iff_mul_le hp).2 ?_)
    calc 2 ^ 100 * 2 ^ 100 * m' ≤ 2 ^ 200 * 2 ^ (m'.log2 + 1) := by
          rw [← pow_add]
          exact Nat.mul_le_mul_left _ Nat.lt_log2_self.le
      _ ≤ 2 ^ (2 * k) := by
          rw [← pow_add]
          exact Nat.pow_le_pow_right two_pos (by omega)
  · simp only [hs]
    exact div_lt_one hX
  · simp only [hs]
    exact div_eq_one_iff_eq hX.ne'

end

/-! ### Exact values of `flog2` and `fexp2` -/

theorem eq_two_pow_of_value {m : Nat} {e j : Int} (h : (m : Rat) * 2 ^ e = 2 ^ j) : ∃ t : Nat, m = 2 ^ t ∧ t + e = j := by
  have hm : (m : Rat) = 2 ^ (j - e) := by
    rw [zpow_sub₀ two_ne_zero, eq_div_iff (zpow_ne_zero _ two_ne_zero), h]
  have h1 : (2 : Rat) ^ (0 : Int) ≤ 2 ^ (j - e) := by
    rw [← hm, zpow_zero, Nat.one_le_cast, Nat.one_le_iff_ne_zero]
    rintro rfl
    exact (zpow_pos (two_pos (α := Rat)) (j - e)).ne (by simpa using hm)
  obtain ⟨t, ht⟩ := Int.eq_ofNat_of_zero_le ((zpow_le_zpow_iff_right₀ one_lt_two).1 h1)
  refine ⟨t, ?_, by omega⟩
  rw [ht, zpow_natCast] at hm
  exact_mod_cast hm

theorem log2Num_two_pow (t : Nat) (e : Int) : log2Num (2 ^ t) e = .ofInt (t + e) := by
  have h : 2 * 2 ^ t < 3 * 2 ^ t := Nat.mul_lt_mul_of_pos_right (by omega) (by positivity)
  simp [log2Num, Nat.log2_two_pow, h]

theorem exp2Num_whole {s : Bool} {n : Nat} {e j : Int} (hn : n ≠ 0) (he : -320 ≤ e) (hj : j.natAbs < 512)
    (h : ratOf (.fin s n 1 e) = j) : exp2Num s n e = .fin false 1 1 j := by
  have hx : signedAt s n e (-320) = j * (2 ^ 320 : Nat) := by
    rw [← Int.cast_inj (α := Rat), signedAt_eq he, h, zpow_neg, div_inv_eq_mul, zpow_ofNat, Int.cast_mul, Int.cast_natCast,
      Nat.cast_pow, Nat.cast_ofNat]
  have hsmall : ¬ 8 < log2Ratio n 1 + e := fun h8 => by
    have h9 := (le_log2Ratio_iff hn e 9).1 h8
    rw [← abs_ratOf (s := s), h, ← Int.cast_abs, Int.abs_eq_natAbs, Int.cast_natCast] at h9
    exact hj.not_ge (by exact_mod_cast h9)
  rw [exp2Num, if_neg (by simpa using hn), if_neg hsmall]
  simp only [hx, Int.mul_emod_left, Int.toNat_zero, beq_self_eq_true, if_true]
  rw [Int.mul_ediv_cancel _ (by positivity)]

/-! ### R295 -/

theorem functionExactness : FunctionExactness := by
  intro i c
  refine ⟨fun F hF => ?root, fun ha h0 => ⟨?reciprocal, fun hs => ?reciprocalRoot⟩, fun j ha hj => ?log2, fun j ha hj hv => ?exp2⟩
  case root =>
    intro y hy h0 hs
    obtain ⟨s, n, e, hx, -⟩ := exists_of_isFin (isIeee_of_mem hF) hy
    obtain rfl : s = false := by simpa [y, hx] using hs
    have hn : n ≠ 0 := by simpa [y, hx] using h0
    rw [fsqrt, funary_of_plain hx hn rfl]
    exact sqrtNum_rounds hn (by rw [← ratOf_positive, ← hx])
  case reciprocal =>
    obtain ⟨s, n, e, hx, -⟩ := exists_of_isFin isIeee_f32 ha
    have hn : n ≠ 0 := by simpa [hx] using h0
    rw [frcp, funary_of_plain hx hn rfl, hx]
    refine roundsExact_fOut rfl ?_ fun _ => rfl
    rw [ratOf_fin, ratOf_fin_one, zpow_neg]
    cases s <;> simp [signFactor, mul_comm]
  case reciprocalRoot =>
    obtain ⟨s, n, e, hx, -⟩ := exists_of_isFin isIeee_f32 ha
    obtain rfl : s = false := by simpa [hx] using hs
    have hn : n ≠ 0 := by simpa [hx] using h0
    rw [frsq, funary_of_plain hx hn rfl]
    exact rsqrtNum_rounds hn (by rw [← ratOf_positive, ← hx])
  case log2 =>
    obtain ⟨s, n, e, hx, -⟩ := exists_of_isFin isIeee_f32 ha
    rw [hx, pow2_eq] at hj
    obtain rfl : s = false := sign_of_value_pos (hj ▸ zpow_pos two_pos j)
    obtain ⟨t, rfl, rfl⟩ := eq_two_pow_of_value (ratOf_positive.symm.trans hj)
    rw [flog2, funary_of_plain hx (by positivity) rfl, log2Num_two_pow]
    exact roundsExact_fOut rfl (ratOf_ofInt _) fun h0 => by simp [Num.ofInt, Int.cast_eq_zero.1 h0]
  case exp2 =>
    obtain ⟨s, n, e, hx, hh⟩ := exists_of_isFin isIeee_f32 ha
    have hlow : (-320 : Int) ≤ e := le_trans (by decide) hh.low
    rw [hx] at hv
    by_cases hn : n = 0
    · subst hn
      obtain rfl : j = 0 := by exact_mod_cast (by simpa [ratOf_fin_one] using hv.symm : (j : Rat) = 0)
      rw [fexp2, funary_of_isZero (by rw [hx]; rfl)]
      exact roundsExact_fOut rfl (by rw [pow2_eq, zpow_zero]; exact ratOf_ofInt 1) fun _ => rfl
    · rw [fexp2, funary_of_plain hx hn rfl, exp2Num_whole hn hlow hj hv]
      exact roundsExact_fOut rfl rfl fun _ => rfl

theorem functionSpecials : FunctionSpecials := by
  intro i c
  have h32 := isIeee_f32
  refine ⟨fun F hF => ?root, ?nan, fun hz => ?zero, fun hn h0 hs => ?negative, fun t ht => ?infinity, fun ht => ?positiveInfinity⟩
  case root =>
    have hF := isIeee_of_mem hF
    exact ⟨fun hn => funary_of_isNan hF hn, fun hn h0 hs => funary_of_negative hF hn h0 hs rfl fun _ _ => rfl,
      fun hz => (funary_of_isZero hz).trans (fOut_zero hF), fun ht => (funary_of_inf ht).trans (fOut_inf hF)⟩
  case nan =>
    intro hn
    simp only [List.forall_mem_cons, List.not_mem_nil, IsEmpty.forall_iff, implies_true, and_true]
    refine ⟨?_, ?_, ?_, ?_, ?_, ?_⟩ <;> exact funary_of_isNan h32 hn
  case zero =>
    exact ⟨(funary_of_isZero hz).trans (fOut_inf h32), (funary_of_isZero hz).trans (fOut_inf h32),
      (funary_of_isZero hz).trans (fOut_inf h32), (funary_of_isZero hz).trans fOut_one,
      (funary_of_isZero hz).trans (fOut_zero h32), (funary_of_isZero hz).trans fOut_one⟩
  case negative =>
    exact ⟨funary_of_negative h32 hn h0 hs rfl fun _ _ => rfl, funary_of_negative h32 hn h0 hs rfl fun _ _ => rfl⟩
  case infinity =>
    refine ⟨(funary_of_inf ht).trans (fOut_zero h32), (funary_of_inf ht).trans (fOut_nan h32),
      (funary_of_inf ht).trans (fOut_nan h32), (funary_of_inf ht).trans ?_⟩
    cases t with
    | false => exact fOut_inf h32
    | true => exact fOut_zero h32
  case positiveInfinity => exact ⟨(funary_of_inf ht).trans (fOut_zero h32), (funary_of_inf ht).trans (fOut_inf h32)⟩

end Sys2Proof.Claims
end

section
/-! SUPPORT. Conversion, rounding to an integral value, and scaling (R298, R299, R301). -/

namespace Sys2Proof.Claims

open Sys2Proof.Machine

/-! ### `fcvt` -/

theorem kind_or_isIeee_cvtFmt : ∀ t ∈ [2, 3, 6, 7, 10, 11, 12, 13], (cvtFmt t).kind = 1 ∨ (cvtFmt t).IsIeee := by
  simp only [List.forall_mem_cons, List.not_mem_nil, IsEmpty.forall_iff, implies_true, and_true]
  exact ⟨.inl rfl, .inl rfl, .inl rfl, .inl rfl, .inr ⟨_, _, _, rfl⟩, .inr ⟨_, _, _, rfl⟩, .inr ⟨_, _, _, rfl⟩, .inr ⟨_, _, _, rfl⟩⟩

section
variable {t u : Nat} {i : LaneIn} {c : Rc} (hu : u ∈ [2, 3, 6, 7, 10, 11, 12, 13])
include hu

theorem fcvt_of_not_isNan (h : ((cvtFmt u).decode i.a.toNat).isNan = false) :
    fcvt t u i c = fOut (cvtFmt t) ((cvtFmt u).decode i.a.toNat) Flags.none c := by
  have hnv : ((cvtFmt u).kind == 0 && sNan (cvtFmt u) i.a) = false := by
    obtain hk | hF := kind_or_isIeee_cvtFmt u hu
    · rw [hk]
      rfl
    · rw [decode_of_isIeee hF] at h
      rw [sNan_of_not_isNan h, Bool.and_false]
  rw [fcvt, hnv]
  rfl

theorem fcvt_of_isNan (h : ((cvtFmt u).decode i.a.toNat).isNan = true) :
    fcvt t u i c = fOut (cvtFmt t) .nan { nv := sNan (cvtFmt u) i.a } c := by
  have hk : (cvtFmt u).kind = 0 := by
    obtain hk | hF := kind_or_isIeee_cvtFmt u hu
    · simp [Fmt.decode, hk, Num.ofInt] at h
    · exact kind_of_isIeee hF
  rw [fcvt, hk, Num.eq_nan_of_isNan h, beq_self_eq_true, Bool.true_and]

end

theorem conversionExactness : ConversionExactness := by
  intro t ht u hu i c
  refine ⟨fun ha => ?finite, fun ha => ?nan, fun neg ha => ?infinity⟩
  case finite =>
    rw [fcvt_of_not_isNan hu (Num.isNan_of_isFin ha)]
    exact roundsExact_fOut ha rfl fun _ => rfl
  case nan =>
    rw [fcvt_of_isNan hu ha]
    obtain hk | hT := kind_or_isIeee_cvtFmt t ht
    · rw [hk]
      exact fOut_nan_of_integer hk _
    · rw [kind_of_isIeee hT]
      exact fOut_nan hT
  case infinity =>
    rw [fcvt_of_not_isNan hu (by rw [ha]; rfl), ha]
    obtain hk | hT := kind_or_isIeee_cvtFmt t ht
    · rw [hk]
      exact fOut_inf_of_integer hk neg
    · rw [kind_of_isIeee hT]
      exact fOut_inf hT

/-! ### The whole number next to a magnitude (R162 on the grid of spacing 1) -/

/-- What the modes make of v ≥ 0, whose sign is s, on the grid of the whole numbers. -/
structure WholeOf (mode : Nat) (s : Bool) (v : Rat) (m : Nat) : Prop where
  near    : |(m : Rat) - v| < 1
  nearest : mode = 0 → |(m : Rat) - v| ≤ 1 / 2 ∧ (|(m : Rat) - v| = 1 / 2 → m % 2 = 0)
  inward  : mode = 1 ∨ mode = 2 ∧ s = true ∨ mode = 3 ∧ s = false → (m : Rat) ≤ v
  outward : mode = 2 ∧ s = false ∨ mode = 3 ∧ s = true → v ≤ m

section
variable {F : Fmt} {c : Rc} {s : Bool} {n m : Nat} {e : Int} {i : LaneIn}

theorem wholeOf_self (mode : Nat) (s : Bool) (m : Nat) : WholeOf mode s m m :=
  ⟨by simp, fun _ => by norm_num, fun _ => le_rfl, fun _ => le_rfl⟩

theorem WholeOf.le {mode N : Nat} {v : Rat} (h : WholeOf mode s v m) (hv : v < (N : Nat)) : m ≤ N := by
  have h1 : (m : Rat) < N + 1 := by linarith [(abs_lt.1 h.near).2]
  exact Nat.lt_succ_iff.1 (by exact_mod_cast h1)

/-- Pick between the floor of num / den and the next number. -/
theorem wholeOf_pick {num den : Nat} (hden : 0 < den) (hr : num % den ≠ 0) :
    WholeOf c.mode s (num / den)
      (if pickHi (num % den) den (num / den % 2 == 1) s c then num / den + 1 else num / den) := by
  have hlt := Nat.mod_lt num hden
  have hsum := Nat.div_add_mod num den
  generalize num / den = i at *
  generalize num % den = r at *
  have hd : (0 : Rat) < den := by exact_mod_cast hden
  have hv : (num : Rat) / den = i + r / den := by
    rw [← hsum]
    push_cast
    field_simp
  have hf0 : (0 : Rat) < r / den := by positivity
  have hf1 : (r : Rat) / den < 1 := by rw [div_lt_one hd]; exact_mod_cast hlt
  have hhalf : (r : Rat) / den ≤ 1 / 2 ↔ 2 * r ≤ den := by
    rw [div_le_div_iff₀ hd two_pos, one_mul, mul_comm]
    norm_cast
  have hhalf' : 1 / 2 ≤ (r : Rat) / den ↔ den ≤ 2 * r := by
    rw [div_le_div_iff₀ two_pos hd, one_mul, mul_comm]
    norm_cast
  rw [hv]
  split
  next hp =>
    have habs : |((i + 1 : Nat) : Rat) - (i + r / den)| = 1 - r / den := by
      push_cast
      rw [abs_of_pos] <;> linarith
    refine ⟨by rw [habs]; linarith, fun h0 => ?_, fun h1 => ?_, fun _ => by push_cast; linarith⟩
    · have hp' : den < 2 * r ∨ den = 2 * r ∧ i % 2 = 1 := by simpa [pickHi_rne h0] using hp
      rw [habs]
      refine ⟨by linarith [hhalf'.2 (by omega)], fun ht => ?_⟩
      have := hhalf.1 (by linarith)
      omega
    · obtain h1 | ⟨h2, rfl⟩ | ⟨h3, rfl⟩ := h1
      · simp [pickHi_rtz h1] at hp
      · simp [pickHi_rup h2] at hp
      · simp [pickHi_rdn h3] at hp
  next hp =>
    have habs : |(i : Rat) - (i + r / den)| = r / den := by
      rw [abs_of_neg] <;> linarith
    refine ⟨by rw [habs]; exact hf1, fun h0 => ?_, fun _ => by linarith, fun h1 => ?_⟩
    · have hp' : ¬ (den < 2 * r ∨ den = 2 * r ∧ i % 2 = 1) := by simpa [pickHi_rne h0] using hp
      rw [habs]
      refine ⟨hhalf.2 (by omega), fun ht => ?_⟩
      have := hhalf'.1 ht.ge
      have := hhalf.1 ht.le
      omega
    · obtain ⟨h2, rfl⟩ | ⟨h3, rfl⟩ := h1
      · simp [pickHi_rup h2] at hp
      · simp [pickHi_rdn h3] at hp

/-- The magnitude that `roundInt` gives, and its report of an exact one. -/
theorem roundInt_spec (s : Bool) (n : Nat) (e : Int) (c : Rc) :
    WholeOf c.mode s (n * 2 ^ e) (roundInt s n 1 e c).1 ∧
      (roundInt s n 1 e c).2 = decide (((roundInt s n 1 e c).1 : Rat) = n * 2 ^ e) := by
  have hv : (n * 2 ^ e : Rat) = (n * 2 ^ e.toNat : Nat) / (1 * 2 ^ (-e).toNat : Nat) := by
    rw [two_zpow_eq_div]
    push_cast
    rw [one_mul, mul_div_assoc]
  have hden : 0 < 1 * 2 ^ (-e).toNat := by positivity
  rw [hv, roundInt]
  generalize n * 2 ^ e.toNat = num at *
  generalize 1 * 2 ^ (-e).toNat = den at *
  have hd : (den : Rat) ≠ 0 := by exact_mod_cast hden.ne'
  by_cases hr : num % den = 0
  · have : (num : Rat) / den = (num / den : Nat) := (Nat.cast_div (Nat.dvd_of_mod_eq_zero hr) hd).symm
    simp [hr, this, wholeOf_self]
  · have hne : ∀ m : Nat, (m : Rat) ≠ num / den := fun m hm => by
      rw [eq_div_iff hd] at hm
      exact hr (Nat.mod_eq_zero_of_dvd ⟨m, by rw [mul_comm]; exact_mod_cast hm.symm⟩)
    refine ⟨by simpa [hr] using wholeOf_pick hden hr, ?_⟩
    rw [decide_eq_false (hne _)]
    simpa using hr

/-! ### `frnd` -/

theorem magnitude_eq_abs (q : Rat) : magnitude q = |q| := by
  unfold magnitude
  split
  next h => exact (abs_of_neg h).symm
  next h => exact (abs_of_nonneg (not_lt.1 h)).symm

theorem magnitude_ratOf : magnitude (ratOf (.fin s n 1 e)) = n * 2 ^ e := by
  rw [magnitude_eq_abs, abs_ratOf]

/-- ± m. -/
def signedWhole (s : Bool) (m : Nat) : Int := if s then -(m : Int) else m

theorem signedWhole_cast (s : Bool) (m : Nat) : (signedWhole s m : Rat) = signFactor s * m := by
  cases s <;> simp [signedWhole, signFactor]

theorem WholeOf.integerOf {mode : Nat} {v : Rat} (h : WholeOf mode s v m) : IntegerOf mode (signFactor s * v) (signedWhole s m) := by
  have hd : |(signedWhole s m : Rat) - signFactor s * v| = |(m : Rat) - v| := by
    rw [signedWhole_cast, ← mul_sub, abs_signFactor_mul]
  simp only [IntegerOf, magnitude_eq_abs, hd]
  refine ⟨h.near, fun h0 => ⟨(h.nearest h0).1, fun ht => ?_⟩, fun h1 => ?_, fun h2 => ?_, fun h3 => ?_⟩
  · have := (h.nearest h0).2 ht
    unfold signedWhole
    split <;> omega
  · rw [signedWhole_cast, abs_signFactor_mul, abs_signFactor_mul, Nat.abs_cast]
    exact (h.inward (.inl h1)).trans (le_abs_self v)
  · rw [signedWhole_cast]
    cases s with
    | false => simpa [signFactor] using h.outward (.inl ⟨h2, rfl⟩)
    | true => simpa [signFactor] using h.inward (.inr (.inl ⟨h2, rfl⟩))
  · rw [signedWhole_cast]
    cases s with
    | false => simpa [signFactor] using h.inward (.inr (.inr ⟨h3, rfl⟩))
    | true => simpa [signFactor] using h.outward (.inr ⟨h3, rfl⟩)

theorem frnd_of_fin {d : Nat} (h : fv F i.a = .fin s n d e) :
    frnd F i c =
      if n = 0 ∨ (F.fbits : Int) ≤ log2Ratio n d + e then { x := dw (i.a.toNat % 2 ^ F.width) }
      else fOut F (.fin s (roundInt s n d e c).1 1 0) { nx := !(roundInt s n d e c).2 } rne := by
  rw [frnd, h]
  simp

theorem two_pow_le_magnitude_iff (hn : n ≠ 0) (k : Nat) :
    ((2 ^ k : Nat) : Rat) ≤ magnitude (ratOf (.fin s n 1 e)) ↔ (k : Int) ≤ log2Ratio n 1 + e := by
  rw [le_log2Ratio_iff hn, magnitude_ratOf, zpow_natCast, Nat.cast_pow, Nat.cast_ofNat]

theorem frnd_zero (hF : F.IsIeee) (h : fv F i.a = .fin s 0 1 e) (hh : F.Holds i.a.toNat s 0 e) :
    frnd F i c = fOut F (.zero s) Flags.none rne := by
  rw [frnd_of_fin h, if_pos (.inl rfl), hh.zero rfl]
  refine Eq.trans ?_ (fOut_zero hF).symm
  cases s <;> simp [signedCode]

/-- A source below the values that are all whole: the number it is rounded to, and its flag. -/
theorem frnd_below (hF : F.IsIeee) (hb : 1 ≤ F.bias) (hw : F.fbits + F.bias + 2 ≤ 2 ^ F.ebits) (h : fv F i.a = .fin s n 1 e)
    (hh : F.Holds i.a.toNat s n e) (hm : magnitude (ratOf (.fin s n 1 e)) < ((2 ^ F.fbits : Nat) : Rat)) :
    ∃ m, WholeOf c.mode s (n * 2 ^ e) m ∧ frnd F i c =
      { x := dw (F.encode (.fin s m 1 0) rne).1, fl := ({ nx := decide ((m : Rat) ≠ n * 2 ^ e) } : Flags).bits } := by
  by_cases hn : n = 0
  · subst hn
    refine ⟨0, by simpa using wholeOf_self c.mode s 0, ?_⟩
    rw [frnd_zero hF h hh, fOut, Machine.Num.zero]
    simp [encode_zero_flags hF]
    rfl
  · obtain ⟨hwhole, hexact⟩ := roundInt_spec s n e c
    have hle := hwhole.le (magnitude_ratOf ▸ hm)
    refine ⟨_, hwhole, ?_⟩
    rw [frnd_of_fin h, if_neg (not_or.2 ⟨hn, fun hk => hm.not_ge ((two_pow_le_magnitude_iff hn _).2 hk)⟩), fOut]
    simp [encode_whole_flags hF hb hw hle, hexact]

end

theorem whole_range {F : Fmt} (hF : F ∈ [f32, f64]) : 1 ≤ F.bias ∧ F.fbits + F.bias + 2 ≤ 2 ^ F.ebits := by
  revert F
  decide

theorem integralExactness : IntegralExactness := by
  intro F hF i c
  have hI := isIeee_of_mem hF
  obtain ⟨hb, hw⟩ := whole_range hF
  refine ⟨fun ha hm => ?large, fun ha hm => ?small, fun ha => ?nan, fun neg ha => ?infinity⟩
  case large =>
    obtain ⟨s, n, e, hx, -⟩ := exists_of_isFin hI ha
    rw [hx] at hm
    rw [frnd_of_fin hx, if_pos]
    exact or_iff_not_imp_left.2 fun hn => (two_pow_le_magnitude_iff hn _).1 hm
  case small =>
    obtain ⟨s, n, e, hx, hh⟩ := exists_of_isFin hI ha
    rw [hx] at hm ⊢
    obtain ⟨m, hwhole, hf⟩ := frnd_below (c := c) hI hb hw hx hh hm
    refine ⟨signedWhole s m, .fin s m 1 0, ?_, rfl, ?_, rfl, by rw [hf], ?_⟩
    · rw [ratOf_fin_one]
      exact hwhole.integerOf
    · rw [ratOf_fin_one, zpow_zero, mul_one, signedWhole_cast]
    · rw [hf, signedWhole_cast, ratOf_fin_one]
      simp only [ne_eq, mul_right_inj' (signFactor_ne_zero s)]
  case nan =>
    rw [frnd, Num.eq_nan_of_isNan ha]
    exact fOut_nan hI
  case infinity =>
    rw [frnd, ha]
    exact fOut_inf hI

/-! ### `fldexp` -/

section
variable {F : Fmt} {c : Rc} {s : Bool} {n d : Nat} {e : Int} {i : LaneIn}

/-- The exponent that `fldexp` adds. -/
def clampScale (k : Int) : Int := if k < -5000 then -5000 else if 5000 < k then 5000 else k

theorem fldexp_of_fin (h : fv F i.a = .fin s n d e) :
    fldexp F i c = if n = 0 then fOut F (.zero s) Flags.none c
      else fOut F (.fin s n d (e + clampScale (valOf true 32 i.b))) Flags.none c := by
  rw [fldexp, h]
  simp [clampScale]

theorem scale_range (hF : F ∈ [f32, f64]) : 0 < F.ebits ∧ 2 ^ F.ebits + F.fbits + 25 ≤ 5000 := by
  revert F
  decide

/-- Beyond ±5000 the result is that of an overflow, or of a number too small for any rounding to tell. -/
theorem encode_clampScale (hF : F ∈ [f32, f64]) {code : Nat} (hn : n ≠ 0) (hh : F.Holds code s n e) (k : Int) :
    F.encode (.fin s n 1 (e + clampScale k)) c = F.encode (.fin s n 1 (e + k)) c := by
  have hI := isIeee_of_mem hF
  obtain ⟨heb, hrange⟩ := scale_range hF
  have hlow := hh.low
  have hhigh := hh.high
  unfold clampScale
  split
  next h =>
    rw [encode_fin hI hn (roundIdx_far_below hI hn hh.num (by omega)),
      encode_fin hI hn (roundIdx_far_below hI hn hh.num (by omega))]
  split
  next h => rw [encode_huge hI heb hn (by omega), encode_huge hI heb hn (by omega)]
  next h => rfl

end

theorem scaledExactness : ScaledExactness := by
  intro F hF i c
  have hI := isIeee_of_mem hF
  refine ⟨fun ha => ?finite, fun ha => ?nan, fun neg ha => ?infinity⟩
  case finite =>
    obtain ⟨s, n, e, hx, hh⟩ := exists_of_isFin hI ha
    rw [hx, fldexp_of_fin hx]
    split
    next hn => exact roundsExact_fOut rfl (by simp [hn, Machine.Num.zero, ratOf_fin_one]) fun _ => rfl
    next hn =>
      rw [fOut, encode_clampScale hF hn hh]
      refine roundsExact_fOut rfl ?_ fun _ => rfl
      rw [ratOf_fin_one, ratOf_fin_one, pow2_eq, zpow_add₀ two_ne_zero, mul_assoc, mul_assoc]
  case nan =>
    rw [fldexp, Num.eq_nan_of_isNan ha]
    exact fOut_nan hI
  case infinity =>
    rw [fldexp, ha]
    exact fOut_inf hI

end Sys2Proof.Claims
end

section
/-! SUPPORT. The functions and conversions as instructions (R287, R289, R292). -/

namespace Sys2Proof.Claims

open Sys2Proof.Machine

theorem fFunctionVarying_completes : ∀ k ∈ fFunctionVarying, k.Completes := by
  simp only [fFunctionVarying, List.forall_mem_cons, List.not_mem_nil, IsEmpty.forall_iff, implies_true, and_true]
  refine ⟨?_, ?_, ?_, ?_, ?_, ?_, ?_, ?_⟩ <;> exact fun s g x h r hr => hr.ok rfl

theorem fFunctionUniform_completes : ∀ k ∈ fFunctionUniform, k.Completes := by
  simp only [fFunctionUniform, List.forall_mem_cons, List.not_mem_nil, IsEmpty.forall_iff, implies_true, and_true]
  refine ⟨?_, ?_⟩ <;> exact fun s g x h r hr => hr.ok rfl

theorem fConvertVarying_completes : ∀ k ∈ fConvertVarying, k.Completes := by
  simp only [fConvertVarying, List.forall_mem_cons, List.not_mem_nil, IsEmpty.forall_iff, implies_true, and_true]
  refine ⟨?_, ?_, ?_⟩ <;> exact fun s g x h r hr => hr.ok rfl

theorem fConvertUniform_completes : ∀ k ∈ fConvertUniform, k.Completes := by
  simp only [fConvertUniform, List.forall_mem_cons, List.not_mem_nil, IsEmpty.forall_iff, implies_true, and_true]
  refine ⟨?_, ?_⟩ <;> exact fun s g x h r hr => hr.ok rfl

theorem floatFunctions : FloatFunctions :=
  ⟨fFunctionVarying_completes, fFunctionUniform_completes, functionExactness, functionSpecials⟩

theorem floatConversions : FloatConversions :=
  ⟨fConvertVarying_completes, fConvertUniform_completes, conversionExactness, integralExactness, scaledExactness⟩

/-- Settles O9: every instruction's own effect is its lane function; the roots round a value on their side of every boundary
(`sq_compare`), `fldexp` clamps its scale where no rounding can tell, and the other results are those of the exact number. -/
theorem floatFunctionsAndConversions : Obligations.FloatFunctionsAndConversions := ⟨floatFunctions, floatConversions⟩

end Sys2Proof.Claims
end

section
/-! SUPPORT. Engine instructions at issue: copies and matrix operations that enter their queues, or are held back by a full one (R186,
R351 to R353, R356 to R358). -/

namespace Sys2Proof.Machine

variable {s : State} {g : Group} {x : Split} {e : EArgs} {b : Block} {t : Task} {A B : Fmt} {gather : Group → List Nat}

/-! ### Matrix loops -/

theorem mloopOwn_full (hb : s.block? g.block = some b) (hq : 32 ≤ s.mqLen g.core) : mloopOwn e gather s g x = .wait := by
  simp only [mloopOwn, hb, if_pos hq]

theorem mloopOwn_ok {d : MDesc} (hb : s.block? g.block = some b) (hq : s.mqLen g.core < 32) (ht : b.token = some g.gindex)
    (hs : s.slotsOf g [e.b.toNat % 8, e.b.toNat / 16 % 8] = .ok [A, B]) (hp : max A.precision B.precision < 25)
    (hd : MDesc.of ((g.viewAt s.now).quad e.s.toNat) A.width B.width = some d)
    (hr : rangeEnd (d.stepBytes (gather (g.viewAt s.now)) A.width B.width (d.nstep - 1)) ≤ b.scrSize) :
    mloopOwn e gather s g x =
      .ok (((s.noteSlot g (e.b.toNat % 8)).noteSlot g (e.b.toNat / 16 % 8)).queueM g b e.d.toNat
        (.loop d (gather (g.viewAt s.now)) (e.b.toNat % 8) (e.b.toNat / 16 % 8))
        (rowList (d.rows (gather (g.viewAt s.now)) A.width B.width) b.scrSize) []) (some (s.now + 1)) := by
  have how : b.owns g = true := beq_iff_eq.2 ht
  obtain ⟨parts, hnoted⟩ := (s.noted_noteSlot g (e.b.toNat % 8)).noteSlot g (e.b.toNat / 16 % 8)
  simp only [mloopOwn, hb, hs, if_neg (Nat.not_le.2 hq), how, Bool.not_true, Bool.false_eq_true, if_false,
    if_neg (Nat.not_le.2 hp), hd, if_neg (Nat.not_lt.2 hr), hnoted]

end Sys2Proof.Machine

namespace Sys2Proof.Claims

open Sys2Proof.Machine

theorem copyQueues : CopyQueues := by
  intro s g x h e b t d i mode k rows hr hb ht hq hd hs hlo hhi hm hok hdet hprot hcut
  have hmatch : (if 0 ≤ d.gSpan.1 ∧ d.gSpan.2 < (2 : Int) ^ 57 then t.match_ d.gSpan.1.toNat d.gSpan.2.toNat none else none) =
      some (i, mode) := (if_pos ⟨hlo, hhi⟩).trans hm
  have hholds : ¬ (t.hdr.det && mode == .shared && !t.holds_ b) = true := by
    simpa [Task.holds_, or_iff_not_imp_left] using hdet
  refine hr.ok rfl rfl ?_
  simp only [hb, ht, if_neg (Nat.not_le.2 hq), hd, if_neg (Nat.not_lt.2 hs), ite_outside_eq, hmatch, hok, hprot, hcut, if_neg hholds,
    Bool.not_true, Bool.false_eq_true, if_false]
  rfl

theorem matrixOperationsQueue : MatrixOperationsQueue := by
  intro s g x h e b A B d rm hb htok hq v kA kB noted loop
  have how : b.owns g = true := beq_iff_eq.2 htok
  refine ⟨fun hr hs hp hd hrange => hr.ok rfl rfl (mloopOwn_ok hb hq htok hs hp hd hrange),
    fun hr hs hp hd hrange => hr.ok rfl rfl (mloopOwn_ok hb hq htok hs hp hd hrange), ?_, fun hr => hr.ok rfl rfl ?_⟩
  · intro w base stride ranges rows hr hs h24 h48 hstride hcode hmode hrange
    have hfields : ¬ (6 ≤ e.b.toNat / 16 || fld w 24 8 != 0 || fld w 48 16 != 0 || stride < 4 * A.width) = true := by
      simp [h24, h48, hstride, hcode]
    have hslot : s.slotsOf g [e.b.toNat % 8] = .ok [A] := hs
    refine hr.ok rfl rfl ?_
    simp only [hb, hslot, if_neg (Nat.not_le.2 hq), how, Bool.not_true, Bool.false_eq_true, if_false]
    refine (if_neg hfields).trans ?_
    rw [show A.mode (e.b.toNat / 16) (g.viewAt s.now).frm.toNat = some rm from hmode]
    exact if_neg (Nat.not_lt.2 hrange)
  · simp only [hb, if_neg (Nat.not_le.2 hq), how, Bool.not_true, Bool.false_eq_true, if_false]

theorem fullQueuesHold : FullQueuesHold := by
  intro s g x h e b t stays hb ht
  refine ⟨fun hq hr => hr.stalls rfl rfl ?_, fun hq => ⟨fun hr => hr.stalls rfl rfl (mloopOwn_full hb hq),
    fun hr => hr.stalls rfl rfl (mloopOwn_full hb hq), fun hr => hr.stalls rfl rfl ?_, fun hr => hr.stalls rfl rfl ?_⟩⟩
  · simp only [hb, ht, if_pos hq]
  · simp only [hb, if_pos hq]
  · simp only [hb, if_pos hq]

/-- Settles O21: with the conditions of R352 and of R356 to R358 met, each own effect passes its checks in their order to the operation
queued; where the queue is full it waits before any of them. -/
theorem engineOperationsQueue : Obligations.EngineOperationsQueue := ⟨copyQueues, matrixOperationsQueue, fullQueuesHold⟩

end Sys2Proof.Claims
end

section
/-! SUPPORT. Batches, the token and the ownership of rows at issue (R185, R188, R359 to R361). -/

namespace Sys2Proof.Machine

variable {s : State} {b : Block} {m : Nat}

theorem State.batchDone_iff :
    s.batchDone b m = true ↔ ∀ o ∈ (s.core b.core).mq, o.block = b.uid → o.batch = 0 ∨ m < o.batch := by
  simp only [State.batchDone, Bool.not_eq_true', List.any_eq_false, Bool.and_eq_true, beq_iff_eq, bne_iff_ne, decide_eq_true_eq, ne_eq,
    not_and, not_le, and_imp]
  exact forall₃_congr fun o _ _ => or_iff_not_imp_left.symm

end Sys2Proof.Machine

namespace Sys2Proof.Claims

open Sys2Proof.Machine

/-- Settles O22: each own effect is the branch that the token, the batch or the range in its hypothesis selects. -/
theorem batchesTokenAndOwnership : Obligations.BatchesTokenAndOwnership := by
  intro s g x h a b hb v k w m
  refine ⟨fun hr ht => hr.ok rfl rfl ?_, fun hr hm hdone => hr.ok rfl rfl ?_, fun hr hm hleft => hr.stalls rfl rfl ?_,
    fun hr ht => hr.ok rfl rfl ?_, fun j hr ht hj => hr.ok rfl rfl ?_,
    fun hr ht hu => hr.ok rfl rfl ?_, fun hr hrange => hr.ok rfl rfl ?_⟩
  · have how : b.owns g = true := beq_iff_eq.2 ht
    simp only [hb, how, Bool.not_true, Bool.false_eq_true, if_false]
    rfl
  · simp only [hb]
    exact (if_neg (Nat.not_lt.2 hm)).trans (if_pos (State.batchDone_iff.2 hdone))
  · have hnot : ¬ s.batchDone b m = true := fun hd => by
      obtain ⟨o, ho, hblock, h0, hle⟩ := hleft
      exact (State.batchDone_iff.1 hd o ho hblock).elim h0 (Nat.not_lt.2 hle)
    simp only [hb]
    exact (if_neg (Nat.not_lt.2 hm)).trans (if_neg hnot)
  · simp only [hb, ht]
  · simp only [hb, ht, if_neg (beq_iff_eq.not.2 hj)]
  · simp [hb, Block.owns, ht, hu]
  · simp only [hb]
    exact if_neg (Nat.not_lt.2 hrange)

end Sys2Proof.Claims
end

section
/-! SUPPORT. `work` and `spawn` at issue (R191, R350, R367, R368). -/

namespace Sys2Proof.Machine

variable {s : State} {b : Block}

/-! ### The distributor (R191) -/

theorem Cursor.next_eq (c : Cursor) :
    let beg := c.pos % c.kiter
    let fin := min c.kiter (beg + c.stop - c.pos)
    c.next = (if c.pos = c.stop then (0, 0, 0, 2) else (c.pos / c.kiter, beg, fin, if beg = 0 ∧ fin = c.kiter then 0 else 1),
      if c.pos = c.stop then c else { c with pos := c.pos + (fin - beg) }) := by
  intro beg fin
  by_cases h : c.pos = c.stop
  · simp [Cursor.next, h]
  · have hflag : (if beg != 0 || fin != c.kiter then 1 else 0) = if beg = 0 ∧ fin = c.kiter then 0 else 1 := by
      by_cases h' : beg = 0 ∧ fin = c.kiter
      · rw [if_pos h', if_neg (by simp [h'])]
      · rw [if_neg h', if_pos (by simpa [Decidable.or_iff_not_not_and_not] using h')]
    simp only [Cursor.next, beq_iff_eq, if_neg h]
    rw [← hflag]

/-! ### The image read and its room in a device queue (R368) -/

/-- The request with which a `spawn` reads its image. -/
def spawnRead (s : State) (g : Group) (x : Split) (h : Head) (e : EArgs) (t : Task) (l : List LaneReq) : Req :=
  { mkReq g x s 0xC1 h { MArgs.zero with x := e.s, b := BitVec.ofNat 8 (e.ext.toNat % 16), xk := .unif } .spawn l true x.mask with
    gen := s.uid, det := t.hdr.det }

/-- Whether the device queue that a `spawn` names has no room. -/
def State.spawnFull (s : State) (b : Block) (n : Nat) : Bool :=
  match s.spawnQueue b n with
  | some q => q.slots ≤ q.tail - q.head + (s.spawnsOut b n).length
  | none => false

theorem State.not_spawnFull_iff {n : Nat} : ¬ s.spawnFull b n = true ↔
    ∀ q, s.spawnQueue b n = some q → q.tail - q.head + (s.spawnsOut b n).length < q.slots := by
  unfold State.spawnFull
  cases s.spawnQueue b n <;> simp

end Sys2Proof.Machine

namespace Sys2Proof.Claims

open Sys2Proof.Machine

theorem workGivesTheNextPiece : WorkGivesTheNextPiece := by
  intro s g x h e b t c hb ht n tiles iters total first hc hr beg fin r c' d put
  refine hr.ok rfl rfl ?_
  obtain hw | ⟨hw, htiles, hiters, rfl⟩ := hc
  · simp only [hb, ht, hw, c.next_eq]
    rfl
  · have hstart : ¬ (tiles == 0 || iters == 0) = true := by simp [htiles, hiters]
    simp only [tiles, iters, n] at hstart
    simp only [hb, ht, hw, if_neg hstart, Cursor.next_eq]
    rfl

theorem spawnReadsItsImage : SpawnReadsItsImage := by
  intro s g x h e b t l hb ht n room m addr hr
  have hroom : room ↔ ¬ s.spawnFull b n = true := State.not_spawnFull_iff.symm
  refine ⟨fun hq hl => hr.ok rfl rfl ?_, fun hq => hr.stalls rfl rfl ?_, fun c f hq hf hc => hr.fault rfl rfl ?_,
    fun f hq hf => ?_⟩
  · simp only [hb, ht]
    refine (if_neg (hroom.1 hq)).trans ?_
    simp only [addr] at hl
    rw [hl]
  · simp only [hb, ht]
    exact if_pos (not_not.1 (mt hroom.2 hq))
  · simp only [hb, ht]
    refine (if_neg (hroom.1 hq)).trans ?_
    simp only [addr] at hf
    rw [hf]
    exact if_neg (beq_iff_eq.not.2 hc)
  · refine hr.packet (q := spawnRead s g x h e t _) rfl rfl ?_
    simp only [hb, ht]
    refine (if_neg (hroom.1 hq)).trans ?_
    simp only [addr] at hf
    rw [hf]
    exact if_pos rfl

/-- Settles O24: `work` gives what `Cursor.next` gives of the block's cursor or of its first share; `spawn` waits where its queue is
full, else goes as the checks of its read say. -/
theorem workAndSpawn : Obligations.WorkAndSpawn := ⟨workGivesTheNextPiece, spawnReadsItsImage⟩

end Sys2Proof.Claims
end

section
/-! SUPPORT. Exact values through products and sums (R159, R177): what `Num.mul`, `Num.add` and `dot` are of rational numbers. -/

namespace Sys2Proof.Machine

open Sys2Proof.Claims (ratOf signFactor)

variable {x y : Num} {p q : Rat} {F : Fmt}

/-! ### Values that a denominator of zero does not spoil -/

/-- Where it is a number, its denominator is not zero. -/
def Num.Proper (x : Num) : Prop := ∀ s n d e, x = .fin s n d e → d ≠ 0

/-- It is a proper number of this value. -/
structure Num.Exact (x : Num) (q : Rat) : Prop where
  isFin  : x.isFin = true
  proper : x.Proper
  value  : ratOf x = q

theorem Num.Proper.exact (hp : x.Proper) (hx : x.isFin = true) : x.Exact (ratOf x) := ⟨hx, hp, rfl⟩

theorem Num.Exact.exists_fin (h : x.Exact q) : ∃ s n d e, x = .fin s n d e ∧ d ≠ 0 ∧ signFactor s * (n / d * 2 ^ e) = q := by
  obtain ⟨s, n, d, e, rfl⟩ := Num.exists_of_isFin h.isFin
  exact ⟨s, n, d, e, rfl, h.proper _ _ _ _ rfl, Claims.ratOf_fin.symm.trans h.value⟩

theorem Num.exact_fin (s : Bool) (n : Nat) {d : Nat} (hd : d ≠ 0) (e : Int) :
    (Num.fin s n d e).Exact (signFactor s * (n / d * 2 ^ e)) :=
  ⟨rfl, fun _ _ _ _ h => by cases h; exact hd, Claims.ratOf_fin⟩

theorem Num.proper_of_not_isFin (h : x.isFin = false) : x.Proper := by
  rintro s n d e rfl
  cases h

theorem Num.proper_fin_one (s : Bool) (n : Nat) (e : Int) : (Num.fin s n 1 e).Proper :=
  (Num.exact_fin s n one_ne_zero e).proper

theorem Num.proper_ofInt (j : Int) : (Num.ofInt j).Proper := Num.proper_fin_one _ _ _

theorem Num.Proper.ite {c : Prop} [Decidable c] (hx : x.Proper) (hy : y.Proper) : (if c then x else y).Proper := by
  split <;> assumption

theorem Fmt.proper_idxVal (F : Fmt) (s : Bool) (i : Nat) : (F.idxVal s i).Proper :=
  .ite (.ite (Num.proper_fin_one _ _ _) (Num.proper_fin_one _ _ _)) (Num.proper_fin_one _ _ _)

theorem Fmt.proper_decodeFloat (F : Fmt) (c : Nat) : (F.decodeFloat c).Proper :=
  have hnan : Num.nan.Proper := Num.proper_of_not_isFin rfl
  have hinf (s : Bool) : (Num.inf s).Proper := Num.proper_of_not_isFin rfl
  .ite (.ite (.ite (hinf _) hnan) (F.proper_idxVal _ _))
    (.ite (.ite hnan (.ite (hinf _) (F.proper_idxVal _ _))) (F.proper_idxVal _ _))

theorem Fmt.proper_decode (F : Fmt) (c : Nat) : (F.decode c).Proper :=
  .ite (Num.proper_ofInt _) (.ite (f32.proper_decodeFloat _) (F.proper_decodeFloat _))

/-! ### Zeros -/

theorem Num.Exact.isZero_iff (h : x.Exact q) : x.isZero = true ↔ q = 0 := by
  obtain ⟨s, n, d, e, rfl, hd, rfl⟩ := h.exists_fin
  simp [Claims.signFactor_ne_zero, hd, zpow_ne_zero]

/-! ### Products -/

theorem Num.isFin_mul : (x.mul y).isFin = true ↔ x.isFin = true ∧ y.isFin = true := by
  cases x <;> cases y <;> simp [Num.mul, apply_ite Num.isFin]

theorem Num.Exact.mul (hx : x.Exact p) (hy : y.Exact q) : (x.mul y).Exact (p * q) := by
  obtain ⟨s, n, d, e, rfl, hd, rfl⟩ := hx.exists_fin
  obtain ⟨t, m, c, f, rfl, hc, rfl⟩ := hy.exists_fin
  have hvalue : signFactor s * (n / d * 2 ^ e) * (signFactor t * (m / c * 2 ^ f)) =
      signFactor (s != t) * ((n * m : Nat) / (d * c : Nat) * 2 ^ (e + f)) := by
    rw [zpow_add₀ two_ne_zero]
    push_cast
    cases s <;> cases t <;> simp [signFactor] <;> ring
  rw [hvalue]
  exact Num.exact_fin _ _ (Nat.mul_ne_zero hd hc) _

theorem Num.Proper.mul (hx : x.Proper) (hy : y.Proper) : (x.mul y).Proper := by
  intro s n d e h
  obtain ⟨h1, h2⟩ := Num.isFin_mul.1 (by rw [h]; rfl : (x.mul y).isFin = true)
  exact ((hx.exact h1).mul (hy.exact h2)).proper _ _ _ _ h

/-! ### Sums -/

theorem signFactor_natAbs (j : Int) : signFactor (decide (j < 0)) * (j.natAbs : Rat) = j := by
  rw [Nat.cast_natAbs]
  obtain hj | hj := lt_or_ge j 0
  · simp [signFactor, hj, abs_of_neg hj]
  · simp [signFactor, hj.not_gt, abs_of_nonneg hj]

/-- A sum of proper numbers is the number of the sum; where that is zero and one addend is not, its sign is `z` (R288). -/
theorem Num.Exact.add_spec (hx : x.Exact p) (hy : y.Exact q) (z : Bool) :
    (x.add z y).Exact (p + q) ∧ (p + q = 0 → q ≠ 0 → (x.add z y).sign = z) := by
  have hx0 := hx.isZero_iff
  have hy0 := hy.isZero_iff
  obtain ⟨s, n, d, e, rfl, hd, hp⟩ := hx.exists_fin
  obtain ⟨t, m, c, f, rfl, hc, hq⟩ := hy.exists_fin
  let j : Int := signedAt s (n * c) e (min e f) + signedAt t (m * d) f (min e f)
  have hj : (j : Rat) / (d * c : Nat) * 2 ^ min e f = p + q := by
    have h2 : (2 : Rat) ^ min e f ≠ 0 := zpow_ne_zero _ two_ne_zero
    have hd' : (d : Rat) ≠ 0 := Nat.cast_ne_zero.2 hd
    have hc' : (c : Rat) ≠ 0 := Nat.cast_ne_zero.2 hc
    simp only [j]
    rw [Int.cast_add, Claims.signedAt_eq (min_le_left e f), Claims.signedAt_eq (min_le_right e f), Claims.ratOf_fin_one,
      Claims.ratOf_fin_one, ← hp, ← hq]
    push_cast
    field_simp
  simp only [Num.isZero_fin, beq_iff_eq] at hx0 hy0
  simp only [Num.add]
  split
  next h =>
    simp only [Bool.and_eq_true, beq_iff_eq] at h
    have hq0 : q = 0 := hy0.1 h.2
    refine ⟨?_, fun _ hne => absurd hq0 hne⟩
    simpa [Num.zero, hx0.1 h.1, hq0] using Num.exact_fin (if s == t then s else z) 0 one_ne_zero 0
  · split
    next h =>
      have hj0 : j = 0 := beq_iff_eq.1 h
      refine ⟨?_, fun _ _ => rfl⟩
      rw [← hj, hj0]
      simpa [Num.zero] using Num.exact_fin z 0 one_ne_zero 0
    next h =>
      have hj0 : j ≠ 0 := fun h0 => h (beq_iff_eq.2 h0)
      refine ⟨?_, fun h0 => absurd ?_ hj0⟩
      · have hz := Num.exact_fin (decide (j < 0)) j.natAbs (Nat.mul_ne_zero hd hc) (min e f)
        rwa [mul_comm_div, ← mul_assoc, signFactor_natAbs, ← mul_comm_div, hj] at hz
      · have hdc : ((d * c : Nat) : Rat) ≠ 0 := Nat.cast_ne_zero.2 (Nat.mul_ne_zero hd hc)
        rw [← hj] at h0
        simpa [hd, hc, zpow_ne_zero] using h0

theorem Num.Exact.add (hx : x.Exact p) (hy : y.Exact q) (z : Bool) : (x.add z y).Exact (p + q) := (hx.add_spec hy z).1

/-! ### Sums of products (R177) -/

theorem exact_foldl_products {f g : Nat → Num} {l : List Nat}
    (h : ∀ k ∈ l, (f k).Exact (ratOf (f k)) ∧ (g k).Exact (ratOf (g k)))
    (hx : x.Exact p) :
    (((l.map f).zip (l.map g)).foldl (fun s (x, y) => s.add false (x.mul y)) x).Exact
      (p + (l.map fun k => ratOf (f k) * ratOf (g k)).sum) := by
  induction l generalizing x p with
  | nil => simpa using hx
  | cons k l ih =>
    obtain ⟨hf, hg⟩ := h k List.mem_cons_self
    have := ih (fun i hi => h i (List.mem_cons_of_mem _ hi)) (hx.add (hf.mul hg) false)
    simpa [add_assoc] using this

theorem exact_dot {f g : Nat → Num} {l : List Nat} (h : ∀ k ∈ l, (f k).Exact (ratOf (f k)) ∧ (g k).Exact (ratOf (g k))) :
    (dot (l.map f) (l.map g)).Exact (l.map fun k => ratOf (f k) * ratOf (g k)).sum := by
  have hzero : (Num.zero false).Exact 0 := by simpa [Num.zero] using Num.exact_fin false 0 one_ne_zero 0
  simpa [dot] using exact_foldl_products h hzero

/-- The scale of a record is a proper number where it is one (R183). -/
theorem MDesc.proper_scale (d : MDesc) (scr : List Host.Cell) (r base sbase w s2 : Nat) : (d.scale scr r base sbase w s2).Proper := by
  unfold MDesc.scale
  split
  · exact Num.proper_ofInt 1
  · dsimp only
    split
    · exact (e4m3.proper_decode _).mul (f32.proper_decode _)
    · exact e8m0.proper_decode _

end Sys2Proof.Machine
end

section
/-! SUPPORT. Accumulator cells (R175 to R177): the table of a tile's cells, and the cells that a step of a loop leaves. -/

namespace Sys2Proof.Machine

variable {b : Block} {tile i j : Nat} {f : Nat → BitVec 36}

/-! ### Tables by key -/

section
variable {α : Type} {a : α} {k : Nat} {l m : List (Nat × α)}

theorem getKey_of_absent (h : ∀ y ∈ l, y.1 ≠ k) : getKey a k l = a := by
  induction l with
  | nil => rfl
  | cons y l ih =>
    rw [getKey, if_neg (by simpa using h y List.mem_cons_self)]
    exact ih fun z hz => h z (List.mem_cons_of_mem _ hz)

theorem getKey_append_of_absent (h : ∀ y ∈ l, y.1 ≠ k) : getKey a k (l ++ m) = getKey a k m := by
  induction l with
  | nil => rfl
  | cons y l ih =>
    rw [List.cons_append, getKey, if_neg (by simpa using h y List.mem_cons_self)]
    exact ih fun z hz => h z (List.mem_cons_of_mem _ hz)

theorem getKey_append_absent (h : ∀ y ∈ m, y.1 ≠ k) : getKey a k (l ++ m) = getKey a k l := by
  induction l with
  | nil => exact getKey_of_absent h
  | cons y l ih => rw [List.cons_append, getKey, getKey, ih]

theorem getKey_filter {p : Nat → Bool} (hp : p k = true) : getKey a k (l.filter fun y => p y.1) = getKey a k l := by
  induction l with
  | nil => rfl
  | cons y l ih =>
    simp only [List.filter_cons, getKey, ← ih]
    split
    · rfl
    next hy => rw [if_neg fun h => hy (by rwa [beq_iff_eq.1 h])]

end

/-! ### The cells of a tile (R175) -/

/-- The cells that `setTile` lists for a tile: those that are not +0. -/
def tileCells (tile : Nat) (f : Nat → BitVec 36) (l : List Nat) : List (Nat × BitVec 36) :=
  l.filterMap fun i => if f i == 0 then none else some (1024 * tile + i, f i)

theorem setTile_eq (cells : List (Nat × BitVec 36)) (tile : Nat) (f : Nat → BitVec 36) :
    setTile cells tile f = cells.filter (fun x => x.1 < 1024 * tile) ++ tileCells tile f (List.range 1024) ++
      cells.filter fun x => 1024 * (tile + 1) ≤ x.1 := rfl

theorem tileCells_cons (k : Nat) (l : List Nat) :
    tileCells tile f (k :: l) = if f k = 0 then tileCells tile f l else (1024 * tile + k, f k) :: tileCells tile f l := by
  rw [tileCells, List.filterMap_cons]
  by_cases hk : f k = 0
  · simp [hk, tileCells]
  · rw [if_neg hk, if_neg (by simpa using hk)]
    rfl

theorem exists_key_of_mem_tileCells {l : List Nat} {y : Nat × BitVec 36} (hy : y ∈ tileCells tile f l) :
    ∃ k ∈ l, y.1 = 1024 * tile + k := by
  obtain ⟨k, hk, he⟩ := List.mem_filterMap.1 hy
  split at he
  · cases he
  · cases he
    exact ⟨k, hk, rfl⟩

theorem getKey_tileCells {l : List Nat} (hi : i ∈ l) : getKey 0 (1024 * tile + i) (tileCells tile f l) = f i := by
  induction l with
  | nil => cases hi
  | cons k l ih =>
    by_cases hil : i ∈ l
    · rw [tileCells_cons]
      split
      · exact ih hil
      · rw [getKey, ih hil]
        split
        next h => rw [Nat.add_left_cancel (beq_iff_eq.1 h)]
        · rfl
    · obtain rfl : i = k := (List.mem_cons.1 hi).resolve_right hil
      have hrest : getKey 0 (1024 * tile + i) (tileCells tile f l) = 0 := getKey_of_absent fun y hy h => by
        obtain ⟨k, hk, he⟩ := exists_key_of_mem_tileCells hy
        exact hil (Nat.add_left_cancel (he.symm.trans h) ▸ hk)
      rw [tileCells_cons]
      split
      next h0 => rw [hrest, h0]
      · rw [getKey, if_pos (beq_self_eq_true _)]

theorem getKey_setTile_same (cells : List (Nat × BitVec 36)) (hi : i < 1024) :
    getKey 0 (1024 * tile + i) (setTile cells tile f) = f i := by
  rw [setTile_eq, List.append_assoc, getKey_append_of_absent, getKey_append_absent, getKey_tileCells (List.mem_range.2 hi)]
  · intro y hy
    have := of_decide_eq_true (List.mem_filter.1 hy).2
    omega
  · intro y hy
    have := of_decide_eq_true (List.mem_filter.1 hy).2
    omega

theorem getKey_setTile_other (cells : List (Nat × BitVec 36)) {other : Nat} (ho : other ≠ tile) (hi : i < 1024) :
    getKey 0 (1024 * other + i) (setTile cells tile f) = getKey 0 (1024 * other + i) cells := by
  have hnew : ∀ y ∈ tileCells tile f (List.range 1024), y.1 ≠ 1024 * other + i := by
    intro y hy
    obtain ⟨k, hk, he⟩ := exists_key_of_mem_tileCells hy
    have := List.mem_range.1 hk
    omega
  rw [setTile_eq]
  obtain hlt | hgt := lt_or_gt_of_ne ho
  · rw [List.append_assoc, getKey_append_absent, getKey_filter (p := fun k => decide (k < 1024 * tile)) (by simp; omega)]
    intro y hy
    obtain hy | hy := List.mem_append.1 hy
    · exact hnew y hy
    · have := of_decide_eq_true (List.mem_filter.1 hy).2
      omega
  · rw [getKey_append_of_absent, getKey_filter (p := fun k => decide (1024 * (tile + 1) ≤ k)) (by simp; omega)]
    intro y hy
    obtain hy | hy := List.mem_append.1 hy
    · have := of_decide_eq_true (List.mem_filter.1 hy).2
      omega
    · exact hnew y hy

/-! ### A step of a loop (R177, R180 to R183) -/

/-- Element j of the i-th of equally long pieces. -/
theorem getElem?_flatMap_of_length {α β : Type} {g : α → List β} {n : Nat} (hj : j < n) (l : List α)
    (hg : ∀ x, (g x).length = n) :
    (l.flatMap g)[n * i + j]? = (l[i]?).bind fun x => (g x)[j]? := by
  induction l generalizing i with
  | nil => simp
  | cons x l ih =>
    rw [List.flatMap_cons]
    cases i with
    | zero => rw [Nat.mul_zero, Nat.zero_add, List.getElem?_append_left (by rwa [hg])]; rfl
    | succ i =>
      rw [List.getElem?_append_right (by rw [hg, Nat.mul_succ]; omega), hg,
        show n * (i + 1) + j - n = n * i + j by rw [Nat.mul_succ]; omega, ih]
      rfl

variable (b) (tile) (d : MDesc) (gs : List Nat) (A B : Fmt) (t : Nat)

/-- The elements of row `gi` of A at step t, and its scale. -/
def Block.rowA (gi : Nat) : List Num × Num :=
  ((recCodes b.scr (d.ra gi t) A.width).map A.decode, d.scale b.scr (d.ra gi t) d.abase d.asbase A.width (d.a2base + 4 * gi))

/-- The elements of column j of B at step t, and its scale. -/
def Block.colB (j : Nat) : List Num × Num :=
  ((recCodes b.scr (d.rb j t) B.width).map B.decode, d.scale b.scr (d.rb j t) d.bbase d.bsbase B.width (d.b2base + 4 * j))

/-- The scaled sum of a row and a column. -/
def scaledDot (x y : List Num × Num) : Num := ((dot x.1 y.1).mul x.2).mul y.2

/-- The cells of a tile after a step, in order. -/
def Block.steppedCells : List (BitVec 36) :=
  ((((gs.map fun gi => b.rowA d A t gi).flatMap fun x => ((List.range 32).map fun j => b.colB d B t j).map (scaledDot x)).zip
    (List.range 1024)).map fun (T, i) => cellStep (b.cell tile i) T)

theorem Block.matrixStep_eq :
    b.matrixStep tile d gs A B t = { b with tiles := setTile b.tiles tile fun i => (b.steppedCells tile d gs A B t).getD i 0 } := rfl

variable {gs}

theorem Block.getD_steppedCells (hi : i < gs.length) (hi' : i < 32) (hj : j < 32) :
    (b.steppedCells tile d gs A B t).getD (32 * i + j) 0 =
      cellStep (b.cell tile (32 * i + j)) (scaledDot (b.rowA d A t (gs.getD i 0)) (b.colB d B t j)) := by
  have hsum : ((gs.map fun gi => b.rowA d A t gi).flatMap fun x => ((List.range 32).map fun j => b.colB d B t j).map (scaledDot x))[
      32 * i + j]? = some (scaledDot (b.rowA d A t (gs.getD i 0)) (b.colB d B t j)) := by
    rw [getElem?_flatMap_of_length hj _ fun x => by simp]
    simp [hi, hj]
  have hk : (List.range 1024)[32 * i + j]? = some (32 * i + j) := List.getElem?_range (by omega)
  rw [Block.steppedCells, List.getD_eq_getElem?_getD, List.getElem?_map,
    (List.getElem?_zip_eq_some (z := (_, _))).2 ⟨hsum, hk⟩]
  rfl

theorem Block.cell_matrixStep (hi : i < gs.length) (hi' : i < 32) (hj : j < 32) :
    (b.matrixStep tile d gs A B t).cell tile (32 * i + j) =
      cellStep (b.cell tile (32 * i + j)) (scaledDot (b.rowA d A t (gs.getD i 0)) (b.colB d B t j)) := by
  rw [Block.matrixStep_eq, Block.cell, getKey_setTile_same _ (by omega), b.getD_steppedCells tile d A B t hi hi' hj]

theorem Block.cell_matrixStep_other {other c : Nat} (ho : other ≠ tile) (hc : c < 1024) :
    (b.matrixStep tile d gs A B t).cell other c = b.cell other c := by
  rw [Block.matrixStep_eq, Block.cell, getKey_setTile_other _ ho hc, Block.cell]

end Sys2Proof.Machine

namespace Sys2Proof.Claims

open Sys2Proof.Machine

theorem cellRounding : CellRounding := by
  intro acc T a
  simp [cellStep, a]

/-- A cell whose scaled sum is a proper number of value q. -/
theorem cellStep_exact {acc : BitVec 36} {T : Machine.Num} {q : Rat} (hT : T.Exact q) (ha : (accx.decode acc.toNat).isFin = true) :
    (q = 0 → cellStep acc T = acc) ∧
    (q ≠ 0 → ∃ z : Machine.Num, z.isFin = true ∧ ratOf z = ratOf (accx.decode acc.toNat) + q ∧
      (ratOf z = 0 → z.sign = false) ∧ cellStep acc T = BitVec.ofNat 36 (accx.encode z rne).1) := by
  have hz := ((accx.proper_decode acc.toNat).exact ha).add_spec hT false
  refine ⟨fun hq => ?_, fun hq => ⟨_, hz.1.isFin, hz.1.value, fun h0 => hz.2 (hz.1.value.symm.trans h0) hq, ?_⟩⟩
  · rw [cellRounding, if_pos ⟨hT.isZero_iff.2 hq, Num.isNan_of_isFin ha⟩]
  · rw [cellRounding, if_neg fun h => hq (hT.isZero_iff.1 h.1)]

theorem matrixCells : MatrixCells := by
  intro b tile d gs A B t i j hlen hi hj after ra rb x y sa sb old new a
  have hnew : new = cellStep old (((dot ((List.range 32).map x) ((List.range 32).map y)).mul sa).mul sb) := by
    refine (b.cell_matrixStep tile d A B t (hlen ▸ hi) hi hj).trans ?_
    simp only [scaledDot, Block.rowA, Block.colB, recCodes, List.map_map]
    rfl
  refine ⟨hnew, fun other c ho hc => b.cell_matrixStep_other tile d A B t ho hc, fun hxy hsa hsb ha => ?_⟩
  have hdot := exact_dot (f := x) (g := y) (l := List.range 32) fun k hk =>
    have h := hxy k (List.mem_range.1 hk)
    ⟨(A.proper_decode _).exact h.1, (B.proper_decode _).exact h.2⟩
  have hsum := (hdot.mul ((d.proper_scale _ _ _ _ _ _).exact hsa)).mul ((d.proper_scale _ _ _ _ _ _).exact hsb)
  rw [hnew]
  exact cellStep_exact hsum ha

end Sys2Proof.Claims
end

section
/-! SUPPORT. What the engines do of themselves (R186 to R188, R353, R358): a step of a loop, the end of an operation, the end of a
copy. -/

namespace Sys2Proof.Machine

variable {s : State} {c : Nat} {o : MOp} {b : Block} {t0 : Nat}

/-! ### Counting an event (R381) -/

/-- An event counted changes the partitions alone. -/
theorem State.countUp_eq (s : State) (part event place : Nat) :
    s.countUp part event place = { s with parts := (s.countUp part event place).parts } := by
  unfold State.countUp
  split
  · rfl
  · dsimp only
    split <;> rfl

theorem State.countUp_putBlock (s : State) (b : Block) (part event place : Nat) :
    (s.putBlock b).countUp part event place = (s.countUp part event place).putBlock b := by
  have hp : (s.putBlock b).part? part = s.part? part := rfl
  unfold State.countUp
  rw [hp]
  split
  · rfl
  · dsimp only
    split <;> rfl

theorem State.block?_putBlock {b' : Block} (hb : s.block? b.uid = some b) (hu : b'.uid = b.uid) :
    (s.putBlock b').block? b.uid = some b' := by
  unfold State.block? State.putBlock at *
  rw [find?_updIf fun y hy => by rw [beq_iff_eq.1 hy], hb]
  simp [hu]

/-! ### Steps and ends of matrix operations -/

/-- The state as a step of a loop ends without poison (R177, R186, R381). -/
def State.steppedBy (s : State) (c : Nat) (o : MOp) (b b' : Block) : State :=
  let t := (s.putBlock b').countUp b.part 5 c
  t.putCore c { t.core c with
    mq := updIf (·.uid == o.uid) (fun x => { x with step := o.step + 1, ready := s.now }) (t.core c).mq
    mFree := s.now, mTurn := b.lowSlot }

theorem State.steppedBy_spec {b' : Block} (hb : s.block? b.uid = some b) (hu : b'.uid = b.uid) :
    let t := s.steppedBy c o b b'
    t.block? b.uid = some b' ∧
      (t.core c).mq = (s.core c).mq.map (fun x => if x.uid = o.uid then { x with step := o.step + 1, ready := s.now } else x) ∧
      (t.core c).mFree = s.now ∧ t.groups = s.groups ∧ t.mem = s.mem ∧ t.parts = (s.countUp b.part 5 c).parts := by
  have hcount : (s.putBlock b').countUp b.part 5 c = { s.putBlock b' with parts := (s.countUp b.part 5 c).parts } := by
    rw [State.countUp_putBlock, State.countUp_eq]
    rfl
  simp only [State.steppedBy, hcount]
  refine ⟨State.block?_putBlock hb hu, ?_, ?_, rfl, rfl, rfl⟩
  · rw [State.core_putCore, if_pos rfl]
    simp only [updIf, beq_iff_eq]
    rfl
  · rw [State.core_putCore, if_pos rfl]

theorem exec_matrixStep {d : MDesc} {gs : List Nat} {kA kB : Nat} {A B : Fmt} (hturn : s.matrixTurn c = some (o, b, t0))
    (hk : o.kind = .loop d gs kA kB) (hA : s.engineFmt b kA = some A) (hB : s.engineFmt b kB = some B)
    (ht : t0 + s.opTime b o ≤ s.now) (hp : b.stepPoison o.tile (d.stepBytes gs A.width B.width o.step) = none) :
    exec (.matrixStep c) s = .next (s.steppedBy c o b (b.matrixStep o.tile d gs A B o.step)) := by
  change execMatrixStep c s = _
  simp only [execMatrixStep, hturn, if_neg (Nat.not_lt.2 ht), State.endStep, hk, hA, hB, hp]
  rw [State.steppedBy, State.countUp_eq]
  rfl

/-- An operation without steps that is in turn ends once its time has passed (R186, R357, R358). -/
theorem exec_matrixOperationComplete (hs : (s.core c).stepped = none) (hturn : s.matrixTurn c = some (o, b, t0))
    (ht : t0 + s.opTime b o ≤ s.now) : exec (.matrixOperationComplete c) s = .next (s.endWhole c o b) := by
  change execMatrixOperationComplete c s = _
  simp only [execMatrixOperationComplete, hs, hturn, if_neg (Nat.not_lt.2 ht)]

theorem exec_matrixOperationComplete_stepped (hs : (s.core c).stepped = some o) :
    exec (.matrixOperationComplete c) s = .next
      (s.putEngines c { s.core c with mq := (s.core c).mq.filter fun x => x.uid != o.uid }) := by
  change execMatrixOperationComplete c s = _
  simp only [execMatrixOperationComplete, hs]

theorem State.endWhole_zero (hk : o.kind = .zero) : s.endWhole c o b = (s.putBlock (b.zeroTile o.tile)).endOp c o b.lowSlot := by
  simp only [State.endWhole, hk]

theorem State.endWhole_out {base stride k rm : Nat} {F : Fmt} (hk : o.kind = .out base stride k rm) (hF : s.engineFmt b k = some F)
    (hbad : ∀ x ∈ b.tileBad, x / 1024 ≠ o.tile) :
    s.endWhole c o b = (s.putBlock (b.outTile o.tile base stride F k rm
      (((s.task? b.task).map (·.hdr.detseed)).getD 0))).endOp c o b.lowSlot := by
  have hclean : (b.tileBad.any fun x => x / 1024 == o.tile) = false := by simpa using hbad
  simp only [State.endWhole, hk, hF, hclean, Bool.false_eq_true, if_false]

/-! ### The end of a copy -/

theorem exec_copyComplete {q q1 : COp} {n : Nat} {s1 : State} (hturn : s.copyTurn c = some (q, b, t0, n))
    (ht : t0 + (n + 255) / 256 ≤ s.now)
    (hrun : (s.putCore c { s.core c with cFree := s.now, cTurn := b.lowSlot }).copyRun (n + q.desc.nrow) q n = (s1, q1, .done)) :
    exec (.copyComplete c) s = .next ((s1.putEngines c { s1.core c with
      cq := (s1.core c).cq.filter fun x => x.uid != q1.uid }).copyGone q1) := by
  change execCopyComplete c s = _
  simp only [execCopyComplete, hturn, if_neg (Nat.not_lt.2 ht), State.copyMove, hrun, State.copyEnd]

end Sys2Proof.Machine

namespace Sys2Proof.Claims

open Sys2Proof.Machine

theorem engineSteps : EngineSteps := by
  intro s c o b t0
  refine ⟨fun d gs kA kB A B hb hturn hk hA hB ht hp => ?_, exec_matrixOperationComplete_stepped, fun hs hturn hk ht => ?_,
    fun base stride k rm F hs hturn hk hF ht hbad => ?_, fun q n s1 q1 => exec_copyComplete⟩
  · exact ⟨_, exec_matrixStep hturn hk hA hB ht hp, State.steppedBy_spec hb rfl⟩
  · rw [exec_matrixOperationComplete hs hturn ht, State.endWhole_zero hk]
  · rw [exec_matrixOperationComplete hs hturn ht, State.endWhole_out hk hF hbad]

/-- Settles O36: a step makes each cell the rounding of the exact sum (`Num.Exact.add_spec`, `exact_dot`) and leaves the other tiles;
an operation and a copy end by the arm of their event. -/
theorem engineEvents : Obligations.EngineEvents := ⟨engineSteps, cellRounding, matrixCells⟩

end Sys2Proof.Claims
end

section
/-! SUPPORT. Slots read back from the bits that the encoder writes (R234, R238 to R245): field by field, format by format, and the
opcode map as the bridge between an instruction and its format. -/

namespace Sys2Proof

/-! ### Fields of joined words -/

section

variable {v w i n : Nat} {x : BitVec v} {y : BitVec w}

/-- `BitVec.extractLsb'_append_eq_of_add_le` for words whose width is written as one number, under which `simp` does not find it. -/
theorem extractLsb'_append_low (h : i + n ≤ w) : BitVec.extractLsb' i n (no_index (x ++ y)) = BitVec.extractLsb' i n y :=
  BitVec.extractLsb'_append_eq_of_add_le h

/-- `BitVec.extractLsb'_append_eq_of_le`, likewise. -/
theorem extractLsb'_append_high (h : w ≤ i) : BitVec.extractLsb' i n (no_index (x ++ y)) = BitVec.extractLsb' (i - w) n x :=
  BitVec.extractLsb'_append_eq_of_le h

end

/-! ### Codes -/

@[simp] theorem Nx.ofBits_bits (n : Nx) : Nx.ofBits n.bits = n := by cases n <;> rfl
@[simp] theorem Nb.ofBits_bits (n : Nb) : Nb.ofBits n.bits = some n := by cases n <;> rfl
@[simp] theorem Xk.ofBits_bits (k : Xk) : Xk.ofBits k.bits = k := by cases k <;> rfl
@[simp] theorem Ord.ofBits_bits (o : Ord) : Ord.ofBits o.bits = o := by cases o <;> rfl

theorem Src.ofBits_kind_field {x : Src} (h : x.literal = none) : Src.ofBits x.kind x.field = x := by
  cases x with
  | lit _ => cases h
  | _ => rfl

/-- Of the operands that an encoding can hold, the literals alone have field 0x80 and kind 3 (R232, R238). -/
theorem Src.literal_isSome {x : Src} (h : x ≠ .imm 0x80) : (x.field == 0x80 && x.kind == 3) = x.literal.isSome := by
  cases x with
  | imm c => simpa [Src.field, Src.kind, Src.literal] using h
  | _ => simp [Src.field, Src.kind, Src.literal]

/-- An operand is its literal where it has one, else what its kind and field say (R238). -/
theorem Src.literal_or_ofBits {x : Src} {lit : Dword} (hl : ∀ y, x.literal = some y → lit = y) :
    (if x.literal.isSome then .lit lit else Src.ofBits x.kind x.field) = x := by
  cases x with
  | lit y => exact congrArg Src.lit (hl y rfl)
  | _ => rfl

/-! ### The head and the payload of a slot (R234) -/

section

variable (op : BitVec 8) (k : BitVec 32) (p : BitVec 40)

theorem slotOp_append : slotOp (op ++ k ++ p) = op := by simp [slotOp, extractLsb'_append_high]

theorem slotPayload_append : slotPayload (op ++ k ++ p) = p := by simp [slotPayload, extractLsb'_append_low]

theorem Head.ofSlot_append (h : Head) : Head.ofSlot (op ++ h.bits ++ p) = h := by
  simp [Head.ofSlot, Head.bits, extractLsb'_append_low, extractLsb'_append_high]

end

/-- The literal slot holds its literal (R245). -/
theorem literalOf_literalSlot (x : Dword) : literalOf (some (literalSlot x)) = .ok x := by
  simp [literalOf, literalSlot, slotOp, extractLsb'_append_low, extractLsb'_append_high]

/-! ### The formats (R238 to R243) -/

section

variable {r : RArgs} {lit : Dword}

theorem rUsesLit_bits (hb : r.b ≠ .imm 0x80) : rUsesLit r.bits = r.b.literal.isSome := by
  simp [rUsesLit, RArgs.bits, extractLsb'_append_low, extractLsb'_append_high, ← Src.literal_isSome hb]

theorem RArgs.ofPayload_bits (ha : r.a.literal = none) (hb : r.b ≠ .imm 0x80) (hl : ∀ x, r.b.literal = some x → lit = x) :
    RArgs.ofPayload r.bits lit = some r := by
  simp only [RArgs.ofPayload, rUsesLit_bits hb]
  simp [RArgs.bits, extractLsb'_append_low, extractLsb'_append_high, Src.ofBits_kind_field ha, Src.literal_or_ofBits hl]

end

section

variable {y : IArgs} {lit : Dword}

theorem iUsesLit_bits (y : IArgs) : iUsesLit y.bits = y.imm.lit.isSome := by
  simp only [iUsesLit, IArgs.bits, extractLsb'_append_low, extractLsb'_append_high, Nat.reduceLeDiff, Nat.reduceAdd, Nat.reduceSub,
    BitVec.extractLsb'_eq_self]
  cases y.imm <;> rfl

theorem IArgs.ofPayload_bits (hl : ∀ x, y.imm.lit = some x → lit = x) : IArgs.ofPayload y.bits lit = some y := by
  obtain ⟨d, m, sub⟩ := y
  simp only [IArgs.ofPayload, iUsesLit_bits]
  cases m with
  | literal x =>
    obtain rfl := hl x rfl
    simp [IArgs.bits, Imm.field, Imm.kind, Imm.lit, extractLsb'_append_low, extractLsb'_append_high]
  | _ => simp [IArgs.bits, Imm.field, Imm.kind, Imm.lit, extractLsb'_append_low, extractLsb'_append_high]

end

theorem MArgs.ofPayload_bits (m : MArgs) : MArgs.ofPayload m.bits = m := by
  simp [MArgs.ofPayload, MArgs.bits, extractLsb'_append_low, extractLsb'_append_high]

theorem EArgs.ofPayload_bits (e : EArgs) : EArgs.ofPayload e.bits = e := by
  simp [EArgs.ofPayload, EArgs.bits, extractLsb'_append_low, extractLsb'_append_high]

theorem XArgs.ofPayload_bits (x : XArgs) : XArgs.ofPayload x.bits = x := by
  simp [XArgs.ofPayload, XArgs.bits, extractLsb'_append_low, extractLsb'_append_high]

/-! ### The opcode map (R249 to R253) -/

/-- The instruction that a constructor makes of a head and a payload of its format. -/
def Mk.make : Mk → Head → Payload → Option Instr
  | .r f, h, .r p => some (f h p)
  | .i f, h, .i p => some (f h p)
  | .m f, h, .m p => some (f h p)
  | .e f, h, .e p => some (f h p)
  | .x f, h, .x p => some (f h p)
  | _, _, _ => none

open Laws.Opcode in
/-- The laws of the opcode map together: every slot instruction stands in it. -/
theorem statement_of_slot {i : Instr} {w : Slot} (hw : i.slot = some w) : Statement i := by
  cases i <;> cases hw <;> simp only [
    nop, iaddV, iaddA, iaddS, isubV, isubA, isubS, imulV, imulA, imulS, imulhV, imulhS, imadV, imadA, imadS, imulwV, imulwS,
    iabsV, iabsS, iminV, iminS, imaxV, imaxS, iaddsatV, iaddsatS, andV, andS, orV, orS, xorV, xorS, notV, notS, shlV, shlA,
    shlS, shrV, shrS, sarV, sarS, rolV, rolS, bfxV, bfxS, bfiV, bfiS, popcV, popcS, clzV, clzS, brevV, brevS, extV, extS,
    iselV, iselS, icmpVarying, icmpUniform, leaV, leaA, leaS, movV, movA, movS, moviV, moviS, amake, alane,
    promUniformToAffine, promUniformToVarying, promAffineToVarying, atest, vfirst, vuni, faddF32V, faddF32S, faddF64V,
    faddF64S, fsubF32V, fsubF32S, fsubF64V, fsubF64S, fmulF32V, fmulF32S, fmulF64V, fmulF64S, ffmaF32V, ffmaF32S, ffmaF64V,
    ffmaF64S, fminF32V, fminF32S, fminF64V, fminF64S, fmaxF32V, fmaxF32S, fmaxF64V, fmaxF64S, fcmpF32V, fcmpF32S, fcmpF64V,
    fcmpF64S, fdivF32V, fdivF32S, fdivF64V, fdivF64S, fsqrtF32V, fsqrtF32S, fsqrtF64V, fsqrtF64S, frcp, frsq, flog2, fexp2,
    fsin, fcos, fcvtV, fcvtS, frndV, frndS, fclass, fldexp, xunpk, xpack, xcvt, qrow, qscale, shfl, shfx, lredS, lredV, lscan,
    ballot, rng, hshV, hshS, argmx, ldV, ldS, stV, stS, lds, sts, ldw, stw, atomV, atomS, red, redo, prf, fence, cmtk, cmtp,
    wcnt, cpy, mloop, mloopg, mout, mzero, mbat, mwait, macq, mrel, ownq, bari, bara, barx, barw, gbar, rbar, work, spawn, brl,
    lcset, yield, sleep, trap, rte, bkpt, getsr, setsr, clk, pmc, winld, winst, hsave, hrest]

/-- A slot instruction's opcode stands in the opcode map under a constructor that makes the instruction again. -/
theorem exists_make_of_slot {i : Instr} {w : Slot} (hw : i.slot = some w) :
    ∃ m, lookupOp w.op opcodeMap = some m ∧ m.make w.head w.pl = some i := by
  have hs := statement_of_slot hw
  simp only [Laws.Opcode.Statement, hw] at hs
  split at hs
  case h_6 => exact hs.elim
  all_goals
    rename_i hm hp
    exact ⟨_, hm, by rw [hp]; exact congrArg some hs⟩

section

variable {m : Mk} {h : Head} {p : Payload} {i : Instr} {lit : Dword}

/-- What the bits of a payload can hold (R238): operand A of the R format has no literal, and its B is not the immediate that stands
for one. -/
def Payload.Encodable : Payload → Prop
  | .r args => args.a.literal = none ∧ args.b ≠ .imm 0x80
  | _ => True

theorem srcEnc_of_rOk {op : Nat} {x : RArgs} (h : rOk op x = true) : srcEnc x = true := by
  unfold rOk at h
  split at h
  · cases h
  · simp only [Bool.and_eq_true] at h
    obtain ⟨⟨⟨⟨⟨⟨⟨henc, -⟩, -⟩, -⟩, -⟩, -⟩, -⟩, -⟩ := h
    exact henc

theorem Slot.encodable_of_ok {w : Slot} (hw : w.ok = true) : w.pl.Encodable := by
  obtain ⟨op, h, p⟩ := w
  cases p with
  | r x =>
    obtain ⟨-, hok⟩ := Bool.and_eq_true_iff.1 hw
    obtain ⟨ha, hb⟩ := Bool.and_eq_true_iff.1 (srcEnc_of_rOk hok)
    refine ⟨?_, by simpa using hb⟩
    cases e : x.a with
    | lit _ => simp [e] at ha
    | _ => rfl
  | _ => trivial

theorem Mk.build_bits (hm : m.make h p = some i) (hp : p.Encodable) (hl : ∀ x, p.literal = some x → lit = x) :
    m.build h p.bits lit = some i := by
  cases m <;> cases p <;> cases hm
  case r.r.refl =>
    obtain ⟨ha, hb⟩ := hp
    simp [Mk.build, Payload.bits, RArgs.ofPayload_bits ha hb hl]
  case i.i.refl => simp [Mk.build, Payload.bits, IArgs.ofPayload_bits hl]
  case m.m.refl => simp [Mk.build, Payload.bits, MArgs.ofPayload_bits]
  case e.e.refl => simp [Mk.build, Payload.bits, EArgs.ofPayload_bits]
  case x.x.refl => simp [Mk.build, Payload.bits, XArgs.ofPayload_bits]

/-- A slot uses a literal just where its payload has one (R232). -/
theorem usesLit_bits {b : BitVec 80} (hk : lookupOp (slotOp b) opcodeMap = some m) (hb : slotPayload b = p.bits)
    (hm : m.make h p = some i) (hp : p.Encodable) : usesLit b = p.literal.isSome := by
  simp only [usesLit, hk, hb]
  cases m <;> cases p <;> cases hm
  case r.r.refl => exact rUsesLit_bits hp.2
  case i.i.refl => exact iUsesLit_bits _
  all_goals rfl

end

/-! ### Slots -/

section

variable {i : Instr} {w : Slot}

theorem usesLit_of_slot (hi : i.slot = some w) (hok : w.ok = true) :
    usesLit (w.op ++ w.head.bits ++ w.pl.bits) = w.pl.literal.isSome := by
  obtain ⟨m, hk, hm⟩ := exists_make_of_slot hi
  exact usesLit_bits (by rw [slotOp_append]; exact hk) (slotPayload_append _ _ _) hm (Slot.encodable_of_ok hok)

/-- A slot is read back where the slot after it holds its literal; without a literal, whatever follows (R247, R248). -/
theorem decodeSlot_of_slot (hi : i.slot = some w) (hwf : WellFormed i = true) {next : Option (BitVec 80)}
    (hn : ∀ x, w.pl.literal = some x → next = some (literalSlot x)) :
    decodeSlot (w.op ++ w.head.bits ++ w.pl.bits) next = .ok i := by
  have hok : w.ok = true := by simpa only [WellFormed, hi] using hwf
  obtain ⟨m, hk, hm⟩ := exists_make_of_slot hi
  have hbuild {lit : Dword} (hl : ∀ x, w.pl.literal = some x → lit = x) : m.build w.head w.pl.bits lit = some i :=
    Mk.build_bits hm (Slot.encodable_of_ok hok) hl
  simp only [decodeSlot, slotOp_append, hk, Head.ofSlot_append, slotPayload_append, usesLit_of_slot hi hok]
  cases e : w.pl.literal with
  | none => simp [hbuild (lit := 0#64) (by simp [e]), hwf]
  | some x => simp [hn x e, literalOf_literalSlot, hbuild (lit := x) (by simp [e]), hwf]

end

end Sys2Proof

namespace Sys2Proof.Claims

/-- Settles O58: field by field the decoder reads what the encoder writes, and the opcode map has each instruction's constructor
under its opcode (`decodeSlot_of_slot`). -/
theorem decodeOfEncode : Obligations.DecodeOfEncode := by
  intro i w hwf hi
  have hok : w.ok = true := by simpa only [WellFormed, hi] using hwf
  refine ⟨_, _, by rw [encode, hi]; rfl, decodeSlot_of_slot hi hwf fun x hx => by rw [hx]; rfl, ?_, slotOp_append _ _ _,
    fun next hl => decodeSlot_of_slot hi hwf fun x hx => ?_⟩
  · rw [usesLit_of_slot hi hok, Option.isSome_map]
  · simp [hx] at hl

end Sys2Proof.Claims
end

section
/-! SUPPORT. The spec's encoding examples are fixed words, so decoding them is an evaluation. -/

namespace Sys2Proof.Claims

/-- Settles O57: on each fixed word, and on a `movi` without its literal slot, the decoder evaluates to what is stated. -/
theorem decodedWords : Obligations.DecodedWords :=
  ⟨rfl, rfl, rfl, rfl, rfl, rfl, rfl, rfl, rfl, rfl, fun _ => rfl⟩

end Sys2Proof.Claims
end

section
/-! SUPPORT. What stands at the homes as a slot instruction issues (R127, R235, R327): stores, fills and evictions are steps of their
own, and the shared operations of issue, faults and sequencing reach no home. -/

namespace Sys2Proof.Machine

variable {s t : State}

/-- What stands at the homes: module memory, the lines of the LLC, and the memory of the peers. -/
def State.atHomes (s : State) := (s.mem, s.llc, s.peer)

theorem State.Framed.atHomes (h : s.Framed t) : t.atHomes = s.atHomes := by
  obtain ⟨hmem, hllc, hpeer, -, -⟩ := h
  simp only [State.atHomes, hmem, hllc, hpeer]

theorem State.atHomes_putGroup (s : State) (g : Group) : (s.putGroup g).atHomes = s.atHomes := rfl

/-! ### Faults, packets and sequencing -/

/-- The state with a group more, so that a frame may speak of any group. -/
def State.beside (s : State) (g : Group) : State := { s with groups := g :: s.groups }

theorem State.framed_beside (s : State) (g : Group) : (s.beside g).Framed s :=
  ⟨rfl, rfl, rfl, fun b hb => ⟨b, hb, rfl⟩, fun y hy => ⟨y, List.mem_cons_of_mem _ hy, rfl⟩⟩

theorem State.hasRegs_beside (s : State) (g : Group) : (s.beside g).HasRegs g := ⟨g, List.mem_cons_self, rfl⟩

theorem State.atHomes_takeFault (s : State) (g : Group) (f : FaultInfo) : (s.takeFault g f).atHomes = s.atHomes :=
  ((s.framed_beside g).takeFault (s.hasRegs_beside g) f).atHomes

theorem State.atHomes_packet (s : State) (g : Group) (q : Req) (a : Nat) (l : LaneMask) : (s.packet g q a l).atHomes = s.atHomes :=
  ((s.framed_beside g).packet (s.hasRegs_beside g) q a l).atHomes

theorem State.atHomes_abort (s : State) (g : Group) (f : FaultInfo) (d n : Bool) : (s.abort g f d n).atHomes = s.atHomes :=
  ((Framed.refl s).abort g f d n).atHomes

theorem State.atHomes_record (s : State) (i : RecInfo) : (s.record i).atHomes = s.atHomes := ((Framed.refl s).record i).atHomes

theorem State.atHomes_gbarTest (s : State) (b : Nat) : (s.gbarTest b).atHomes = s.atHomes := ((Framed.refl s).gbarTest b).atHomes

theorem State.atHomes_rbarTest (s : State) (b : Nat) : (s.rbarTest b).atHomes = s.atHomes := ((Framed.refl s).rbarTest b).atHomes

theorem State.atHomes_settleGroup (s : State) (u a : Nat) : (s.settleGroup u a).atHomes = s.atHomes :=
  ((Framed.refl s).settleGroup u a).atHomes

theorem State.atHomes_sequencedAt (s : State) (u c : Nat) (h : Head) (x : Split) (n : Pc) (m : LaneMask) (a : Dword) :
    (s.sequencedAt u c h x n m a).atHomes = s.atHomes :=
  ((Framed.refl s).sequencedAt u c h x n m a).atHomes

theorem State.atHomes_passToken (s : State) (b : Block) : (s.passToken b).atHomes = s.atHomes := by
  unfold State.passToken
  split <;> rfl

theorem State.atHomes_retest (s : State) (u : Nat) : (s.retest u).atHomes = s.atHomes := by
  unfold State.retest
  split
  · rfl
  split
  · split
    · exact (((Framed.refl s).gbarTest _).rbarTestTask _).atHomes
    · rfl
  · rfl

theorem State.atHomes_issued (s : State) (u op : Nat) (h : Head) (p : Payload) (c : Option Nat) :
    (s.issued u op h p c).atHomes = s.atHomes := by
  unfold State.issued
  split <;> rfl

theorem State.atHomes_finish (s : State) (u op : Nat) (h : Head) (p : Payload) (x : Split) (m : LaneMask) (a : Dword) (c : Option Nat) :
    (s.finish u op h p x m a c).atHomes = s.atHomes :=
  (State.atHomes_sequencedAt ..).trans (s.atHomes_issued u op h p c)

theorem State.atHomes_goOn (s : State) (u : Nat) (q : Req) : (s.goOn u q).atHomes = s.atHomes := by
  unfold State.goOn
  split
  · rfl
  split
  · rfl
  · exact State.atHomes_sequencedAt ..

theorem State.atHomes_noteSlot (s : State) (g : Group) (k : Nat) : (s.noteSlot g k).atHomes = s.atHomes := by
  unfold State.noteSlot
  split
  · rfl
  split
  · rfl
  split <;> rfl

theorem State.atHomes_noteSlots (g : Group) (ks : List Nat) (s : State) :
    (ks.foldl (fun s j => s.noteSlot g j) s).atHomes = s.atHomes := by
  induction ks generalizing s with
  | nil => rfl
  | cons k ks ih => exact (ih _).trans (s.atHomes_noteSlot g k)

/-! ### The return from a handler (R386, R390, R470) -/

theorem State.atHomes_rte (s : State) (g : Group) (k : Handler) (m : Nat) : (s.rte g k m).atHomes = s.atHomes := by
  have hleft : ((s.putGroup (g.leave k (m == 1))).retest g.uid).atHomes = s.atHomes := State.atHomes_retest ..
  unfold State.rte
  split
  · exact s.atHomes_abort ..
  extract_lets s'
  split
  · split
    · exact (State.atHomes_goOn ..).trans hleft
    · exact hleft
  · exact hleft

theorem State.atHomes_decline (s : State) (g : Group) (q : Req) (c : BitVec 8) (a : Nat) (l : LaneMask) :
    (s.decline g q c a l).atHomes = s.atHomes :=
  s.atHomes_takeFault _ _

theorem State.atHomes_reissue (s : State) (g : Group) (q : Req) : (s.reissue g q).atHomes = s.atHomes := by
  unfold State.reissue
  extract_lets fly
  split
  · rfl
  split
  · split
    · rfl
    split
    · exact s.atHomes_packet ..
    · exact s.atHomes_decline ..
  · rfl

theorem State.atHomes_reissueAll (u : Nat) (l : List Req) (s : State) : (s.reissueAll u l).atHomes = s.atHomes := by
  induction l generalizing s with
  | nil => rfl
  | cons q l ih =>
    unfold State.reissueAll
    split
    · rfl
    split
    · exact ih s
    split
    · rfl
    · exact (ih _).trans (s.atHomes_reissue _ q)

theorem State.atHomes_goOnPackets (s : State) (u : Nat) : (s.goOnPackets u).atHomes = s.atHomes := by
  unfold State.goOnPackets
  split
  · exact State.atHomes_reissueAll ..
  · rfl

theorem State.atHomes_replay (s : State) (g : Group) (q : Req) : (s.replay g q).atHomes = s.atHomes := by
  unfold State.replay
  split
  · exact State.atHomes_settleGroup ..
  split
  · split
    · exact s.atHomes_packet ..
    · exact s.atHomes_decline ..
  · extract_lets wcnt g' s'
    refine (State.atHomes_goOnPackets ..).trans ?_
    split
    · rfl
    · exact State.atHomes_goOn ..

theorem State.atHomes_answers (u : Nat) (l : List Req) (s : State) : (s.answers u l).atHomes = s.atHomes := by
  induction l generalizing s with
  | nil => rfl
  | cons q l ih =>
    unfold State.answers
    refine (ih _).trans ?_
    split
    · rfl
    split
    · rfl
    split
    · exact s.atHomes_replay ..
    · exact s.atHomes_decline ..
    · rfl

theorem State.atHomes_pickUp (s : State) (u : Nat) : (s.pickUp u).atHomes = s.atHomes := by
  unfold State.pickUp
  split
  · exact (State.atHomes_answers ..).trans (s.atHomes_goOnPackets u)
  · rfl

/-! ### Slot instructions -/

/-- An own effect that leads, where it leads to a state, to one with the same at the homes. -/
inductive Own.KeepsHomes (s : State) : Own → Prop
  | ok {t : State} {c : Option Nat} (h : t.atHomes = s.atHomes) : Own.KeepsHomes s (.ok t c)
  | done {t : State} (h : t.atHomes = s.atHomes) : Own.KeepsHomes s (.done t)
  | wait : Own.KeepsHomes s .wait
  | fault {c : BitVec 8} {a : Dword} {l : LaneMask} : Own.KeepsHomes s (.fault c a l)
  | ecc {a : Nat} {l : LaneMask} : Own.KeepsHomes s (.ecc a l)
  | packet {q : Req} {a : Nat} {l : LaneMask} : Own.KeepsHomes s (.packet q a l)
  | await {q : Req} {w : GWait} : Own.KeepsHomes s (.await q w)

/-- What a step leads to, where it goes on, has the same at the homes. -/
def KeepsHomes (s : State) (o : Host.Outcome State Fault Refusal) : Prop := ∀ t, o = .next t → t.atHomes = s.atHomes

/-- A slot instruction leaves what stands at the homes where its own effect does: its checks, faults, issue and sequencing do. -/
theorem runSlot_keepsHomes {op : Nat} {h : Head} {p : Payload} {own : Group → Split → Own} (ho : ∀ g x, (own g x).KeepsHomes s) :
    KeepsHomes s (runSlot op h p s own) := by
  intro t e
  unfold runSlot at e
  split at e
  · cases e
  split at e
  · cases e
  rename_i g _ _ x _
  split at e
  · cases e
    rfl
  split at e
  · cases e
    exact s.atHomes_takeFault ..
  split at e
  · cases e
    exact s.atHomes_takeFault ..
  have hx := ho g x
  generalize own g x = o at hx e
  cases hx with
  | ok ht =>
    cases e
    exact (State.atHomes_finish ..).trans ht
  | done ht =>
    cases e
    exact ht
  | wait =>
    cases e
    rfl
  | fault | ecc =>
    cases e
    exact s.atHomes_takeFault ..
  | packet =>
    cases e
    exact (State.atHomes_packet ..).trans (s.atHomes_issued ..)
  | await =>
    cases e
    exact s.atHomes_issued ..

theorem uniPredOwn_keepsHomes (h : Head) (l d : Nat) (c : BitVec 2) (r : Bool) (f : BitVec 9) (g : Group) (x : Split) :
    (uniPredOwn s h l d c r f g x).KeepsHomes s := by
  unfold uniPredOwn
  dsimp only
  split <;> exact .ok rfl

theorem runSlots_keepsHomes (op k c : Nat) (h : Head) (r : RArgs) (f : List Fmt → LaneIn → Rc → LaneOut) :
    KeepsHomes s (runSlots op h r s k c f) := by
  refine runSlot_keepsHomes fun g x => ?_
  dsimp only
  repeat' split
  all_goals constructor
  exact State.atHomes_noteSlots g _ s

theorem xunpk_keepsHomes (h : Head) (r : RArgs) : KeepsHomes s (execXunpk h r s) :=
  runSlots_keepsHomes _ _ _ _ _ _

theorem xpack_keepsHomes (h : Head) (r : RArgs) : KeepsHomes s (execXpack h r s) :=
  runSlots_keepsHomes _ _ _ _ _ _

theorem xcvt_keepsHomes (h : Head) (r : RArgs) : KeepsHomes s (execXcvt h r s) :=
  runSlots_keepsHomes _ _ _ _ _ _

theorem memOwnBy_keepsHomes {op : Nat} {h : Head} {m : MArgs} {k : ReqKind} {c : Acc} {u o l : Bool} {g : Group} {x : Split}
    {act : Req → Own} (ha : ∀ q, (act q).KeepsHomes s) : (memOwnBy op h m k c u o l s g x act).KeepsHomes s := by
  unfold memOwnBy
  dsimp only
  repeat' split
  any_goals constructor
  · rfl
  · rfl
  · exact ha _

theorem scrOwn_keepsHomes {op : Nat} {h : Head} {m : MArgs} {g : Group} {x : Split} {act : Block → LaneMask → List LaneReq → Own}
    (ha : ∀ b k l, (act b k l).KeepsHomes s) : (scrOwn op h m s g x act).KeepsHomes s := by
  unfold scrOwn
  dsimp only
  repeat' split
  any_goals constructor
  exact ha _ _ _

theorem mloopOwn_keepsHomes (e : EArgs) (f : Group → List Nat) (g : Group) (x : Split) : (mloopOwn e f s g x).KeepsHomes s := by
  unfold mloopOwn
  dsimp only
  repeat' split
  all_goals constructor
  exact (State.atHomes_noteSlot ..).trans (s.atHomes_noteSlot ..)

/-- No slot instruction but a prefetch reaches a home as it issues. -/
theorem exec_keepsHomes {i : Instr} (hslot : i.slot.isSome = true) (hprf : ∀ h m, i ≠ .prf h m) :
    KeepsHomes s (exec i s) := by
  cases i with
  -- A register instruction, and one that moves or orders its group alone, replaces its group.
  | iaddV _ _ | iaddA _ _ | iaddS _ _ | isubV _ _ | isubA _ _ | isubS _ _ | imulV _ _ | imulA _ _ | imulS _ _ | imulhV _ _
  | imulhS _ _ | imadV _ _ | imadA _ _ | imadS _ _ | imulwV _ _ | imulwS _ _ | iabsV _ _ | iabsS _ _ | iminV _ _ | iminS _ _
  | imaxV _ _ | imaxS _ _ | iaddsatV _ _ | iaddsatS _ _ | andV _ _ | andS _ _ | orV _ _ | orS _ _ | xorV _ _ | xorS _ _ | notV _ _
  | notS _ _ | shlV _ _ | shlA _ _ | shlS _ _ | shrV _ _ | shrS _ _ | sarV _ _ | sarS _ _ | rolV _ _ | rolS _ _ | bfxV _ _
  | bfxS _ _ | bfiV _ _ | bfiS _ _ | popcV _ _ | popcS _ _ | clzV _ _ | clzS _ _ | brevV _ _ | brevS _ _ | extV _ _ | extS _ _
  | iselV _ _ | iselS _ _ | icmpVarying _ _ | leaV _ _ | leaA _ _ | leaS _ _ | movV _ _ | movA _ _ | movS _ _ | moviV _ _
  | moviS _ _ | amake _ _ | alane _ _ | promUniformToAffine _ _ | promUniformToVarying _ _ | promAffineToVarying _ _ | vfirst _ _
  | faddF32V _ _ | faddF32S _ _ | faddF64V _ _ | faddF64S _ _ | fsubF32V _ _ | fsubF32S _ _ | fsubF64V _ _ | fsubF64S _ _
  | fmulF32V _ _ | fmulF32S _ _ | fmulF64V _ _ | fmulF64S _ _ | ffmaF32V _ _ | ffmaF32S _ _ | ffmaF64V _ _ | ffmaF64S _ _
  | fminF32V _ _ | fminF32S _ _ | fminF64V _ _ | fminF64S _ _ | fmaxF32V _ _ | fmaxF32S _ _ | fmaxF64V _ _ | fmaxF64S _ _
  | fcmpF32V _ _ | fcmpF64V _ _ | fdivF32V _ _ | fdivF32S _ _ | fdivF64V _ _ | fdivF64S _ _ | fsqrtF32V _ _ | fsqrtF32S _ _
  | fsqrtF64V _ _ | fsqrtF64S _ _ | frcp _ _ | frsq _ _ | flog2 _ _ | fexp2 _ _ | fsin _ _ | fcos _ _ | fcvtV _ _ | fcvtS _ _
  | frndV _ _ | frndS _ _ | fclass _ _ | fldexp _ _ | shfl _ _ | shfx _ _ | lredS _ _ | lredV _ _ | lscan _ _ | ballot _ _
  | rng _ _ | hshV _ _ | hshS _ _ | argmx _ _ | clk _ _ | fence _ _ | lcset _ _ | yield _ _ | sleep _ _ | hsave _ _ | hrest _ _ =>
    exact runSlot_keepsHomes fun _ _ => .ok (s.atHomes_putGroup _)
  | nop _ _ => exact runSlot_keepsHomes fun _ _ => .ok rfl
  | icmpUniform _ _ | atest _ _ | fcmpF32S _ _ | fcmpF64S _ _ =>
    exact runSlot_keepsHomes fun _ _ => uniPredOwn_keepsHomes ..
  | xunpk h r => exact xunpk_keepsHomes h r
  | xpack h r => exact xpack_keepsHomes h r
  | xcvt h r => exact xcvt_keepsHomes h r
  | ldV _ _ | ldS _ _ | stV _ _ | stS _ _ | ldw _ _ | stw _ _ | atomV _ _ | atomS _ _ | red _ _ | redo _ _ =>
    exact runSlot_keepsHomes fun _ _ => memOwnBy_keepsHomes fun _ => .ok rfl
  | wcnt _ _ => exact runSlot_keepsHomes fun _ _ => memOwnBy_keepsHomes fun _ => .await
  | sts _ _ => exact runSlot_keepsHomes fun _ _ => scrOwn_keepsHomes fun _ _ _ => .ok rfl
  | lds _ _ =>
    refine runSlot_keepsHomes fun g x => scrOwn_keepsHomes fun b k l => ?_
    dsimp only
    repeat' split
    all_goals constructor
    all_goals rfl
  -- What an instruction of a barrier, an engine or the system changes where its own tests let it stands beside the homes.
  | cmtk _ _ | cmtp _ _ | mzero _ _ | macq _ _ | getsr _ _ =>
    refine runSlot_keepsHomes fun g x => ?_
    repeat' split
    all_goals constructor
    all_goals rfl
  | vuni _ _ | cpy _ _ | mbat _ _ | mwait _ _ | ownq _ _ | bari _ _ | bara _ _ | barx _ _ | barw _ _ | work _ _ | spawn _ _
  | setsr _ _ | pmc _ _ | winld _ _ | winst _ _ =>
    refine runSlot_keepsHomes fun g x => ?_
    dsimp only
    repeat' split
    all_goals constructor
    all_goals rfl
  | mloop _ _ | mloopg _ _ => exact runSlot_keepsHomes fun _ _ => mloopOwn_keepsHomes ..
  | qrow _ _ | qscale _ _ | mout _ _ =>
    refine runSlot_keepsHomes fun g x => ?_
    dsimp only
    repeat' split
    all_goals constructor
    all_goals exact s.atHomes_noteSlot ..
  | mrel _ _ =>
    refine runSlot_keepsHomes fun g x => ?_
    repeat' split
    all_goals constructor
    exact s.atHomes_passToken _
  | gbar _ _ =>
    refine runSlot_keepsHomes fun g x => ?_
    dsimp only
    repeat' split
    all_goals constructor
    exact State.atHomes_gbarTest ..
  | rbar _ _ =>
    refine runSlot_keepsHomes fun g x => ?_
    dsimp only
    repeat' split
    all_goals constructor
    exact State.atHomes_rbarTest ..
  | brl _ _ => exact runSlot_keepsHomes fun _ _ => .done (s.atHomes_finish ..)
  | trap _ _ => exact runSlot_keepsHomes fun _ _ => .fault
  | rte h a =>
    refine runSlot_keepsHomes fun g x => ?_
    have hi := s.atHomes_issued g.uid 0xD5 h (.x a) none
    dsimp only
    split
    · split
      · exact .done ((State.atHomes_pickUp ..).trans ((State.atHomes_settleGroup ..).trans ((State.atHomes_rte ..).trans hi)))
      · exact .done hi
    · exact .done hi
  | bkpt _ _ =>
    refine runSlot_keepsHomes fun g x => ?_
    dsimp only
    split
    · exact .done (State.atHomes_record ..)
    · exact .fault
  | prf h m => exact absurd rfl (hprf h m)
  | _ => cases hslot

end Sys2Proof.Machine

namespace Sys2Proof.Claims

open Sys2Proof.Machine

/-- Settles O60: no own effect but that of a prefetch reaches a home (`exec_keepsHomes`). -/
theorem issueWritesNoMemory : Obligations.IssueWritesNoMemory := by
  intro s t i hslot hprf e
  obtain ⟨hmem, hllc, hpeer⟩ : t.mem = s.mem ∧ t.llc = s.llc ∧ t.peer = s.peer := by
    simpa only [State.atHomes, Prod.mk.injEq] using exec_keepsHomes hslot hprf t e
  exact ⟨fun a => by rw [hmem], hllc, fun a => by rw [hpeer]⟩

end Sys2Proof.Claims
end

section
/-! SUPPORT. What happens to a group beside its instructions (R117, R230, R343, R378, R382, R390): one equation per event and outcome. -/

namespace Sys2Proof.Machine

variable {s : State} {g : Group} {b : Block} {t : Task} {x y : Split} {w : BitVec 256} {p : Page} {q : Req} {i : Nat}

/-! ### Fetches (R117, R230, R488) -/

theorem exec_bundleFetch (hg : s.group? g.uid = some g) (hy : (s.awaiting g)[i]? = some y) (hrun : s.running g = true)
    (hwait : g.xlatWait = false) : exec (.bundleFetch g.uid i) s = .next ((s.fetchSplit g y).1.settleGroup g.uid 1) := by
  show execBundleFetch g.uid i s = _
  simp [execBundleFetch, hg, hy, hrun, hwait]

theorem State.fetchSplit_of_hi (ht : s.taskOf g = some t) (hhi : y.hi ≠ 0) :
    s.fetchSplit g y = (s.takeFault g (fetchFault y cUndeclared (y.hi ++ y.pc : Dword).toNat), false) := by
  simp only [State.fetchSplit, ht, bne_iff_ne, if_pos hhi]

theorem State.fetchSplit_of_fetch (ht : s.taskOf g = some t) (hhi : y.hi = 0) (hf : s.fetch t g.core g.inHandler y.pc = .ok w) :
    s.fetchSplit g y = s.fetchOk g y := by
  simp [State.fetchSplit, ht, hhi, hf]

/-- Another die is asked for a bundle just where it is the home. -/
theorem State.fetchAway_eq (ht : s.taskOf g = some t) (hp : s.translate t.part t.ctx (bundleAddr y.pc) = some p) :
    s.fetchAway g y = if homeDie p.home p.pa = coreDie g.core then none else some (homeDie p.home p.pa) := by
  simp [State.fetchAway, ht, hp, Option.filter]

/-- A bundle that can be fetched is waited for until its die has been asked and has answered (R488). -/
theorem State.fetchWaits_eq (ht : s.taskOf g = some t) (hf : s.fetch t g.core g.inHandler y.pc = .ok w) (hq : g.fetchOf y = some q) :
    s.fetchWaits g y = (!q.sent || s.inTransit (.req g.uid q.seq) || s.inTransit (.rsp g.uid q.seq)) := by
  simp [State.fetchWaits, State.bundleAt, ht, hf, hq]

theorem State.fetchOk_here (ha : s.fetchAway g y = none) : s.fetchOk g y = (s.putGroup (g.markFetched y.mask), true) := by
  simp only [State.fetchOk, ha]

theorem State.fetchOk_asks {d : Nat} (ha : s.fetchAway g y = some d) (hq : g.fetchOf y = none) :
    s.fetchOk g y = (s.putGroup { g with
      seq := g.seq + 1
      reqs := g.reqs ++ [{ fetchReq g y with lanes := [{ lane := 0, addr := bundleAddr y.pc, home := d }] }] }, false) := by
  simp only [State.fetchOk, ha, hq]

theorem State.fetchOk_answered {d : Nat} (ha : s.fetchAway g y = some d) (hq : g.fetchOf y = some q) (hw : s.fetchWaits g y = false) :
    s.fetchOk g y = (s.putGroup ({ g with reqs := g.reqs.filter (·.seq != q.seq) }.markFetched y.mask), true) := by
  simp only [State.fetchOk, ha, hq, hw, Bool.false_eq_true, if_false]

theorem State.fetchOk_waits {d : Nat} (ha : s.fetchAway g y = some d) (hq : g.fetchOf y = some q) (hw : s.fetchWaits g y = true) :
    s.fetchOk g y = (s, false) := by
  simp only [State.fetchOk, ha, hq, hw, if_true]

/-! ### Sleep, deferred faults and the watchdog (R378, R382, R390) -/

theorem exec_sleepExpiry (hg : s.group? g.uid = some g) (h0 : g.sleep ≠ 0) (hs : g.sleep ≤ s.now) :
    exec (.sleepExpiry g.uid) s = .next (s.putGroup { g with sleep := 0 }) := by
  show execSleepExpiry g.uid s = _
  simp [execSleepExpiry, hg, h0, hs]

theorem exec_handlerEntry {f : FaultInfo} (hg : s.group? g.uid = some g) (hf : s.nextFault g = some f) :
    exec (.handlerEntry g.uid) s = .next (s.takeFault { g with deferred := g.deferred.erase f } (g.faultAt f)) := by
  show execHandlerEntry g.uid s = _
  simp only [execHandlerEntry, hg, hf]

theorem State.watchdogDue_of {c : Ctx} (hb : s.block? g.block = some b) (hc : s.ctx? b.part b.ctx = some c) (h0 : c.watchdog ≠ 0)
    (hrun : s.running g = true) (hlive : g.live ≠ 0) (hclk : g.lastCtx + 24000 * c.watchdog ≤ c.clk) : s.watchdogDue g = true := by
  simpa [State.watchdogDue, hb, hc, h0, hrun, hclk] using hlive

theorem exec_watchdog {c : Ctx} (hg : s.group? g.uid = some g) (hb : s.block? g.block = some b) (hc : s.ctx? b.part b.ctx = some c)
    (hx : g.exec? = some x) (hdue : s.watchdogDue g = true) :
    exec (.watchdog g.uid) s = .next (s.takeFault { g with lastCtx := c.clk }
      { cause := cWatchdog, fpc := x.pc, faddr := 0, flane := x.mask, defer := true, fetch := false, mask := x.mask, next := x.pc,
        req := none }) := by
  have hclk : s.ctxClk g = c.clk := by simp [State.ctxClk, hb, hc]
  show execWatchdog g.uid s = _
  simp [execWatchdog, hg, hdue, hclk, Group.faultAt, hx]

/-! ### A waiting `wcnt` (R343) -/

section

variable {z : LaneReq} {v : Nat}

/-- What a read finds that may be performed, at the one translation that it has now. -/
theorem State.wcntSees_of_read (hrun : s.running g = true) (hmay : g.mayPerform q = true) (hlate : s.notLate g q = true)
    (hre : s.recheck g q = .ok [z]) (hreach : s.reqReaches g b { q with lanes := [z] } = true)
    (hv : s.wcntRead b { q with lanes := [z] } = some v) :
    s.wcntSees g b q = if z.x.toNat ≤ v then .met v z.pa else .unmet z.pa := by
  simp only [State.wcntSees, hrun, hmay, hlate, hre, hreach, hv, Bool.not_true, Bool.or_self, Bool.false_eq_true, if_false]

theorem exec_wcntRecheck_met (hg : s.group? g.uid = some g) (hb : s.block? g.block = some b) (ht : s.taskOf g = some t)
    (hq : g.wcntReq = some q) (hsees : s.wcntSees g b q = .met v z.pa) :
    exec (.wcntRecheck g.uid) s = .next ((((s.llcTouch b.part z.pa (q.m.hnt.toNat == 2)).putGroup
      (((g.push s.now q.seq (q.ws q.m.d.toNat (if t.hdr.det then (q.lanes.head?.map (·.x)).getD 0 else dw v))).drop q s.now).unwait
        (· == .wcnt q.seq))).goOn g.uid q).retest g.uid) := by
  show execWcntRecheck g.uid s = _
  simp only [execWcntRecheck, hg, hb, ht, hq, hsees, State.llcTouch_now]

theorem exec_wcntRecheck_unmet (hg : s.group? g.uid = some g) (hb : s.block? g.block = some b) (ht : s.taskOf g = some t)
    (hq : g.wcntReq = some q) (hsees : s.wcntSees g b q = .unmet z.pa) :
    exec (.wcntRecheck g.uid) s = .next (if q.read then s else (s.llcTouch b.part z.pa (q.m.hnt.toNat == 2)).putGroup
      { g with reqs := updIf (·.seq == q.seq) (fun r => { r with read := true }) g.reqs }) := by
  show execWcntRecheck g.uid s = _
  simp only [execWcntRecheck, hg, hb, ht, hq, hsees]
  split <;> rfl

end

end Sys2Proof.Machine

namespace Sys2Proof.Claims

open Sys2Proof.Machine

theorem groupEvents : GroupEvents := by
  intro s g b t hg hb ht
  refine ⟨fun i y hy hrun hwait => ⟨fun w p hhi hf hp => ?_, fun hhi => ?_⟩, exec_sleepExpiry hg, fun f => exec_handlerEntry hg,
    fun c x hc hx h0 hrun hlive hclk => exec_watchdog hg hb hc hx (State.watchdogDue_of hb hc h0 hrun hlive hclk),
    fun q z v hq hrun hmay hlate hre hreach hv hle => ?_⟩
  · have hexec : exec (.bundleFetch g.uid i) s = .next ((s.fetchOk g y).1.settleGroup g.uid 1) := by
      rw [exec_bundleFetch hg hy hrun hwait, State.fetchSplit_of_fetch ht hhi hf]
    have haway := State.fetchAway_eq ht hp
    refine ⟨fun hd => ?_, fun hd hq => ?_, fun q hd hq => ⟨fun hsent hreq hrsp => ?_, fun h => ?_⟩⟩
    · rw [hexec, State.fetchOk_here (by rw [haway, if_pos hd])]
    · rw [hexec, State.fetchOk_asks (by rw [haway, if_neg hd]) hq]
    · rw [hexec, State.fetchOk_answered (by rw [haway, if_neg hd]) hq (by simp [State.fetchWaits_eq ht hf hq, hsent, hreq, hrsp])]
    · rw [hexec, State.fetchOk_waits (by rw [haway, if_neg hd]) hq (by simpa [State.fetchWaits_eq ht hf hq, or_assoc] using h)]
  · rw [exec_bundleFetch hg hy hrun hwait, State.fetchSplit_of_hi ht hhi]
    rfl
  · exact exec_wcntRecheck_met hg hb ht hq (by rw [State.wcntSees_of_read hrun hmay hlate hre hreach hv, if_pos hle])

theorem counterWaitHolds : CounterWaitHolds := by
  intro s g b q y v hg hb hq hre hrun hmay hlate hreach htask hv hlt
  obtain ⟨t, ht⟩ := Option.isSome_iff_exists.1 htask
  exact exec_wcntRecheck_unmet hg hb ht hq (by rw [State.wcntSees_of_read hrun hmay hlate hre hreach hv, if_neg (Nat.not_le.2 hlt)])

/-- Settles O35: each event of a group by the equation of its outcome. -/
theorem eventsOfAGroup : Obligations.EventsOfAGroup := ⟨groupEvents, counterWaitHolds⟩

end Sys2Proof.Claims
end

section
/-! SUPPORT. The codes that name no instruction (R246, R254): what a slot with such a code decodes to, and what executing it does. -/

namespace Sys2Proof

/-! ### Codes without a row in the opcode map -/

theorem lookupOp_eq_none_iff {op : BitVec 8} {t : List (BitVec 8 × Mk)} : lookupOp op t = none ↔ ∀ r ∈ t, r.1 ≠ op := by
  induction t with
  | nil => simp [lookupOp]
  | cons r t ih =>
    by_cases h : r.1 = op
    · simp [lookupOp, h]
    · simp [lookupOp, h, ih]

/-- No row of the opcode map has a reserved code or the literal slot's, though the map and R254's ranges are written apart. -/
theorem opcodeMap_disjoint_reserved : ∀ r ∈ opcodeMap, ¬ (Claims.reserved r.1 ∨ r.1 = 0xFF) := by
  simp only [opcodeMap, List.forall_mem_append, Claims.reserved, and_assoc]
  refine ⟨?_, ?_, ?_, ?_, ?_, ?_⟩ <;> decide

theorem lookupOp_of_reserved {op : BitVec 8} (h : Claims.reserved op ∨ op = 0xFF) : lookupOp op opcodeMap = none :=
  lookupOp_eq_none_iff.2 fun r hr e => opcodeMap_disjoint_reserved r hr (e ▸ h)

/-- What follows the slot is not read: LITERAL_MISSING comes after ILLEGAL_OPCODE (R248). -/
theorem decodeSlot_of_lookupOp_none {w : BitVec 80} (next : Option (BitVec 80)) (h : lookupOp (slotOp w) opcodeMap = none) :
    decodeSlot w next = .ok (.illegalOpcode (slotOp w)) := by
  simp only [decodeSlot, h]

theorem slotOp_literalSlot (lit : Dword) : slotOp (literalSlot lit) = 0xFF := by
  simp [slotOp, literalSlot, extractLsb'_append_high]

end Sys2Proof

namespace Sys2Proof.Machine

theorem exec_illegalOpcode {s : State} {g : Group} {x : Split} (op : BitVec 8) (hg : s.curGroup = some g) (hx : g.exec? = some x) :
    exec (.illegalOpcode op) s = .next (s.takeFault g (preciseFault s x cIllegal 0 x.mask)) := by
  show execIllegalOpcode op s = _
  simp only [execIllegalOpcode, hg, hx]

end Sys2Proof.Machine

namespace Sys2Proof.Claims

open Sys2Proof.Machine

/-- Settles O33: the opcode map has no row under these codes, and the meaning of a code without a row is the fault. -/
theorem reservedOpcodesFault : Obligations.ReservedOpcodesFault :=
  ⟨fun _ next h => decodeSlot_of_lookupOp_none next (lookupOp_of_reserved h),
    fun _ _ _ op hg hx => exec_illegalOpcode op hg hx,
    fun lit => ⟨slotOp_literalSlot lit, literalOf_literalSlot lit⟩⟩

end Sys2Proof.Claims
end

section
/-! SUPPORT. The integer instructions by form (R262 to R286): what a varying or a uniform one gives where its lane function is known, what a
predicate gets from the scalar port, and the lanes that a mask marks. -/

namespace Sys2Proof.Machine

/-! ### Marked lanes (R37) -/

/-- Binary digits from the lowest: the digit at a place is the flag of the entry there. -/
theorem testBit_foldr_digits (f : Nat → Bool) (l : List Nat) (i : Nat) :
    (l.foldr (fun k a => 2 * a + (f k).toNat) 0).testBit i = l[i]?.any f := by
  induction l generalizing i with
  | nil => simp
  | cons k l ih =>
    rw [List.foldr_cons, ← Nat.bit_val]
    cases i with
    | zero => simp
    | succ i => rw [Nat.testBit_bit_succ, ih, List.getElem?_cons_succ]

theorem getLsbD_maskOf (f : Nat → Bool) (L : Nat) : (maskOf f).getLsbD L = (decide (L < 96) && f L) := by
  rw [maskOf, BitVec.getLsbD_ofNat, testBit_foldr_digits]
  by_cases hL : L < 96 <;> simp [hL]

theorem maskOf_eq_zero_iff {f : Nat → Bool} : maskOf f = 0 ↔ ∀ L < 96, f L = false := by
  refine ⟨fun h L hL => ?_, Claims.maskOf_eq_zero⟩
  simpa [h, hL] using (getLsbD_maskOf f L).symm

/-! ### Formulas written in another form -/

theorem iaddsat_eq_arithF (r : RArgs) (i : LaneIn) : iaddsat r.n r.sgn i = Claims.arithF 6 r i := by
  change _ = Claims.just (trunc r.n (BitVec.ofInt 64 (Claims.clamp r.n r.sgn (valOf r.sgn r.n i.a + valOf r.sgn r.n i.b))))
  cases r.sgn <;> rfl

theorem bfi_eq_bitField (r : RArgs) (i : LaneIn) : bfi r.n r.c.toNat i = Claims.bitField 1 r i :=
  (apply_ite val ..).symm

/-! ### Predicates from the scalar port (R65, R235) -/

section
variable {s : State} {h : Head} {lat d : Nat} {sub : BitVec 2} {r : Bool} {fl : BitVec 9} {g : Group} {x : Split}

theorem uniPredOwn_of_lanes (hm : x.mask &&& g.guardAt h s.now ≠ 0) :
    uniPredOwn s h lat d sub r fl g x =
      .ok (s.putGroup ((g.push (s.now + lat) g.seq (.p d (x.mask &&& g.guardAt h s.now)
        (combine sub ((g.viewAt s.now).rp d) (if r then allLanes else 0)))).pushStatus (s.now + lat) fl)) (some (s.now + lat)) :=
  if_neg (by simpa using hm)

theorem uniPredOwn_of_no_lane (hm : x.mask &&& g.guardAt h s.now = 0) :
    uniPredOwn s h lat d sub r fl g x = .ok s (some (s.now + 1)) :=
  if_pos (by simpa using hm)

end

end Sys2Proof.Machine

namespace Sys2Proof.Claims

open Sys2Proof.Machine

/-! ### Varying and uniform forms (R262, R263) -/

/-- A varying instruction completes where its meaning is `runV` of its opcode, latency and lane function `f`. -/
theorem Varying.Completes.of_runV {k : Varying} (f : RArgs → LaneIn → LaneOut)
    (hrun : ∀ h r s, exec (k.form h r) s = runV k.op.toNat (k.lat r) h r s (f r) := by intro h r s; rfl)
    (hwidth : ∀ r, (rWidths k.op.toNat r).d = k.w r := by intro r; rfl)
    (hlane : ∀ r i, f r i = k.lane r i := by intro r i; rfl) : k.Completes := by
  intro s g x h r hr
  obtain rfl : f = k.lane := funext₂ hlane
  rw [← hwidth r]
  exact hr.ok (hrun h r s)

/-- A uniform instruction completes where its meaning is `runU` of its opcode, latency, signedness and formula `f`. -/
theorem Uniform.Completes.of_runU {k : Uniform} (f : RArgs → LaneIn → LaneOut)
    (hrun : ∀ h r s, exec (k.form h r) s = runU k.op.toNat (k.lat r) (k.sgn r) h r s (f r) := by intro h r s; rfl)
    (hwidth : ∀ r, (rWidths k.op.toNat r).d = k.w r := by intro r; rfl)
    (hres : ∀ r i, f r i = k.res r i := by intro r i; rfl) : k.Completes := by
  intro s g x h r hr
  obtain rfl : f = k.res := funext₂ hres
  rw [← hwidth r]
  exact hr.ok (hrun h r s)

end Sys2Proof.Claims
end

section
/-! SUPPORT. Integer arithmetic, logic, shifts, bit fields, addresses and moves complete with their formulas (R266 to R283). -/

namespace Sys2Proof.Claims

open Sys2Proof.Machine

/-! ### Arithmetic (R266 to R269) -/

theorem arithVarying_completes : ∀ k ∈ arithVarying, k.Completes := by
  simp only [arithVarying, List.forall_mem_cons, List.not_mem_nil, IsEmpty.forall_iff, implies_true, and_true]
  exact ⟨.of_runV (fun r => iadd r.n), .of_runV (fun r => isub r.n), .of_runV (fun r => imul r.n),
    .of_runV (fun r => imulh r.n r.sgn), .of_runV (fun r => imin r.n r.sgn), .of_runV (fun r => imax r.n r.sgn),
    .of_runV (fun r => iaddsat r.n r.sgn) (hlane := iaddsat_eq_arithF)⟩

theorem arithUniform_completes : ∀ k ∈ arithUniform, k.Completes := by
  simp only [arithUniform, List.forall_mem_cons, List.not_mem_nil, IsEmpty.forall_iff, implies_true, and_true]
  exact ⟨.of_runU (fun r => iadd r.n), .of_runU (fun r => isub r.n), .of_runU (fun r => imul r.n),
    .of_runU (fun r => imulh r.n r.sgn), .of_runU (fun r => imin r.n r.sgn), .of_runU (fun r => imax r.n r.sgn),
    .of_runU (fun r => iaddsat r.n r.sgn) (hres := iaddsat_eq_arithF)⟩

theorem multiplyVarying_completes : ∀ k ∈ multiplyVarying, k.Completes := by
  simp only [multiplyVarying, List.forall_mem_cons, List.not_mem_nil, IsEmpty.forall_iff, implies_true, and_true]
  exact ⟨.of_runV (fun r => imad r.n), .of_runV (fun r => imulw r.sgn), .of_runV (fun r => iabs r.n)⟩

theorem multiplyUniform_completes : ∀ k ∈ multiplyUniform, k.Completes := by
  simp only [multiplyUniform, List.forall_mem_cons, List.not_mem_nil, IsEmpty.forall_iff, implies_true, and_true]
  exact ⟨.of_runU (fun r => imad r.n), .of_runU (fun r => imulw r.sgn), .of_runU (fun r => iabs r.n)⟩

/-- Settles O1: each meaning is `runV` or `runU` of a formula that is the statement's; for the saturating sum by the sign of the suffix. -/
theorem integerArithmetic : Obligations.IntegerArithmetic :=
  ⟨⟨arithVarying_completes, arithUniform_completes⟩, multiplyVarying_completes, multiplyUniform_completes⟩

/-! ### Logic and shifts (R271, R272) -/

theorem logicVarying_completes : ∀ k ∈ logicVarying, k.Completes := by
  simp only [logicVarying, List.forall_mem_cons, List.not_mem_nil, IsEmpty.forall_iff, implies_true, and_true]
  exact ⟨.of_runV (fun _ i => val (i.a &&& i.b)), .of_runV (fun _ i => val (i.a ||| i.b)),
    .of_runV (fun _ i => val (i.a ^^^ i.b)), .of_runV (fun r i => val (trunc r.n (~~~i.a)))⟩

theorem logicUniform_completes : ∀ k ∈ logicUniform, k.Completes := by
  simp only [logicUniform, List.forall_mem_cons, List.not_mem_nil, IsEmpty.forall_iff, implies_true, and_true]
  exact ⟨.of_runU (fun _ i => val (i.a &&& i.b)), .of_runU (fun _ i => val (i.a ||| i.b)),
    .of_runU (fun _ i => val (i.a ^^^ i.b)), .of_runU (fun r i => val (trunc r.n (~~~i.a)))⟩

theorem shiftVarying_completes : ∀ k ∈ shiftVarying, k.Completes := by
  simp only [shiftVarying, List.forall_mem_cons, List.not_mem_nil, IsEmpty.forall_iff, implies_true, and_true]
  exact ⟨.of_runV (fun r => shl r.n), .of_runV (fun r => shr r.n), .of_runV (fun r => sar r.n), .of_runV (fun r => rol r.n)⟩

theorem shiftUniform_completes : ∀ k ∈ shiftUniform, k.Completes := by
  simp only [shiftUniform, List.forall_mem_cons, List.not_mem_nil, IsEmpty.forall_iff, implies_true, and_true]
  exact ⟨.of_runU (fun r => shl r.n), .of_runU (fun r => shr r.n), .of_runU (fun r => sar r.n), .of_runU (fun r => rol r.n)⟩

/-- Settles O2: each meaning is `runV` or `runU` of the statement's formula. -/
theorem logicAndShifts : Obligations.LogicAndShifts :=
  ⟨List.forall_mem_append.2 ⟨logicVarying_completes, shiftVarying_completes⟩,
    List.forall_mem_append.2 ⟨logicUniform_completes, shiftUniform_completes⟩⟩

/-! ### Bit fields and counts (R273, R274) -/

theorem bitVarying_completes : ∀ k ∈ bitVarying, k.Completes := by
  simp only [bitVarying, List.forall_mem_cons, List.not_mem_nil, IsEmpty.forall_iff, implies_true, and_true]
  exact ⟨.of_runV (fun r => bfx r.n r.c.toNat r.sgn), .of_runV (fun r => bfi r.n r.c.toNat) (hlane := bfi_eq_bitField),
    .of_runV (fun r => ext r.n r.c.toNat r.sgn), .of_runV (fun r => popc r.n), .of_runV (fun r => clz r.n),
    .of_runV (fun r => brev r.n)⟩

theorem bitUniform_completes : ∀ k ∈ bitUniform, k.Completes := by
  simp only [bitUniform, List.forall_mem_cons, List.not_mem_nil, IsEmpty.forall_iff, implies_true, and_true]
  exact ⟨.of_runU (fun r => bfx r.n r.c.toNat r.sgn), .of_runU (fun r => ext r.n r.c.toNat r.sgn),
    .of_runU (fun r => popc r.n), .of_runU (fun r => clz r.n), .of_runU (fun r => brev r.n)⟩

theorem uniformInsert : UniformInsert := by
  intro s g x h r hr v i
  rw [← bfi_eq_bitField]
  exact hr.ok rfl

/-- Settles O3: each meaning is `runV` or `runU` of the statement's formula; `bfiS` has an own effect, which keeps all 64 bits. -/
theorem bitFieldsAndCounts : Obligations.BitFieldsAndCounts := ⟨bitVarying_completes, bitUniform_completes, uniformInsert⟩

/-! ### Addresses and moves (R277, R279, R283) -/

theorem moveVarying_completes : ∀ k ∈ moveVarying, k.Completes := by
  simp only [moveVarying, List.forall_mem_cons, List.not_mem_nil, IsEmpty.forall_iff, implies_true, and_true]
  exact ⟨.of_runV (fun r => lea r.sub.toNat r.c), .of_runV (fun _ i => val i.a), .of_runV (fun _ i => val i.a),
    .of_runV (fun _ i => val i.a)⟩

theorem moveUniform_completes : ∀ k ∈ moveUniform, k.Completes := by
  simp only [moveUniform, List.forall_mem_cons, List.not_mem_nil, IsEmpty.forall_iff, implies_true, and_true]
  exact ⟨.of_runU (fun r => lea r.sub.toNat r.c), .of_runU (fun _ i => val i.a)⟩

/-- Settles O4: each meaning is `runV` or `runU` of the statement's formula. -/
theorem addressesAndMoves : Obligations.AddressesAndMoves := ⟨moveVarying_completes, moveUniform_completes⟩

end Sys2Proof.Claims
end

section
/-! SUPPORT. Selection, compares, immediates and reads of a lane (R275 to R286). -/

namespace Sys2Proof.Claims

open Sys2Proof.Machine

section
variable {s : State} {g : Group} {x : Split} {h : Head} {r : RArgs}

/-! ### Selection (R275) -/

/-- The uniform selection: the model asks whether the condition is not zero, the statement whether it is. -/
theorem exec_iselS (hr : Runs s g x ⟨0x37, h, .r r⟩) :
    let v := g.viewAt s.now
    exec (.iselS h r) s = .next (s.doneBy g x ⟨0x37, h, .r r⟩
      (g.uni s.now 1 r.d.toNat (fill false r.n (if v.rs r.c.toNat = 0 then (uIn 0x37 r v).b else (uIn 0x37 r v).a)) 0)
      (s.now + 1)) := by
  intro v
  have hsel (a b : Dword) : (if v.rs r.c.toNat = 0 then b else a) = if v.rs r.c.toNat != 0 then a else b := by
    rw [← ite_not]
    simp only [bne_iff_ne, ne_eq]
  rw [hsel]
  exact hr.ok rfl

/-! ### The lanes of a split compared (R286) -/

/-- The lanes of the split whose operand differs from that of the lowest lane. -/
def strayLanes (s : State) (g : Group) (x : Split) (r : RArgs) : LaneMask :=
  let v := g.viewAt s.now
  maskOf fun L => x.mask.getLsbD L && v.src r.nb r.n r.a L != v.src r.nb r.n r.a (lowLane x.mask)

theorem strayLanes_eq_zero_iff : strayLanes s g x r = 0 ↔ ∀ L < 96, x.mask.getLsbD L →
    (g.viewAt s.now).src r.nb r.n r.a L = (g.viewAt s.now).src r.nb r.n r.a (lowLane x.mask) := by
  simp only [strayLanes, maskOf_eq_zero_iff, Bool.and_eq_false_iff, bne_eq_false_iff_eq]
  refine forall₂_congr fun L hL => ?_
  cases x.mask.getLsbD L <;> simp

theorem exec_vuni_of_strayLanes_eq_zero (hr : Runs s g x ⟨0x4C, h, .r r⟩) (hl : strayLanes s g x r = 0) :
    exec (.vuni h r) s = .next (s.doneBy g x ⟨0x4C, h, .r r⟩
      (g.uni s.now 2 r.d.toNat ((g.viewAt s.now).src r.nb r.n r.a (lowLane x.mask)) 0) (s.now + 2)) :=
  hr.ok rfl rfl (if_pos (beq_iff_eq.2 hl))

theorem exec_vuni_of_strayLanes_ne_zero (hr : Runs s g x ⟨0x4C, h, .r r⟩) (hl : strayLanes s g x r ≠ 0) :
    exec (.vuni h r) s = .next (s.takeFault g (preciseFault s x cUniform 0 (strayLanes s g x r))) :=
  hr.fault rfl rfl (if_neg (mt beq_iff_eq.1 hl))

end

/-- Settles O7: a mask of lanes is zero just where it marks none, so `vuni` writes where no lane of the split differs, and else faults. -/
theorem vuniComparesTheLanes : Obligations.VuniComparesTheLanes := by
  intro s g x h r hr v low f
  refine ⟨fun heq => exec_vuni_of_strayLanes_eq_zero hr (strayLanes_eq_zero_iff.2 heq), ?_⟩
  rintro ⟨L, hL, hmask, hne⟩
  have hstray : strayLanes s g x r ≠ 0 := fun h0 => hne (strayLanes_eq_zero_iff.1 h0 L hL hmask)
  exact ⟨exec_vuni_of_strayLanes_ne_zero hr hstray, rfl, rfl, rfl⟩

/-- Settles O6: each own effect is the one stated; a scalar-port predicate has lanes to write or none (`uniPredOwn_of_lanes`), and `vuni`
meets equal lanes. -/
theorem selectCompareMoveImmediateAndReads : Obligations.SelectCompareMoveImmediateAndReads := by
  intro s g x h r i v n
  refine ⟨?nop, ?iselV, exec_iselS, ?icmpV, ?icmpS, ?icmpNone, ?moviV, ?moviS, ?atest, ?atestNone, ?vfirst, ?vuni⟩
  case nop => exact fun hr => hr.ok rfl
  case iselV => exact fun hr => hr.ok rfl
  case icmpV => exact fun hr => hr.ok rfl
  case icmpS => exact fun hr hm => hr.ok rfl rfl (uniPredOwn_of_lanes hm)
  case icmpNone => exact fun hr hm => hr.ok rfl rfl (uniPredOwn_of_no_lane hm)
  case moviV => exact fun hr => hr.ok rfl
  case moviS => exact fun hr => hr.ok rfl
  case atest => exact fun hr hm => hr.ok rfl rfl (uniPredOwn_of_lanes hm)
  case atestNone => exact fun hr hm => hr.ok rfl rfl (uniPredOwn_of_no_lane hm)
  case vfirst => exact fun hr => hr.ok rfl
  case vuni => exact fun hr heq => (vuniComparesTheLanes s g x h r hr).1 heq

end Sys2Proof.Claims
end

section
/-! SUPPORT. Sums, differences, products, quotients and fused multiply-adds (R288, R293, R294): what they give of NaNs, infinities and
zeros, and the exact value that they round of finite sources. -/

namespace Sys2Proof.Machine

variable {F : Fmt} {c : Rc} {x y : Num} {p q : Rat} {s t sig z : Bool} {i : LaneIn}

/-! ### Exact values: kinds, signs and zeros -/

@[simp] theorem Num.isNan_neg (x : Num) : x.neg.isNan = x.isNan := by cases x <;> rfl
@[simp] theorem Num.isZero_neg (x : Num) : x.neg.isZero = x.isZero := by cases x <;> rfl
@[simp] theorem Num.isFin_neg (x : Num) : x.neg.isFin = x.isFin := by cases x <;> rfl

theorem Num.sign_neg (h : x.isNan = false) : x.neg.sign = !x.sign := by
  cases x with
  | nan => cases h
  | inf _ => rfl
  | fin _ _ _ _ => rfl

theorem Num.exists_of_isZero (h : x.isZero = true) : ∃ s d e, x = .fin s 0 d e := by
  cases x with
  | fin s n d e => exact ⟨s, d, e, by rw [beq_iff_eq.1 h]⟩
  | nan => cases h
  | inf _ => cases h

theorem Num.isFin_of_isZero (h : x.isZero = true) : x.isFin = true := by
  obtain ⟨_, _, _, rfl⟩ := Num.exists_of_isZero h
  rfl

theorem Num.Exact.neg (h : x.Exact p) : x.neg.Exact (-p) := by
  obtain ⟨s, n, d, e, rfl, hd, rfl⟩ := h.exists_fin
  have hs : Claims.signFactor (!s) = -Claims.signFactor s := by cases s <;> simp [Claims.signFactor]
  rw [← neg_mul, ← hs]
  exact Num.exact_fin _ _ hd _

theorem ratOf_quotient (s t : Bool) (n d m k : Nat) (e f : Int) :
    Claims.ratOf (.fin (s != t) (n * k) (d * m) (e - f)) = Claims.ratOf (.fin s n d e) / Claims.ratOf (.fin t m k f) := by
  have hs : Claims.signFactor (s != t) = Claims.signFactor s / Claims.signFactor t := by
    cases s <;> cases t <;> simp [Claims.signFactor]
  rw [Claims.ratOf_fin, Claims.ratOf_fin, Claims.ratOf_fin, hs, zpow_sub₀ two_ne_zero, Nat.cast_mul, Nat.cast_mul, ← div_div_div_eq,
    mul_div_mul_comm, mul_div_mul_comm]

theorem Num.sign_mul (hx : x.isFin = true) (hy : y.isFin = true) : (x.mul y).sign = (x.sign != y.sign) := by
  obtain ⟨_, _, _, _, rfl⟩ := Num.exists_of_isFin hx
  obtain ⟨_, _, _, _, rfl⟩ := Num.exists_of_isFin hy
  rfl

theorem Num.isZero_mul (hx : x.isFin = true) (hy : y.isFin = true) : (x.mul y).isZero = (x.isZero || y.isZero) := by
  obtain ⟨_, _, _, _, rfl⟩ := Num.exists_of_isFin hx
  obtain ⟨_, _, _, _, rfl⟩ := Num.exists_of_isFin hy
  rw [Bool.eq_iff_iff]
  simp [Num.mul]

/-- The zeros of a sum (R288): of two zeros of one sign that sign, else `z`. -/
theorem Num.Exact.sign_add (hx : x.Exact p) (hy : y.Exact q) (h : p + q = 0) :
    (x.add z y).sign = if (x.isZero && y.isZero) && x.sign == y.sign then x.sign else z := by
  by_cases hq : q = 0
  · have hx0 : x.isZero = true := hx.isZero_iff.2 (by simpa [hq] using h)
    have hy0 : y.isZero = true := hy.isZero_iff.2 hq
    obtain ⟨s, d, e, rfl⟩ := Num.exists_of_isZero hx0
    obtain ⟨t, k, f, rfl⟩ := Num.exists_of_isZero hy0
    rfl
  · have hy0 : y.isZero = false := Bool.eq_false_iff.2 (mt hy.isZero_iff.1 hq)
    simpa [hy0] using (hx.add_spec hy z).2 h hq

theorem Num.zero_mul_inf (h : x.isZero = true) : x.mul (.inf t) = .nan := by
  obtain ⟨_, _, _, rfl⟩ := Num.exists_of_isZero h
  rfl

theorem Num.inf_mul_zero (h : y.isZero = true) : (Num.inf s).mul y = .nan := by
  obtain ⟨_, _, _, rfl⟩ := Num.exists_of_isZero h
  rfl

theorem Num.mul_inf (hn : x.isNan = false) (h0 : x.isZero = false) : x.mul (.inf t) = .inf (x.sign != t) := by
  cases x with
  | nan => cases hn
  | inf _ => rfl
  | fin _ _ _ _ => exact if_neg (Bool.eq_false_iff.1 h0)

theorem Num.inf_mul (hn : y.isNan = false) (h0 : y.isZero = false) : (Num.inf s).mul y = .inf (s != y.sign) := by
  cases y with
  | nan => cases hn
  | inf _ => rfl
  | fin _ _ _ _ => exact if_neg (Bool.eq_false_iff.1 h0)

/-- One of them is a zero and the other an infinity (R293). -/
def Num.ZeroTimesInf (x y : Num) : Prop := (x.isZero = true ∧ ∃ t, y = .inf t) ∨ (y.isZero = true ∧ ∃ t, x = .inf t)

theorem Num.ZeroTimesInf.mul (h : x.ZeroTimesInf y) : x.mul y = .nan := by
  obtain ⟨h0, t, rfl⟩ | ⟨h0, t, rfl⟩ := h
  · exact Num.zero_mul_inf h0
  · exact Num.inf_mul_zero h0

theorem Num.ZeroTimesInf.isNan_left (h : x.ZeroTimesInf y) : x.isNan = false := by
  obtain ⟨h0, t, rfl⟩ | ⟨h0, t, rfl⟩ := h
  · exact Num.isNan_of_isFin (Num.isFin_of_isZero h0)
  · rfl

theorem Num.ZeroTimesInf.isNan_right (h : x.ZeroTimesInf y) : y.isNan = false := by
  obtain ⟨h0, t, rfl⟩ | ⟨h0, t, rfl⟩ := h
  · rfl
  · exact Num.isNan_of_isFin (Num.isFin_of_isZero h0)

theorem Num.isNan_mul_of_isNan (h : x.isNan = true ∨ y.isNan = true) : (x.mul y).isNan = true := by
  obtain h | h := h
  · rw [Num.eq_nan_of_isNan h]
    cases y <;> rfl
  · rw [Num.eq_nan_of_isNan h]
    cases x <;> rfl

/-- A product of two values that are not NaN is NaN for 0 × ∞ alone. -/
theorem Num.isNan_mul_iff (hx : x.isNan = false) (hy : y.isNan = false) : (x.mul y).isNan = true ↔ x.ZeroTimesInf y := by
  refine ⟨fun h => ?_, fun h => by rw [h.mul]; rfl⟩
  by_contra hz
  cases x with
  | nan => cases hx
  | inf s =>
    rw [Num.inf_mul hy (Bool.eq_false_iff.2 fun h0 => hz (.inr ⟨h0, s, rfl⟩))] at h
    cases h
  | fin s n d e =>
    cases y with
    | nan => cases hy
    | fin t m k f => cases h
    | inf t =>
      rw [Num.mul_inf hx (Bool.eq_false_iff.2 fun h0 => hz (.inl ⟨h0, t, rfl⟩))] at h
      cases h

theorem Num.not_zeroTimesInf (h : (x.mul y).isNan = false) : ¬ x.ZeroTimesInf y := fun hz => by
  rw [hz.mul] at h
  cases h

/-! ### Sums (R288, R293) -/

theorem faddNum_of_not_isNan (hx : x.isNan = false) (hy : y.isNan = false) (h : (x.add (c.mode == 3) y).isNan = false) :
    faddNum F x y sig c = fOut F (x.add (c.mode == 3) y) Flags.none c := by
  simp [faddNum, hx, hy, h]

/-- A sum of numbers is rounded once, from the exact sum. -/
theorem faddNum_rounds (hx : x.Exact p) (hy : y.Exact q) : Claims.RoundsExact F c (p + q)
    (if (x.isZero && y.isZero) && x.sign == y.sign then x.sign else c.mode == 3) (faddNum F x y sig c) := by
  have hsum := hx.add hy (c.mode == 3)
  rw [faddNum_of_not_isNan (Num.isNan_of_isFin hx.isFin) (Num.isNan_of_isFin hy.isFin) (Num.isNan_of_isFin hsum.isFin)]
  exact Claims.roundsExact_fOut hsum.isFin hsum.value fun h => hx.sign_add hy h

section
variable (hF : F.IsIeee)
include hF

theorem faddNum_of_isNan (h : (x.isNan || y.isNan) = true) :
    faddNum F x y sig c = Claims.signedCode F F.nanCode false { nv := sig } := by
  rw [faddNum, if_pos h]
  exact fOut_nan hF

theorem faddNum_inf_inf : faddNum F (.inf s) (.inf t) sig c =
    if s = t then Claims.signedCode F F.infIdx s {} else Claims.signedCode F F.nanCode false { nv := true } := by
  rw [← fOut_inf hF (c := c), ← fOut_nan hF (c := rne)]
  cases s <;> cases t <;> rfl

theorem faddNum_inf_left (hy : y.isFin = true ∨ y = .inf s) : faddNum F (.inf s) y sig c = Claims.signedCode F F.infIdx s {} := by
  obtain hy | rfl := hy
  · obtain ⟨_, _, _, _, rfl⟩ := Num.exists_of_isFin hy
    exact fOut_inf hF
  · rw [faddNum_inf_inf hF, if_pos rfl]

theorem faddNum_fin_inf (hx : x.isFin = true) : faddNum F x (.inf t) sig c = Claims.signedCode F F.infIdx t {} := by
  obtain ⟨_, _, _, _, rfl⟩ := Num.exists_of_isFin hx
  exact fOut_inf hF

end

/-! ### Products (R293) -/

theorem fmul_of_isFin (h : ((fv F i.a).mul (fv F i.b)).isFin = true) :
    fmul F i c = fOut F ((fv F i.a).mul (fv F i.b)) Flags.none c := by
  obtain ⟨hx, hy⟩ := Num.isFin_mul.1 h
  rw [fmul, if_neg (by simp [Num.isNan_of_isFin hx, Num.isNan_of_isFin hy]), if_neg (by simp [Num.isNan_of_isFin h])]

section
variable (hF : F.IsIeee)
include hF

theorem fmul_of_isNan (h : ((fv F i.a).isNan || (fv F i.b).isNan) = true) :
    fmul F i c = Claims.signedCode F F.nanCode false { nv := sNan F i.a || sNan F i.b } := by
  rw [fmul, if_pos h]
  exact fOut_nan hF

theorem fmul_of_zeroTimesInf (h : (fv F i.a).ZeroTimesInf (fv F i.b)) :
    fmul F i c = Claims.signedCode F F.nanCode false { nv := true } := by
  rw [fmul, h.mul, if_neg (by simp [h.isNan_left, h.isNan_right])]
  exact fOut_nan hF

theorem fmul_of_inf (h : (fv F i.a).mul (fv F i.b) = .inf t) : fmul F i c = Claims.signedCode F F.infIdx t {} := by
  have hn : ¬ ((fv F i.a).isNan || (fv F i.b).isNan) = true := fun hn => by
    have hp := Num.isNan_mul_of_isNan (Bool.or_eq_true _ _ ▸ hn)
    rw [h] at hp
    cases hp
  rw [fmul, if_neg hn, h]
  exact fOut_inf hF

end

/-! ### Quotients (R293) -/

section
variable {n d m k : Nat} {e f : Int}

theorem fdiv_fin_fin (ha : fv F i.a = .fin s n d e) (hb : fv F i.b = .fin t m k f) :
    fdiv F i c =
      if m = 0 then (if n = 0 then fInvalid F else fOut F (.inf (s != t)) { dz := true } c)
      else fOut F (.fin (s != t) (n * k) (d * m) (e - f)) Flags.none c := by
  rw [fdiv, ha, hb]
  simp

variable (hF : F.IsIeee)
include hF

theorem fdiv_of_isNan (h : ((fv F i.a).isNan || (fv F i.b).isNan) = true) :
    fdiv F i c = Claims.signedCode F F.nanCode false { nv := sNan F i.a || sNan F i.b } := by
  obtain h | h := Bool.or_eq_true _ _ ▸ h
  · rw [fdiv, Num.eq_nan_of_isNan h]
    exact fOut_nan hF
  · rw [fdiv, Num.eq_nan_of_isNan h]
    cases fv F i.a <;> exact fOut_nan hF

theorem fdiv_inf_inf (ha : fv F i.a = .inf s) (hb : fv F i.b = .inf t) :
    fdiv F i c = Claims.signedCode F F.nanCode false { nv := true } := by
  rw [fdiv, ha, hb]
  exact fOut_nan hF

theorem fdiv_inf_fin (ha : fv F i.a = .inf s) (hb : (fv F i.b).isFin = true) :
    fdiv F i c = Claims.signedCode F F.infIdx (s != (fv F i.b).sign) {} := by
  obtain ⟨_, _, _, _, hb⟩ := Num.exists_of_isFin hb
  rw [fdiv, ha, hb]
  exact fOut_inf hF

theorem fdiv_fin_inf (ha : (fv F i.a).isFin = true) (hb : fv F i.b = .inf t) :
    fdiv F i c = Claims.signedCode F 0 ((fv F i.a).sign != t) {} := by
  obtain ⟨_, _, _, _, ha⟩ := Num.exists_of_isFin ha
  rw [fdiv, ha, hb]
  exact fOut_zero hF

theorem fdiv_zero_zero (ha : (fv F i.a).isZero = true) (hb : (fv F i.b).isZero = true) :
    fdiv F i c = Claims.signedCode F F.nanCode false { nv := true } := by
  obtain ⟨s, d, e, hx⟩ := Num.exists_of_isZero ha
  obtain ⟨t, k, f, hy⟩ := Num.exists_of_isZero hb
  rw [fdiv_fin_fin hx hy, if_pos rfl, if_pos rfl]
  exact fOut_nan hF

theorem fdiv_fin_zero (ha : (fv F i.a).isFin = true) (h0 : (fv F i.a).isZero = false) (hb : (fv F i.b).isZero = true) :
    fdiv F i c = Claims.signedCode F F.infIdx ((fv F i.a).sign != (fv F i.b).sign) { dz := true } := by
  obtain ⟨s, n, d, e, hx⟩ := Num.exists_of_isFin ha
  obtain ⟨t, k, f, hy⟩ := Num.exists_of_isZero hb
  rw [hx] at h0 ⊢
  rw [fdiv_fin_fin hx hy, if_pos rfl, if_neg (by simpa using h0), hy]
  exact fOut_inf hF

end

/-! ### Fused multiply-adds (R294) -/

theorem ffma_of_zeroTimesInf (hF : F.IsIeee) (h : (fv F i.a).ZeroTimesInf (fv F i.b)) :
    ffma F i c = Claims.signedCode F F.nanCode false { nv := true } := by
  rw [ffma, if_pos (by simp [h.isNan_left, h.isNan_right, h.mul])]
  exact fOut_nan hF

/-- But for 0 × ∞, a fused multiply-add is the sum of the exact product and the addend (R294). -/
theorem ffma_of_not_zeroTimesInf (h : ¬ (fv F i.a).ZeroTimesInf (fv F i.b)) :
    ffma F i c = faddNum F ((fv F i.a).mul (fv F i.b)) (fv F i.c) (sNan F i.a || sNan F i.b || sNan F i.c) c := by
  refine if_neg fun hbad => h ?_
  simp only [Bool.and_eq_true, Bool.not_eq_true'] at hbad
  obtain ⟨⟨hx, hy⟩, hp⟩ := hbad
  exact (Num.isNan_mul_iff hx hy).1 hp

end Sys2Proof.Machine
end

section
/-! SUPPORT. The arithmetic instructions: their special values, the exact results that they round, and their completion (R287 to R294,
R296, R297, R300). -/

namespace Sys2Proof.Claims

open Sys2Proof.Machine

/-- Settles O11: each result is that of the sum, the product or the quotient of its sources' kinds; `ffma` is a sum but for 0 × ∞. -/
theorem floatSpecialValues : Obligations.FloatSpecialValues := by
  intro F hF i c a b d nan inf bad
  replace hF := isIeee_of_mem hF
  have hadd : fadd F i c = faddNum F a b (sNan F i.a || sNan F i.b) c := rfl
  have hsub : fsub F i c = faddNum F a b.neg (sNan F i.a || sNan F i.b) c := rfl
  have hfma (h : ¬ a.ZeroTimesInf b) : ffma F i c = faddNum F (a.mul b) d (sNan F i.a || sNan F i.b || sNan F i.c) c :=
    ffma_of_not_zeroTimesInf h
  refine ⟨?nan, ?addOpposite, ?subEqual, ?zeroMul, ?mulZero, ?zeroDivZero, ?infDivInf, ?divZero, ?divInf, ?infDiv, ?infAdd, ?addInf,
    ?infSub, ?subInf, ?infMul, ?mulInf, ?fmaBad, ?fmaNan, ?fmaInfInf, ?fmaInf, ?fmaAddInf⟩
  case nan =>
    intro h
    simp only [List.forall_mem_cons, List.not_mem_nil, IsEmpty.forall_iff, implies_true, and_true]
    exact ⟨faddNum_of_isNan hF h, faddNum_of_isNan hF (by simpa using h), fmul_of_isNan hF h, fdiv_of_isNan hF h⟩
  case addOpposite =>
    intro t ha hb
    rw [hadd, ha, hb, faddNum_inf_inf hF]
    exact if_neg (by simp)
  case subEqual =>
    intro t ha hb
    rw [hsub, ha, hb, Num.neg, faddNum_inf_inf hF]
    exact if_neg (by simp)
  case zeroMul => exact fun h0 t hb => fmul_of_zeroTimesInf hF (.inl ⟨h0, t, hb⟩)
  case mulZero => exact fun h0 t ha => fmul_of_zeroTimesInf hF (.inr ⟨h0, t, ha⟩)
  case zeroDivZero => exact fdiv_zero_zero hF
  case infDivInf => exact fun t u ha hb => fdiv_inf_inf hF ha hb
  case divZero => exact fdiv_fin_zero hF
  case divInf => exact fun ha t hb => fdiv_fin_inf hF ha hb
  case infDiv => exact fun hb t ha => fdiv_inf_fin hF ha hb
  case infAdd =>
    intro t ha hb
    rw [hadd, ha]
    exact faddNum_inf_left hF hb
  case addInf =>
    intro t hb ha
    rw [hadd, hb]
    exact faddNum_fin_inf hF ha
  case infSub =>
    intro t ha hb
    rw [hsub, ha]
    exact faddNum_inf_left hF (hb.imp (by simp) fun h => by simp [h, Num.neg])
  case subInf =>
    intro t hb ha
    rw [hsub, hb]
    exact faddNum_fin_inf hF ha
  case infMul =>
    intro t ha hn h0
    exact fmul_of_inf hF (by rw [← Num.inf_mul hn h0, ← ha])
  case mulInf =>
    intro t hb ha h0
    exact fmul_of_inf hF (by rw [← Num.mul_inf (Num.isNan_of_isFin ha) h0, ← hb])
  case fmaBad => exact ffma_of_zeroTimesInf hF
  case fmaNan =>
    intro hb hn
    rw [hfma hb]
    refine faddNum_of_isNan hF ?_
    rw [Bool.or_eq_true, Bool.or_eq_true] at hn
    rw [Bool.or_eq_true]
    exact hn.imp_left Num.isNan_mul_of_isNan
  case fmaInfInf =>
    intro t u hp hd
    rw [hfma (Num.not_zeroTimesInf (by rw [hp]; rfl)), hp, hd]
    exact faddNum_inf_inf hF
  case fmaInf =>
    intro t hp hd
    rw [hfma (Num.not_zeroTimesInf (by rw [hp]; rfl)), hp]
    exact faddNum_inf_left hF (.inl hd)
  case fmaAddInf =>
    intro t ha hb hd
    have hp : (a.mul b).isFin = true := Num.isFin_mul.2 ⟨ha, hb⟩
    rw [hfma (Num.not_zeroTimesInf (Num.isNan_of_isFin hp)), hd]
    exact faddNum_fin_inf hF hp

/-! ### Finite sources (R293, R294) -/

theorem floatExactness : FloatExactness := by
  intro F hF i c a b d down zeroSum hfa hfb
  have ha : a.Exact (ratOf a) := (F.proper_decodeFloat _).exact hfa
  have hb : b.Exact (ratOf b) := (F.proper_decodeFloat _).exact hfb
  have hab := ha.mul hb
  refine ⟨faddNum_rounds ha hb, ?difference, ?product, fun hb0 => ?quotient, fun hfd => ?fused⟩
  case difference =>
    have h := faddNum_rounds (F := F) (c := c) (sig := sNan F i.a || sNan F i.b) ha hb.neg
    rw [Num.isZero_neg, Num.sign_neg (Num.isNan_of_isFin hfb), ← sub_eq_add_neg] at h
    exact h
  case product =>
    rw [fmul_of_isFin hab.isFin]
    exact roundsExact_fOut hab.isFin hab.value fun _ => Num.sign_mul hfa hfb
  case quotient =>
    obtain ⟨s, n, e, f, hx⟩ := Num.exists_of_isFin hfa
    obtain ⟨t, m, k, j, hy⟩ := Num.exists_of_isFin hfb
    rw [hy] at hb0
    rw [hx, hy, fdiv_fin_fin hx hy, if_neg (by simpa using hb0)]
    exact roundsExact_fOut rfl (ratOf_quotient ..) fun _ => rfl
  case fused =>
    have hd : d.Exact (ratOf d) := (F.proper_decodeFloat _).exact hfd
    have h : ¬ a.ZeroTimesInf b := Num.not_zeroTimesInf (Num.isNan_of_isFin hab.isFin)
    rw [ffma_of_not_zeroTimesInf h]
    simpa only [Num.sign_mul hfa hfb, Num.isZero_mul hfa hfb] using faddNum_rounds hab hd

/-! ### Instructions that round (R287, R289, R292) -/

/-- A varying instruction that rounds completes where its meaning is `runFV` of its opcode, latency, rounding field and lane function. -/
theorem Rounded.Completes.of_runFV {k : Rounded}
    (hrun : ∀ h r s, exec (k.form h r) s = runFV k.op.toNat (k.lat r) (k.code r) h r s (k.lane r) := by intro h r s; rfl)
    (hwidth : ∀ r, (rWidths k.op.toNat r).d = k.w r := by intro r; rfl) : k.Completes := by
  intro s g x h r hr
  rw [← hwidth r]
  exact hr.ok (hrun h r s)

/-- A uniform one where it is `runFU` of them and of its signedness. -/
theorem RoundedS.Completes.of_runFU {k : RoundedS}
    (hrun : ∀ h r s, exec (k.form h r) s = runFU k.op.toNat (k.lat r) (k.code r) (k.sgn r) h r s (k.lane r) := by intro h r s; rfl)
    (hwidth : ∀ r, (rWidths k.op.toNat r).d = k.w r := by intro r; rfl) : k.Completes := by
  intro s g x h r hr
  rw [← hwidth r]
  exact hr.ok (hrun h r s)

theorem fArithVarying_completes : ∀ k ∈ fArithVarying, k.Completes := by
  simp only [fArithVarying, List.forall_mem_cons, List.not_mem_nil, IsEmpty.forall_iff, implies_true, and_true]
  exact ⟨.of_runFV, .of_runFV, .of_runFV, .of_runFV, .of_runFV, .of_runFV, .of_runFV, .of_runFV⟩

theorem fArithUniform_completes : ∀ k ∈ fArithUniform, k.Completes := by
  simp only [fArithUniform, List.forall_mem_cons, List.not_mem_nil, IsEmpty.forall_iff, implies_true, and_true]
  exact ⟨.of_runFU, .of_runFU, .of_runFU, .of_runFU, .of_runFU, .of_runFU, .of_runFU, .of_runFU⟩

theorem fmaVarying_completes : ∀ k ∈ fmaVarying, k.Completes := by
  simp only [fmaVarying, List.forall_mem_cons, List.not_mem_nil, IsEmpty.forall_iff, implies_true, and_true]
  exact ⟨.of_runFV, .of_runFV⟩

theorem fmaUniform_completes : ∀ k ∈ fmaUniform, k.Completes := by
  simp only [fmaUniform, List.forall_mem_cons, List.not_mem_nil, IsEmpty.forall_iff, implies_true, and_true]
  exact ⟨.of_runFU, .of_runFU⟩

/-- Settles O8: each meaning is `runFV` or `runFU` of its lane function, which on finite sources rounds the exact result
(`faddNum_rounds` for the sums; log 83 for the zeros of a difference, as those of the sum of x and −y). -/
theorem floatArithmetic : Obligations.FloatArithmetic :=
  ⟨List.forall_mem_append.2 ⟨fArithVarying_completes, fmaVarying_completes⟩,
    List.forall_mem_append.2 ⟨fArithUniform_completes, fmaUniform_completes⟩, floatExactness⟩

/-! ### Minimum, maximum, class and compare (R296, R297, R300) -/

theorem fExactVarying_completes : ∀ k ∈ fExactVarying, k.Completes := by
  simp only [fExactVarying, List.forall_mem_cons, List.not_mem_nil, IsEmpty.forall_iff, implies_true, and_true]
  exact ⟨.of_runV fun _ i => fminmax f32 true i.a i.b, .of_runV fun _ i => fminmax f64 true i.a i.b,
    .of_runV fun _ i => fminmax f32 false i.a i.b, .of_runV fun _ i => fminmax f64 false i.a i.b,
    .of_runV fun r => fclass (if r.n == 64 then f64 else f32)⟩

theorem fExactUniform_completes : ∀ k ∈ fExactUniform, k.Completes := by
  simp only [fExactUniform, List.forall_mem_cons, List.not_mem_nil, IsEmpty.forall_iff, implies_true, and_true]
  exact ⟨.of_runU fun _ i => fminmax f32 true i.a i.b, .of_runU fun _ i => fminmax f64 true i.a i.b,
    .of_runU fun _ i => fminmax f32 false i.a i.b, .of_runU fun _ i => fminmax f64 false i.a i.b⟩

/-- A varying compare completes where its meaning is `runFCmpV` of its opcode, latency and format. -/
theorem Compare.CompletesV.of_runFCmpV {k : Compare}
    (hrun : ∀ h r s, exec (k.form h r) s = runFCmpV k.op.toNat k.lat k.F h r s := by intro h r s; rfl) : k.CompletesV :=
  fun _ _ _ h r hr => hr.ok (hrun h r _)

/-- A uniform compare completes where its meaning is `runFCmpU` of its opcode, latency and format. -/
theorem Compare.CompletesS.of_runFCmpU {k : Compare}
    (hrun : ∀ h r s, exec (k.form h r) s = runFCmpU k.op.toNat k.lat k.F h r s := by intro h r s; rfl) : k.CompletesS :=
  fun _ _ _ h r hr => ⟨fun hm => hr.ok (hrun h r _) rfl (uniPredOwn_of_no_lane hm),
    fun hm => hr.ok (hrun h r _) rfl (uniPredOwn_of_lanes hm)⟩

/-- Settles O10: each meaning is that of its form, `runV`, `runU`, `runFCmpV` or `runFCmpU`; a uniform compare has lanes to write or
none (`uniPredOwn_of_lanes`). -/
theorem floatMinimumMaximumAndCompare : Obligations.FloatMinimumMaximumAndCompare :=
  ⟨fExactVarying_completes, fExactUniform_completes, .of_runFCmpV, .of_runFCmpV, .of_runFCmpU, .of_runFCmpU⟩

end Sys2Proof.Claims
end

section
/-! SUPPORT. Instructions on format slots that are BOUND (R169, R302 to R308). -/

namespace Sys2Proof.Machine

variable {s : State} {g : Group} {x : Split} {h : Head} {r : RArgs} {op : BitVec 8} {n : Nat}

theorem State.noteSlot_now (s : State) (g : Group) (k : Nat) : (s.noteSlot g k).now = s.now := by
  obtain ⟨parts, h⟩ := s.noted_noteSlot g k
  rw [h]

theorem exists_format_of_map {ks : List Nat} {fs : List Fmt} (hs : ks.map (s.slotOf g) = fs.map .ok) {j : Nat} (hj : j ∈ ks) :
    ∃ F, s.slotOf g j = .ok F := by
  obtain ⟨F, -, hF⟩ := List.mem_map.1 (hs ▸ List.mem_map_of_mem (f := s.slotOf g) hj)
  exact ⟨F, hF.symm⟩

/-- A slot conversion all of whose slots are BOUND, in a rounding mode that the last of them permits, completes (R169, R302). -/
theorem Runs.ok_slots {k code mode : Nat} {f : List Fmt → LaneIn → Rc → LaneOut} {ks : List Nat} {fs : List Fmt}
    {o : Host.Outcome State Fault Refusal}
    (hr : Runs s g x ⟨op, h, .r r⟩) (e : o = runSlots n h r s k code f) (hks : slotsOf n (.r r) = ks)
    (hs : ks.map (s.slotOf g) = fs.map .ok) (hm : (fs.getLastD f32).mode code (g.viewAt s.now).frm.toNat = some mode)
    (hn : op.toNat = n := by rfl) :
    let t := ks.foldl (fun s j => s.noteSlot g j) s
    let note := ks.foldl (fun g j => g.noteOp x s.nextPc j (beatDone false s.now 2 6) h.set.toNat) g
    o = .next (s.done g x ⟨op, h, .r r⟩
      (t.putGroup (note.beats x h false s.now 6 32 r.d.toNat fun v L => f fs (rIn n r v L) (t.rc note mode L k)))
      (some (note.vecClear x h false s.now 6))) := by
  have hlen : fs.length = ks.length := by simpa using (congrArg List.length hs).symm
  obtain ⟨parts, ht⟩ := State.Noted.foldl_noteSlot s g ks
  dsimp only
  rw [ht]
  refine hr.ok e hn ?_
  dsimp only
  rw [hks, List.find?_eq_none.2 fun j hj => by obtain ⟨F, hF⟩ := exists_format_of_map hs hj; simp [hF]]
  dsimp only
  rw [filterMap_eq_of_map_eq (fun j F hF => by simp [hF]) hs, if_neg (by simp [hlen]), hm, ht]
  rfl

end Sys2Proof.Machine

namespace Sys2Proof.Claims

open Sys2Proof.Machine

/-- Settles O12: the slot conversions by `Runs.ok_slots`; `qrow` and `qscale` find their slot BOUND, and noting its use leaves the time. -/
theorem slotInstructions : Obligations.SlotInstructions := by
  intro s g x h r e F G mode k j frm due one note
  refine ⟨fun hr hk => ?xunpk, fun hr hk hm => ?xpack, fun hr hj hk hm => ?xcvt, fun hr hk hm hF => ?qrow, fun hr hk => ?qscale⟩
  case xunpk =>
    have hs : [k].map (s.slotOf g) = [F].map .ok := by rw [List.map_singleton, hk, List.map_singleton]
    have hdone := hr.ok_slots (rfl : _ = execXunpk h r s) rfl hs (mode := F.rmdef) rfl
    exact hdone
  case xpack =>
    have hs : [k].map (s.slotOf g) = [F].map .ok := by rw [List.map_singleton, hk, List.map_singleton]
    have hdone := hr.ok_slots (rfl : _ = execXpack h r s) rfl hs hm
    exact hdone
  case xcvt =>
    have hs : [j, k].map (s.slotOf g) = [F, G].map .ok := by simp only [List.map_cons, hj, hk, List.map_nil]
    have hdone := hr.ok_slots (rfl : _ = execXcvt h r s) rfl hs hm
    exact hdone
  case qrow =>
    have hm : F.mode (e.ext.toNat / 8 % 8) (g.viewAt s.now).frm.toNat = some mode := hm
    refine hr.ok rfl rfl ?_
    simp only [hk, hm, beq_iff_eq, if_neg hF]
  case qscale =>
    have hk : s.slotOf g (r.c.toNat % 8) = .ok F := hk
    refine hr.ok rfl rfl ?_
    simp only [hk, uniOwn, State.noteSlot_now]
    rfl

end Sys2Proof.Claims
end

section
/-! SUPPORT. What every step keeps of memory (log 4) and that it goes on (log 2), operation by operation: where memory is written at
all, it is written byte by byte at a home, at a peer or in the host's memory. -/

namespace Sys2Proof.Machine

open Host (Outcome)

variable {P : State → Prop} {go : Prop} {s t : State}

/-! ### Properties of memory -/

/-- A property of states that only their memory decides, and that whatever writes memory keeps. -/
structure OfMemory (P : State → Prop) : Prop where
  congr : ∀ {s t : State}, P s → t.mem = s.mem → t.peer = s.peer → t.hmem = s.hmem → P t
  store : ∀ {s : State} (q a : Nat) (y : Bool) (b : List Byte), P s → P (s.homeWriteBy q a y b)
  touch : ∀ {s : State} (q a : Nat) (y : Bool), P s → P (s.llcTouch q a y)
  clean : ∀ {s : State} (q : Nat), P s → P (s.llcClean q)
  host  : ∀ {s : State} (f a : Nat) (b : List Byte), P s → P (s.hostWrite f a b)
  peer  : ∀ {s : State} (a : Nat) (b : List Byte), P s → P { s with peer := cellWrite s.peer a b }
  reset : ∀ {s : State}, P s → P s.moduleReset

/-- The state has a property of memory. -/
structure State.MemIs (P : State → Prop) (s : State) : Prop where
  kind : OfMemory P
  has  : P s

theorem State.MemIs.congr (h : s.MemIs P) (hm : t.mem = s.mem) (hp : t.peer = s.peer) (hh : t.hmem = s.hmem) : t.MemIs P :=
  ⟨h.kind, h.kind.congr h.has hm hp hh⟩

theorem State.MemIs.foldl {α : Type} {f : State → α → State} (hf : ∀ s a, s.MemIs P → (f s a).MemIs P) (l : List α)
    (h : s.MemIs P) : (l.foldl f s).MemIs P := by
  induction l generalizing s with
  | nil => exact h
  | cons a l ih => exact ih (hf s a h)

theorem State.MemIs.ite {c : Prop} [Decidable c] (hs : s.MemIs P) (ht : t.MemIs P) : (if c then s else t).MemIs P := by
  split
  · exact hs
  · exact ht

theorem State.MemIs.homeWriteBy (h : s.MemIs P) (q a : Nat) (y : Bool) (b : List Byte) : (s.homeWriteBy q a y b).MemIs P :=
  ⟨h.kind, h.kind.store q a y b h.has⟩
theorem State.MemIs.homeWrite (h : s.MemIs P) (q a : Nat) (b : List Byte) : (s.homeWrite q a b).MemIs P := h.homeWriteBy q a false b
theorem State.MemIs.llcTouch (h : s.MemIs P) (q a : Nat) (y : Bool) : (s.llcTouch q a y).MemIs P := ⟨h.kind, h.kind.touch q a y h.has⟩
theorem State.MemIs.llcClean (h : s.MemIs P) (q : Nat) : (s.llcClean q).MemIs P := ⟨h.kind, h.kind.clean q h.has⟩
theorem State.MemIs.hostWrite (h : s.MemIs P) (f a : Nat) (b : List Byte) : (s.hostWrite f a b).MemIs P := ⟨h.kind, h.kind.host f a b h.has⟩
theorem State.MemIs.moduleReset (h : s.MemIs P) : s.moduleReset.MemIs P := ⟨h.kind, h.kind.reset h.has⟩

theorem State.MemIs.countUp (h : s.MemIs P) (k e c : Nat) : (s.countUp k e c).MemIs P :=
  h.congr (countUp_mem s k e c) (countUp_peer s k e c) ((s.home_countUp k e c).frame (·.hmem) fun _ _ _ _ _ => rfl)

/-! ### The parts of State -/

theorem State.MemIs.putGroup (h : s.MemIs P) (g : Group) : (s.putGroup g).MemIs P :=
  h.congr rfl rfl rfl
theorem State.MemIs.putBlock (h : s.MemIs P) (b : Block) : (s.putBlock b).MemIs P := h.congr rfl rfl rfl
theorem State.MemIs.putTask (h : s.MemIs P) (x : Task) : (s.putTask x).MemIs P := h.congr rfl rfl rfl
theorem State.MemIs.putPart (h : s.MemIs P) (p : Part) : (s.putPart p).MemIs P := h.congr rfl rfl rfl
theorem State.MemIs.putCtx (h : s.MemIs P) (c : Ctx) : (s.putCtx c).MemIs P := h.congr rfl rfl rfl
theorem State.MemIs.putQueue (h : s.MemIs P) (q : Queue) : (s.putQueue q).MemIs P := h.congr rfl rfl rfl
theorem State.MemIs.putCore (h : s.MemIs P) (c : Nat) (k : Core) : (s.putCore c k).MemIs P := h.congr rfl rfl rfl
theorem State.MemIs.putFn (h : s.MemIs P) (f : Nat) (x : Fn) : (s.putFn f x).MemIs P := h.congr rfl rfl rfl
theorem State.MemIs.putLink (h : s.MemIs P) (d : Nat) (l : Link) : (s.putLink d l).MemIs P := h.congr rfl rfl rfl
theorem State.MemIs.putL1 (h : s.MemIs P) (c : Nat) (l : List Sector) : (s.putL1 c l).MemIs P := h.congr rfl rfl rfl
theorem State.MemIs.putEngines (h : s.MemIs P) (c : Nat) (k : Core) : (s.putEngines c k).MemIs P := h.congr rfl rfl rfl

/-! ### Event records (R440, R441) -/

theorem State.MemIs.ringRecord (h : s.MemIs P) (f : Nat) (r : Record) : (s.ringRecord f r).MemIs P :=
  (h.hostWrite _ _ _).putFn _ _

theorem State.MemIs.deliver (h : s.MemIs P) (f : Nat) (i : RecInfo) : (s.deliver f i).MemIs P := by
  unfold State.deliver
  exact .ite ((h.putFn _ _).ringRecord _ _) (.ite ((h.putFn _ _).putFn _ _) ((h.putFn _ _).putFn _ _))

theorem State.MemIs.record (h : s.MemIs P) (i : RecInfo) : (s.record i).MemIs P :=
  State.MemIs.deliver (.ite (by exact h.congr rfl rfl rfl) h) _ _

theorem State.MemIs.signalQueue (h : s.MemIs P) (f v : Nat) : (s.signalQueue f v).MemIs P := by
  unfold State.signalQueue
  dsimp only
  split
  · exact .ite (.ite h (h.putFn _ _)) (h.putFn _ _)
  · exact h.putFn _ _

/-! ### Messages, homes and L1s (R120 to R133, R498) -/

theorem State.MemIs.carry (h : s.MemIs P) (m : Msg) : (s.carry m).MemIs P := .ite h (h.congr rfl rfl rfl)

theorem State.MemIs.poisonMem (h : s.MemIs P) (w : Nat) : (s.poisonMem w).MemIs P := .ite (h.congr rfl rfl rfl) (h.congr rfl rfl rfl)

theorem State.MemIs.writeBack (h : s.MemIs P) (x : Sector) : (s.writeBack x).MemIs P := by
  refine .ite h (.foldl (fun s i hs => .ite (hs.poisonMem _) hs) _ (.foldl (fun s i hs => .ite (hs.homeWrite _ _ _) hs) _ h))

theorem State.MemIs.sendBack (h : s.MemIs P) (c : Nat) (x : Sector) : (s.sendBack c x).MemIs P :=
  .ite (h.writeBack x) (h.carry _)

theorem State.MemIs.landBacks (h : s.MemIs P) (p : Nat → Sector → Bool) (l : List Msg) : (s.landBacks p l).MemIs P := by
  induction l generalizing s with
  | nil => exact h
  | cons m l ih =>
    unfold State.landBacks
    split
    · split
      · exact ih (State.MemIs.writeBack (by exact h.congr rfl rfl rfl) _)
      · exact ih h
    · exact ih h

theorem State.MemIs.landSector (h : s.MemIs P) (p a : Nat) : (s.landSector p a).MemIs P := h.landBacks _ _
theorem State.MemIs.landBack (h : s.MemIs P) (m : Msg) (x : Sector) : (s.landBack m x).MemIs P := .ite (h.landBacks _ _) h

theorem State.MemIs.l1Trim (h : s.MemIs P) (p c cap n : Nat) : (s.l1Trim p c cap n).MemIs P := by
  induction n generalizing s with
  | zero => exact h
  | succ n ih =>
    unfold State.l1Trim
    refine .ite h ?_
    split
    · exact h
    · exact ih ((h.sendBack _ _).putL1 _ _)

theorem State.MemIs.l1Fit (h : s.MemIs P) (p c cap : Nat) : (s.l1Fit p c cap).MemIs P := h.l1Trim _ _ _ _
theorem State.MemIs.putSector (h : s.MemIs P) (c : Nat) (x : Sector) (o : Bool) : (s.putSector c x o).MemIs P :=
  ((h.putL1 _ _).l1Fit _ _ _).putL1 _ _
theorem State.MemIs.keepSector (h : s.MemIs P) (c : Nat) (x : Sector) : (s.keepSector c x).MemIs P := h.putL1 _ _

theorem State.MemIs.l1Read (h : s.MemIs P) (p x c a n k : Nat) (o : Option Nat) : (s.l1Read p x c a n k o).2.2.MemIs P := by
  have ht : ∀ b : Bool, (if b then s else s.llcTouch p a).MemIs P := fun b => .ite h (h.llcTouch _ _ _)
  exact .ite (ht _) (State.MemIs.putSector (.ite (ht _) ((ht _).countUp _ _ _)) _ _ _)

theorem State.MemIs.l1Write (h : s.MemIs P) (p x c a : Nat) (b : List Byte) (k : Nat) (o : Option Nat) :
    (s.l1Write p x c a b k o).MemIs P := by
  unfold State.l1Write
  dsimp only
  split
  · exact .ite (h.putSector _ _ _) (.ite ((h.homeWrite _ _ _).putSector _ _ _) (h.putSector _ _ _))
  · exact .ite (h.homeWrite _ _ _) (h.putSector _ _ _)

/-- Sectors of an L1 sent back, one after the other. -/
theorem State.MemIs.sendBacks (h : s.MemIs P) (c : Nat) (p : Sector → Bool) (l : List Sector) :
    (l.foldl (fun s x => if p x then s.sendBack c x else s) s).MemIs P :=
  .foldl (fun _ _ hs => .ite (hs.sendBack _ _) hs) l h

theorem State.MemIs.l1Purge (h : s.MemIs P) (c : Nat) (p : Sector → Bool) : (s.l1Purge c p).MemIs P := (h.sendBacks c p _).putL1 _ _
theorem State.MemIs.l1Clean (h : s.MemIs P) (c : Nat) (p : Sector → Bool) : (s.l1Clean c p).MemIs P := (h.sendBacks c p _).putL1 _ _

/-! ### Engines and barriers (R185 to R191, R362 to R365) -/

theorem State.MemIs.dropOps (h : s.MemIs P) (c : Nat) (m : MOp → Bool) (y : COp → Bool) : (s.dropOps c m y).MemIs P := h.congr rfl rfl rfl

theorem State.MemIs.wake (h : s.MemIs P) (q : Group → Bool) (p : GWait → Bool) : (s.wake q p).MemIs P := h.congr rfl rfl rfl

theorem State.MemIs.gbarTest (h : s.MemIs P) (b : Nat) : (s.gbarTest b).MemIs P := by
  unfold State.gbarTest
  split
  · exact h
  · exact .ite h ((h.putBlock _).wake _ _)

theorem State.MemIs.rbarPass (h : s.MemIs P) (b : Block) (l : Nat) : (s.rbarPass b l).MemIs P := by
  unfold State.rbarPass
  refine State.MemIs.wake ?_ _ _
  split
  · exact State.MemIs.putTask (by exact h.congr rfl rfl rfl) _
  · exact h.congr rfl rfl rfl

theorem State.MemIs.rbarTell (h : s.MemIs P) (x : Task) (k : Nat) (l : List Nat) : (s.rbarTell x k l).MemIs P :=
  .ite h (.foldl (fun _ _ hs => hs.carry _) _ (h.putTask _))

theorem State.MemIs.rbarTest (h : s.MemIs P) (b : Nat) : (s.rbarTest b).MemIs P := by
  unfold State.rbarTest
  split
  · exact h
  · split
    · exact h
    · refine .ite h ?_
      split
      · have ht := fun x k l => h.rbarTell x k l
        refine .ite (ht _ _ _) (.ite ((ht _ _ _).rbarPass _ _) (.ite (ht _ _ _) ?_))
        split
        · exact (ht _ _ _).putTask _
        · exact ht _ _ _
      · exact h.rbarPass _ _

theorem State.MemIs.rbarAck (h : s.MemIs P) (x : Task) (ks : List Nat) : (s.rbarAck x ks).MemIs P := by
  refine .foldl (fun s k hs => ?_) ks h
  split
  · exact hs.rbarPass _ _
  · exact hs

theorem State.MemIs.rbarTestTask (h : s.MemIs P) (x : Nat) : (s.rbarTestTask x).MemIs P := .foldl (fun _ _ hs => hs.rbarTest _) _ h

theorem State.MemIs.retest (h : s.MemIs P) (g : Nat) : (s.retest g).MemIs P := by
  unfold State.retest
  split
  · exact h
  · refine .ite ?_ h
    split
    · exact (h.gbarTest _).rbarTestTask _
    · exact h

theorem State.MemIs.passToken (h : s.MemIs P) (b : Block) : (s.passToken b).MemIs P := by
  unfold State.passToken
  split
  · exact h.putBlock _
  · exact (h.putBlock _).wake _ _

theorem State.MemIs.retireGroup (h : s.MemIs P) (g : Group) : (s.retireGroup g).MemIs P := by
  unfold State.retireGroup
  split
  · exact h
  · exact State.MemIs.rbarTestTask (.gbarTest (.ite (State.MemIs.passToken ((h.putGroup _).putBlock _) _) ((h.putGroup _).putBlock _)) _) _

/-! ### Blocks and tasks end (R46, R52, R384) -/

theorem State.MemIs.commitTell (h : s.MemIs P) (u o : Nat) : (s.commitTell u o).MemIs P := by
  unfold State.commitTell
  split
  · exact h
  · refine .ite h ?_
    split
    · exact h.carry _
    · exact h

theorem State.MemIs.dropBlock (h : s.MemIs P) (b : Block) : (s.dropBlock b).MemIs P := h.congr rfl rfl rfl
theorem State.MemIs.stopBlocks (h : s.MemIs P) (x : Nat) : (s.stopBlocks x).MemIs P := .foldl (fun _ _ hs => hs.dropBlock _) _ h

theorem State.MemIs.endTask (h : s.MemIs P) (x k : Nat) (c : BitVec 8) : (s.endTask x k c).MemIs P := by
  unfold State.endTask
  dsimp only
  split
  · exact h.stopBlocks _
  · exact .ite (h.stopBlocks _) ((h.stopBlocks _).congr rfl rfl rfl)

theorem State.MemIs.abort (h : s.MemIs P) (g : Group) (f : FaultInfo) (d n : Bool) : (s.abort g f d n).MemIs P := by
  unfold State.abort
  split
  · exact h
  · split
    · exact h
    · exact (h.record _).endTask _ _ _

/-! ### Faults, packets and fetches (R93, R137, R382 to R386) -/

theorem State.MemIs.takeFault (h : s.MemIs P) (g : Group) (f : FaultInfo) : (s.takeFault g f).MemIs P := by
  unfold State.takeFault
  refine .ite (h.abort _ _ _ _) ?_
  split
  · exact h.abort _ _ _ _
  · exact h.putGroup _

theorem State.MemIs.packet (h : s.MemIs P) (g : Group) (q : Req) (a : Nat) (l : LaneMask) : (s.packet g q a l).MemIs P :=
  (State.MemIs.putGroup (s := { s with uid := s.uid + 1 }) (h.congr rfl rfl rfl) _).record _

theorem State.MemIs.fetchOk (h : s.MemIs P) (g : Group) (x : Split) : (s.fetchOk g x).1.MemIs P := by
  unfold State.fetchOk
  split
  · exact h.putGroup _
  · split
    · exact h
    · exact h.putGroup _
  · exact h.putGroup _

theorem State.MemIs.fetchSplit (h : s.MemIs P) (g : Group) (x : Split) : (s.fetchSplit g x).1.MemIs P := by
  unfold State.fetchSplit
  split
  · exact h
  · split
    · exact h.takeFault _ _
    · split
      · exact h.fetchOk _ _
      · exact h.takeFault _ _
      · exact h.packet _ _ _ _

theorem State.MemIs.fetchAll (h : s.MemIs P) (u a : Nat) (l : List Split) : (s.fetchAll u a l).MemIs P := by
  induction l generalizing s with
  | nil => exact h
  | cons x l ih =>
    unfold State.fetchAll
    split
    · exact h
    · rename_i g _
      refine .ite (ih (h.putGroup _)) ?_
      have hf := h.fetchSplit g x
      split
      · exact ih (by simp_all)
      · simp_all

theorem State.MemIs.settleGroup (h : s.MemIs P) (u a : Nat) : (s.settleGroup u a).MemIs P := by
  unfold State.settleGroup
  split
  · exact h
  · dsimp only
    split
    · exact h.fetchAll _ _ _
    · exact .ite (((h.fetchAll _ _ _).putGroup _).retireGroup _) ((h.fetchAll _ _ _).putGroup _)

/-! ### Issue and sequencing (R371 to R376) -/

theorem State.MemIs.sequencedAt (h : s.MemIs P) (u c : Nat) (hd : Head) (x : Split) (n : Pc) (m : LaneMask) (a : Dword) :
    (s.sequencedAt u c hd x n m a).MemIs P := by
  unfold State.sequencedAt
  split
  · exact h
  · exact (h.putGroup _).settleGroup _ _

theorem State.MemIs.goOn (h : s.MemIs P) (u : Nat) (q : Req) : (s.goOn u q).MemIs P := by
  unfold State.goOn
  split
  · exact h
  · exact .ite h (h.sequencedAt _ _ _ _ _ _ _)

theorem State.MemIs.rte (h : s.MemIs P) (g : Group) (k : Handler) (m : Nat) : (s.rte g k m).MemIs P := by
  have hr := (h.putGroup (g.leave k (m == 1))).retest g.uid
  unfold State.rte
  refine .ite (h.abort _ _ _ _) ?_
  dsimp only
  split
  · exact .ite (hr.goOn _ _) hr
  · exact hr

theorem State.MemIs.issued (h : s.MemIs P) (u op : Nat) (hd : Head) (p : Payload) (c : Option Nat) :
    (s.issued u op hd p c).MemIs P := by
  unfold State.issued
  split
  · exact h
  · exact (h.putCore _ _).putGroup _

theorem State.MemIs.finish (h : s.MemIs P) (u op : Nat) (hd : Head) (p : Payload) (x : Split) (m : LaneMask) (a : Dword)
    (c : Option Nat) : (s.finish u op hd p x m a c).MemIs P :=
  (h.issued _ _ _ _ _).sequencedAt _ _ _ _ _ _ _

theorem State.MemIs.noteSlot (h : s.MemIs P) (g : Group) (k : Nat) : (s.noteSlot g k).MemIs P := by
  unfold State.noteSlot
  split
  · exact h
  · split
    · exact h
    · exact .ite h (h.putPart _)

/-! ### Slot instructions -/

/-- The state that an instruction's own effect leads to, where it leads to one, has the property. -/
inductive Own.Has (P : State → Prop) : Own → Prop
  | ok {t : State} {c : Option Nat} (h : t.MemIs P) : Own.Has P (.ok t c)
  | done {t : State} (h : t.MemIs P) : Own.Has P (.done t)
  | wait : Own.Has P .wait
  | fault {c : BitVec 8} {a : Dword} {l : LaneMask} : Own.Has P (.fault c a l)
  | ecc {a : Nat} {l : LaneMask} : Own.Has P (.ecc a l)
  | packet {q : Req} {a : Nat} {l : LaneMask} : Own.Has P (.packet q a l)
  | await {q : Req} {w : GWait} : Own.Has P (.await q w)

/-- What a step comes to: a state of the property, or a fault of the machine, the latter only where it need not go on. -/
inductive Into (P : State → Prop) (go : Prop) : Outcome State Fault Refusal → Prop
  | next {t : State} (h : t.MemIs P) : Into P go (.next t)
  | fault {f : Fault} (h : ¬ go) : Into P go (.fault f)

theorem State.MemIs.next (h : s.MemIs P) : Into P go (.next s) := .next h

/-- The group whose turn it is exists and has a split to execute. -/
def State.Executes (s : State) : Prop := ∃ g x, s.curGroup = some g ∧ g.exec? = some x

theorem not_executes_of_curGroup (h : s.curGroup = none) : ¬ s.Executes := fun ⟨_, _, hg, _⟩ => nomatch h.symm.trans hg

theorem not_executes_of_exec {g : Group} (hg : s.curGroup = some g) (hx : g.exec? = none) : ¬ s.Executes := fun ⟨_, _, hg', hx'⟩ => by
  cases hg.symm.trans hg'
  exact nomatch hx.symm.trans hx'

/-- A slot instruction keeps what its own effect keeps: its checks, faults, issue and sequencing write no memory of their own. -/
theorem State.MemIs.runSlot (h : s.MemIs P) {op : Nat} {hd : Head} {p : Payload} {own : Group → Split → Own}
    (ho : ∀ g x, (own g x).Has P) : Into P s.Executes (runSlot op hd p s own) := by
  unfold Machine.runSlot
  split
  · exact .fault (not_executes_of_curGroup ‹_›)
  split
  · exact .fault (not_executes_of_exec ‹_› ‹_›)
  rename_i g _ _ x _
  have hs : Into P s.Executes (.next { s with stall := true }) := .next (h.congr rfl rfl rfl)
  split
  · exact hs
  split
  · exact .next (h.takeFault _ _)
  split
  · exact .next (h.takeFault _ _)
  have hx := ho g x
  generalize own g x = o at hx
  cases hx with
  | wait => exact hs
  | done ht => exact .next ht
  | ecc | fault => exact .next (h.takeFault _ _)
  | packet => exact .next ((h.issued _ _ _ _ _).packet _ _ _ _)
  | await => exact .next ((h.issued _ _ _ _ _).putGroup _)
  | ok ht => exact .next (ht.finish _ _ _ _ _ _ _ _)

end Sys2Proof.Machine
end

section
/-! SUPPORT. Memory (log 4) at slot instructions and at what happens to a group beside them: the own effects that do more than replace
their group, requests performed, packets answered, tasks completed. -/

namespace Sys2Proof.Machine

open Host (Outcome)

variable {P : State → Prop} {go : Prop} {s : State}

/-! ### Requests performed (R122, R123, R133, R148) -/

theorem State.MemIs.stackBytes (h : s.MemIs P) (b : Block) (a : Nat) (l : List Byte) : (s.stackBytes b a l).1.MemIs P := by
  induction l generalizing s a with
  | nil => exact h
  | cons x l ih =>
    unfold State.stackBytes
    split
    · exact ih h _
    · exact ih (by exact h.congr rfl rfl rfl) _

theorem State.MemIs.readAt (h : s.MemIs P) (b : Block) (m : RMode) (k v a n : Nat) : (s.readAt b m k v a n).2.2.MemIs P := by
  cases m with
  | shared | reduce => exact h.llcTouch _ _ _
  | stack => exact (h.l1Read _ _ _ _ _ _ _).stackBytes _ _ _
  | rd | wr | rw | code | args => exact h.l1Read _ _ _ _ _ _ _

theorem State.MemIs.writeAt (h : s.MemIs P) (b : Block) (m : RMode) (k v a : Nat) (x : List Byte) : (s.writeAt b m k v a x).MemIs P := by
  cases m with
  | shared | reduce => exact h.homeWriteBy _ _ _ _
  | stack => exact (h.l1Write _ _ _ _ _ _ _).putBlock _
  | rd | wr | rw | code | args => exact h.l1Write _ _ _ _ _ _ _

theorem memIs_performLane {p : Perf} (h : p.s.MemIs P) (b : Block) (t : Task) (q : Req) (x : LaneReq) :
    (performLane b t q p x).s.MemIs P := by
  unfold performLane
  dsimp only
  generalize (p.s.block? b.uid).getD b = b'
  have hp : (if q.kind == .stw || p.s.goesHome b' t q x then { p with s := p.s.landSector b'.part x.pa } else p).s.MemIs P := by
    split
    · exact h.landSector _ _
    · exact h
  generalize (if q.kind == .stw || p.s.goesHome b' t q x then { p with s := p.s.landSector b'.part x.pa } else p) = p' at hp
  split
  · exact hp.readAt _ _ _ _ _ _
  · exact hp.readAt _ _ _ _ _ _
  · exact hp.writeAt _ _ _ _ _ _
  · exact .ite (hp.writeAt _ _ _ _ _ _) ((hp.writeAt _ _ _ _ _ _).writeAt _ _ _ _ _ _)
  · split
    · exact hp.llcTouch _ _ _
    · exact hp.homeWriteBy _ _ _ _
  · split
    · exact hp.llcTouch _ _ _
    · exact hp.homeWriteBy _ _ _ _
  · exact hp

theorem memIs_performLanes {p : Perf} (h : p.s.MemIs P) (b : Block) (t : Task) (q : Req) (l : List LaneReq) :
    (l.foldl (performLane b t q) p).s.MemIs P := by
  induction l generalizing p with
  | nil => exact h
  | cons x l ih => exact ih (memIs_performLane h b t q x)

theorem State.MemIs.performRedo (h : s.MemIs P) (t : Task) (q : Req) : (performRedo t q s).MemIs P := by
  refine .foldl (fun s a hs => ?_) _ h
  split
  · exact hs
  · exact hs.homeWrite _ _ _

theorem State.MemIs.performLoad (h : s.MemIs P) (g : Group) (b : Block) (t : Task) (q : Req) : (s.performLoad g b t q).MemIs P := by
  have hp := memIs_performLanes (p := { s := s }) h b t q q.lanes
  have hs := State.MemIs.ite (c := q.sys) (hp.llcClean b.part) hp
  exact .ite (hs.putGroup _) (hs.putGroup _)

theorem State.MemIs.performStore (h : s.MemIs P) (g : Group) (b : Block) (t : Task) (q : Req) : (s.performStore g b t q).MemIs P := by
  have hp := State.MemIs.ite (c := q.kind == .redo) (h.performRedo t q) (memIs_performLanes (p := { s := s }) h b t q q.lanes)
  exact State.MemIs.putGroup (.ite (hp.llcClean b.part) hp) _

/-! ### Completion records and signals (R103, R440, R451) -/

theorem State.MemIs.ctxWrite (h : s.MemIs P) {p c a : Nat} {b : List Byte} : ∀ t, s.ctxWrite p c a b = some t → t.MemIs P := by
  unfold State.ctxWrite
  have fold : ∀ (l : List (Nat × Nat)) (o : Option State), (∀ t, o = some t → t.MemIs P) → ∀ t,
      l.foldl (fun t (x : Nat × Nat) => match s.ctxPage p c x.1 true, t with
        | some q, some t => some (t.homeWrite p q.pa ((b.drop (x.1 - a)).take x.2))
        | _, _ => none) o = some t → t.MemIs P := by
    intro l
    induction l with
    | nil => exact fun o ho => ho
    | cons x l ih =>
      refine fun o ho => ih _ fun t e => ?_
      dsimp only at e
      split at e
      · cases e; exact (ho _ rfl).homeWrite _ _ _
      · cases e
  exact fold _ _ (by rintro t ⟨⟩; exact h)

theorem State.MemIs.getD {o : Option State} (ho : ∀ t, o = some t → t.MemIs P) (h : s.MemIs P) : (o.getD s).MemIs P := by
  cases o with
  | none => exact h
  | some t => exact ho t rfl

theorem State.MemIs.reWait (h : s.MemIs P) (p c : Nat) : (s.reWait p c).MemIs P := h.congr rfl rfl rfl

theorem State.MemIs.signal (h : s.MemIs P) (p c a : Nat) : (s.signal p c a).MemIs P := by
  unfold State.signal
  refine .ite h (State.MemIs.reWait ?_ _ _)
  split
  · exact (State.MemIs.getD (h.llcClean _).ctxWrite (h.llcClean _)).llcClean _
  · exact h.llcClean _

theorem State.MemIs.announce (h : s.MemIs P) (t : Task) (n : Nat) : (s.announce t n).MemIs P := by
  unfold State.announce
  split
  · exact h
  · rename_i p _
    have hput : ∀ t', (if t.hdr.cplAddr == 0 then none else s.ctxWrite t.part t.ctx t.hdr.cplAddr (t.record p n)) = some t' → t'.MemIs P := by
      intro t' e
      split at e
      · cases e
      · exact h.ctxWrite t' e
    dsimp only
    generalize (if t.hdr.cplAddr == 0 then none else s.ctxWrite t.part t.ctx t.hdr.cplAddr (t.record p n)) = put at hput
    cases put with
    | none => exact State.MemIs.signal (.ite h (h.record _)) _ _ _
    | some t' =>
      have hs := (hput t' rfl).signal t.part t.ctx t.hdr.sigctr
      dsimp only
      split
      · exact hs.signalQueue _ _
      · exact hs

theorem State.MemIs.completeTask (h : s.MemIs P) (u : Nat) : (s.completeTask u).MemIs P := by
  unfold State.completeTask
  split
  · exact h
  · have ha := fun t x n => (h.putTask t).announce x n
    exact .ite ((ha _ _ _).congr rfl rfl rfl) (ha _ _ _)

/-! ### Packets answered (R137) -/

theorem State.MemIs.decline (h : s.MemIs P) (g : Group) (q : Req) (c : BitVec 8) (a : Nat) (l : LaneMask) : (s.decline g q c a l).MemIs P :=
  h.takeFault _ _

theorem State.MemIs.reissue (h : s.MemIs P) (g : Group) (q : Req) : (s.reissue g q).MemIs P := by
  unfold State.reissue
  refine .ite (h.putGroup _) ?_
  split
  · exact .ite h (.ite (h.packet _ _ _ _) (h.decline _ _ _ _ _))
  · exact h.putGroup _

theorem State.MemIs.reissueAll (h : s.MemIs P) (u : Nat) (l : List Req) : (s.reissueAll u l).MemIs P := by
  induction l generalizing s with
  | nil => exact h
  | cons q l ih =>
    unfold State.reissueAll
    split
    · exact h
    · exact .ite (ih h) (.ite h (ih (h.reissue _ _)))

theorem State.MemIs.goOnPackets (h : s.MemIs P) (u : Nat) : (s.goOnPackets u).MemIs P := by
  unfold State.goOnPackets
  split
  · exact h.reissueAll _ _
  · exact h

theorem State.MemIs.replay (h : s.MemIs P) (g : Group) (q : Req) : (s.replay g q).MemIs P := by
  unfold State.replay
  refine .ite ((h.putGroup _).settleGroup _ _) ?_
  split
  · exact .ite (h.packet _ _ _ _) (h.decline _ _ _ _ _)
  · exact State.MemIs.goOnPackets (.ite (h.putGroup _) ((h.putGroup _).goOn _ _)) _

theorem State.MemIs.answers (h : s.MemIs P) (u : Nat) (l : List Req) : (s.answers u l).MemIs P := by
  induction l generalizing s with
  | nil => exact h
  | cons q l ih =>
    unfold State.answers
    refine ih ?_
    split
    · exact h
    · refine .ite h ?_
      split
      · exact h.replay _ _
      · exact h.decline _ _ _ _ _
      · exact h

theorem State.MemIs.pickUp (h : s.MemIs P) (u : Nat) : (s.pickUp u).MemIs P := by
  unfold State.pickUp
  split
  · exact (h.goOnPackets _).answers _ _
  · exact h

/-! ### Spawned tasks and commit positions (R202, R368) -/

theorem State.MemIs.submitImage (h : s.MemIs P) (b : Block) (q : Nat) (l : List Byte) : (s.submitImage b q l).MemIs P := by
  unfold State.submitImage
  split
  · exact h.announce _ _
  · exact State.MemIs.putQueue (.foldl (fun s k hs => .getD hs.ctxWrite hs) _ h) _

theorem State.MemIs.performSpawn (h : s.MemIs P) (g : Group) (b : Block) (q : Req) : (s.performSpawn g b q).MemIs P :=
  .ite ((h.putGroup _).submitImage _ _ _) (h.putGroup _)

theorem State.MemIs.performPass (h : s.MemIs P) (g : Group) (b : Block) (t : Task) (q : Req) : (s.performPass g b t q).MemIs P :=
  .ite (h.performStore _ _ _ _) (.ite (h.putTask _) (((h.putTask _).putGroup _).commitTell _ _))

/-! ### Steps of a group of itself (R230, R343, R378, R382, R390) -/

theorem State.MemIs.bundleFetch (h : s.MemIs P) (g i : Nat) : Into P go (execBundleFetch g i s) := by
  unfold execBundleFetch
  split
  · exact h.next
  split
  · exact h.next
  split
  · exact h.next
  · exact ((h.fetchSplit _ _).settleGroup _ _).next

theorem State.MemIs.loadDataReturn (h : s.MemIs P) (g q : Nat) : Into P go (execLoadDataReturn g q s) := by
  unfold execLoadDataReturn
  split
  · exact h.next
  split
  · split
    · exact h.next
    split
    · exact ((h.performSpawn _ _ _).retest _).next
    · exact ((h.performLoad _ _ _ _).retest _).next
  · exact h.next

theorem State.MemIs.accessPerformed (h : s.MemIs P) (g q : Nat) : Into P go (execAccessPerformed g q s) := by
  unfold execAccessPerformed
  split
  · exact h.next
  split
  · split
    · exact h.next
    split
    · exact ((h.performPass _ _ _ _).retest _).next
    · exact ((h.performStore _ _ _ _).retest _).next
  · exact h.next

theorem State.MemIs.wcntRecheck (h : s.MemIs P) (g : Nat) : Into P go (execWcntRecheck g s) := by
  unfold execWcntRecheck
  split
  · exact h.next
  split
  · split
    · exact h.next
    · split
      · exact h.next
      · exact ((h.llcTouch _ _ _).putGroup _).next
    · exact (h.putGroup _).next
    · exact (State.MemIs.ite (h.packet _ _ _ _) (h.decline _ _ _ _ _)).next
    · exact ((((h.llcTouch _ _ _).putGroup _).goOn _ _).retest _).next
  · exact h.next

theorem State.MemIs.sleepExpiry (h : s.MemIs P) (g : Nat) : Into P go (execSleepExpiry g s) := by
  unfold execSleepExpiry
  split
  · exact h.next
  · exact (State.MemIs.ite (h.putGroup _) h).next

theorem State.MemIs.handlerEntry (h : s.MemIs P) (g : Nat) : Into P go (execHandlerEntry g s) := by
  unfold execHandlerEntry
  split
  · exact h.next
  split
  · exact h.next
  · exact (h.takeFault _ _).next

theorem State.MemIs.watchdog (h : s.MemIs P) (g : Nat) : Into P go (execWatchdog g s) := by
  unfold execWatchdog
  split
  · exact h.next
  split
  · exact h.next
  · exact (h.takeFault _ _).next

theorem State.MemIs.illegalOpcode (h : s.MemIs P) (op : BitVec 8) : Into P s.Executes (execIllegalOpcode op s) := by
  unfold execIllegalOpcode
  split
  · exact .fault (not_executes_of_curGroup ‹_›)
  split
  · exact .fault (not_executes_of_exec ‹_› ‹_›)
  · exact (h.takeFault _ _).next

/-! ### Own effects of slot instructions -/

theorem State.MemIs.uniPredOwn (h : s.MemIs P) (hd : Head) (l d : Nat) (c : BitVec 2) (r : Bool) (f : BitVec 9) (g : Group) (x : Split) :
    (uniPredOwn s hd l d c r f g x).Has P := by
  unfold Machine.uniPredOwn
  dsimp only
  split
  · exact .ok h
  · exact .ok (h.putGroup _)

theorem State.MemIs.noteSlots (h : s.MemIs P) (g : Group) (ks : List Nat) : (ks.foldl (fun s j => s.noteSlot g j) s).MemIs P :=
  .foldl (fun _ _ hs => hs.noteSlot _ _) ks h

theorem State.MemIs.runSlots (h : s.MemIs P) (op : Nat) (hd : Head) (r : RArgs) (k c : Nat) (f : List Fmt → LaneIn → Rc → LaneOut) :
    Into P s.Executes (runSlots op hd r s k c f) := by
  refine h.runSlot fun g x => ?_
  dsimp only
  repeat' split
  all_goals constructor
  exact (h.noteSlots _ _).putGroup _

theorem State.MemIs.memOwnBy (h : s.MemIs P) {op : Nat} {hd : Head} {m : MArgs} {k : ReqKind} {c : Acc} {u o l : Bool} {g : Group}
    {x : Split} {act : Req → Own} (ha : ∀ q, (act q).Has P) : (memOwnBy op hd m k c u o l s g x act).Has P := by
  unfold Machine.memOwnBy
  dsimp only
  repeat' split
  any_goals constructor
  · exact h
  · exact h.putGroup _
  · exact ha _

theorem State.MemIs.memOwn (h : s.MemIs P) {op : Nat} {hd : Head} {m : MArgs} {k : ReqKind} {c : Acc} {u o l : Bool} {g : Group}
    {x : Split} : (memOwn op hd m k c u o l s g x).Has P :=
  h.memOwnBy fun _ => .ok (h.putGroup _)

theorem into_scrOwn {op : Nat} {hd : Head} {m : MArgs} {g : Group} {x : Split} {act : Block → LaneMask → List LaneReq → Own}
    (ha : ∀ b k l, (act b k l).Has P) : (scrOwn op hd m s g x act).Has P := by
  unfold scrOwn
  dsimp only
  repeat' split
  any_goals constructor
  exact ha _ _ _

theorem State.MemIs.lds (h : s.MemIs P) (hd : Head) (m : MArgs) : Into P s.Executes (execLds hd m s) := by
  refine h.runSlot fun g x => into_scrOwn fun b k l => ?_
  dsimp only
  repeat' split
  all_goals constructor
  · exact h
  all_goals exact h.putGroup _

theorem State.MemIs.sts (h : s.MemIs P) (hd : Head) (m : MArgs) : Into P s.Executes (execSts hd m s) :=
  h.runSlot fun _ _ => into_scrOwn fun _ _ _ => (.ok (h.putBlock _))

theorem State.MemIs.prfLane (h : s.MemIs P) (b : Block) (d : Bool) (m : MArgs) (q : LaneReq) (r : Option (Nat × RMode)) :
    (prfLane b d m s q r).MemIs P := by
  unfold Machine.prfLane
  dsimp only
  split
  · exact h
  refine .ite h ?_
  split
  · exact h
  · exact .ite h (.ite (h.llcTouch _ _ _) ((h.landSector _ _).l1Read _ _ _ _ _ _ _))

theorem State.MemIs.prf (h : s.MemIs P) (hd : Head) (m : MArgs) : Into P s.Executes (execPrf hd m s) := by
  refine h.runSlot fun g x => ?_
  dsimp only
  split
  · constructor
  split
  · split
    · constructor
    · exact .ok (.foldl (fun _ _ hs => hs.prfLane _ _ _ _ _) _ h)
  · constructor

theorem State.MemIs.cmtk (h : s.MemIs P) (hd : Head) (m : MArgs) : Into P s.Executes (execCmtk hd m s) := by
  refine h.runSlot fun g x => ?_
  repeat' split
  all_goals constructor
  · exact h
  · exact h.putGroup _

theorem State.MemIs.cmtp (h : s.MemIs P) (hd : Head) (m : MArgs) : Into P s.Executes (execCmtp hd m s) := by
  refine h.runSlot fun g x => ?_
  repeat' split
  all_goals constructor
  · exact h
  · exact h.putGroup _

theorem State.MemIs.wcnt (h : s.MemIs P) (hd : Head) (m : MArgs) : Into P s.Executes (execWcnt hd m s) :=
  h.runSlot fun _ _ => h.memOwnBy fun _ => .await

theorem State.MemIs.clearLast (h : s.MemIs P) (b n : Nat) : (s.clearLast b n).MemIs P := h.congr rfl rfl rfl

theorem State.MemIs.arrive (h : s.MemIs P) (g : Group) (n : Nat) (w : Word) (k : ReqKind) : (s.arrive g n w k).MemIs P := h.putGroup _

theorem State.MemIs.bari (h : s.MemIs P) (hd : Head) (a : XArgs) : Into P s.Executes (execBari hd a s) := by
  refine h.runSlot fun g x => ?_
  dsimp only
  split
  · split
    · constructor
    · exact .ok ((h.putBlock _).clearLast _ _)
  · constructor

theorem State.MemIs.bara (h : s.MemIs P) (hd : Head) (a : XArgs) : Into P s.Executes (execBara hd a s) := by
  refine h.runSlot fun g x => ?_
  dsimp only
  repeat' split
  all_goals constructor
  exact (h.putBlock _).arrive _ _ _ _

theorem State.MemIs.barx (h : s.MemIs P) (hd : Head) (a : XArgs) : Into P s.Executes (execBarx hd a s) := by
  refine h.runSlot fun g x => ?_
  dsimp only
  repeat' split
  all_goals constructor
  exact (h.putBlock _).arrive _ _ _ _

theorem State.MemIs.barw (h : s.MemIs P) (hd : Head) (a : XArgs) : Into P s.Executes (execBarw hd a s) := by
  refine h.runSlot fun g x => ?_
  dsimp only
  repeat' split
  all_goals constructor
  exact h

theorem State.MemIs.gbar (h : s.MemIs P) (hd : Head) (a : XArgs) : Into P s.Executes (execGbar hd a s) := by
  refine h.runSlot fun g x => ?_
  dsimp only
  repeat' split
  all_goals constructor
  exact ((h.putBlock _).putGroup _).gbarTest _

theorem State.MemIs.rbar (h : s.MemIs P) (hd : Head) (a : XArgs) : Into P s.Executes (execRbar hd a s) := by
  refine h.runSlot fun g x => ?_
  dsimp only
  repeat' split
  all_goals constructor
  exact ((h.putBlock _).putGroup _).rbarTest _

theorem State.MemIs.work (h : s.MemIs P) (hd : Head) (e : EArgs) : Into P s.Executes (execWork hd e s) := by
  refine h.runSlot fun g x => ?_
  dsimp only
  split
  · split
    · constructor
    · exact .ok ((h.putBlock _).putGroup _)
  · constructor

theorem State.MemIs.spawn (h : s.MemIs P) (hd : Head) (e : EArgs) : Into P s.Executes (execSpawn hd e s) := by
  refine h.runSlot fun g x => ?_
  dsimp only
  repeat' split
  all_goals constructor
  all_goals exact State.MemIs.putGroup (by exact h.congr rfl rfl rfl) _

theorem State.MemIs.rteInstr (h : s.MemIs P) (hd : Head) (a : XArgs) : Into P s.Executes (execRte hd a s) := by
  refine h.runSlot fun g x => ?_
  have hi := h.issued g.uid 0xD5 hd (.x a) none
  dsimp only
  split
  · split
    · exact .done (((hi.rte _ _ _).settleGroup _ _).pickUp _)
    · exact .done hi
  · exact .done hi

theorem State.MemIs.bkpt (h : s.MemIs P) (hd : Head) (a : XArgs) : Into P s.Executes (execBkpt hd a s) := by
  refine h.runSlot fun g x => ?_
  dsimp only
  split
  · exact .done ((h.putGroup _).record _)
  · constructor

theorem State.MemIs.getsr (h : s.MemIs P) (hd : Head) (a : XArgs) : Into P s.Executes (execGetsr hd a s) := by
  refine h.runSlot fun g x => ?_
  repeat' split
  all_goals constructor
  exact h.putGroup _

theorem State.MemIs.setsr (h : s.MemIs P) (hd : Head) (a : XArgs) : Into P s.Executes (execSetsr hd a s) := by
  refine h.runSlot fun g x => ?_
  dsimp only
  split <;> exact .ok (h.putGroup _)

theorem State.MemIs.pmc (h : s.MemIs P) (hd : Head) (a : XArgs) : Into P s.Executes (execPmc hd a s) := by
  refine h.runSlot fun g x => ?_
  dsimp only
  repeat' split
  all_goals constructor
  all_goals exact h.putGroup _

theorem State.MemIs.winld (h : s.MemIs P) (hd : Head) (a : XArgs) : Into P s.Executes (execWinld hd a s) := by
  refine h.runSlot fun g x => ?_
  dsimp only
  repeat' split
  all_goals constructor
  exact h.putGroup _

theorem State.MemIs.winst (h : s.MemIs P) (hd : Head) (a : XArgs) : Into P s.Executes (execWinst hd a s) := by
  refine h.runSlot fun g x => ?_
  dsimp only
  split
  · constructor
  · exact .ok (h.putGroup _)

theorem State.MemIs.vuni (h : s.MemIs P) (hd : Head) (r : RArgs) : Into P s.Executes (execVuni hd r s) := by
  refine h.runSlot fun g x => ?_
  dsimp only
  split
  · exact .ok (h.putGroup _)
  · constructor

/-! ### Engine instructions and the quantiser (R185 to R196, R351 to R361) -/

theorem State.MemIs.qrow (h : s.MemIs P) (hd : Head) (e : EArgs) : Into P s.Executes (execQrow hd e s) := by
  refine h.runSlot fun g x => ?_
  dsimp only
  repeat' split
  all_goals constructor
  all_goals exact (h.noteSlot _ _).putGroup _

theorem State.MemIs.qscale (h : s.MemIs P) (hd : Head) (r : RArgs) : Into P s.Executes (execQscale hd r s) := by
  refine h.runSlot fun g x => ?_
  dsimp only
  split
  all_goals constructor
  exact (h.noteSlot _ _).putGroup _

theorem State.MemIs.cpy (h : s.MemIs P) (hd : Head) (e : EArgs) : Into P s.Executes (execCpy hd e s) := by
  refine h.runSlot fun g x => ?_
  dsimp only
  repeat' split
  all_goals constructor
  all_goals exact State.MemIs.putGroup (by exact h.congr rfl rfl rfl) _

theorem State.MemIs.queueM (h : s.MemIs P) (g : Group) (b : Block) (t : Nat) (k : MKind) (r w : List Nat) : (s.queueM g b t k r w).MemIs P :=
  h.congr rfl rfl rfl

theorem State.MemIs.mloopOwn (h : s.MemIs P) (e : EArgs) (f : Group → List Nat) (g : Group) (x : Split) : (mloopOwn e f s g x).Has P := by
  unfold Machine.mloopOwn
  dsimp only
  repeat' split
  all_goals constructor
  exact ((h.noteSlot _ _).noteSlot _ _).queueM _ _ _ _ _ _

theorem State.MemIs.mout (h : s.MemIs P) (hd : Head) (e : EArgs) : Into P s.Executes (execMout hd e s) := by
  refine h.runSlot fun g x => ?_
  dsimp only
  repeat' split
  all_goals constructor
  exact (h.noteSlot _ _).queueM _ _ _ _ _ _

theorem State.MemIs.mzero (h : s.MemIs P) (hd : Head) (e : EArgs) : Into P s.Executes (execMzero hd e s) := by
  refine h.runSlot fun g x => ?_
  repeat' split
  all_goals constructor
  exact h.queueM _ _ _ _ _ _

theorem State.MemIs.mbat (h : s.MemIs P) (hd : Head) (a : XArgs) : Into P s.Executes (execMbat hd a s) := by
  refine h.runSlot fun g x => ?_
  dsimp only
  repeat' split
  all_goals constructor
  exact ((h.putCore _ _).putBlock _).putGroup _

theorem State.MemIs.mwait (h : s.MemIs P) (hd : Head) (a : XArgs) : Into P s.Executes (execMwait hd a s) := by
  refine h.runSlot fun g x => ?_
  dsimp only
  repeat' split
  all_goals constructor
  exact h

theorem State.MemIs.macq (h : s.MemIs P) (hd : Head) (a : XArgs) : Into P s.Executes (execMacq hd a s) := by
  refine h.runSlot fun g x => ?_
  split
  · constructor
  split
  · exact .ok (h.putBlock _)
  split
  · constructor
  · exact .ok ((h.putBlock _).putGroup _)

theorem State.MemIs.mrel (h : s.MemIs P) (hd : Head) (a : XArgs) : Into P s.Executes (execMrel hd a s) := by
  refine h.runSlot fun g x => ?_
  repeat' split
  all_goals constructor
  exact h.passToken _

theorem State.MemIs.ownq (h : s.MemIs P) (hd : Head) (a : XArgs) : Into P s.Executes (execOwnq hd a s) := by
  refine h.runSlot fun g x => ?_
  dsimp only
  repeat' split
  all_goals constructor
  all_goals exact h.putGroup _

end Sys2Proof.Machine
end

section
/-! SUPPORT. Memory (log 4) at the engines' steps, at the launch and the end of tasks, at Sparge's actions and where slots and cores
fail. -/

namespace Sys2Proof.Machine

open Host (Outcome)

variable {P : State → Prop} {go : Prop} {s : State}

theorem Into.ite {c : Prop} [Decidable c] {o p : Outcome State Fault Refusal} (ho : Into P go o) (hp : Into P go p) :
    Into P go (if c then o else p) := by
  split
  · exact ho
  · exact hp

/-! ### Engines (R139, R176 to R190, R353) -/

theorem State.MemIs.blame (h : s.MemIs P) (u : Nat) (f : FaultInfo) : (s.blame u f).MemIs P := by
  unfold State.blame
  split
  · exact h.putGroup _
  · exact h

theorem State.MemIs.discardM (h : s.MemIs P) (c : Nat) (o : MOp) (f : FaultInfo) : (s.discardM c o f).MemIs P :=
  (h.dropOps _ _ _).blame _ _

theorem State.MemIs.copyGone (h : s.MemIs P) (o : COp) : (s.copyGone o).MemIs P := by
  unfold State.copyGone
  split
  · exact (h.putGroup _).retest _
  · exact h

theorem State.MemIs.discardC (h : s.MemIs P) (c : Nat) (o : COp) (f : FaultInfo) : (s.discardC c o f).MemIs P :=
  State.MemIs.blame (.foldl (fun _ _ hs => hs.copyGone _) _ (h.dropOps _ _ _)) _ _

theorem State.MemIs.endStep (h : s.MemIs P) (c : Nat) (o : MOp) (b : Block) : (s.endStep c o b).MemIs P := by
  unfold State.endStep
  split
  · split
    · split
      · exact h.discardM _ _ _
      · exact ((h.putBlock _).countUp _ _ _).putCore _ _
    · exact h
  · exact h

theorem State.MemIs.endOp (h : s.MemIs P) (c : Nat) (o : MOp) (n : Nat) : (s.endOp c o n).MemIs P := h.putEngines _ _

theorem State.MemIs.endWhole (h : s.MemIs P) (c : Nat) (o : MOp) (b : Block) : (s.endWhole c o b).MemIs P := by
  unfold State.endWhole
  split
  · exact h
  · exact (h.putBlock _).endOp _ _ _
  · split
    · exact h
    · exact .ite (h.discardM _ _ _) ((h.putBlock _).endOp _ _ _)

theorem State.MemIs.finishStep (h : s.MemIs P) (c : Nat) : (s.finishStep c).MemIs P := by
  unfold State.finishStep
  split
  · exact h
  · refine .ite h ?_
    split
    · exact h.endStep _ _ _
    · exact h.endWhole _ _ _

theorem State.MemIs.spoilAt (h : s.MemIs P) (b : Block) (y : Bool) (a : Nat) : (s.spoilAt b y a).MemIs P := by
  unfold State.spoilAt
  dsimp only
  split
  · exact .ite (h.keepSector _ _) ((h.keepSector _ _).poisonMem _)
  · exact h.poisonMem _

theorem State.MemIs.copySpoil (h : s.MemIs P) (b : Block) (y : Bool) (a p n : Nat) : (s.copySpoil b y a p n).MemIs P :=
  .foldl (fun _ _ hs => hs.spoilAt _ _ _) _ h

theorem memIs_fst_ite {α : Type} {c : Prop} [Decidable c] {a b : State × α} (ha : a.1.MemIs P) (hb : b.1.MemIs P) :
    (if c then a else b).1.MemIs P := by
  split
  · exact ha
  · exact hb

theorem State.MemIs.copyPiece (h : s.MemIs P) (o : COp) (n : Nat) : (s.copyPiece o n).1.MemIs P := by
  unfold State.copyPiece
  split
  · exact h
  dsimp only
  split
  · exact h
  refine memIs_fst_ite h (memIs_fst_ite h (memIs_fst_ite ?store ?load))
  case store =>
    exact memIs_fst_ite (.copySpoil (.ite ((h.carry _).homeWriteBy _ _ _ _) ((h.carry _).l1Write _ _ _ _ _ _ _)) _ _ _ _ _)
      (.ite ((h.carry _).homeWriteBy _ _ _ _) ((h.carry _).l1Write _ _ _ _ _ _ _))
  case load =>
    refine memIs_fst_ite (State.MemIs.putBlock ?_ _) (State.MemIs.putBlock ?_ _)
    all_goals
      split
      · exact (h.carry _).llcTouch _ _ _
      · exact (h.carry _).l1Read _ _ _ _ _ _ _

theorem State.MemIs.copyRun (h : s.MemIs P) (f : Nat) (o : COp) (n : Nat) : (s.copyRun f o n).1.MemIs P := by
  induction f generalizing s o n with
  | zero => exact h
  | succ f ih =>
    unfold State.copyRun
    split
    · exact h
    · have hp := h.copyPiece o n
      split
      · rename_i e
        rw [e] at hp
        exact ih hp _ _
      · rename_i e
        rw [e] at hp
        exact hp

theorem State.MemIs.copyEnd (h : s.MemIs P) (c : Nat) (o : COp) (e : CopyStop) : (s.copyEnd c o e).MemIs P := by
  cases e with
  | done => exact (h.putEngines _ _).copyGone _
  | more | held => exact h.putCore _ _
  | missing a =>
    unfold State.copyEnd
    dsimp only
    split
    · exact h.congr rfl rfl rfl
    · exact State.MemIs.record (by exact h.congr rfl rfl rfl) _
  | failed k => exact .ite (h.discardC _ _ _) (((h.putEngines _ _).copyGone _).blame _ _)

theorem State.MemIs.copyMove (h : s.MemIs P) (c : Nat) (o : COp) (n : Nat) : (s.copyMove c o n).MemIs P := (h.copyRun _ _ _).copyEnd _ _ _

theorem State.MemIs.haltCopy (h : s.MemIs P) (c : Nat) : (s.haltCopy c).MemIs P := by
  unfold State.haltCopy
  split
  · exact ((h.copyRun _ _ _).putCore _ _).copyEnd _ _ _
  · exact h

theorem State.MemIs.finishCopy (h : s.MemIs P) (c u : Nat) : (s.finishCopy c u).MemIs P := by
  refine .foldl (fun s x hs => ?_) _ h
  dsimp only
  split
  · exact .ite hs (hs.copyMove _ _ _)
  · exact hs

theorem State.MemIs.matrixStep (h : s.MemIs P) (c : Nat) : Into P go (execMatrixStep c s) := by
  unfold execMatrixStep
  split
  · exact h.next
  · exact (State.MemIs.ite h (h.endStep _ _ _)).next

theorem State.MemIs.matrixOperationComplete (h : s.MemIs P) (c : Nat) : Into P go (execMatrixOperationComplete c s) := by
  unfold execMatrixOperationComplete
  split
  · exact (h.putEngines _ _).next
  split
  · exact h.next
  · exact (State.MemIs.ite h (h.endWhole _ _ _)).next

theorem State.MemIs.copyComplete (h : s.MemIs P) (c : Nat) : Into P go (execCopyComplete c s) := by
  unfold execCopyComplete
  split
  · exact h.next
  · exact (State.MemIs.ite h ((h.putCore _ _).copyMove _ _ _)).next

/-! ### From a ring entry to the last block (R46, R51, R97, R99, R445, R453) -/

theorem State.MemIs.slotConsume (h : s.MemIs P) (p c q : Nat) : Into P go (execSlotConsume p c q s) := by
  unfold execSlotConsume
  split
  · have hq : ∀ x : Queue, (State.putQueue { s with uid := s.uid + 1 } x).MemIs P := fun x => h.congr rfl rfl rfl
    refine .ite h.next ?_
    generalize s.submit _ _ _ = r
    refine .ite (State.MemIs.reWait ?_ _ _).next (.ite ((hq _).announce _ _).next (State.MemIs.completeTask ?_ _).next)
    · exact h.congr rfl rfl rfl
    · exact h.congr rfl rfl rfl
  · exact h.next

theorem State.MemIs.taskStartable (h : s.MemIs P) (t : Nat) : Into P go (execTaskStartable t s) := by
  unfold execTaskStartable
  split
  · exact h.next
  · exact .ite h.next (.ite (h.endTask _ _ _).next (State.MemIs.next (by exact h.congr rfl rfl rfl)))

theorem State.MemIs.depFailed (h : s.MemIs P) (t : Nat) : Into P go (execDepFailed t s) := by
  unfold execDepFailed
  split
  · exact h.next
  · exact .ite h.next ((h.putTask _).completeTask _).next

theorem State.MemIs.place (h : s.MemIs P) (t : Task) (id c : Nat) (r : Room) : (s.place t id c r).MemIs P :=
  State.MemIs.l1Fit (by exact h.congr rfl rfl rfl) _ _ _

theorem State.MemIs.blockPlace (h : s.MemIs P) (t c : Nat) : Into P go (execBlockPlace t c s) := by
  unfold execBlockPlace
  split
  · exact h.next
  split
  · exact h.next
  refine .ite h.next ?_
  split
  · split
    · exact .ite h.next ((h.putTask _).place _ _ _ _).next
    · exact h.next
  · exact .ite h.next ((h.putTask _).carry _).next

theorem State.MemIs.mirrorAck (h : s.MemIs P) (t : Nat) : Into P go (execMirrorAck t s) := by
  unfold execMirrorAck
  split
  · exact h.next
  split
  · exact (State.MemIs.ite h ((h.putTask _).carry _)).next
  · exact (State.MemIs.ite h (((h.putTask _).commitTell _ _).rbarAck _ _)).next

theorem State.MemIs.idGrant (h : s.MemIs P) (t d : Nat) : Into P go (execIdGrant t d s) := by
  unfold execIdGrant
  split
  · exact h.next
  split
  · exact h.next
  · exact .ite h.next ((h.putTask _).carry _).next

theorem State.MemIs.widen (h : s.MemIs P) (x : Task) : (s.widen x).MemIs P := h.congr rfl rfl rfl

theorem State.MemIs.coopGrant (h : s.MemIs P) (x : Task) : (s.coopGrant x).MemIs P := .foldl (fun _ _ hs => hs.carry _) _ (h.putTask _)

/-- The L1s of the cores of a list purged, one after the other. -/
theorem State.MemIs.l1Purges (h : s.MemIs P) (l : List Nat) (p : Nat → Sector → Bool) : (l.foldl (fun s c => s.l1Purge c (p c)) s).MemIs P :=
  .foldl (fun _ _ hs => hs.l1Purge _ _) l h

theorem State.MemIs.coopPlace (h : s.MemIs P) (x : Task) (l : List (Nat × Nat × Room)) : (s.coopPlace x l).MemIs P := by
  refine .foldl (fun s b hs => ?_) _ (State.MemIs.putTask (.ite ((h.widen x).l1Purges _ fun _ y => y.part == x.part) h) _)
  split
  · exact hs.place _ _ _ _
  · exact hs

theorem State.MemIs.coopLaunch (h : s.MemIs P) (t : Nat) : Into P go (execCoopLaunch t s) := by
  unfold execCoopLaunch
  split
  · exact h.next
  split
  · exact h.next
  refine .ite h.next (.ite (h.endTask _ _ _).next (.ite (.ite h.next (.ite (h.putTask _).next (h.coopGrant _).next)) (.ite h.next ?_)))
  split
  · exact h.next
  · exact (h.coopPlace _ _).next

theorem State.MemIs.heldCore (h : s.MemIs P) (t : Nat) : Into P go (execHeldCore t s) := by
  unfold execHeldCore
  split
  · exact h.next
  split
  · exact h.next
  · exact .ite h.next (h.putTask _).next

theorem State.MemIs.lastBlock (h : s.MemIs P) (u : Nat) : (s.lastBlock u).MemIs P := by
  unfold State.lastBlock
  split
  · exact h
  · exact .ite h (.ite (h.endTask _ _ _) (.ite (h.endTask _ _ _) h))

theorem State.MemIs.retired (h : s.MemIs P) (u b : Nat) : (s.retired u b).MemIs P := by
  unfold State.retired
  split
  · exact h
  · exact .ite h ((((h.putTask _).commitTell _ _).rbarTestTask _).lastBlock _)

theorem State.MemIs.blockRetire (h : s.MemIs P) (b : Nat) : Into P go (execBlockRetire b s) := by
  unfold execBlockRetire
  split
  · exact h.next
  refine .ite h.next ?_
  dsimp only
  split
  · exact (h.dropBlock _).next
  · exact .ite ((h.dropBlock _).retired _ _).next ((h.dropBlock _).carry _).next

/-! ### Sparge (R100 to R114, R455 to R457) -/

theorem State.MemIs.logEntry (h : s.MemIs P) (k : Nat) (p : Option Nat) (n i : Nat) (w : BitVec 48) (d : BitVec 384) :
    (s.logEntry k p n i w d).MemIs P := by
  unfold State.logEntry
  dsimp only
  split
  · exact State.MemIs.putPart (by exact h.congr rfl rfl rfl) _
  · exact h.congr rfl rfl rfl

theorem State.MemIs.unitDone (h : s.MemIs P) (t n : Task) : (s.unitDone t n).MemIs P := .ite h (h.putTask _)

theorem State.MemIs.bound (h : s.MemIs P) (t : Task) (p : Part) (k i : Nat) : (s.bound t p k i).MemIs P := (h.putTask _).logEntry _ _ _ _ _ _

theorem State.MemIs.bind (h : s.MemIs P) (t : Nat) : Into P go (execBind t s) := by
  unfold execBind
  split
  · exact h.next
  split
  · exact h.next
  · exact .ite h.next (.ite (h.putTask _).next (.ite h.next (.ite (h.bound _ _ _ _).next ((h.putTask _).putPart _).next)))

theorem State.MemIs.pinit (h : s.MemIs P) (t : Nat) : Into P go (execPinit t s) := by
  unfold execPinit
  split
  · exact h.next
  dsimp only
  split
  · exact h.next
  refine .ite h.next (.ite (State.MemIs.putTask ?_ _).next (State.MemIs.putTask ?_ _).next)
  all_goals
    split
    · exact h.homeWrite _ _ _
    · exact h

theorem State.MemIs.dropLine (h : s.MemIs P) (p c a : Nat) (f : Nat → Bool) : (s.dropLine p c a f).MemIs P := by
  unfold State.dropLine
  split
  · exact h
  · exact h.l1Purges _ fun _ _ => _

theorem State.MemIs.invstart (h : s.MemIs P) (t : Nat) : Into P go (execInvstart t s) := by
  unfold execInvstart
  split
  · exact h.next
  · exact .ite h.next ((h.dropLine _ _ _ _).unitDone _ _).next

theorem State.MemIs.flush (h : s.MemIs P) (t : Nat) : Into P go (execFlush t s) := by
  unfold execFlush
  split
  · exact h.next
  refine .ite h.next (State.MemIs.unitDone ?_ _ _).next
  split
  · exact .foldl (fun _ _ hs => hs.l1Clean _ _) _ h
  · exact h

theorem State.MemIs.inval (h : s.MemIs P) (t : Nat) : Into P go (execInval t s) := by
  unfold execInval
  split
  · exact h.next
  · exact .ite h.next ((h.dropLine _ _ _ _).unitDone _ _).next

theorem State.MemIs.final (h : s.MemIs P) (t : Nat) : Into P go (execFinal t s) := by
  unfold execFinal
  split
  · exact h.next
  dsimp only
  split
  · exact h.next
  refine .ite h.next (State.MemIs.putTask (.foldl (fun s' a hs => ?_) _ h) _).next
  split
  · exact hs.homeWrite _ _ _
  · exact hs

theorem State.MemIs.complete (h : s.MemIs P) (t : Nat) : Into P go (execComplete t s) := by
  unfold execComplete
  split
  · exact h.next
  rename_i x _
  have hp := State.MemIs.ite (c := (x.hdr.coop && x.kd.fused) = true) (h.l1Purges x.rectCores fun _ y => y.part == x.part) h
  exact .ite h.next (State.MemIs.ite hp (hp.completeTask _)).next

/-! ### Slots and cores that fail (R171 to R173, R482, R497) -/

theorem State.MemIs.loseTask (h : s.MemIs P) (u : Nat) : (s.loseTask u).MemIs P := by
  unfold State.loseTask
  split
  · exact h
  · exact .ite h (.ite (h.endTask _ _ _) ((h.putTask _).lastBlock _))

theorem State.MemIs.failTask (h : s.MemIs P) (k : Nat) (t : Task) : (s.failTask k t).MemIs P :=
  .ite (.ite h (h.putTask _)) (h.endTask _ _ _)

theorem State.MemIs.dropBlocks (h : s.MemIs P) (l : List Block) : (l.foldl (fun s b => s.dropBlock b) s).MemIs P :=
  .foldl (fun _ _ hs => hs.dropBlock _) l h

theorem State.MemIs.loseTasks (h : s.MemIs P) (l : List Nat) : (l.foldl (fun s u => s.loseTask u) s).MemIs P :=
  .foldl (fun _ _ hs => hs.loseTask _) l h

theorem State.MemIs.fenceCore (h : s.MemIs P) (c : Nat) (d : BitVec 384) : (s.fenceCore c d).MemIs P :=
  .ite h (.loseTasks ((State.MemIs.dropBlocks (by exact h.congr rfl rfl rfl) _).putL1 _ _ |>.logEntry _ _ _ _ _ _) _)

theorem State.MemIs.slotDone (h : s.MemIs P) (x : Task) : (s.slotDone x).MemIs P := by
  unfold State.slotDone
  split
  · exact .ite ((h.putPart _).bound _ _ _ _) (((h.putPart _).putTask _).logEntry _ _ _ _ _ _)
  · exact h

theorem State.MemIs.reconfigurationDone (h : s.MemIs P) (t : Nat) (l : List Nat) : Into P go (execReconfigurationDone t l s) := by
  unfold execReconfigurationDone
  split
  · exact h.next
  split
  · exact (State.MemIs.foldl (fun _ _ hs => hs.fenceCore _ _) _ (h.slotDone _)).next
  · exact h.next

theorem State.MemIs.mismatch (h : s.MemIs P) (k u : Nat) : (s.mismatch k u).MemIs P := by
  unfold State.mismatch
  split
  · exact h
  refine .ite h ?_
  dsimp only
  split
  · exact (h.putGroup _).takeFault _ _
  · exact h.putGroup _

theorem State.MemIs.discardSlot (h : s.MemIs P) (p : Part) (c k : Nat) : (s.discardSlot p c k).MemIs P :=
  .foldl (fun _ _ hs => hs.discardM _ _ _) _ h

theorem State.MemIs.slotReadback (h : s.MemIs P) (c k : Nat) (y : Bool) : Into P go (execSlotReadback c k y s) := by
  unfold execSlotReadback
  split
  · exact State.MemIs.next (by exact h.congr rfl rfl rfl)
  have hq : ∀ q, State.MemIs P { s with scan := q } := fun q => h.congr rfl rfl rfl
  refine .ite (hq _).next (.ite ((hq _).putPart _).next (State.MemIs.next (.record (.foldl (fun s g hs => hs.mismatch _ _) _
    (.discardSlot (.foldl (fun s t hs => ?_) _ ?_) _ _ _)) _)))
  · split
    · exact hs.failTask _ _
    · exact hs
  · exact h.congr rfl rfl rfl

theorem State.MemIs.kilnReloadDone (h : s.MemIs P) (c k : Nat) (y : Bool) : Into P go (execKilnReloadDone c k y s) := by
  unfold execKilnReloadDone
  split
  · exact h.next
  split
  · exact h.next
  · have hl := fun p => (h.putPart p).logEntry
    exact .ite (hl _ _ _ _ _ _ _).next (.ite (h.putPart _).next ((hl _ _ _ _ _ _ _).fenceCore _ _).next)

/-! ### Requests as a switch leaves and resumes them (R137, R468, R470) -/

theorem State.MemIs.drainOne (h : s.MemIs P) (g : Group) (b : Block) (t : Task) (q : Req) : (s.drainOne g b t q).MemIs P := by
  unfold State.drainOne
  refine .ite h ?_
  split
  · exact h.performLoad _ _ _ _
  · exact h.performLoad _ _ _ _
  · exact h.performLoad _ _ _ _
  any_goals exact h.performStore _ _ _ _
  · exact .ite (h.performPass _ _ _ _) h
  · exact .ite (h.performSpawn _ _ _) h
  · exact h.finishCopy _ _
  · exact h
  · exact h

theorem State.MemIs.drain (h : s.MemIs P) (u : Nat) (b : Block) (t : Task) (l : List Req) : (s.drain u b t l).MemIs P := by
  induction l generalizing s b t with
  | nil => exact h
  | cons q l ih =>
    unfold State.drain
    split
    · exact ih (h.drainOne _ _ _ _) _ _
    · exact h

theorem State.MemIs.drainAny (h : s.MemIs P) (u n : Nat) : (s.drainAny u n).MemIs P := by
  unfold State.drainAny
  split
  · exact h
  split
  · refine .ite (h.drainOne _ _ _ _) (.ite h ?_)
    split
    · exact h
    · exact h.drainOne _ _ _ _
  · exact h

theorem State.MemIs.finishAtomics (h : s.MemIs P) (g : Group) (b : Block) (t : Task) : (s.finishAtomics g b t).MemIs P := by
  unfold State.finishAtomics
  dsimp only
  split
  · exact h.drain _ _ _ _
  · exact .foldl (fun _ _ hs => hs.drainAny _ _) _ (h.drain _ _ _ _)

theorem State.MemIs.resumeGroup (h : s.MemIs P) (u : Nat) : (s.resumeGroup u).MemIs P := by
  unfold State.resumeGroup
  split
  · exact h
  · exact (h.putGroup _).pickUp _

theorem State.MemIs.answer (h : s.MemIs P) {p i : Nat} {y : Bool} : ∀ t, s.answer p i y = some t → t.MemIs P := by
  unfold State.answer
  intro t e
  dsimp only at e
  split at e
  · split at e
    · split at e
      · cases e; exact .ite (h.replay _ _) (h.decline _ _ _ _ _)
      · cases e; exact h.putGroup _
    · cases e
  · split at e
    · cases e
    · split at e
      · cases e; exact h.putCore _ _
      · cases e; exact ((h.putEngines _ _).copyGone _).blame _ _

end Sys2Proof.Machine
end

section
/-! SUPPORT. Memory (log 4) where contexts take turns, at the die links and fenced dies, and at the host's registers, apertures and
resets. -/

namespace Sys2Proof.Machine

open Host (Outcome)

variable {P : State → Prop} {go : Prop} {s : State}

/-! ### Contexts in turn (R462 to R473) -/

theorem State.MemIs.sendTicks (h : s.MemIs P) (p : Part) : (s.sendTicks p).MemIs P := by
  unfold State.sendTicks
  split
  · exact h
  · exact .foldl (fun _ _ hs => hs.carry _) _ h

theorem State.MemIs.gangTick (h : s.MemIs P) (n : Nat) : Into P go (execGangTick n s) := by
  unfold execGangTick
  split
  · exact h.next
  refine .ite h.next ?_
  dsimp only
  split
  · exact (State.MemIs.ite (h.putPart _) ((h.putPart _).sendTicks _)).next
  · exact (h.putPart _).next
  · exact (h.putPart _).next

theorem State.MemIs.haltGroup (h : s.MemIs P) (u : Nat) : (s.haltGroup u).MemIs P := by
  unfold State.haltGroup
  split
  · exact h
  · exact (h.putGroup _).retest _

theorem State.MemIs.groupHalt (h : s.MemIs P) (g : Nat) : Into P go (execGroupHalt g s) := by
  unfold execGroupHalt
  split
  · exact h.next
  split
  · exact .ite h.next ((h.finishAtomics _ _ _).haltGroup _).next
  · exact h.next

theorem State.MemIs.stopCopy (h : s.MemIs P) (p : Part) (c : Nat) : (s.stopCopy p c).MemIs P := by
  unfold State.stopCopy
  split
  · exact .ite (h.haltCopy _) h
  · exact h

/-- The copies of the cores of a list stopped, one after the other. -/
theorem State.MemIs.stopCopies (h : s.MemIs P) (p : Part) (l : List Nat) : (l.foldl (fun s c => s.stopCopy p c) s).MemIs P :=
  .foldl (fun _ _ hs => hs.stopCopy _ _) l h

theorem State.MemIs.savePackets (h : s.MemIs P) (p : Part) (d : Nat) : (s.savePackets p d).MemIs P := by
  unfold State.savePackets
  split
  · exact h
  · exact h.putCtx _

theorem State.MemIs.dieSaveDone (h : s.MemIs P) (n d : Nat) : Into P go (execDieSaveDone n d s) := by
  unfold execDieSaveDone
  split
  · exact h.next
  split
  · exact h.next
  rename_i p _ _ _ _
  have hs := (h.stopCopies p (s.coreNums.filter fun c => coreDie c == d)).l1Purges
  refine .ite h.next ?_
  dsimp only
  split
  · exact (hs _ fun _ x => x.part == n).next
  · exact .ite (hs _ fun _ x => x.part == n).next (((hs _ fun _ x => x.part == n).putPart _).savePackets _ _).next

theorem State.MemIs.suspendBlocks (h : s.MemIs P) (p : Part) : (s.suspendBlocks p).MemIs P := h.congr rfl rfl rfl
theorem State.MemIs.handOverAll (h : s.MemIs P) (p : Part) : (s.handOverAll p).MemIs P := h.congr rfl rfl rfl
theorem State.MemIs.wakeEngines (h : s.MemIs P) (p c : Nat) : (s.wakeEngines p c).MemIs P := h.congr rfl rfl rfl
theorem State.MemIs.staleL1 (h : s.MemIs P) (p : Part) : (s.staleL1 p).MemIs P := h.congr rfl rfl rfl
theorem State.MemIs.clearLeft (h : s.MemIs P) (p : Part) : (s.clearLeft p).MemIs P := h.congr rfl rfl rfl
theorem State.MemIs.applyResize (h : s.MemIs P) (p : Part) (d : BitVec 32) (q : Quota) : (s.applyResize p d q).MemIs P :=
  ((h.putPart _).suspendBlocks _).handOverAll _

theorem State.MemIs.resumeGroups (h : s.MemIs P) (l : List Group) : (l.foldl (fun s g => s.resumeGroup g.uid) s).MemIs P :=
  .foldl (fun _ _ hs => hs.resumeGroup _) l h

theorem State.MemIs.contextRestore (h : s.MemIs P) (n : Nat) : Into P go (execContextRestore n s) := by
  unfold execContextRestore
  split
  · exact h.next
  split
  · exact h.next
  rename_i p _ _ w _
  have hr : State.MemIs P (match p.resize, p.resident == w.to_ with
      | some (d, q, false), true => ((s.staleL1 p).putPart { p.bump with resident := w.to_, switch := none }).applyResize
          { p.bump with resident := w.to_, switch := none } d q
      | _, _ => (s.staleL1 p).putPart { p.bump with resident := w.to_, switch := none }) := by
    split
    · exact ((h.staleL1 _).putPart _).applyResize _ _ _
    · exact (h.staleL1 _).putPart _
  refine .ite h.next ?_
  dsimp only
  split
  · exact hr.next
  · refine (State.MemIs.resumeGroups (State.MemIs.wakeEngines ?_ _ _) _).next
    split
    · exact hr.putCtx _
    · exact hr

theorem State.MemIs.switchLate (h : s.MemIs P) (n d : Nat) : Into P go (execSwitchLate n d s) := by
  unfold execSwitchLate
  split
  · exact h.next
  split
  · exact h.next
  · exact .ite h.next ((h.putPart _).record _).next

theorem State.MemIs.failTasks (h : s.MemIs P) (k : Nat) (l : List Task) : (l.foldl (fun s t => s.failTask k t) s).MemIs P :=
  .foldl (fun _ _ hs => hs.failTask _ _) l h

theorem State.MemIs.lateDieFence (h : s.MemIs P) (n d : Nat) : Into P go (execLateDieFence n d s) := by
  unfold execLateDieFence
  split
  · exact h.next
  split
  · exact h.next
  · exact .ite h.next (((((h.failTasks _ _).putPart _).record _).suspendBlocks _).handOverAll _).next

theorem State.MemIs.scrubPass (h : s.MemIs P) (d : Nat) : Into P go (execScrubPass d s) := State.MemIs.next (h.congr rfl rfl rfl)

/-! ### Die links (R487 to R494) -/

theorem State.MemIs.transmit (h : s.MemIs P) (d v : Nat) (b : Body) : (s.transmit d v b).MemIs P := (h.putLink _ _).putLink _ _
theorem State.MemIs.sendFlit (h : s.MemIs P) (d v : Nat) (m : Msg) : (s.sendFlit d v m).MemIs P := .ite h ((h.putLink _ _).transmit _ _ _)
theorem State.MemIs.resendAll (h : s.MemIs P) (d : Nat) : (s.resendAll d).MemIs P := h.putLink _ _
theorem State.MemIs.heard (h : s.MemIs P) (d : Nat) (f : Flit) : (s.heard d f).MemIs P := .ite ((h.putLink _ _).resendAll _) (h.putLink _ _)
theorem State.MemIs.replyAudit (h : s.MemIs P) (d : Nat) : (s.replyAudit d).MemIs P := (h.putLink _ _).transmit _ _ _
theorem State.MemIs.bothDirs (h : s.MemIs P) (d : Nat) (f : Link → Link) : (s.bothDirs d f).MemIs P := (h.putLink _ _).putLink _ _

theorem State.MemIs.take_ (h : s.MemIs P) (d : Nat) (f : Flit) : (s.take_ d f).MemIs P := by
  unfold State.take_
  split
  · exact h
  all_goals exact h.putLink _ _

theorem State.MemIs.flitReceive (h : s.MemIs P) (d : Nat) (y : Bool) : Into P go (execFlitReceive d y s) := by
  unfold execFlitReceive
  dsimp only
  split
  · exact h.next
  · exact .ite h.next (.ite (h.putLink _ _).next (((h.putLink _ _).heard _ _).take_ _ _).next)

theorem State.MemIs.replayTimeout (h : s.MemIs P) (d : Nat) : Into P go (execReplayTimeout d s) := (State.MemIs.ite (h.resendAll _) h).next

theorem State.MemIs.auditStart (h : s.MemIs P) (d : Nat) : Into P go (execAuditStart d s) := .ite h.next ((h.transmit _ _ _).putLink _ _).next

theorem State.MemIs.auditReply (h : s.MemIs P) (d : Nat) : Into P go (execAuditReply d s) := by
  unfold execAuditReply
  dsimp only
  split
  · exact h.next
  · refine .ite h.next (.ite (h.putLink _ _).next (State.MemIs.ite (State.MemIs.resendAll (.putLink ?_ _ _) _) (.putLink ?_ _ _)).next)
    all_goals exact .foldl (fun _ _ hs => hs.record _) _ h

theorem State.MemIs.auditTimeout (h : s.MemIs P) (d : Nat) : Into P go (execAuditTimeout d s) := (State.MemIs.ite (h.putLink _ _) h).next

theorem State.MemIs.retrain (h : s.MemIs P) (d : Nat) : Into P go (execRetrain d s) := .ite h.next (h.bothDirs _ _).next

theorem State.MemIs.retrainComplete (h : s.MemIs P) (d : Nat) (y : Bool) : Into P go (execRetrainComplete d y s) :=
  .ite h.next (.ite (h.bothDirs _ _).next (h.bothDirs _ _).next)

theorem State.MemIs.linkDown (h : s.MemIs P) (l : Nat) : Into P go (execLinkDown l s) := .ite h.next ((h.record _).bothDirs _ _).next

theorem State.MemIs.routeInstall (h : s.MemIs P) : Into P go (execRouteInstall s) := by
  refine (State.MemIs.foldl (fun s d hs => ?_) _ h).next
  exact .ite hs (hs.congr rfl rfl rfl)

/-! ### Messages on their way (R488, R493, R498) -/

/-- A message taken from those on their way, or left among them. -/
theorem State.MemIs.arrived (h : s.MemIs P) (c : Prop) [Decidable c] (m : Msg) :
    State.MemIs P (if c then s else { s with away := s.away.erase m }) := .ite h (h.congr rfl rfl rfl)

theorem State.MemIs.handIn (h : s.MemIs P) (m : Msg) : (s.handIn m).MemIs P := by
  unfold State.handIn
  dsimp only
  have hw : State.MemIs P (match m.kind with
      | .wback _ x => if s.deadDies.contains m.dst then s else s.landBack m x
      | _ => s) := by
    split
    · exact .ite h (h.landBack _ _)
    · exact h
  refine .ite (hw.arrived _ m) ?_
  split
  · exact (hw.arrived _ m).carry _
  · exact (hw.arrived _ m).carry _
  · exact (hw.arrived _ m).rbarTestTask _
  · exact (hw.arrived _ m).retired _ _
  · exact hw.arrived _ m

theorem State.MemIs.moveOne (h : s.MemIs P) : ∀ t, s.moveOne = some t → t.MemIs P := by
  unfold State.moveOne
  intro t e
  split at e
  · cases e
    split
    · exact (h.putLink _ _).handIn _
    · exact h.congr rfl rfl rfl
    · exact (h.putLink _ _).sendFlit _ _ _
  · split at e
    · cases e
      split
      · exact State.MemIs.handIn (by exact h.congr rfl rfl rfl) _
      · exact State.MemIs.sendFlit (by exact h.congr rfl rfl rfl) _ _ _
    · split at e
      · cases e
        exact .foldl (fun _ _ hs => hs.carry _) _ (h.putGroup _)
      · cases e
        exact .ite (h.replyAudit _) (h.transmit _ _ _)
      · cases e

/-! ### Fenced dies (R495, R496) -/

theorem State.MemIs.fenceTask (h : s.MemIs P) (d : Nat) (y : Bool) (t : Task) : (s.fenceTask d y t).MemIs P :=
  .ite ((h.putTask _).failTask _ _) (.ite ((h.putTask _).loseTask _) (.ite ((h.putTask _).loseTask _) (h.putTask _)))

theorem State.MemIs.dropAsks (h : s.MemIs P) (d : Nat) : (s.dropAsks d).MemIs P := h.congr rfl rfl rfl

theorem State.MemIs.dropMsgs (h : s.MemIs P) (d : Nat) : (s.dropMsgs d).MemIs P :=
  .foldl (fun _ _ hs => hs.retired _ _) _ (by exact h.congr rfl rfl rfl)

theorem State.MemIs.fenceDie (h : s.MemIs P) (d : Nat) : (s.fenceDie d).MemIs P := by
  unfold State.fenceDie
  refine .ite h (.foldl (fun s t hs => ?_) _ (((State.MemIs.record ?_ _).dropAsks _).dropMsgs _))
  · split
    · exact hs.fenceTask _ _ _
    · exact hs
  · have hb := State.MemIs.dropBlocks (s := { s with deadDies := s.deadDies ++ [d] }) (h.congr rfl rfl rfl)
    exact (hb _).congr rfl rfl rfl

theorem State.MemIs.loseStranded (h : s.MemIs P) : s.loseStranded.MemIs P := .foldl (fun _ _ hs => (hs.dropBlock _).loseTask _) _ h

theorem State.MemIs.dieFence (h : s.MemIs P) (d : Nat) : Into P go (execDieFence d s) :=
  (State.MemIs.ite (h.fenceDie _).loseStranded h).next

theorem State.MemIs.meshSplit (h : s.MemIs P) : Into P go (execMeshSplit s) := by
  have hm : ∀ m, State.MemIs P { s with msgs := m } := fun m => h.congr rfl rfl rfl
  exact .ite (hm _).next (State.MemIs.loseStranded (.foldl (fun _ _ hs => hs.fenceDie _) _ (hm _))).next

/-! ### The host's registers, doorbells and apertures (R430 to R441) -/

theorem State.MemIs.registerWrite (h : s.MemIs P) (f o : Nat) (x : BitVec 64) : Into P go (execRegisterWrite f o x s) :=
  (State.MemIs.ite (h.putFn _ _) h).next

theorem State.MemIs.readBar0 (h : s.MemIs P) (f o w : Nat) : (s.readBar0 f o w).MemIs P := h.putFn _ _
theorem State.MemIs.readBar2 (h : s.MemIs P) (f o w : Nat) : (s.readBar2 f o w).MemIs P := h.putFn _ _
theorem State.MemIs.readConfig (h : s.MemIs P) (f o w : Nat) : (s.readConfig f o w).MemIs P := h.putFn _ _

theorem State.MemIs.cmdtail (h : s.MemIs P) (f : Nat) (x : BitVec 64) : Into P go (execCmdtail f x s) :=
  .ite h.next (.ite (h.putFn _ _).next (.ite (State.MemIs.next (by exact h.congr rfl rfl rfl)) (State.MemIs.next (by exact h.congr rfl rfl rfl))))

theorem State.MemIs.evthead (h : s.MemIs P) (f : Nat) (x : BitVec 64) : Into P go (execEvthead f x s) := (State.MemIs.ite (h.putFn _ _) h).next

theorem State.MemIs.eventStoreDrain (h : s.MemIs P) (f : Nat) : Into P go (execEventStoreDrain f s) := by
  unfold execEventStoreDrain
  dsimp only
  split
  · exact h.next
  · exact (State.MemIs.ite ((h.putFn _ _).ringRecord _ _) h).next

theorem State.MemIs.interruptCoalesceExpiry (h : s.MemIs P) (f : Nat) : Into P go (execInterruptCoalesceExpiry f s) := (h.putFn _ _).next

theorem State.MemIs.queueError (h : s.MemIs P) (p c q : Nat) : (s.queueError p c q).MemIs P := h.record _

theorem State.MemIs.ring (h : s.MemIs P) (p c q n : Nat) : (s.ring p c q n).MemIs P := by
  unfold State.ring
  split
  · exact h.queueError _ _ _
  · exact .ite h (.ite ((h.putQueue _).queueError _ _ _) (h.putQueue _))

theorem State.MemIs.doorbell (h : s.MemIs P) (f o : Nat) (x : BitVec 64) : Into P go (execDoorbell f o x s) :=
  .ite h.next (State.MemIs.foldl (fun _ _ hs => hs.reWait _ _) _ (h.ring _ _ _ _)).next

theorem State.MemIs.cleanSectors (h : s.MemIs P) (a n : Nat) : (s.cleanSectors a n).MemIs P := by
  refine .foldl (fun s k hs => ?_) _ h
  exact .ite (hs.congr rfl rfl rfl) (hs.congr rfl rfl rfl)

theorem State.MemIs.bar4Access (h : s.MemIs P) (f o n : Nat) (d : Option (List (BitVec 8))) : Into P go (execBar4Access f o n d s) := by
  have refuse : ∀ r k x, Into P go (.next ((s.record r).putFn k x)) := fun r k x => ((h.record r).putFn k x).next
  unfold execBar4Access
  dsimp only
  refine .ite h.next (.ite (h.putFn _ _).next ?_)
  split
  · exact refuse _ _ _
  refine .ite (refuse _ _ _) ?_
  split
  · refine .ite (refuse _ _ _) ?_
    split
    · exact (h.putFn _ _).next
    · exact (((h.homeWrite _ _ _).cleanSectors _ _).putFn _ _).next
  · exact refuse _ _ _

/-! ### Contexts that end, resets (R431, R444, R462) -/

theorem State.MemIs.endCtx (h : s.MemIs P) (p c : Nat) : (s.endCtx p c).MemIs P := by
  have h1 := State.MemIs.foldl (f := fun s (t : Task) => (s.stopBlocks t.uid).slotDone t) (fun _ _ hs => (hs.stopBlocks _).slotDone _)
    (s.tasks.filter fun t => t.part == p && t.ctx == c && t.run.phase != Phase.done) h
  have h2 := fun l => (h1.l1Purges l fun _ x => x.part == p && x.ctx == c).landBacks (fun _ x => x.part == p && x.ctx == c)
  refine State.MemIs.congr (s := List.foldl _ _ (s.tasks.filter fun t => t.part == p && t.ctx == c && t.run.phase != Phase.done))
    (.foldl (fun s t hs => ?_) _ (h2 _ _)) rfl rfl rfl
  split
  · exact (hs.putTask _).completeTask _
  · exact hs

theorem State.MemIs.cancelSwitch (h : s.MemIs P) (p : Part) : (s.cancelSwitch p).MemIs P := by
  unfold State.cancelSwitch
  dsimp only
  split
  · exact h.putPart _
  · refine State.MemIs.resumeGroups (State.MemIs.wakeEngines ?_ _ _) _
    split
    · exact (h.putPart _).putCtx _
    · exact h.putPart _

theorem State.MemIs.afterCtx (h : s.MemIs P) (p c : Nat) : (s.afterCtx p c).MemIs P := by
  unfold State.afterCtx
  split
  · exact h
  · refine .ite (((h.clearLeft _).staleL1 _).putPart _) ?_
    split
    · exact h
    · exact .ite h (.ite (h.cancelSwitch _) (h.putPart _))

theorem State.MemIs.resetVf (h : s.MemIs P) (f : Nat) : (s.resetVf f).MemIs P := by
  have he := State.MemIs.foldl (f := fun s c => (s.endCtx (f - 1) c).afterCtx (f - 1) c) (fun _ _ hs => (hs.endCtx _ _).afterCtx _ _)
    ((s.ctxs.filter (·.part == f - 1)).map (·.num)) h
  exact he.congr rfl rfl rfl

theorem State.MemIs.functionLevelReset (h : s.MemIs P) (f : Nat) : Into P go (execFunctionLevelReset f s) :=
  .ite h.moduleReset.next (State.MemIs.ite (h.resetVf _) h).next

end Sys2Proof.Machine
end

section
/-! SUPPORT. Memory (log 4) at the Malthouse commands, the operating points, the side-band and SPDM. -/

namespace Sys2Proof.Machine

open Host (Outcome)

variable {P : State → Prop} {go : Prop} {s : State}

/-! ### How a command ends (R433 to R437) -/

theorem finishCmd_of_cmdq {f : Nat} {c : Dword} {rest : List (Nat × Dword)} (h : s.cmdq = (f, c) :: rest) (k : Nat) (r : Dword) :
    ∃ a b x, s.finishCmd k r = { (s.hostWrite f a b).putFn f x with cmdq := rest, fleet := { s.fleet with busy := false } } := by
  unfold State.finishCmd
  rw [h]
  exact ⟨_, _, _, rfl⟩

theorem State.MemIs.finishCmd (h : s.MemIs P) (k : Nat) (r : Dword) : (s.finishCmd k r).MemIs P := by
  cases hq : s.cmdq with
  | nil => rwa [State.finishCmd, hq]
  | cons c rest =>
    obtain ⟨a, b, x, e⟩ := finishCmd_of_cmdq hq k r
    exact e ▸ (h.hostWrite c.1 a b).congr rfl rfl rfl

theorem State.MemIs.waitCmd (h : s.MemIs P) : Into P go s.waitCmd := State.MemIs.next (h.congr rfl rfl rfl)
theorem State.MemIs.okCmd (h : s.MemIs P) (r : Nat) : Into P go (s.okCmd r) := (h.finishCmd _ _).next
theorem State.MemIs.refuse (h : s.MemIs P) (k : Nat) : Into P go (s.refuse k) := (h.finishCmd _ _).next

theorem State.MemIs.onPart (h : s.MemIs P) {y : Bool} {f : Part → Outcome State Fault Refusal} (hf : ∀ p, Into P go (f p)) :
    Into P go (s.onPart y f) := by
  unfold State.onPart
  split
  · exact h.refuse _
  · refine .ite (h.refuse _) ?_
    split
    · exact h.refuse _
    · exact hf _

theorem State.MemIs.onCtx (h : s.MemIs P) {y : Bool} {f : Nat → Ctx → Outcome State Fault Refusal} (hf : ∀ n c, Into P go (f n c)) :
    Into P go (s.onCtx y f) := by
  unfold State.onCtx
  split
  · exact h.refuse _
  · refine .ite (h.refuse _) ?_
    split
    · exact h.refuse _
    · exact hf _ _

/-! ### The module, partitions and contexts (R436, R460 to R474) -/

theorem State.MemIs.identify (h : s.MemIs P) : Into P go (execIdentify s) := by
  unfold execIdentify
  dsimp only
  split
  · exact h.refuse _
  · exact (h.finishCmd _ _).next

theorem State.MemIs.portConfig (h : s.MemIs P) : Into P go (execPortConfig s) := by
  unfold execPortConfig
  dsimp only
  split
  · exact h.refuse _
  · exact .ite (h.refuse _) (.ite (h.refuse _) (.ite (h.refuse _) (.ite (h.refuse _) (State.MemIs.okCmd (by exact h.congr rfl rfl rfl) _))))

theorem State.MemIs.partCreate (h : s.MemIs P) : Into P go (execPartCreate s) := by
  unfold execPartCreate
  dsimp only
  split
  · exact h.refuse _
  split
  · exact h.refuse _
  · refine .ite (h.refuse _) (.ite (h.refuse _) (.ite (h.refuse _) ?_))
    exact (State.MemIs.logEntry (State.MemIs.putFn (by exact h.congr rfl rfl rfl) _ _) _ _ _ _ _ _).okCmd _

theorem State.MemIs.partDestroy (h : s.MemIs P) : Into P go (execPartDestroy s) := by
  refine h.onPart fun p => .ite (h.refuse _) (.ite h.waitCmd (State.MemIs.okCmd ?_ _))
  exact h.congr rfl rfl rfl

theorem State.MemIs.resizeStep (h : s.MemIs P) (p : Part) (d : BitVec 32) (q : Quota) : Into P go (s.resizeStep p d q) :=
  .ite h.waitCmd (.ite (State.MemIs.ite h ((h.staleL1 _).applyResize _ _ _)).waitCmd (h.putPart _).waitCmd)

theorem State.MemIs.partResize (h : s.MemIs P) : Into P go (execPartResize s) := by
  refine h.onPart fun p => ?_
  dsimp only
  split
  · exact .ite h.waitCmd ((h.putPart _).okCmd _)
  · exact h.resizeStep _ _ _
  split
  · exact h.refuse _
  · exact .ite (h.refuse _) (.ite (h.refuse _) (.ite (h.refuse _) (.ite (h.refuse _) ((h.putPart _).resizeStep _ _ _))))

theorem State.MemIs.setHandler (h : s.MemIs P) : Into P go (execSetHandler s) := by
  unfold execSetHandler
  dsimp only
  split
  · exact h.refuse _
  split
  · exact h.refuse _
  · exact .ite ((h.putPart _).okCmd _) (.ite (h.refuse _) ((h.putPart _).okCmd _))

theorem State.MemIs.setPmc (h : s.MemIs P) : Into P go (execSetPmc s) := h.onPart fun _ => (h.putPart _).okCmd _

theorem State.MemIs.ctxCreate (h : s.MemIs P) : Into P go (execCtxCreate s) := by
  unfold execCtxCreate
  dsimp only
  split
  · exact h.refuse _
  split
  · exact h.refuse _
  · exact .ite (h.refuse _) (.ite (h.refuse _) (.ite (h.refuse _) (State.MemIs.okCmd (by exact h.congr rfl rfl rfl) _)))

theorem State.MemIs.ctxDestroy (h : s.MemIs P) : Into P go (execCtxDestroy s) :=
  h.onCtx fun _ _ => .ite (h.refuse _) (.ite h.waitCmd (((h.endCtx _ _).afterCtx _ _).okCmd _))

theorem State.MemIs.queueCreate (h : s.MemIs P) : Into P go (execQueueCreate s) :=
  h.onCtx fun _ _ => .ite (h.refuse _) (.ite (h.refuse _) (State.MemIs.okCmd (by exact h.congr rfl rfl rfl) _))

theorem State.MemIs.queueDestroy (h : s.MemIs P) : Into P go (execQueueDestroy s) := by
  refine h.onCtx fun n x => ?_
  dsimp only
  split
  · exact .ite (h.refuse _) (h.refuse _)
  · exact .ite (h.refuse _) (State.MemIs.okCmd (by exact h.congr rfl rfl rfl) _)

/-! ### Mappings and packets (R128, R135 to R137, R436) -/

theorem State.MemIs.map (h : s.MemIs P) : Into P go (execMap s) := by
  refine h.onCtx fun n x => ?_
  split
  · exact h.refuse _
  · exact .ite (h.refuse _) (.ite (h.refuse _) ((h.putCtx _).okCmd _))

theorem State.MemIs.map2 (h : s.MemIs P) : Into P go (execMap2 s) := by
  refine h.onPart fun p => ?_
  split
  · exact h.refuse _
  · exact .ite (h.refuse _) (.ite (h.refuse _) (.ite (h.refuse _) (.ite (h.refuse _) ((h.putPart _).okCmd _))))

theorem State.MemIs.unmap (h : s.MemIs P) : Into P go (execUnmap s) :=
  h.onCtx fun _ _ => .ite (h.refuse _) (.ite (h.putCtx _).waitCmd (((h.putCtx _).llcClean _).okCmd _))

theorem State.MemIs.invalCommand (h : s.MemIs P) : Into P go (execInvalCommand s) := by
  unfold execInvalCommand
  dsimp only
  split
  · exact h.refuse _
  refine .ite (h.refuse _) (.ite ?_ ?_)
  · split
    · exact h.refuse _
    · exact .ite h.waitCmd ((h.llcClean _).okCmd _)
  · split
    · exact h.refuse _
    · exact .ite h.waitCmd ((h.llcClean _).okCmd _)

theorem State.MemIs.answerCmd (h : s.MemIs P) (y : Bool) : Into P go (s.answerCmd y) := by
  unfold State.answerCmd
  dsimp only
  split
  · exact h.refuse _
  split
  · rename_i e
    exact .ite h.waitCmd ((h.answer _ e).okCmd _)
  · exact h.refuse _

/-! ### Debuggers and apertures (R385, R387, R430) -/

theorem State.MemIs.debugAttach (h : s.MemIs P) : Into P go (execDebugAttach s) := h.onCtx fun _ _ => (h.putCtx _).okCmd _

theorem State.MemIs.thaw (h : s.MemIs P) (g : Group) : (s.thaw g).MemIs P := by
  unfold State.thaw
  split
  · exact (h.putGroup _).settleGroup _ _
  · exact h

theorem State.MemIs.debugDetach (h : s.MemIs P) : Into P go (execDebugDetach s) :=
  h.onCtx fun _ _ => (State.MemIs.foldl (fun _ _ hs => hs.thaw _) _ (h.putCtx _)).okCmd _

theorem State.MemIs.debugResume (h : s.MemIs P) : Into P go (execDebugResume s) := by
  unfold execDebugResume
  dsimp only
  split
  · exact h.refuse _
  split
  · exact (h.thaw _).okCmd _
  · exact h.refuse _

theorem State.MemIs.debugWindow (h : s.MemIs P) : Into P go (execDebugWindow s) := by
  unfold execDebugWindow
  dsimp only
  split
  · exact h.refuse _
  split
  · exact h.refuse _
  refine .ite (h.refuse _) (.ite ?_ ?_)
  · split
    · exact h.refuse _
    · exact (h.hostWrite _ _ _).okCmd _
  · split
    · exact h.refuse _
    · exact (h.putGroup _).okCmd _

theorem State.MemIs.aperture (h : s.MemIs P) : Into P go (execAperture s) := h.onCtx fun _ _ => .ite (h.refuse _) ((h.putFn _ _).okCmd _)

/-! ### Operating points and sensors (R501 to R505) -/

theorem State.MemIs.standStill (h : s.MemIs P) : s.standStill.MemIs P := by
  refine .foldl (fun s u hs => ?_) _ (.foldl (fun _ _ hs => (hs.finishStep _).haltCopy _) _ h)
  split
  · split
    · dsimp only
      split
      · exact ((hs.finishAtomics _ _ _).putGroup _).retest _
      · exact hs.finishAtomics _ _ _
    · exact hs
  · exact hs

theorem State.MemIs.goOnAll (h : s.MemIs P) : s.goOnAll.MemIs P := .foldl (fun _ _ hs => hs.pickUp _) _ h

theorem State.MemIs.setOp (h : s.MemIs P) : Into P go (execSetOp s) := by
  unfold execSetOp
  dsimp only
  split
  · exact h.refuse _
  · have hf : ∀ f, State.MemIs P { s with fleet := f } := fun f => h.congr rfl rfl rfl
    refine .ite (h.refuse _) (.ite h.waitCmd (.ite (h.refuse _) (.ite (State.MemIs.okCmd ?_ _) (State.MemIs.okCmd ?_ _))))
    · exact .ite (hf _).goOnAll (hf _)
    · exact (State.MemIs.ite (hf _).goOnAll (hf _)).congr rfl rfl rfl

theorem State.MemIs.opTransitionDone (h : s.MemIs P) : Into P go (execOpTransitionDone s) := by
  unfold execOpTransitionDone
  split
  · exact h.next
  · have hf : ∀ f, State.MemIs P { s with fleet := f } := fun f => h.congr rfl rfl rfl
    have hr : ∀ f, State.MemIs P { s.moduleReset with fleet := f } := fun f => h.moduleReset.congr rfl rfl rfl
    exact .ite (hr _).next (.ite (hr _).next (.ite (hf _).standStill.next (State.MemIs.ite (hf _).goOnAll (hf _)).next))

theorem State.MemIs.thermhalt (h : s.MemIs P) (i : Nat) : Into P go (execThermhalt i s) := by
  have hf : ∀ f, State.MemIs P { s with fleet := f } := fun f => h.congr rfl rfl rfl
  exact .ite h.next ((hf _).standStill.record _).next

theorem State.MemIs.sensorRefresh (h : s.MemIs P) (i : Nat) (x : Int) : Into P go (execSensorRefresh i x s) :=
  .ite h.next (State.MemIs.next (by exact h.congr rfl rfl rfl))

theorem State.MemIs.corrected (h : s.MemIs P) (d : Nat) : (s.corrected d).MemIs P := State.MemIs.record (by exact h.congr rfl rfl rfl) _

theorem State.MemIs.patrolScrub (h : s.MemIs P) (a : Nat) (f : SoftError) : Into P go (execPatrolScrub a f s) := by
  cases f with
  | clean => exact h.next
  | correctable => exact (h.corrected _).next
  | uncorrectable => exact ((h.poisonMem _).record _).next

theorem State.MemIs.upset (h : s.MemIs P) (k u p : Nat) : (s.upset k u p).MemIs P := by
  unfold State.upset
  dsimp only
  refine .ite (h.corrected _) (.ite ?_ (.ite ?_ ?_))
  · split
    · exact (h.putGroup _).record _
    · exact h
  · split
    · exact (h.keepSector _ _).record _
    · exact h
  · split
    · exact h
    · exact .ite ((h.putBlock _).record _) ((h.putBlock _).record _)

/-! ### The side-band and SPDM (R485, R486, R500, R504) -/

theorem State.MemIs.reply (h : s.MemIs P) (v : Via) (b : List Byte) : (s.reply v b).MemIs P := h.congr rfl rfl rfl

theorem State.MemIs.entdaa (h : s.MemIs P) : Into P go (execEntdaa s) := by
  unfold execEntdaa
  split
  · exact (State.MemIs.reply (by exact h.congr rfl rfl rfl) _ _).next
  · exact h.next

theorem State.MemIs.mctpControl (h : s.MemIs P) : Into P go (execMctpControl s) := by
  unfold execMctpControl
  split
  · exact (State.MemIs.reply (by exact h.congr rfl rfl rfl) _ _).next
  · exact h.next

theorem State.MemIs.pldmSensorRead (h : s.MemIs P) : Into P go (execPldmSensorRead s) := by
  unfold execPldmSensorRead
  split
  · exact (h.reply _ _).next
  · exact h.next

theorem State.MemIs.readErrlog (h : s.MemIs P) : Into P go (execReadErrlog s) := by
  unfold execReadErrlog
  split
  · exact (h.reply _ _).next
  · exact h.next

theorem State.MemIs.errlogInfo (h : s.MemIs P) : Into P go (execErrlogInfo s) := by
  unfold execErrlogInfo
  split
  · split
    · exact (h.reply _ _).next
    · exact (h.reply _ _).next
  · exact h.next

theorem State.MemIs.spdmSend (h : s.MemIs P) (b : List Byte) : (s.spdmSend b).MemIs P := h.reply _ _
theorem State.MemIs.spdmReply (h : s.MemIs P) (b : List Byte) : Into P go (s.spdmReply b) := (h.spdmSend _).next
theorem State.MemIs.slotReply (h : s.MemIs P) : Into P go s.slotReply := .ite (h.spdmReply _) (h.spdmSend _).next

theorem State.MemIs.getMeasurements (h : s.MemIs P) : Into P go (execGetMeasurements s) := by
  refine .ite (h.spdmReply _) (.ite (h.spdmReply _) ?_)
  split
  · exact h.spdmReply _
  · exact (h.spdmSend _).next

/-! ### Keys, images and logs (R476 to R484) -/

theorem State.MemIs.keyEnroll (h : s.MemIs P) : Into P go (execKeyEnroll s) :=
  h.onPart fun _ => .ite (h.refuse _) (.ite (h.refuse _) (.ite (h.refuse _) (((h.putPart _).logEntry _ _ _ _ _ _).okCmd _)))

theorem State.MemIs.imageLoad (h : s.MemIs P) : Into P go (execImageLoad s) := by
  unfold execImageLoad
  dsimp only
  split
  · exact h.refuse _
  split
  · exact h.refuse _
  refine .ite (h.refuse _) ?_
  split
  · exact h.refuse _
  refine .ite (h.refuse _) (.ite (h.refuse _) (.ite (h.refuse _) (.ite (h.refuse _) ?_)))
  split
  · exact h.okCmd _
  · exact ((h.putPart _).logEntry _ _ _ _ _ _).okCmd _

theorem State.MemIs.imagePolicy (h : s.MemIs P) : Into P go (execImagePolicy s) := h.onPart fun _ => (h.putPart _).okCmd _

theorem State.MemIs.measureLog (h : s.MemIs P) : Into P go (execMeasureLog s) := by
  unfold execMeasureLog
  dsimp only
  split
  · exact h.refuse _
  split
  · exact h.refuse _
  · exact .ite (h.finishCmd _ _).next ((h.hostWrite _ _ _).okCmd _)

end Sys2Proof.Machine
end

section
/-! SUPPORT. Memory (log 4) at every instruction: one that a group issues goes on where a group executes, every other in any state. -/

namespace Sys2Proof.Machine

open Host (Outcome)

variable {P : State → Prop} {go : Prop} {s : State}

/-! ### The instructions -/

/-- Whether an instruction is issued by a group: one of a slot, or one that an unknown opcode stands for. -/
def issues : Instr → Bool
  | .illegalOpcode _ => true
  | i => i.slot.isSome

theorem State.MemIs.xunpk (h : s.MemIs P) (hd : Head) (r : RArgs) : Into P s.Executes (execXunpk hd r s) := h.runSlots _ _ _ _ _ _

theorem State.MemIs.xpack (h : s.MemIs P) (hd : Head) (r : RArgs) : Into P s.Executes (execXpack hd r s) := h.runSlots _ _ _ _ _ _

theorem State.MemIs.xcvt (h : s.MemIs P) (hd : Head) (r : RArgs) : Into P s.Executes (execXcvt hd r s) := h.runSlots _ _ _ _ _ _

/-- An instruction that a group issues goes on where a group executes. -/
theorem State.MemIs.execIssued (h : s.MemIs P) {i : Instr} (hi : issues i = true) : Into P s.Executes (exec i s) := by
  cases i with
  -- A register instruction, and one that moves its group alone, replaces its group.
  | iaddV _ _ | iaddA _ _ | iaddS _ _ | isubV _ _ | isubA _ _ | isubS _ _ | imulV _ _ | imulA _ _ | imulS _ _ | imulhV _ _
  | imulhS _ _ | imadV _ _ | imadA _ _ | imadS _ _ | imulwV _ _ | imulwS _ _ | iabsV _ _ | iabsS _ _ | iminV _ _ | iminS _ _
  | imaxV _ _ | imaxS _ _ | iaddsatV _ _ | iaddsatS _ _ | andV _ _ | andS _ _ | orV _ _ | orS _ _ | xorV _ _ | xorS _ _ | notV _ _
  | notS _ _ | shlV _ _ | shlA _ _ | shlS _ _ | shrV _ _ | shrS _ _ | sarV _ _ | sarS _ _ | rolV _ _ | rolS _ _ | bfxV _ _
  | bfxS _ _ | bfiV _ _ | bfiS _ _ | popcV _ _ | popcS _ _ | clzV _ _ | clzS _ _ | brevV _ _ | brevS _ _ | extV _ _ | extS _ _
  | iselV _ _ | iselS _ _ | icmpVarying _ _ | leaV _ _ | leaA _ _ | leaS _ _ | movV _ _ | movA _ _ | movS _ _ | moviV _ _
  | moviS _ _ | amake _ _ | alane _ _ | promUniformToAffine _ _ | promUniformToVarying _ _ | promAffineToVarying _ _ | vfirst _ _
  | faddF32V _ _ | faddF32S _ _ | faddF64V _ _ | faddF64S _ _ | fsubF32V _ _ | fsubF32S _ _ | fsubF64V _ _ | fsubF64S _ _
  | fmulF32V _ _ | fmulF32S _ _ | fmulF64V _ _ | fmulF64S _ _ | ffmaF32V _ _ | ffmaF32S _ _ | ffmaF64V _ _ | ffmaF64S _ _
  | fminF32V _ _ | fminF32S _ _ | fminF64V _ _ | fminF64S _ _ | fmaxF32V _ _ | fmaxF32S _ _ | fmaxF64V _ _ | fmaxF64S _ _
  | fcmpF32V _ _ | fcmpF64V _ _ | fdivF32V _ _ | fdivF32S _ _ | fdivF64V _ _ | fdivF64S _ _ | fsqrtF32V _ _ | fsqrtF32S _ _
  | fsqrtF64V _ _ | fsqrtF64S _ _ | frcp _ _ | frsq _ _ | flog2 _ _ | fexp2 _ _ | fsin _ _ | fcos _ _ | fcvtV _ _ | fcvtS _ _
  | frndV _ _ | frndS _ _ | fclass _ _ | fldexp _ _ | shfl _ _ | shfx _ _ | lredS _ _ | lredV _ _ | lscan _ _ | ballot _ _
  | rng _ _ | hshV _ _ | hshS _ _ | argmx _ _ | clk _ _ | fence _ _ | lcset _ _ | yield _ _ | sleep _ _ | hsave _ _ | hrest _ _ =>
    exact h.runSlot fun _ _ => .ok (h.putGroup _)
  | nop _ _ => exact h.runSlot fun _ _ => .ok h
  | icmpUniform _ _ | atest _ _ | fcmpF32S _ _ | fcmpF64S _ _ =>
    exact h.runSlot fun _ _ => h.uniPredOwn _ _ _ _ _ _ _ _
  | xunpk _ _ => exact h.xunpk _ _
  | xpack _ _ => exact h.xpack _ _
  | xcvt _ _ => exact h.xcvt _ _
  | ldV _ _ | ldS _ _ | stV _ _ | stS _ _ | ldw _ _ | stw _ _ | atomV _ _ | atomS _ _ | red _ _ | redo _ _ =>
    exact h.runSlot fun _ _ => h.memOwn
  | mloop _ _ | mloopg _ _ => exact h.runSlot fun _ _ => h.mloopOwn _ _ _ _
  | brl _ _ => exact h.runSlot fun _ _ => .done (h.finish _ _ _ _ _ _ _ _)
  | trap _ _ => exact h.runSlot fun _ _ => .fault
  | vuni _ _ => exact h.vuni _ _
  | qrow _ _ => exact h.qrow _ _
  | qscale _ _ => exact h.qscale _ _
  | lds _ _ => exact h.lds _ _
  | sts _ _ => exact h.sts _ _
  | prf _ _ => exact h.prf _ _
  | cmtk _ _ => exact h.cmtk _ _
  | cmtp _ _ => exact h.cmtp _ _
  | wcnt _ _ => exact h.wcnt _ _
  | cpy _ _ => exact h.cpy _ _
  | mout _ _ => exact h.mout _ _
  | mzero _ _ => exact h.mzero _ _
  | mbat _ _ => exact h.mbat _ _
  | mwait _ _ => exact h.mwait _ _
  | macq _ _ => exact h.macq _ _
  | mrel _ _ => exact h.mrel _ _
  | ownq _ _ => exact h.ownq _ _
  | bari _ _ => exact h.bari _ _
  | bara _ _ => exact h.bara _ _
  | barx _ _ => exact h.barx _ _
  | barw _ _ => exact h.barw _ _
  | gbar _ _ => exact h.gbar _ _
  | rbar _ _ => exact h.rbar _ _
  | work _ _ => exact h.work _ _
  | spawn _ _ => exact h.spawn _ _
  | rte _ _ => exact h.rteInstr _ _
  | bkpt _ _ => exact h.bkpt _ _
  | getsr _ _ => exact h.getsr _ _
  | setsr _ _ => exact h.setsr _ _
  | pmc _ _ => exact h.pmc _ _
  | winld _ _ => exact h.winld _ _
  | winst _ _ => exact h.winst _ _
  | illegalOpcode op => exact h.illegalOpcode op
  | _ => exact nomatch hi

/-- Every other instruction goes on in any state. -/
theorem State.MemIs.execOther (h : s.MemIs P) {i : Instr} (hi : issues i = false) : Into P go (exec i s) := by
  cases i with
  | bundleFetch _ _ => exact h.bundleFetch _ _
  | loadDataReturn _ _ => exact h.loadDataReturn _ _
  | accessPerformed _ _ => exact h.accessPerformed _ _
  | wcntRecheck _ => exact h.wcntRecheck _
  | sleepExpiry _ => exact h.sleepExpiry _
  | handlerEntry _ => exact h.handlerEntry _
  | watchdog _ => exact h.watchdog _
  | matrixStep _ => exact h.matrixStep _
  | matrixOperationComplete _ => exact h.matrixOperationComplete _
  | copyComplete _ => exact h.copyComplete _
  | blockPlace _ _ => exact h.blockPlace _ _
  | idGrant _ _ => exact h.idGrant _ _
  | mirrorAck _ => exact h.mirrorAck _
  | heldCore _ => exact h.heldCore _
  | blockRetire _ => exact h.blockRetire _
  | coopLaunch _ => exact h.coopLaunch _
  | slotConsume _ _ _ => exact h.slotConsume _ _ _
  | taskStartable _ => exact h.taskStartable _
  | depFailed _ => exact h.depFailed _
  | bind _ => exact h.bind _
  | pinit _ => exact h.pinit _
  | invstart _ => exact h.invstart _
  | flush _ => exact h.flush _
  | inval _ => exact h.inval _
  | final _ => exact h.final _
  | complete _ => exact h.complete _
  | slotReadback _ _ _ => exact h.slotReadback _ _ _
  | kilnReloadDone _ _ _ => exact h.kilnReloadDone _ _ _
  | gangTick _ => exact h.gangTick _
  | groupHalt _ => exact h.groupHalt _
  | dieSaveDone _ _ => exact h.dieSaveDone _ _
  | contextRestore _ => exact h.contextRestore _
  | switchLate _ _ => exact h.switchLate _ _
  | lateDieFence _ _ => exact h.lateDieFence _ _
  | scrubPass _ => exact h.scrubPass _
  | patrolScrub _ _ => exact h.patrolScrub _ _
  | sensorRefresh _ _ => exact h.sensorRefresh _ _
  | thermhalt _ => exact h.thermhalt _
  | interruptCoalesceExpiry _ => exact h.interruptCoalesceExpiry _
  | eventStoreDrain _ => exact h.eventStoreDrain _
  | flitReceive _ _ => exact h.flitReceive _ _
  | replayTimeout _ => exact h.replayTimeout _
  | auditStart _ => exact h.auditStart _
  | auditReply _ => exact h.auditReply _
  | auditTimeout _ => exact h.auditTimeout _
  | retrain _ => exact h.retrain _
  | retrainComplete _ _ => exact h.retrainComplete _ _
  | linkDown _ => exact h.linkDown _
  | dieFence _ => exact h.dieFence _
  | bar4Access _ _ _ _ => exact h.bar4Access _ _ _ _
  | registerWrite _ _ _ => exact h.registerWrite _ _ _
  | cmdtail _ _ => exact h.cmdtail _ _
  | evthead _ _ => exact h.evthead _ _
  | doorbell _ _ _ => exact h.doorbell _ _ _
  | functionLevelReset _ => exact h.functionLevelReset _
  | reconfigurationDone _ _ => exact h.reconfigurationDone _ _
  | opTransitionDone => exact h.opTransitionDone
  | routeInstall => exact h.routeInstall
  | meshSplit => exact h.meshSplit
  | identify => exact h.identify
  | portConfig => exact h.portConfig
  | partCreate => exact h.partCreate
  | partDestroy => exact h.partDestroy
  | partResize => exact h.partResize
  | setHandler => exact h.setHandler
  | setPmc => exact h.setPmc
  | ctxCreate => exact h.ctxCreate
  | ctxDestroy => exact h.ctxDestroy
  | queueCreate => exact h.queueCreate
  | queueDestroy => exact h.queueDestroy
  | map => exact h.map
  | unmap => exact h.unmap
  | map2 => exact h.map2
  | invalCommand => exact h.invalCommand
  | imageLoad => exact h.imageLoad
  | imagePolicy => exact h.imagePolicy
  | keyEnroll => exact h.keyEnroll
  | faultReplay => exact h.answerCmd _
  | faultDecline => exact h.answerCmd _
  | setOp => exact h.setOp
  | measureLog => exact h.measureLog
  | debugAttach => exact h.debugAttach
  | debugDetach => exact h.debugDetach
  | debugResume => exact h.debugResume
  | debugWindow => exact h.debugWindow
  | aperture => exact h.aperture
  | entdaa => exact h.entdaa
  | mctpControl => exact h.mctpControl
  | pldmSensorRead => exact h.pldmSensorRead
  | getVersion => exact h.spdmReply _
  | getCapabilities => exact h.spdmReply _
  | negotiateAlgorithms => exact h.spdmReply _
  | getDigests => exact h.spdmReply _
  | getCertificate => exact h.slotReply
  | challenge => exact h.slotReply
  | getMeasurements => exact h.getMeasurements
  | readErrlog => exact h.readErrlog
  | errlogInfo => exact h.errlogInfo
  | badOpcode => exact h.refuse _
  | unsupportedRequest => exact (h.spdmSend _).next
  | moduleReset => exact h.moduleReset.next
  | _ => exact nomatch hi

theorem State.MemIs.exec (h : s.MemIs P) (i : Instr) : Into P s.Executes (Machine.exec i s) := by
  cases hi : issues i
  · exact h.execOther hi
  · exact h.execIssued hi

end Sys2Proof.Machine
end

section
/-! SUPPORT. Memory at every step of the module (log 4), and that each goes on (log 2): issue, its own steps, commands, the cycle that
passes, the script. -/

namespace Sys2Proof.Machine

open Host (Outcome)

variable {P : State → Prop} {go : Prop} {s : State}

/-! ### Issue (R33 to R35) -/

/-- A candidate is of a group that stands among the others, and has a split to execute. -/
theorem cand_group {g : Group} {c : Ready} (h : s.cand g = some c) : c.group = g ∧ g.exec?.isSome = true := by
  unfold State.cand at h
  split at h
  · cases h
  split at h
  · cases h
  split at h
  · cases h
  split at h
  · cases h
  split at h
  · cases h
    exact ⟨rfl, by simp_all⟩
  · cases h

theorem mem_insertCand {n : Nat} {x c : Ready} {l : List Ready} (h : c ∈ insertCand n x l) : c = x ∨ c ∈ l := by
  induction l with
  | nil => simpa [insertCand] using h
  | cons y l ih =>
    unfold insertCand at h
    split at h
    · rcases List.mem_cons.1 h with rfl | h
      · simp
      · rcases ih h with rfl | h <;> simp_all
    split at h
    · simpa using h
    · rcases List.mem_cons.1 h with rfl | h
      · simp
      · rcases ih h with rfl | h <;> simp_all

theorem mem_foldl_insertCand {n : Nat} {c : Ready} {k l : List Ready} (h : c ∈ k.foldl (fun l x => insertCand n x l) l) :
    c ∈ k ∨ c ∈ l := by
  induction k generalizing l with
  | nil => exact .inr h
  | cons x k ih =>
    rcases ih h with h | h
    · exact .inl (List.mem_cons_of_mem _ h)
    · rcases mem_insertCand h with rfl | h
      · exact .inl List.mem_cons_self
      · exact .inr h

theorem State.group?_of_mem {g : Group} (hd : s.Distinct) (hg : g ∈ s.groups) : s.group? g.uid = some g := by
  obtain ⟨y, hy⟩ := Option.isSome_iff_exists.1 ((List.find?_isSome (p := fun z : Group => z.uid == g.uid)).2 ⟨g, hg, by simp⟩)
  exact hy.trans (congrArg some (List.inj_on_of_nodup_map hd (List.mem_of_find?_eq_some hy) hg (by simpa using List.find?_some hy)))

/-- Where no two groups share a uid, a candidate that is latched executes. -/
theorem executes_latch (hd : s.Distinct) {c : Ready} (h : c ∈ s.cands) : (s.latch c).Executes := by
  rcases mem_foldl_insertCand h with h | h
  · obtain ⟨g, hg, e⟩ := List.mem_filterMap.1 h
    obtain ⟨hc, -⟩ := Option.filter_eq_some_iff.1 e
    obtain ⟨rfl, hx⟩ := cand_group hc
    obtain ⟨x, hx⟩ := Option.isSome_iff_exists.1 hx
    exact ⟨_, x, State.group?_of_mem hd hg, hx⟩
  · cases h

theorem State.MemIs.latch (h : s.MemIs P) (c : Ready) : (s.latch c).MemIs P := h.congr rfl rfl rfl

theorem State.MemIs.decodeFault (h : s.MemIs P) (e : DecodeError) : Into P s.Executes (decodeFault e s) := by
  unfold Machine.decodeFault
  split
  · exact .fault (not_executes_of_curGroup ‹_›)
  split
  · exact .fault (not_executes_of_exec ‹_› ‹_›)
  · exact (h.takeFault _ _).next

theorem State.MemIs.issueBad (h : s.MemIs P) (c : Ready) (e : DecodeError) : Into P s.Executes (s.issueBad c e) := by
  unfold State.issueBad
  split
  · split
    · exact .next (h.congr rfl rfl rfl)
    · exact h.decodeFault e
  · exact h.decodeFault e

theorem State.MemIs.issue (h : s.MemIs P) (c : Ready) : Into P (s.latch c).Executes (s.issue c) := by
  have ho : Into P (s.latch c).Executes (match c.dec with
    | .ok i => Machine.exec i (s.latch c)
    | .error e => (s.latch c).issueBad c e) := by
    split
    · exact (h.latch c).exec _
    · exact (h.latch c).issueBad c _
  unfold State.issue
  dsimp only
  split
  · split
    · exact (h.latch c).exec _
    · exact ho
  · exact ho

theorem Into.mono {p q : Prop} {o : Outcome State Fault Refusal} (h : Into P p o) (hpq : q → p) : Into P q o := by
  cases h with
  | next h => exact .next h
  | fault h => exact .fault fun hq => h (hpq hq)

theorem State.MemIs.issueFirst (h : s.MemIs P) (l : List Ready) (hl : ∀ c ∈ l, go → (s.latch c).Executes) :
    ∀ o, s.issueFirst l = some o → Into P go o := by
  induction l with
  | nil => exact fun o e => nomatch e
  | cons c l ih =>
    intro o e
    have hc := (h.issue c).mono (hl c List.mem_cons_self)
    unfold State.issueFirst at e
    split at e
    · next s' hs =>
      split at e
      · exact ih (fun c hc => hl c (List.mem_cons_of_mem _ hc)) o e
      · exact Option.some.inj e ▸ hs ▸ hc
    · exact Option.some.inj e ▸ hc

/-! ### The part's own steps (log 2) -/

/-- A next step that is none, or one that no group issues. -/
inductive OwnStep : Option Instr → Prop
  | none : OwnStep none
  | some {i : Instr} (h : issues i = false) : OwnStep (some i)
  | map {α : Type} {f : α → Instr} {o : Option α} (h : ∀ a, issues (f a) = false) : OwnStep (o.map f)

theorem OwnStep.issues {o : Option Instr} {i : Instr} (h : OwnStep o) (e : o = Option.some i) : issues i = false := by
  cases h with
  | none => cases e
  | some h => exact Option.some.inj e ▸ h
  | map h =>
    obtain ⟨a, -, rfl⟩ := Option.map_eq_some_iff.1 e
    exact h a

theorem OwnStep.ite {c : Prop} [Decidable c] {o p : Option Instr} (ho : OwnStep o) (hp : OwnStep p) :
    OwnStep (if c then o else p) := by
  split
  · exact ho
  · exact hp

theorem ownStep_groupEvent (s : State) (g : Group) : OwnStep (s.groupEvent g) := by
  unfold State.groupEvent
  repeat' split
  all_goals constructor
  all_goals intros; rfl

theorem ownStep_coreEvent (s : State) (c : Nat) : OwnStep (s.coreEvent c) := by
  unfold State.coreEvent
  refine .ite (.some rfl) ?_
  dsimp only
  split
  · rename_i e
    repeat' split at e
    all_goals cases e
    all_goals exact .some rfl
  · repeat' split
    all_goals constructor
    all_goals rfl

theorem ownStep_spargeEvent (s : State) (x : Task) : OwnStep (s.spargeEvent x) := by
  unfold State.spargeEvent
  dsimp only
  repeat' split
  all_goals constructor
  all_goals rfl

theorem ownStep_launchEvent (s : State) (p : Part) (x : Task) : OwnStep (s.launchEvent p x) := by
  unfold State.launchEvent
  repeat' split
  all_goals constructor
  all_goals rfl

theorem ownStep_taskEvent (s : State) (x : Task) : OwnStep (s.taskEvent x) := by
  unfold State.taskEvent
  split
  · constructor
  repeat' split
  case h_1 e => exact .some ((ownStep_spargeEvent s x).issues e)
  case h_1 e => exact .some ((ownStep_launchEvent s _ x).issues e)
  all_goals constructor
  all_goals rfl

theorem ownStep_partEvent (s : State) (p : Part) : OwnStep (s.partEvent p) := by
  unfold State.partEvent
  repeat' split
  all_goals constructor
  all_goals intros; rfl

theorem ownStep_choreEvent (s : State) : OwnStep s.choreEvent := by
  unfold State.choreEvent
  split
  all_goals constructor
  all_goals rfl

theorem ownStep_linkEvent (s : State) (d : Nat) (l : Link) : OwnStep (s.linkEvent d l) := by
  unfold State.linkEvent
  repeat' split
  all_goals constructor
  all_goals rfl

theorem ownStep_firmwareEvent (s : State) : OwnStep s.firmwareEvent := by
  unfold State.firmwareEvent
  repeat' split
  all_goals constructor
  all_goals intros; rfl

theorem OwnStep.findSome {α : Type} {f : α → Option Instr} {l : List α} {i : Instr} (h : ∀ a, OwnStep (f a))
    (e : l.findSome? f = Option.some i) : Machine.issues i = false := by
  obtain ⟨a, -, e⟩ := List.exists_of_findSome?_eq_some e
  exact (h a).issues e

/-- No step that the part takes of itself is one that a group issues. -/
theorem ownStep_nextEvent (s : State) : OwnStep s.nextEvent := by
  unfold State.nextEvent
  split
  · exact .some ((ownStep_firmwareEvent s).issues ‹_›)
  split
  · exact .none
  split
  · rename_i e
    rcases Option.or_eq_some_iff.1 e with e | ⟨-, e⟩
    · exact .some (OwnStep.findSome (ownStep_partEvent s) e)
    · exact .some ((ownStep_choreEvent s).issues e)
  split
  · exact .some (OwnStep.findSome (ownStep_groupEvent s) ‹_›)
  split
  · exact .some (OwnStep.findSome (fun c : Nat × Core => ownStep_coreEvent s c.1) ‹_›)
  split
  · exact .some (OwnStep.findSome (ownStep_taskEvent s) ‹_›)
  split
  any_goals exact .some rfl
  split
  · exact .some (OwnStep.findSome (fun d : Nat × Link => ownStep_linkEvent s d.1 d.2) ‹_›)
  repeat' split
  all_goals constructor
  all_goals rfl

/-! ### Commands (R433, R435) -/

theorem issues_instr (c : Cmd) : issues c.instr = false := by
  unfold Cmd.instr
  split <;> rfl

theorem State.MemIs.loadCmd (h : s.MemIs P) : s.loadCmd.MemIs P := by
  unfold State.loadCmd
  split
  · exact h
  · exact .ite h (h.congr rfl rfl rfl)

theorem State.MemIs.runCmd (h : s.MemIs P) : Into P go s.runCmd := h.loadCmd.execOther (issues_instr _)

/-! ### The passing of a cycle -/

theorem State.MemIs.tickCounts (h : s.MemIs P) (p : Part) : (s.tickCounts p).MemIs P := by
  unfold State.tickCounts
  split
  · exact h
  · exact .ite h (.foldl (fun _ _ hs => hs.countUp _ _ _) _ (.foldl (fun _ _ hs => hs.countUp _ _ _) _ h))

theorem State.MemIs.tickChores (h : s.MemIs P) : s.tickChores.MemIs P := by
  unfold State.tickChores
  have hs := State.MemIs.ite (c := s.now < s.scanAt) h (t := { s with scanAt := s.now + s.cyclesOfUs 1000, scan := s.boundSlots })
    (h.congr rfl rfl rfl)
  exact .ite hs (hs.congr rfl rfl rfl)

theorem State.MemIs.advance (h : s.MemIs P) : s.advance.MemIs P := by
  have hc := (State.MemIs.foldl (f := fun s p => s.tickCounts p) (fun _ _ hs => hs.tickCounts _) s.parts h).tickChores
  exact .foldl (fun _ _ hs => hs.goOnPackets _) _ (hc.congr rfl rfl rfl)

/-! ### Steps (log 1, log 2) -/

theorem State.MemIs.selfStep (h : s.MemIs P) : Into P s.Distinct s.selfStep := by
  have wait {t : State} (ht : t.MemIs P) : Into P s.Distinct (if t.fleet.busy && !t.cmdq.isEmpty then t.runCmd else .next t) :=
    Into.ite ht.runCmd ht.next
  unfold State.selfStep
  split
  · exact .next (h.congr rfl rfl rfl)
  split
  · exact h.runCmd
  split
  · exact h.execOther ((ownStep_nextEvent s).issues ‹_›)
  dsimp only
  split
  · exact wait h
  split
  · exact .next (h.moveOne _ ‹_›)
  split
  · exact h.issueFirst s.cands (fun _ hc hd => executes_latch hd hc) _ ‹_›
  · exact wait h.advance

theorem issues_of_received {i : Instr} (h : received i = false) : issues i = false := by
  cases i with
  | illegalOpcode | identify | portConfig | partCreate | partDestroy | partResize | setHandler | setPmc | ctxCreate | ctxDestroy
  | queueCreate | queueDestroy | map | unmap | map2 | invalCommand | imageLoad | imagePolicy | keyEnroll | faultReplay | faultDecline
  | setOp | measureLog | debugAttach | debugDetach | debugResume | debugWindow | aperture | entdaa | mctpControl | pldmSensorRead
  | getVersion | getCapabilities | negotiateAlgorithms | getDigests | getCertificate | challenge | getMeasurements | readErrlog
  | errlogInfo | badOpcode | unsupportedRequest => cases h
  | _ => exact h

theorem issues_spdmInstr (code : BitVec 8) : issues (spdmInstr code) = false := by
  unfold spdmInstr
  split <;> rfl

theorem issues_sideInstr (m : SideMsg) : issues (sideInstr m) = false := by
  cases m <;> rfl

theorem issues_bar0Step {f o w : Nat} {v : Option Dword} {i : Instr} (h : bar0Step f o w v = some i) : issues i = false := by
  unfold bar0Step at h
  repeat' split at h
  all_goals cases h
  all_goals rfl

theorem issues_bar2Step {f o w : Nat} {v : Option Dword} {i : Instr} (h : bar2Step f o w v = some i) : issues i = false := by
  unfold bar2Step at h
  repeat' split at h
  all_goals cases h
  all_goals rfl

theorem State.MemIs.turn (h : s.MemIs P) (t : Turn) : Into P go (s.turn t) := by
  cases t with
  | op i =>
    unfold State.turn
    dsimp only
    split
    · exact h.next
    · exact h.execOther (issues_of_received (Bool.eq_false_iff.2 ‹_›))
  | host => exact .next (h.hostWrite _ _ _)
  | spdm => exact State.MemIs.execOther (by exact h.congr rfl rfl rfl) (issues_spdmInstr _)
  | side => exact State.MemIs.execOther (by exact h.congr rfl rfl rfl) (issues_sideInstr _)
  | message k b =>
    unfold State.turn
    dsimp only
    split
    · exact State.MemIs.execOther (by exact h.congr rfl rfl rfl) (issues_sideInstr _)
    · exact State.MemIs.execOther (by exact h.congr rfl rfl rfl) (issues_spdmInstr _)
    · exact h.next
  | send => exact .next (h.carry _)
  | peer => exact .next ⟨h.kind, h.kind.peer _ _ h.has⟩
  | until_ => exact h.next
  | hold => exact .next (h.congr rfl rfl rfl)
  | config => exact .next (h.putFn _ _)
  | bar0 f o w v =>
    unfold State.turn
    dsimp only
    split
    · exact h.execOther (issues_bar0Step ‹_›)
    · exact .next (.ite (h.putFn _ _) h)
  | bar2 f o w v =>
    unfold State.turn
    dsimp only
    split
    · exact h.execOther (issues_bar2Step ‹_›)
    · exact .next (.ite (h.putFn _ _) h)
  | upset => exact .next (h.upset _ _ _)

theorem State.MemIs.step (h : s.MemIs P) : Into P s.Distinct (step s) := by
  unfold Machine.step State.stepOnce
  split
  · exact h.selfStep
  · exact .ite h.selfStep (.next (h.congr rfl rfl rfl))
  · exact State.MemIs.turn (by exact h.congr rfl rfl rfl) _

/-! ### Properties of memory -/

/-- Canonical form is a property of memory: every write keeps it. -/
theorem ofMemory_memOk : OfMemory State.MemOk where
  congr h hm hp hh := h.congr hm hp hh
  store q a y b h := h.homeWriteBy q a y b
  touch q a y h := h.llcTouch q a y
  clean _ h := ⟨cellsWf_foldr _ h.1, h.2⟩
  host f a b h := h.hostWrite f a b
  peer a b h := ⟨h.1, cellsWf_cellWrite b a h.2.1, h.2.2⟩
  reset h := ⟨rfl, h.2⟩

/-- The property that every state has is one of memory. -/
theorem ofMemory_true : OfMemory fun _ => True where
  congr _ _ _ _ := trivial
  store _ _ _ _ _ := trivial
  touch _ _ _ _ := trivial
  clean _ _ := trivial
  host _ _ _ _ := trivial
  peer _ _ _ := trivial
  reset _ := trivial

end Sys2Proof.Machine

namespace Sys2Proof.Claims

open Sys2Proof.Machine

/-- Settles O53: canonical form is a property of memory (`ofMemory_memOk`), and every step keeps such a property. -/
theorem everyStepKeepsMemoryCanonical : Obligations.EveryStepKeepsMemoryCanonical := fun s t h e => by
  have hs := State.MemIs.step ⟨ofMemory_memOk, h⟩
  rw [e] at hs
  cases hs with
  | next ht => exact ht.has

/-- Settles O55: a step comes to a state wherever a candidate's group is the one of its uid, or runs no slot instruction at all. -/
theorem everyStepGoesOn : Obligations.EveryStepGoesOn := fun s hd => by
  have hs := State.MemIs.step (s := s) ⟨ofMemory_true, trivial⟩
  unfold Goes
  revert hs
  generalize step s = o
  intro hs
  cases hs with
  | next ht => exact ⟨_, rfl⟩
  | fault h => exact absurd hd h

/-- Settles O52. -/
theorem resetMeetsTheInvariants : Obligations.ResetMeetsTheInvariants := ⟨⟨rfl, rfl, rfl⟩, List.nodup_nil, fun _ hg => nomatch hg⟩

end Sys2Proof.Claims
end

section
/-! SUPPORT. Barriers at issue (R362 to R365), long transfers, order and sleep (R376 to R378), traps (R385), the window and the handler
rows (R387, R388). -/

namespace Sys2Proof.Claims

open Sys2Proof.Machine

theorem barrierObjects : BarrierObjects := by
  intro s g x h a b t hb ht hwhole n o w
  have hw : g.whole x = true := by simpa [Group.whole] using hwhole
  refine ⟨fun hr ho => hr.ok rfl rfl ?_, fun hr hp ha => hr.ok rfl rfl ?_, fun hr hp => hr.ok rfl rfl ?_,
    fun p hr hl hne hpass => hr.ok rfl rfl ?_, fun p hr hl he => hr.stalls rfl rfl ?_⟩
  · simp only [hb]
    exact if_neg (by simpa [hw] using ho)
  · simp only [hb]
    exact if_neg (by simpa [hw] using ⟨hp, ha⟩)
  · simp only [hb]
    exact if_neg (by simpa [hw] using hp)
  · simp only [hb]
    rw [show g.barLast.getD (a.imm.toNat % 16) none = some p from hl]
    exact (if_neg (by simp [hw])).trans (if_pos ((Bool.and_eq_true _ _).mpr ⟨bne_iff_ne.2 hne, hpass⟩))
  · simp only [hb]
    rw [show g.barLast.getD (a.imm.toNat % 16) none = some p from hl]
    exact (if_neg (by simp [hw])).trans (if_neg (by simp [show (b.bar (a.imm.toNat % 16)).phase = p from he]))

theorem groupAndRectangleBarriers : GroupAndRectangleBarriers := by
  intro s g x h a b t hb ht hwhole l
  have hw : g.whole x = true := by simpa [Group.whole] using hwhole
  refine ⟨fun hr => hr.ok rfl rfl ?_, fun hr hc hl => hr.ok rfl rfl ?_⟩
  · simp only [hb]
    exact if_neg (by simp [hw])
  · have hfit : ((s.liveGroups b.uid).any (fun y => b.rbar.contains y.gindex) && b.rbarLvl != some l) = false := by
      simpa [imp_iff_not_or, ← or_iff_not_imp_left] using hl
    simp only [hb, ht]
    exact if_neg (by simpa [hw, hc] using hfit)

/-- Settles O23: past the checks each own effect is the branch that the hypotheses on the object select. -/
theorem blockBarriers : Obligations.BlockBarriers := ⟨barrierObjects, groupAndRectangleBarriers⟩

/-- Settles O25: `brl` sequences itself, and the others change their group alone. -/
theorem transfersOrderAndSleep : Obligations.TransfersOrderAndSleep :=
  fun _ _ _ _ _ => ⟨fun hr => hr.done rfl, fun hr => hr.ok rfl, fun hr => hr.ok rfl, fun hr => hr.ok rfl⟩

/-- Settles O26: each own effect is a fault, but that of `bkpt` under a debugger, which sequences itself. -/
theorem trapAndBreakpoint : Obligations.TrapAndBreakpoint :=
  fun _ _ _ _ _ => ⟨fun hr => hr.fault rfl, fun hr hd => hr.fault rfl rfl (if_neg (by simp [hd])),
    fun hr hd => hr.done rfl rfl (if_pos hd)⟩

/-- Settles O32: the index is listed and its object free of poison, so that the row is read or written; the rows move in a loop. -/
theorem windowAndHandlerRows : Obligations.WindowAndHandlerRows := by
  intro s g x h a v i n
  refine ⟨fun r hr hrow hreg hpark => hr.ok rfl rfl ?_, fun w hr hw hreg => hr.ok rfl rfl ?_, fun hr => hr.ok rfl, fun hr => hr.ok rfl⟩
  · have hclean : ¬ ((decide (i < 0x100) || decide (0x200 ≤ i) && decide (i < 0x208)) && g.poison.contains i) = true := by
      simp only [Bool.and_eq_true, Bool.or_eq_true, decide_eq_true_eq, List.contains_iff_mem]
      rintro ⟨hi | ⟨hlo, hhi⟩, hp⟩
      · exact (hreg hi).2 hp
      · exact hpark hlo hhi hp
    simp only [show (g.viewAt s.now).window (winIndex (g.viewAt s.now) a) = some r from hrow]
    exact if_neg hclean
  · simp only [show windowWrite (winIndex (g.viewAt s.now) a) ((g.viewAt s.now).rv a.d.toNat) = some w from hw]
    rfl

end Sys2Proof.Claims
end

section
/-! SUPPORT. Cross-lane and keyed instructions at issue (R314 to R323). -/

namespace Sys2Proof.Claims

open Sys2Proof.Machine

/-- Settles O13: each own effect is the one stated; `argmx` compares the live lanes that hold no NaN, in their order. -/
theorem crossLaneInstructions : Obligations.CrossLaneInstructions := by
  intro s g x h r v0 a t o f w vec uni
  refine ⟨fun hr => hr.ok rfl, fun hr => hr.ok rfl, fun hr => hr.ok rfl, fun hr => hr.ok rfl, fun hr => hr.ok rfl, fun hr => hr.ok rfl,
    fun hr => hr.ok rfl, fun hr => hr.ok rfl, fun hr => hr.ok rfl, fun hr => hr.ok rfl rfl ?_⟩
  dsimp only [t]
  rw [List.filter_map, List.any_map]
  cases tyFloat (r.c.toNat / 16) <;> rfl

end Sys2Proof.Claims
end

section
/-! SUPPORT. Global accesses whose checks pass (R326, R327, R330 to R339). -/

namespace Sys2Proof.Claims

open Sys2Proof.Machine

variable {s : State} {g : Group} {x : Split} {h : Head} {m : MArgs}

/-- The own effect of a global access that checks no lane: none, or the order it asks for (R147, R326). -/
theorem memOwn_of_no_lane (k : Access) (haff : affineBad (g.viewAt s.now) m = false) (hl : lanesOf (g.checked x h k.uniform s.now) = []) :
    memOwn k.op.toNat h m k.kind k.acc k.uniform (k.one m) k.last s g x =
      if m.ord == .none then .ok s (some (s.now + 1)) else s.send g (mkReq g x s k.op.toNat h m .order [] false 0) := by
  simp only [memOwn, memOwnBy, haff, hl, List.isEmpty_nil, Bool.false_eq_true, if_false, if_true]

/-- Settles O14: the own effect sends its request, orders, or does nothing, as lanes are checked and an order is asked for. -/
theorem globalAccessesIssue : Obligations.GlobalAccessesIssue := by
  intro k hk s g x h m b t mask send hr hb ht haff
  refine ⟨fun hl hf => hr.ok (exec_access hk h m s) rfl ?_, fun hl ho => hr.ok (exec_access hk h m s) rfl ?_,
    fun hl ho => hr.ok (exec_access hk h m s) rfl ?_⟩
  · rw [checks] at hf
    have hl : lanesOf (g.checked x h k.uniform s.now) ≠ [] := hl
    simp only [mask] at hf
    simp only [memOwn, memOwnBy, haff, hb, ht, hf, List.isEmpty_iff, hl, Bool.false_eq_true, if_false]
    rfl
  · exact (memOwn_of_no_lane k haff hl).trans (if_neg (by simpa using ho))
  · exact (memOwn_of_no_lane k haff hl).trans (if_pos (by simpa using ho))

end Sys2Proof.Claims
end

section
/-! SUPPORT. Faults (R382 to R384) and the return from a handler (R386). -/

namespace Sys2Proof.Machine

variable {s : State} {g : Group} {x : Split}

/-! ### What the steps on splits leave (R38 to R40) -/

/-- A group that differs in its splits and their return entries alone. -/
def Group.Resplit (g g' : Group) : Prop := ∃ a p r, g' = { g with active := a, parked := p, rets := r }

theorem Group.Resplit.trans {g₁ g₂ : Group} (h : g.Resplit g₁) (k : g₁.Resplit g₂) : g.Resplit g₂ := by
  obtain ⟨_, _, _, rfl⟩ := h
  obtain ⟨a, p, r, rfl⟩ := k
  exact ⟨a, p, r, rfl⟩

theorem Group.parkExtra_spec (g : Group) : ∃ a p, g.parkExtra = { g with active := a, parked := p } := by
  unfold Group.parkExtra
  split
  · split
    · exact ⟨_, _, rfl⟩
    · exact ⟨_, _, rfl⟩
  · exact ⟨_, _, rfl⟩

theorem Group.resplit_parkExtra (g : Group) : g.Resplit g.parkExtra :=
  let ⟨a, p, e⟩ := g.parkExtra_spec
  ⟨a, p, g.rets, e⟩

theorem Group.parkExtra_of_le (h : g.active.length ≤ 4) : g.parkExtra = g := if_neg (Nat.not_lt.2 h)

theorem Group.resplit_settle (g : Group) : g.Resplit g.settle :=
  Group.Resplit.trans ⟨_, _, _, rfl⟩ ((Group.resplit_parkExtra _).trans ⟨_, _, _, rfl⟩)

theorem Group.resplit_restart (g : Group) (f : FaultInfo) (skip : Bool) : g.Resplit (g.restart f skip) := by
  unfold Group.restart
  extract_lets m
  split
  · exact ⟨_, _, _, rfl⟩
  split
  · exact ⟨_, _, _, rfl⟩
  · exact Group.Resplit.trans ⟨_, _, _, rfl⟩ (Group.resplit_parkExtra _)

theorem mem_insertSplit {x y : Split} {l : List Split} : y ∈ insertSplit x l ↔ y = x ∨ y ∈ l := by
  induction l with
  | nil => simp [insertSplit]
  | cons z l ih =>
    unfold insertSplit
    split
    · rw [List.mem_cons, ih, List.mem_cons, or_left_comm]
    · exact List.mem_cons

theorem mem_sortSplits {x : Split} {l : List Split} : x ∈ sortSplits l ↔ x ∈ l := by
  induction l with
  | nil => rfl
  | cons z l ih => exact mem_insertSplit.trans ((or_congr_right ih).trans List.mem_cons.symm)

/-- The splits of a group with the one parked that is too many: the same, but for a Hold bit. -/
theorem Group.mem_parkExtra (g : Group) :
    (∀ z ∈ g.parkExtra.active ++ g.parkExtra.parked, ∃ y ∈ g.active ++ g.parked, ∃ b, z = { y with hold := b }) ∧
    (∀ y ∈ g.active ++ g.parked, ∃ z ∈ g.parkExtra.active ++ g.parkExtra.parked, ∃ b, z = { y with hold := b }) := by
  unfold Group.parkExtra
  split
  swap
  · exact ⟨fun z hz => ⟨z, hz, z.hold, rfl⟩, fun z hz => ⟨z, hz, z.hold, rfl⟩⟩
  split
  swap
  · exact ⟨fun z hz => ⟨z, hz, z.hold, rfl⟩, fun z hz => ⟨z, hz, z.hold, rfl⟩⟩
  next x hx =>
  have hxa : x ∈ g.active := mem_sortSplits.1 (List.mem_of_getLast? hx)
  constructor
  · intro z hz
    simp only [List.mem_append, List.mem_filter, List.mem_singleton] at hz
    rcases hz with hz | hz | rfl
    · exact ⟨z, List.mem_append_left _ hz.1, z.hold, rfl⟩
    · exact ⟨z, List.mem_append_right _ hz, z.hold, rfl⟩
    · exact ⟨x, List.mem_append_left _ hxa, false, rfl⟩
  · intro y hy
    by_cases e : y = x
    · exact ⟨{ x with hold := false }, by simp, false, by rw [e]⟩
    · refine ⟨y, ?_, y.hold, rfl⟩
      simp only [List.mem_append, List.mem_filter, List.mem_singleton] at hy ⊢
      exact hy.imp (fun h => ⟨h, by simpa using e⟩) .inl

/-! ### Blocks stop (R386) -/

theorem State.stopBlocks_spec (s : State) (t : Nat) : (s.stopBlocks t).tasks = s.tasks ∧ ∀ b ∈ (s.stopBlocks t).blocks, b.task ≠ t := by
  refine ⟨State.tasks_dropBlocks _ s, fun b hb e => ?_⟩
  obtain ⟨hm, hn⟩ := (State.foldl_dropBlock _ s).2 b hb
  exact hn (List.mem_filter.2 ⟨hm, by simpa using e⟩)

/-- A running task without a status ends with the one given. -/
theorem State.endTask_spec {u st : Nat} {t : Task} {c : BitVec 8} (ht : s.task? u = some t) (hp : t.run.phase = .running)
    (hs : t.run.status = 0) : (∀ y ∈ (s.endTask u st c).blocks, y.task ≠ u) ∧
      ∃ t', (s.endTask u st c).task? u = some t' ∧ t'.run.phase = .ending ∧ t'.run.status = st ∧ t'.run.cause = c := by
  obtain ⟨htasks, hblocks⟩ := s.stopBlocks_spec u
  have ht' : (s.stopBlocks u).task? u = some t := (State.task?_congr htasks u).trans ht
  unfold State.endTask
  simp only [ht']
  rw [if_neg (by simp [hp])]
  refine ⟨hblocks, _, State.task?_putTask_of (y := t.toEnd st c _) ht' rfl, ?_⟩
  unfold Task.toEnd Task.at_
  dsimp only
  split <;> exact ⟨rfl, if_pos (by simp [hs]), if_pos (by simp [hs])⟩

theorem State.abort_spec {b : Block} {t : Task} {f : FaultInfo} (double nohandler : Bool) (hb : s.block? g.block = some b)
    (ht : s.task? b.task = some t) (hp : t.run.phase = .running) (hs : t.run.status = 0) :
    (∀ y ∈ (s.abort g f double nohandler).blocks, y.task ≠ t.uid) ∧
      ∃ t', (s.abort g f double nohandler).task? t.uid = some t' ∧ t'.run.phase = .ending ∧ t'.run.status = 1 ∧
        t'.run.cause = f.cause := by
  have hu := State.uid_of_task? ht
  unfold State.abort
  simp only [hb, ht]
  exact State.endTask_spec ((State.task?_congr (State.sameLaunch_record _ _).tasks _).trans (hu ▸ ht)) hp hs

/-! ### Issue keeps what the handler entry noted (R382) -/

/-- The uid of a group, and what its handler noted at its entry. -/
def Group.entryNote (g : Group) : Nat × Option (FaultInfo × GWait × Nat) :=
  (g.uid, g.handler.map fun k => (k.fault, k.saved, k.sleep))

theorem Group.entryNote_of_handler {g' : Group} {k : Handler} (e : g'.entryNote = g.entryNote) (hk : g.handler = some k) :
    g'.uid = g.uid ∧ ∃ k', g'.handler = some k' ∧ k'.fault = k.fault ∧ k'.saved = k.saved ∧ k'.sleep = k.sleep := by
  obtain ⟨hu, hh⟩ := Prod.ext_iff.1 e
  simp only [Group.entryNote, hk, Option.map_some, Option.map_eq_some_iff, Prod.mk.injEq] at hh
  exact ⟨hu, hh⟩

theorem Group.entryNote_apply (g : Group) (w : Write) : (g.apply w).entryNote = g.entryNote := by
  cases w with
  | hflag i n =>
    unfold Group.apply
    dsimp only
    split
    · next k hk =>
      split
      · simp [Group.entryNote, hk]
      · rfl
    · rfl
  | _ => rfl

theorem Group.entryNote_landFlags (g : Group) (n : Nat) : (g.landFlags n).entryNote = g.entryNote := by
  have h (l : List Pend) (g : Group) : (l.foldl (fun g p => g.apply p.w) g).entryNote = g.entryNote := by
    induction l generalizing g with
    | nil => rfl
    | cons p l ih => exact (ih _).trans (g.entryNote_apply p.w)
  exact h _ g

theorem Group.entryNote_putFlags (g : Group) (n : BitVec 12) : (g.putFlags n).entryNote = g.entryNote := by
  unfold Group.putFlags
  split
  · next k hk => simp [Group.entryNote, hk]
  · rfl

theorem Group.entryNote_issue (g : Group) (h : Head) (now clk : Nat) (yld : Bool) (clear : Option Nat) :
    (g.issue h now clk yld clear).entryNote = g.entryNote := by
  unfold Group.issue
  extract_lets n g₁ g₂ g₃ g₄
  have h₂ : g₂.entryNote = g.entryNote := g.entryNote_landFlags now
  refine Eq.trans (b := g₄.entryNote) rfl ?_
  unfold g₄
  split
  · exact h₂
  · split <;> exact (g₂.entryNote_putFlags _).trans h₂

theorem State.group?_issued (hg : s.group? g.uid = some g) (op : Nat) (h : Head) (p : Payload) (clear : Option Nat) :
    ∃ g', (s.issued g.uid op h p clear).group? g.uid = some g' ∧ g'.entryNote = g.entryNote := by
  have hnote := g.entryNote_issue h s.now (s.ctxClk g) s.yld clear
  refine ⟨_, ?_, hnote⟩
  unfold State.issued
  simp only [hg]
  exact State.group?_putGroup hg (congrArg Prod.fst hnote)

/-! ### What a handler leaves behind it (R386) -/

theorem Group.Resplit.rteReq {g' : Group} (h : g.Resplit g') (f : FaultInfo) (skip : Bool) :
    (g.rteReq f skip).Resplit (g'.rteReq f skip) := by
  obtain ⟨a, p, r, rfl⟩ := h
  unfold Group.rteReq
  split
  · exact ⟨a, p, r, rfl⟩
  split
  · dsimp only
    split <;> exact ⟨a, p, r, rfl⟩
  · exact ⟨a, p, r, rfl⟩

/-- A group out of its handler, with its splits as they are. -/
def Group.quit (g : Group) (k : Handler) : Group := { g with handler := none, wait := k.saved, sleep := k.sleep }

theorem Group.resplit_leave (g : Group) (k : Handler) (skip : Bool) :
    ((g.quit k).rteReq k.fault (skip && !k.fault.fetch)).Resplit (g.leave k skip) := by
  refine Group.Resplit.trans ?_ (Group.resplit_settle _)
  exact (Group.Resplit.trans ⟨_, _, _, rfl⟩ (Group.resplit_restart _ _ _)).rteReq _ _

theorem Group.rteReq_none {f : FaultInfo} (h : f.req = none) (skip : Bool) : g.rteReq f skip = g := by
  unfold Group.rteReq
  rw [h]

theorem Group.rteReq_retry {f : FaultInfo} {n : Nat} (h : f.req = some n) :
    g.rteReq f false = { g with reqs := updIf (·.seq == n) (fun q => { q with st := .flying }) g.reqs } := by
  unfold Group.rteReq
  rw [h]
  rfl

theorem Group.rteReq_skip {f : FaultInfo} {n : Nat} (h : f.req = some n) :
    let fl := ((g.reqs.find? (·.seq == n)).map (·.flag)).getD 0
    g.rteReq f true = { g with reqs := g.reqs.filter (·.seq != n), wait := if g.wait == .wcnt n then .none else g.wait
                               flags := if fl = 0 then g.flags else g.flags &&& ~~~BitVec.twoPow 12 (fl - 1) } := by
  intro fl
  unfold Group.rteReq
  rw [h]
  dsimp only
  by_cases hz : fl = 0
  · rw [if_pos hz, if_pos (beq_iff_eq.2 hz)]
    rfl
  · rw [if_neg hz, if_neg (hz <| beq_iff_eq.1 ·)]
    rfl

end Sys2Proof.Machine

namespace Sys2Proof.Claims

open Sys2Proof.Machine

/-- Settles O27: the group that is put in the place of the faulting one has its splits and a handler with the noted fault. -/
theorem faultEntersTheHandler : Obligations.FaultEntersTheHandler := by
  intro s g b p entry lo len f hb hp hentry hout hg
  obtain ⟨a, q, e⟩ := g.parkExtra_spec
  have hin : g.inHandler = false := inHandler_eq_false.2 hout
  unfold State.takeFault
  simp only [hin, hb, hp, hentry, Option.bind_some, Bool.false_eq_true, if_false]
  refine ⟨_, _, State.group?_putGroup hg (by rw [e]), rfl, rfl, rfl, fun h => ?_, ?_⟩
  · simp only [Group.parkExtra_of_le h, and_self]
  · simp only [e, handlerStart, Handler.reg, maskWord, true_and]

/-- Settles O28: in a handler and without one the fault aborts, and the end of the task removes its blocks. -/
theorem faultWithoutHandlerAborts : Obligations.FaultWithoutHandlerAborts := by
  intro s g b t f hb ht hp hs hno
  unfold State.takeFault
  split
  · exact State.abort_spec _ _ hb ht hp hs
  next hin =>
  have hnone : ((s.block? g.block).bind fun b => (s.part? b.part).bind (·.handler)) = none := by
    have hno := hno.resolve_left fun h => hin (inHandler_eq_true.2 h)
    rw [hb, Option.bind_some, Option.bind_eq_none_iff]
    exact hno
  rw [hnone]
  exact State.abort_spec _ _ hb ht hp hs

theorem returnFromHandler : ReturnFromHandler := by
  intro s g k h a hk hr s1
  obtain ⟨g1, hg1, hnote⟩ : ∃ g1, s1.group? g.uid = some g1 ∧ g1.entryNote = g.entryNote := State.group?_issued hr.group? _ h _ none
  obtain ⟨hu, k1, hk1, hf, hsv, hsl⟩ := Group.entryNote_of_handler hnote hk
  refine ⟨g1, k1, s1.rte g1 k1 a.imm.toNat, hg1, hk1, hf, hsv, hsl, hr.done rfl rfl ?_, fun hi => ?_, fun hi => ?_, fun hi hnone => ?_,
    fun hi n q hn hq => ?_⟩
  · simp only [show (s.issued g.uid 0xD5 h (.x a) none).group? g.uid = some g1 from hg1, hk1]
    rfl
  all_goals rw [hi, State.rte, hu, hf]
  · rfl
  · split
    · contradiction
    · split <;> rfl
  · have hnone : (k.fault.req.bind fun n => g1.reqs.find? (·.seq == n)) = none := by
      rw [Option.bind_eq_none_iff]
      exact fun n hn => Option.eq_none_iff_forall_ne_some.2 (hnone n · hn)
    rw [hnone]
    rfl
  · rw [hn, Option.bind_some, hq]
    rfl

theorem leavingRestoresTheSplits : LeavingRestoresTheSplits := by
  intro f x skip y
  unfold y rteSplit
  refine ⟨?_, ?_, ?_, fun h => if_pos (by simpa [or_assoc] using h), fun hd hf hm => ?_⟩
  iterate 3 split_ifs <;> rfl
  rw [if_neg (by simp [hd, hf, hm])]
  refine ⟨fun h => by simp [h], fun h => ?_⟩
  simp only [h, Bool.false_eq_true, if_false]
  split
  · next e =>
    obtain ⟨hpc, hhi⟩ := by simpa using e
    exact ⟨hpc, hhi, fun _ _ => rfl⟩
  · next e => exact ⟨rfl, rfl, fun hpc hhi => absurd (by simp [hpc, hhi]) e⟩

theorem leavingRestartsLostLanes : LeavingRestartsLostLanes := by
  intro g f skip m old y hd hf hne ⟨z0, hz0, hz0m⟩
  obtain ⟨x0, hx0⟩ := Option.isSome_iff_exists.1
    ((List.find?_isSome (p := fun y : Split => y.mask &&& m != 0)).2 ⟨z0, hz0, by simpa using hz0m⟩)
  let rest (l : List Split) : List Split := (l.map fun z => { z with mask := z.mask &&& ~~~m }).filter (·.mask != 0)
  have hrest {l : List Split} {z : Split} : z ∈ rest l ↔ ∃ x ∈ l, { x with mask := x.mask &&& ~~~m } = z ∧ z.mask ≠ 0 := by
    simp [rest]
    grind
  let x1 : Split := { x0 with pc := if skip then f.next else f.fpc, hi := 0, mask := m, hold := false, fetched := false
                              last := if skip then some f.fpc else x0.last }
  have hy : y = Group.parkExtra { g with active := rest g.active ++ [x1], parked := rest g.parked } := by
    have hm : m ≠ 0 := by rintro e; simp [e] at hz0m
    have hany : (g.active ++ g.parked).any (·.mask == f.mask) = false := by simpa [old, or_imp, forall_and] using hne
    unfold y Group.restart
    extract_lets m'
    rw [if_neg (by simpa [hd, hf, hany] using hm), hx0]
  have hmem {z : Split} : z ∈ (rest g.active ++ [x1]) ++ rest g.parked ↔ z = x1 ∨ z ∈ rest old := by
    simp only [List.mem_append, List.mem_singleton, hrest, old]
    grind
  obtain ⟨hfrom, hto⟩ := Group.mem_parkExtra { g with active := rest g.active ++ [x1], parked := rest g.parked }
  obtain ⟨a, p, r, e⟩ := g.resplit_restart f skip
  refine ⟨?_, ?_, ?_, by simp [y, e]⟩
  · obtain ⟨z, hz, b, rfl⟩ := hto x1 (hmem.2 (.inl rfl))
    exact ⟨_, hy ▸ hz, rfl, rfl, rfl⟩
  · rw [hy]
    intro z hz
    obtain ⟨w, hw, b, rfl⟩ := hfrom z hz
    rcases hmem.1 hw with rfl | hw
    · exact .inl rfl
    · obtain ⟨x, hx, rfl, -⟩ := hrest.1 hw
      exact .inr ⟨x, hx, rfl, rfl, rfl⟩
  · rw [hy]
    intro x hx hxm
    obtain ⟨z, hz, b, rfl⟩ := hto _ (hmem.2 (.inr (hrest.2 ⟨x, hx, rfl, hxm⟩)))
    exact ⟨_, hz, rfl, rfl⟩

theorem leavingAnswersTheRequest : LeavingAnswersTheRequest := by
  intro g k skip y
  obtain ⟨_, _, _, e⟩ := g.resplit_leave k skip
  unfold y
  rw [e]
  cases hn : k.fault.req with
  | none =>
    rw [Group.rteReq_none hn]
    exact ⟨rfl, rfl, rfl, rfl, rfl, rfl, fun _ => ⟨rfl, rfl, rfl⟩, fun n hn => nomatch hn⟩
  | some m =>
    cases hb : skip && !k.fault.fetch with
    | false =>
      rw [Group.rteReq_retry hn]
      refine ⟨rfl, rfl, rfl, rfl, rfl, rfl, nofun, fun n hm hf => ⟨fun _ => ⟨rfl, rfl, ?_⟩, fun hs => ?_⟩⟩
      · exact Option.some.inj hm ▸ rfl
      · simp [hs, hf] at hb
    | true =>
      rw [Group.rteReq_skip hn]
      refine ⟨rfl, rfl, rfl, rfl, rfl, rfl, nofun, fun n hm hf => ⟨fun hs => ?_, fun hs => ?_⟩⟩
      · simp [hs] at hb
      · obtain rfl := Option.some.inj hm
        refine ⟨rfl, by simp [Group.quit], fun q hq => ?_⟩
        simp only [Group.quit, hq, Option.map_some, Option.getD_some]

/-- Settles O29: the state at issue keeps what the handler noted, and leaving it changes splits, the kept request and its flag. -/
theorem handlerReturn : Obligations.HandlerReturn :=
  ⟨returnFromHandler, leavingRestoresTheSplits, leavingRestartsLostLanes, leavingAnswersTheRequest⟩

end Sys2Proof.Claims
end

section
/-! SUPPORT. How commands complete (R433, R434, R440) and what refuses them before their own checks (R436, R437, R503). -/

namespace Sys2Proof.Machine

/-- The function whose command has completed (R433, R440). -/
def Fn.finished (x : Fn) : Fn :=
  let y := { x with cmdHead := x.cmdHead + 1, cmdErr := x.cmdErr || x.cmdTail == x.cmdHead }
  if y.intctl.getLsbD 16 then y.raise 0 else y

theorem Fn.finished_eq (x : Fn) : Fn.finished x =
    { x with cmdHead := x.cmdHead + 1
             cmdErr := x.cmdErr || x.cmdTail == x.cmdHead
             raised := x.raised ++ if x.intctl.getLsbD 16 then [0] else [] } := by
  unfold Fn.finished
  dsimp only
  split
  · rfl
  · rw [List.append_nil]

end Sys2Proof.Machine

namespace Sys2Proof.Claims

open Sys2Proof.Machine

variable {s : State} {e : Nat}

theorem finishCmd_eq {f : Nat} {c : Dword} {rest : List (Nat × Dword)} (hq : s.cmdq = (f, c) :: rest) (status : Nat) (result : Dword) :
    s.finishCmd status result =
      { (s.hostWrite f ((s.fn f).entryAddr c + 48) (bytesOf 2 status ++ List.replicate 6 0 ++ bytesOf 8 result.toNat)).putFn f
          (Fn.finished (s.fn f)) with cmdq := rest, fleet := { s.fleet with busy := false } } := by
  unfold State.finishCmd
  rw [hq]
  rfl

/-- Settles O46: the entry is written, the function is put back with its head advanced, and the queue loses its first command. -/
theorem commandCompletion : Obligations.CommandCompletion := by
  intro s f c rest status result hq
  rw [finishCmd_eq hq]
  refine ⟨?_, (getKey_setKey ..).trans (Fn.finished_eq _), fun e he => getKey_setKey_of_ne _ he _ _, ?_⟩
  · simp only [State.putFn, State.hostWrite, hostAddr, Fn.entryAddr, Nat.add_assoc]
  · simp only [State.putFn, State.hostWrite]

/-! ### The check that a command begins with (R436, R503) -/

/-- A command begins with a check: it is refused with the status that this gives. -/
def Begins (s : State) (check : Except Nat Nat) (i : Instr) : Prop :=
  ∃ f : Nat → Host.Outcome State Fault Refusal, exec i s = match check with
    | .error e => s.refuse e
    | .ok n => f n

section
variable {i : Instr} {check : Except Nat Nat} {who : From} {ok : Bool}

theorem Begins.refused (h : Begins s check i) (hc : check = .error e) : exec i s = .next (s.finishCmd e 0) := by
  obtain ⟨f, hf⟩ := h
  rw [hf, hc]
  rfl

theorem Begins.of_not_thermhalt (h : Begins s (s.entitled who ok) i) (ht : s.fleet.thermhalt = false) (hok : ok = true) :
    Begins s (s.issuer who true) i := by
  rwa [State.entitled, ht, hok] at h

end

/-- The commands that THERMHALT refuses. -/
theorem begins_entitled (s : State) : ∀ i ∈ [Instr.portConfig, .partCreate, .partDestroy, .partResize, .setHandler, .setPmc, .ctxCreate,
    .ctxDestroy, .queueCreate, .queueDestroy, .map, .unmap, .map2, .invalCommand, .imageLoad, .imagePolicy, .keyEnroll, .faultReplay,
    .faultDecline, .debugAttach, .debugDetach, .debugResume, .debugWindow, .aperture], ∃ who ok, Begins s (s.entitled who ok) i := by
  simp only [List.forall_mem_cons, List.not_mem_nil, false_implies, implies_true, and_true]
  and_intros
  all_goals exact ⟨_, _, _, rfl⟩

section
variable (ht : s.fleet.thermhalt = false) (h1 : s.cmd.a1 = 0) (h2 : s.cmd.a2 = 0) (h3 : s.cmd.a3 = 0) (h4 : s.cmd.a4 = 0)
include ht h1 h2 h3 h4

/-- The commands of PF0, with no argument that they do not define. -/
theorem begins_pf0 : ∀ i ∈ [Instr.portConfig, .partCreate, .partDestroy, .partResize, .setPmc, .map2, .imagePolicy, .keyEnroll],
    Begins s (s.issuer .pf0 true) i := by
  simp only [List.forall_mem_cons, List.not_mem_nil, false_implies, implies_true, and_true]
  and_intros
  all_goals exact Begins.of_not_thermhalt ⟨_, rfl⟩ ht (by simp [h1, h2, h3, h4, fld])

/-- The commands of a VF. -/
theorem begins_vf : ∀ i ∈ [Instr.setHandler, .ctxCreate, .ctxDestroy, .queueCreate, .queueDestroy, .map, .unmap, .imageLoad, .faultReplay,
    .faultDecline, .debugAttach, .debugDetach, .debugResume, .debugWindow, .aperture], Begins s (s.issuer .vf true) i := by
  simp only [List.forall_mem_cons, List.not_mem_nil, false_implies, implies_true, and_true]
  and_intros
  all_goals exact Begins.of_not_thermhalt ⟨_, rfl⟩ ht (by simp [h1, h2, h3, h4, fld])

end

theorem begins_identify (s : State) : ∃ ok, Begins s (s.issuer .any ok) .identify := ⟨_, _, rfl⟩
theorem begins_measureLog (s : State) :
    Begins s (s.issuer .any (s.cmd.a2 == 0 && s.cmd.a3 == 0 && s.cmd.a4 == 0)) .measureLog := ⟨_, rfl⟩
theorem begins_setOp (s : State) :
    Begins s (s.issuer .pf0 (s.cmd.a1 == 0 && s.cmd.a2 == 0 && s.cmd.a3 == 0 && s.cmd.a4 == 0)) .setOp := ⟨_, rfl⟩
theorem begins_invalCommand (s : State) : Begins s (s.entitled .any (s.cmd.a3 == 0 && s.cmd.a4 == 0)) .invalCommand := ⟨_, rfl⟩

theorem issuer_of_rsvd (hr : s.cmd.rsvd = true) (who : From) (ok : Bool) : s.issuer who ok = .error 2 := by
  simp [State.issuer, hr]

/-- Settles O47: each refusal is the status that the check gives which the command begins with. -/
theorem commandRefusals : Obligations.CommandRefusals := by
  intro s
  refine ⟨rfl, fun ht hr i hi => ?_, fun hr => ⟨?_, ?_, ?_⟩, fun ht hb i hi => ?_, fun ht hr hf h1 h2 h3 h4 => ?_,
    fun ht hr h1 h2 h3 h4 => ⟨fun hf hp => ?_, fun i hi => ?_⟩⟩
  · have hi := ((List.perm_middle (l₁ := [_, _, _, _, _, _, _, _, _, _, _, _, _, _])).append_left [_, _, _, _]).mem_iff.1 hi
    obtain ⟨who, ok, h⟩ := begins_entitled s i hi
    exact h.refused (by rw [State.entitled, ht, issuer_of_rsvd hr]; rfl)
  · obtain ⟨ok, h⟩ := begins_identify s
    exact h.refused (issuer_of_rsvd hr _ _)
  · exact (begins_measureLog s).refused (issuer_of_rsvd hr _ _)
  · exact (begins_setOp s).refused (issuer_of_rsvd hr _ _)
  · obtain ⟨who, ok, h⟩ := begins_entitled s i hi
    exact h.refused (by simp [State.entitled, ht, hb])
  · have hc : s.issuer .pf0 true = .error 3 := by simp [State.issuer, hr, hf, stNotPermitted]
    refine List.forall_mem_append (l₁ := [_, _, _, _, _, _, _, _]).2 ⟨fun i hi => (begins_pf0 ht h1 h2 h3 h4 i hi).refused hc, ?_⟩
    exact List.forall_mem_singleton.2 ((begins_setOp s).refused (by rw [h1, h2, h3, h4]; exact hc))
  · have hp : s.cmd.pv = false → ¬ s.cmd.part = 0#3 := fun hv => hp.resolve_left (by simp [hv])
    have hc : s.issuer .pf0 true = .error 2 := by simpa [State.issuer, hr, hf, stBadArg] using hp
    have ha : s.issuer .any true = .error 2 := by simpa [State.issuer, hr, stBadArg] using hp
    refine List.forall_mem_append (l₁ := [_, _, _, _, _, _, _, _]).2 ⟨fun i hi => (begins_pf0 ht h1 h2 h3 h4 i hi).refused hc, ?_⟩
    simp only [List.forall_mem_cons, List.not_mem_nil, false_implies, implies_true, and_true]
    exact ⟨(begins_setOp s).refused (by rw [h1, h2, h3, h4]; exact hc), (begins_measureLog s).refused (by rw [h2, h3, h4]; exact ha),
      (begins_invalCommand s).refused (by rw [State.entitled, ht, h3, h4]; exact ha)⟩
  · have h := begins_vf ht h1 h2 h3 h4 i hi
    refine ⟨fun hf hv => h.refused ?_, fun hf hv hn => h.refused ?_, fun hf hp => h.refused ?_, fun hf hv hp hn => h.refused ?_⟩
    · simp [State.issuer, hr, hf, hv, stNotPermitted]
    · simp [State.issuer, hr, hf, hv, hn]
    · have hp : s.cmd.pv = true ∨ ¬ s.cmd.part = 0#3 := hp
      rcases hp with hp | hp <;> simp [State.issuer, hr, hf, hp]
    · simp [State.issuer, hr, hf, hv, hp, hn]

end Sys2Proof.Claims
end

section
/-! SUPPORT. The registers of a function, its rings, its doorbells and its aperture (R430 to R433, R438 to R441, R502). -/

namespace Sys2Proof.Machine

/-! ### What these instructions execute -/

theorem exec_bar4Access (fn off n : Nat) (data : Option (List Byte)) (s : State) :
    exec (.bar4Access fn off n data) s = execBar4Access fn off n data s := rfl
theorem exec_cmdtail (fn : Nat) (x : Dword) (s : State) : exec (.cmdtail fn x) s = execCmdtail fn x s := rfl
theorem exec_doorbell (fn off : Nat) (x : Dword) (s : State) : exec (.doorbell fn off x) s = execDoorbell fn off x s := rfl
theorem exec_eventStoreDrain (fn : Nat) (s : State) : exec (.eventStoreDrain fn) s = execEventStoreDrain fn s := rfl

theorem Fn.write_cmdBase (f : Fn) (x : Dword) :
    f.write 0x10 x = if f.cmdTail = f.cmdHead ∧ x.toNat % 4096 = 0 then { f with cmdBase := x } else f := by
  simp [Fn.write, Fn.cmdEmpty]

theorem Fn.write_cmdSize (f : Fn) (x : Dword) :
    f.write 0x18 x = if f.cmdTail = f.cmdHead ∧ (x = 0 ∨ 4 ≤ x.toNat ∧ x.toNat ≤ 12) then { f with cmdSize := x } else f := by
  simp [Fn.write, Fn.cmdEmpty, ← BitVec.toNat_inj]

theorem Fn.write_evtBase (f : Fn) (x : Dword) :
    f.write 0x30 x = if f.evtTail = f.evtHead ∧ x.toNat % 4096 = 0 then { f with evtBase := x } else f := by
  simp [Fn.write, Fn.evtEmpty]

theorem Fn.write_evtSize (f : Fn) (x : Dword) :
    f.write 0x38 x = if f.evtTail = f.evtHead ∧ (x = 0 ∨ 6 ≤ x.toNat ∧ x.toNat ≤ 16) then { f with evtSize := x } else f := by
  simp [Fn.write, Fn.evtEmpty, ← BitVec.toNat_inj]

theorem Fn.write_other {off : Nat} (h : off ∉ [0x10, 0x18, 0x30, 0x38, 0x50]) (f : Fn) (x : Dword) : f.write off x = f := by
  simp only [List.mem_cons, List.not_mem_nil, or_false, not_or] at h
  simp [Fn.write, h]

end Sys2Proof.Machine

namespace Sys2Proof.Claims

open Sys2Proof.Machine

variable {s : State} {fn : Nat}

theorem fn_putFn (s : State) (fn : Nat) (f : Fn) : (s.putFn fn f).fn fn = f := getKey_setKey ..

/-! ### Registers (R431, R432) -/

theorem registerWrite_eq (he : s.fnExists fn = true) (off : Nat) (x : BitVec 64) :
    exec (.registerWrite fn off x) s = .next (s.putFn fn ((s.fn fn).write off x)) :=
  congrArg Host.Outcome.next (if_pos he)

theorem ignoredRegisterWrites : IgnoredRegisterWrites := by
  intro s fn x f base size same he
  have keeps {off : Nat} (h : f.write off x = f) : same off := (registerWrite_eq he off x).trans (by rw [h])
  exact ⟨fun h => keeps ((f.write_cmdBase x).trans (if_neg fun e => h.elim (· e.1) (· e.2))),
    fun h => keeps ((f.write_cmdSize x).trans (if_neg fun e => h.elim (· e.1) (· e.2))),
    fun h => keeps ((f.write_evtBase x).trans (if_neg fun e => h.elim (· e.1) (· e.2))),
    fun h => keeps ((f.write_evtSize x).trans (if_neg fun e => h.elim (· e.1) (· e.2)))⟩

/-- The bits of FWSTATE. -/
theorem fwState_fields (a b c d : Bool) (n : Fin 5) :
    let w := dw (a.toNat + 2 * b.toNat + 4 * c.toNat + 8 * d.toNat + 16 * n)
    w.getLsbD 0 = a ∧ w.getLsbD 1 = b ∧ w.getLsbD 2 = c ∧ w.getLsbD 3 = d ∧ w.extractLsb' 4 4 = BitVec.ofNat 4 n ∧
      w.extractLsb' 8 56 = 0 := by
  decide +revert

/-- Settles O51: the bits of FWSTATE, a register that no write reaches, and the state after reset. -/
theorem firmwareStateAndReset : Obligations.FirmwareStateAndReset := by
  refine ⟨fun s fn h => fwState_fields _ _ _ _ ⟨s.fleet.op, by omega⟩, fun s fn x => ⟨_, rfl, ?_⟩, fun fn => ⟨rfl, ?_⟩,
    rfl, rfl, rfl, rfl, rfl, rfl⟩
  · split
    · change (s.putFn fn (s.fn fn)).fwState fn = s.fwState fn
      rw [State.fwState, fn_putFn]
      rfl
    · rfl
  · simp only [List.forall_mem_cons]
    exact ⟨rfl, rfl, rfl, rfl, rfl, rfl, rfl, nofun⟩

/-! ### The aperture (R430, R502) -/

theorem refusedApertureAccesses : RefusedApertureAccesses := by
  intro s fn off n data f refused he hop
  have hop : ¬ 4 ≤ s.fleet.op := by omega
  refine ⟨fun ha => ?_, fun part c base ha => ?_⟩
  · simp [exec_bar4Access, execBar4Access, he, show (s.fn fn).apert = none from ha, hop, refused]
  · intro va h
    simp only [exec_bar4Access, execBar4Access, he, show (s.fn fn).apert = some (part, c, base) from ha, hop, Bool.not_true,
      Bool.false_eq_true, if_false]
    split
    · rfl
    next hr =>
    rcases h.resolve_left hr with h | h | ⟨p, q, hp, hq, h⟩
    · simp only [show s.translate part c (base + off) = none from h]
      rfl
    · simp only [show s.translate part c (base + off + n - 1) = none from h]
      cases s.translate part c (base + off) <;> rfl
    · simp only [show s.translate part c (base + off) = some p from hp, show s.translate part c (base + off + n - 1) = some q from hq]
      refine if_pos ?_
      rcases h with ⟨hd, hw⟩ | ⟨rfl, hr⟩ | hu
      · simp [Option.isSome_iff_ne_none.2 hd, hw]
      · simp [hr]
      · simp [hu]

/-- An access through an aperture that a page maps and permits, and whose home is there. -/
theorem bar4Access_ok {part c base off n : Nat} {p q : Page} (he : s.fnExists fn = true) (hop : s.fleet.op < 4)
    (ha : (s.fn fn).apert = some (part, c, base)) (hr : off + n ≤ 2 ^ 32) (hp : s.translate part c (base + off) = some p)
    (hq : s.translate part c (base + off + n - 1) = some q) (hpa : q.pa = p.pa + n - 1) (hu : s.homeUp p = true)
    (data : Option (List (BitVec 8))) (hok : (if data.isSome then p.write && q.write else p.read && q.read) = true) :
    exec (.bar4Access fn off n data) s = .next
      (match data with
      | none => s.putFn fn { s.fn fn with reply := some (s.homeRead part p.pa n) }
      | some b => ((s.homeWrite part p.pa (b.take n)).cleanSectors p.pa n).putFn fn { s.fn fn with reply := some [] }) := by
  simp only [exec_bar4Access, execBar4Access, he, ha, hp, hq, hok, hpa, hu, Nat.not_le.2 hop, Nat.not_lt.2 hr, Bool.not_true, Bool.false_eq_true,
    if_false, beq_self_eq_true, Bool.and_true]
  cases data <;> rfl

/-! ### The command ring (R433) -/

/-- The entries of a ring from one count to another. -/
def entries (fn : Nat) (a b : Dword) : List (Nat × Dword) := (List.range (b - a).toNat).map fun i => (fn, a + BitVec.ofNat 64 i)

theorem mem_entries {a b : Dword} {c : Nat × Dword} (h : c ∈ entries fn a b) : c.1 = fn ∧ (c.2 - a).toNat < (b - a).toNat := by
  obtain ⟨i, hi, rfl⟩ := List.mem_map.1 h
  have hi := List.mem_range.1 hi
  exact ⟨rfl, by bv_omega⟩

/-- The count after the last of the entries. -/
theorem getLast?_entries (fn : Nat) (a b : Dword) :
    (entries fn a b).getLast? = none ∧ a = b ∨ ∃ c, (entries fn a b).getLast? = some c ∧ c.2 + 1 = b := by
  unfold entries
  cases hn : (b - a).toNat with
  | zero => exact .inl ⟨rfl, by bv_omega⟩
  | succ n => exact .inr ⟨(fn, a + BitVec.ofNat 64 n), by simp [List.range_succ], by bv_omega⟩

/-- The entries before a count among them. -/
theorem filter_entries {a b x : Dword} (h : (x - a).toNat ≤ (b - a).toNat) :
    (entries fn a b).filter (fun c => !(c.1 == fn && decide ((x - a).toNat ≤ (c.2 - a).toNat))) = entries fn a x := by
  unfold entries
  rw [List.filter_map]
  have hp : ∀ i ∈ List.range (b - a).toNat,
      ((fun c : Nat × Dword => !(c.1 == fn && decide ((x - a).toNat ≤ (c.2 - a).toNat))) ∘ fun i => (fn, a + BitVec.ofNat 64 i)) i =
        decide (i < (x - a).toNat) := by
    intro i hi
    have hi := List.mem_range.1 hi
    have : (a + BitVec.ofNat 64 i - a).toNat = i := by bv_omega
    simp only [Function.comp, beq_self_eq_true, Bool.true_and, this, ← decide_not, Nat.not_le]
  rw [List.filter_congr hp]
  obtain ⟨d, hd⟩ := Nat.exists_eq_add_of_le h
  rw [hd, List.range_add, List.filter_append, List.filter_eq_self.2 (by simp [-BitVec.toNat_sub]), List.filter_eq_nil_iff.2 (by simp [-BitVec.toNat_sub]),
    List.append_nil]

/-- A write of CMDTAIL in range, by the entries that it keeps: those after them up to the new tail are handed over. -/
theorem cmdtail_eq {x z : Dword} {old : List (Nat × Dword)} (he : s.fnExists fn = true) (herr : (s.fn fn).cmdErr = false)
    (hsz : (s.fn fn).cmdSize ≠ 0) (hin : (x - (s.fn fn).cmdHead).toNat ≤ 2 ^ (s.fn fn).cmdSize.toNat)
    (hold : s.cmdq.take s.fleet.busy.toNat ++ (s.cmdq.drop s.fleet.busy.toNat).filter
      (fun c => !(c.1 == fn && decide ((x - (s.fn fn).cmdHead).toNat ≤ (c.2 - (s.fn fn).cmdHead).toNat))) = old)
    (hz : old.filter (·.1 == fn) = entries fn (s.fn fn).cmdHead z) (hn : (x - z).toNat ≤ 2 ^ (s.fn fn).cmdSize.toNat) :
    exec (.cmdtail fn x) s = .next { s.putFn fn { s.fn fn with cmdTail := x } with cmdq := old ++ entries fn z x } := by
  have hsz : ((s.fn fn).cmdErr || (s.fn fn).cmdSize == 0) = false := by simpa [herr] using hsz
  simp only [exec_cmdtail, execCmdtail, he, hsz, Nat.not_lt.2 hin, hold, hz, Bool.not_true, Bool.false_eq_true, if_false]
  rcases getLast?_entries fn (s.fn fn).cmdHead z with ⟨e, rfl⟩ | ⟨c, e, rfl⟩
  · simp only [e, if_pos hn]
    rfl
  · simp only [e, if_pos hn]
    rfl

/-- The entries that a tail moved on keeps: all. -/
theorem cmdtail_on {x : Dword} (hq : s.cmdq.filter (fun c => c.1 == fn) = entries fn (s.fn fn).cmdHead (s.fn fn).cmdTail)
    (h : ((s.fn fn).cmdTail - (s.fn fn).cmdHead).toNat ≤ (x - (s.fn fn).cmdHead).toNat) (n : Nat) :
    s.cmdq.take n ++ (s.cmdq.drop n).filter
      (fun c => !(c.1 == fn && decide ((x - (s.fn fn).cmdHead).toNat ≤ (c.2 - (s.fn fn).cmdHead).toNat))) = s.cmdq := by
  rw [List.filter_eq_self.2, List.take_append_drop]
  intro c hc
  by_cases hf : c.1 = fn
  · have hm : c ∈ s.cmdq.filter (fun c => c.1 == fn) := List.mem_filter.2 ⟨List.mem_of_mem_drop hc, by simpa using hf⟩
    have hlt := (mem_entries (hq ▸ hm)).2
    have : ¬ (x - (s.fn fn).cmdHead).toNat ≤ (c.2 - (s.fn fn).cmdHead).toNat := by omega
    simp [-BitVec.toNat_sub, this]
  · simp [hf]

/-- A tail moved back, with no command in execution: the entries from it on are taken back. -/
theorem cmdtail_back {x : Dword} (he : s.fnExists fn = true) (herr : (s.fn fn).cmdErr = false) (hsz : (s.fn fn).cmdSize ≠ 0)
    (hb : s.fleet.busy = false) (hin : (x - (s.fn fn).cmdHead).toNat ≤ 2 ^ (s.fn fn).cmdSize.toNat)
    (hq : s.cmdq.filter (fun c => c.1 == fn) = entries fn (s.fn fn).cmdHead (s.fn fn).cmdTail)
    (h : (x - (s.fn fn).cmdHead).toNat ≤ ((s.fn fn).cmdTail - (s.fn fn).cmdHead).toNat) :
    ∃ q, exec (.cmdtail fn x) s = .next { s.putFn fn { s.fn fn with cmdTail := x } with cmdq := q } ∧
      q.filter (fun c => c.1 == fn) = entries fn (s.fn fn).cmdHead x ∧
      q.filter (fun c => c.1 != fn) = s.cmdq.filter (fun c => c.1 != fn) := by
  let keep (c : Nat × Dword) : Bool := !(c.1 == fn && decide ((x - (s.fn fn).cmdHead).toNat ≤ (c.2 - (s.fn fn).cmdHead).toNat))
  have hmine : (s.cmdq.filter keep).filter (fun c => c.1 == fn) = entries fn (s.fn fn).cmdHead x := by
    rw [List.filter_comm, hq]
    exact filter_entries h
  have hnone : entries fn x x = [] := by simp [entries]
  refine ⟨s.cmdq.filter keep, ?_, hmine, ?_⟩
  · have e := cmdtail_eq he herr hsz hin (old := s.cmdq.filter keep) (by rw [hb]; rfl) hmine (by simp)
    rwa [hnone, List.append_nil] at e
  · rw [List.filter_filter]
    refine List.filter_congr fun c _ => ?_
    by_cases hf : c.1 = fn <;> simp [keep, hf]

theorem cmdtail_out {x : Dword} (he : s.fnExists fn = true) (herr : (s.fn fn).cmdErr = false) (hsz : (s.fn fn).cmdSize ≠ 0)
    (hb : s.fleet.busy = false) (hout : 2 ^ (s.fn fn).cmdSize.toNat < (x - (s.fn fn).cmdHead).toNat) :
    exec (.cmdtail fn x) s = .next { s.putFn fn { s.fn fn with cmdTail := x, cmdErr := true } with
      cmdq := s.cmdq.filter (fun c => c.1 != fn) } := by
  have hsz : ((s.fn fn).cmdErr || (s.fn fn).cmdSize == 0) = false := by simpa [herr] using hsz
  simp only [exec_cmdtail, execCmdtail, he, hsz, hout, hb, Bool.not_true, Bool.false_eq_true, if_false, if_true]
  rfl

theorem cmdtail_stopped {x : Dword} (he : s.fnExists fn = true) (h : (s.fn fn).cmdErr = true ∨ (s.fn fn).cmdSize = 0) :
    exec (.cmdtail fn x) s = .next (s.putFn fn { s.fn fn with cmdTail := x }) := by
  have h : ((s.fn fn).cmdErr || (s.fn fn).cmdSize == 0) = true := by simpa using h
  simp only [exec_cmdtail, execCmdtail, he, h, Bool.not_true, Bool.false_eq_true, if_false, if_true]

/-- What a write of CMDTAIL leaves at the head of the queue: a command in execution. -/
theorem cmdtail_head (s : State) (fn : Nat) (x : Dword) :
    ∃ t, exec (.cmdtail fn x) s = .next t ∧ (s.fleet.busy = true → s.cmdq ≠ [] → t.cmdq.head? = s.cmdq.head?) := by
  have keep {l : List (Nat × Dword)} (hb : s.fleet.busy = true) (hq : s.cmdq ≠ []) :
      (s.cmdq.take s.fleet.busy.toNat ++ l).head? = s.cmdq.head? := by
    rw [hb]
    cases h : s.cmdq with
    | nil => exact absurd h hq
    | cons c r => rfl
  simp only [exec_cmdtail, execCmdtail]
  split
  · exact ⟨_, rfl, fun _ _ => rfl⟩
  split
  · exact ⟨_, rfl, fun _ _ => rfl⟩
  split
  · exact ⟨_, rfl, keep⟩
  · exact ⟨_, rfl, fun hb hq => by rw [List.append_assoc]; exact keep hb hq⟩

/-! ### Doorbells (R438, R439) -/

theorem doorbell_eq {c q : Nat} (he : s.fnExists fn = true) (hf : fn ≠ 0) (hc : c < 64) (hq : q < 512) (x : Dword) :
    exec (.doorbell fn (4096 * c + 8 * q) x) s =
      let t := s.ring (fn - 1) c q x.toNat
      .next (t.ctxs.foldl (fun t k => t.reWait k.part k.num) t) := by
  have hoff : (fn == 0 || !s.fnExists fn || decide (262144 ≤ 4096 * c + 8 * q) || (4096 * c + 8 * q) % 8 != 0) = false := by
    simp [hf, he]
    omega
  have hctx : (4096 * c + 8 * q) / 4096 = c := by omega
  have hque : (4096 * c + 8 * q) % 4096 / 8 = q := by omega
  simp only [exec_doorbell, execDoorbell, hoff, hctx, hque, Bool.false_eq_true, if_false]

/-- What a doorbell does to a host queue that runs. -/
theorem ring_eq {p c q : Nat} {y : Queue} (hy : s.queue? p c q = some y) (hd : y.dev = false) (hs : y.stopped = false) (T : Nat) :
    let ahead := (dw T - dw y.head).toNat
    s.ring p c q T =
      if y.slots < ahead ∨ ahead < y.tail - y.head then (s.putQueue { y with stopped := true }).queueError p c q
      else s.putQueue { y with tail := y.head + ahead } := by
  simp [State.ring, hy, Option.filter, hd, hs]

/-! ### Interrupts held (R440) -/

theorem foldl_raise (now : Nat) (l : List (Nat × Nat)) (f : Fn) :
    ∃ sent, l.foldl (fun f d => { f.raise d.1 with sentAt := setKey d.1 now f.sentAt }) f =
        { f with raised := f.raised ++ l.map (·.1), sentAt := sent } ∧
      ∀ v, getKey 0 v sent = if v ∈ l.map (·.1) then now else getKey 0 v f.sentAt := by
  induction l generalizing f with
  | nil => exact ⟨f.sentAt, by simp, by simp⟩
  | cons d l ih =>
    obtain ⟨sent, e, hs⟩ := ih { f.raise d.1 with sentAt := setKey d.1 now f.sentAt }
    refine ⟨sent, e.trans (by simp [Fn.raise]), fun v => (hs v).trans ?_⟩
    by_cases hv : v = d.1
    · simp [hv, getKey_setKey]
    · simp only [getKey_setKey_of_ne _ hv, List.map_cons, List.mem_cons, hv, false_or]

/-! ### The host's side together -/

/-- Settles O43: the register, ring, doorbell, aperture and interrupt steps, each by its own rule. -/
theorem hostRegistersRingsAndAperture : Obligations.HostRegistersRingsAndAperture := by
  refine ⟨ignoredRegisterWrites, refusedApertureAccesses, ?_⟩
  intro s fn x f he
  have write {off : Nat} {y : Fn} (h : f.write off x = y) : exec (.registerWrite fn off x) s = .next (s.putFn fn y) :=
    (registerWrite_eq he off x).trans (by rw [h])
  refine ⟨fun hq hx => write ((f.write_cmdBase x).trans (if_pos ⟨hq, hx⟩)), fun hq hx => write ((f.write_evtBase x).trans (if_pos ⟨hq, hx⟩)),
    fun hq hx => write ((f.write_cmdSize x).trans (if_pos ⟨hq, hx⟩)), fun hq hx => write ((f.write_evtSize x).trans (if_pos ⟨hq, hx⟩)),
    write rfl, fun off ho => write (Fn.write_other ho f x), ?_, ?_, ?_, cmdtail_head s fn x,
    congrArg Host.Outcome.next (if_pos he), ?_, ?_, ?_, ?_, ?_⟩
  · intro ent herr hsz hq hin
    refine ⟨fun h => cmdtail_eq he herr hsz hin (cmdtail_on hq h _) hq (Nat.le_trans ?_ hin), fun h hb =>
      cmdtail_back he herr hsz hb hin hq h⟩
    bv_omega
  · exact fun herr hsz hb hout => cmdtail_out he herr hsz hb hout
  · exact cmdtail_stopped he
  · intro c q y hf hc hq hy hd hs looked ahead
    refine ⟨fun h₁ h₂ => ?_, fun h => ?_⟩
    · rw [doorbell_eq he hf hc hq, ring_eq hy hd hs, if_neg (by omega)]
    · rw [doorbell_eq he hf hc hq, ring_eq hy hd hs, if_pos h]
  · intro part c base off n p q data hop ha hr hp hq hpa hu
    exact ⟨fun h₁ h₂ => bar4Access_ok he hop ha hr hp hq hpa hu none (by simp [h₁, h₂]),
      fun h₁ h₂ => bar4Access_ok he hop ha hr hp hq hpa hu (some data) (by simp [h₁, h₂])⟩
  · intro off n data hop
    simp [exec_bar4Access, execBar4Access, he, hop, f]
  · intro r t hs hr
    simp only [exec_eventStoreDrain, execEventStoreDrain, show (s.fn fn).store = r :: t from hs,
      show (s.fn fn).evtRoom = true from hr, if_true]
    rfl
  · obtain ⟨sent, e, hs⟩ := foldl_raise s.now (f.due.filter fun d => decide (d.2 ≤ s.now))
      { f with due := f.due.filter fun d => !decide (d.2 ≤ s.now) }
    refine ⟨sent, ?_, hs⟩
    refine (congrArg (fun y => Host.Outcome.next (s.putFn fn y)) e).trans ?_
    simp only [← decide_not, Nat.not_le]

end Sys2Proof.Claims
end

section
/-! SUPPORT. Records written (R441, R504); operating points, sensors, the side-band and SPDM (R485, R486, R500 to R505). -/

namespace Sys2Proof.Machine

variable {s : State}

/-! ### What these instructions execute -/

theorem exec_opTransitionDone (s : State) : exec .opTransitionDone s = execOpTransitionDone s := rfl
theorem exec_sensorRefresh (id : Nat) (v : Int) (s : State) : exec (.sensorRefresh id v) s = execSensorRefresh id v s := rfl
theorem exec_thermhalt (id : Nat) (s : State) : exec (.thermhalt id) s = execThermhalt id s := rfl
theorem exec_entdaa (s : State) : exec .entdaa s = execEntdaa s := rfl
theorem exec_mctpControl (s : State) : exec .mctpControl s = execMctpControl s := rfl
theorem exec_pldmSensorRead (s : State) : exec .pldmSensorRead s = execPldmSensorRead s := rfl
theorem exec_readErrlog (s : State) : exec .readErrlog s = execReadErrlog s := rfl
theorem exec_errlogInfo (s : State) : exec .errlogInfo s = execErrlogInfo s := rfl
theorem exec_getCertificate (s : State) : exec .getCertificate s = execGetCertificate s := rfl
theorem exec_challenge (s : State) : exec .challenge s = execChallenge s := rfl
theorem exec_getMeasurements (s : State) : exec .getMeasurements s = execGetMeasurements s := rfl

/-! ### What a record changes (R441, R504) -/

/-- A state that differs in what records are written to: the functions, the host's memory, the module's logs and counts. -/
def State.Logs (s t : State) : Prop := ∃ fns hmem fleet, t = { s with fns := fns, hmem := hmem, fleet := fleet }

theorem State.Logs.trans {t u : State} (h : s.Logs t) (k : t.Logs u) : s.Logs u := by
  obtain ⟨_, _, _, rfl⟩ := h
  obtain ⟨a, b, c, rfl⟩ := k
  exact ⟨a, b, c, rfl⟩

theorem State.logs_deliver (s : State) (f : Nat) (i : RecInfo) : s.Logs (s.deliver f i) := by
  unfold State.deliver
  dsimp only
  split
  · exact ⟨_, _, _, rfl⟩
  · split <;> exact ⟨_, _, _, rfl⟩

theorem State.logs_record (s : State) (i : RecInfo) : s.Logs (s.record i) := by
  refine State.Logs.trans (t := if logged i.type then { s with fleet := s.fleet.log i } else s) ?_ (State.logs_deliver _ _ _)
  split <;> exact ⟨_, _, _, rfl⟩

theorem State.mem_bad_poisonMem (s : State) (w : Nat) : w ∈ (s.poisonMem w).bad := by
  unfold State.poisonMem
  dsimp only
  split
  · next h => simpa using h
  · simp

theorem State.mem_poisonMem (s : State) (w : Nat) : (s.poisonMem w).mem = s.mem := by
  unfold State.poisonMem
  dsimp only
  split <;> rfl

end Sys2Proof.Machine

namespace Sys2Proof.Claims

open Sys2Proof.Machine

variable {s : State}

/-! ### Operating points and sensors (R501 to R503, R505) -/

theorem opTransitionDone_eq {n : Nat} (h : s.fleet.opTarget = some n) (hn : n ≠ 5) (ho : s.fleet.op ≠ 5) :
    exec .opTransitionDone s = .next
      (if s.fleet.op ≤ 2 ∧ 3 ≤ n then
        State.standStill { s with fleet := { s.fleet with op := 3, opTarget := if n = 3 then none else some n } }
      else if 3 ≤ s.fleet.op ∧ n ≤ 2 then State.goOnAll { s with fleet := { s.fleet with op := n, opTarget := none } }
      else { s with fleet := { s.fleet with op := n, opTarget := none } }) := by
  simp only [exec_opTransitionDone, execOpTransitionDone, h, beq_iff_eq, hn, ho, if_false, Bool.and_eq_true, decide_eq_true_eq]
  split <;> rfl

theorem opTransitions {n : Nat} (h : s.fleet.opTarget = some n) (hn : n ≠ 5) (ho : s.fleet.op ≠ 5) :
    let at_ (op : Nat) (next : Option Nat) : State := { s with fleet := { s.fleet with op := op, opTarget := next } }
    ((s.fleet.op ≤ 2 ↔ n ≤ 2) → exec .opTransitionDone s = .next (at_ n none)) ∧
      (s.fleet.op ≤ 2 → n = 3 → exec .opTransitionDone s = .next (at_ 3 none).standStill) ∧
      (s.fleet.op ≤ 2 → 3 < n → exec .opTransitionDone s = .next (at_ 3 (some n)).standStill) ∧
      (3 ≤ s.fleet.op → n ≤ 2 → exec .opTransitionDone s = .next (at_ n none).goOnAll) := by
  intro at_
  rw [opTransitionDone_eq h hn ho]
  refine ⟨fun hi => ?_, fun hl hn => ?_, fun hl hn => ?_, fun hl hn => ?_⟩
  · rw [if_neg (by omega), if_neg (by omega)]
  · rw [if_pos (by omega), if_pos hn]
  · rw [if_pos (by omega), if_neg (by omega)]
  · rw [if_neg (by omega), if_pos ⟨hl, hn⟩]

/-- A transition to OFF, and one out of it, leaves nothing but the error log of the module, and that is lost on the way to OFF. -/
theorem opTransitionDone_off {n : Nat} (h : s.fleet.opTarget = some n) (ho : n = 5 ∨ s.fleet.op = 5) :
    ∃ f : Fleet, exec .opTransitionDone s = .next { s.moduleReset with fleet := f } ∧ f.op = n ∧ f.opTarget = none ∧
      (n = 5 → f.errlog = []) := by
  by_cases hn : n = 5
  · subst hn
    exact ⟨_, by simp only [exec_opTransitionDone, execOpTransitionDone, h, beq_self_eq_true, if_true]; rfl, rfl, rfl, fun _ => rfl⟩
  · exact ⟨_, by simp only [exec_opTransitionDone, execOpTransitionDone, h, beq_iff_eq, hn, ho.resolve_left hn, if_true, if_false]; rfl, rfl, rfl,
      fun e => absurd e hn⟩

theorem sensorRefresh_spec (s : State) {id : Nat} (v : Int) (h : id = 1 ∨ id = 2 ∨ 0x100 ≤ id ∧ id < 0x120 ∨ 0x140 ≤ id ∧ id < 0x180) :
    ∃ t, exec (.sensorRefresh id v) s = .next t ∧ t.fleet.sensor id = v ∧ t.fleet.op = s.fleet.op ∧ t.mem = s.mem := by
  have h : (!(id == 1 || id == 2 || (0x100 ≤ id && id < 0x120) || (0x140 ≤ id && id < 0x180))) = false := by
    simp
    omega
  simp only [exec_sensorRefresh, execSensorRefresh, h, Bool.false_eq_true, if_false]
  exact ⟨_, rfl, getKey_setKey .., rfl, rfl⟩

theorem provisionedId_vendor : Config.provisionedId.extractLsb' 33 15 = 0x1F6B#15 := by
  unfold Config.provisionedId
  rw [BitVec.extractLsb'_append_eq_of_le (by decide)]
  decide

theorem fleetAndSideBand : FleetAndSideBand := by
  intro s id n v a sent at_ vendor
  refine ⟨opTransitions, fun h ho => ?_, fun hlo hhi hs ht ho => ?_, sensorRefresh_spec s v, ⟨rfl, _, rfl, ?_, ?_⟩, provisionedId_vendor, fun h => ?_,
    fun e h => ?_, fun h => ?_, fun start h => ?_, fun r t h hl => ?_⟩
  · obtain ⟨f, e, hop, hto, hlog⟩ := opTransitionDone_off h ho
    exact ⟨_, e, hop, hto, rfl, rfl, rfl, rfl, rfl, rfl, rfl, rfl, rfl, rfl, hlog⟩
  · have hc : (!isTemp id || s.fleet.sensor id < 110 || s.fleet.thermhalt || s.fleet.op == 5) = false := by
      simp [isTemp, hlo, hhi, ht, ho, hs]
    simp only [exec_thermhalt, execThermhalt, hc, Bool.false_eq_true, if_false]
  · obtain ⟨_, _, _, e⟩ := (s.poisonMem (n / 8 * 8)).logs_record { type := 5, detail := 1 }
    rw [e]
    exact s.mem_bad_poisonMem _
  · obtain ⟨_, _, _, e⟩ := (s.poisonMem (n / 8 * 8)).logs_record { type := 5, detail := 1 }
    rw [e]
    exact s.mem_poisonMem _
  · simp only [exec_entdaa, execEntdaa, h]
    rfl
  · simp only [exec_mctpControl, execMctpControl, h]
    rfl
  · simp only [exec_pldmSensorRead, execPldmSensorRead, h]
    rfl
  · simp only [exec_readErrlog, execReadErrlog, h]
    rfl
  · have hlast : s.fleet.errlog.getLast? = some ((r :: t).getLast (List.cons_ne_nil r t)) := by
      rw [hl, List.getLast?_eq_some_getLast]
    simp only [exec_errlogInfo, execErrlogInfo, h, show s.fleet.errlog.head? = some r by rw [hl]; rfl, hlast]
    rfl

/-! ### SPDM (R485, R486) -/

theorem spdmSend_eq (s : State) (b : List Byte) :
    s.spdmSend b = { s with fleet := { s.fleet with
      out := s.fleet.out ++ [(s.spdm.via, (if s.spdm.via = .mctp then [0x05] else []) ++ b)] } } := by
  unfold State.spdmSend State.reply
  cases s.spdm.via <;> rfl

theorem spdmReply_eq (s : State) (x : List Byte) :
    s.spdmReply x = .next (s.spdmSend (0x13 :: x ++ Config.spdmBody s.spdm.code s.spdm.param x)) := rfl

theorem spdmAnswers : SpdmAnswers := by
  intro s v sent body
  have send (b : List Byte) : Host.Outcome.next (s.spdmSend b) = sent b := congrArg _ (spdmSend_eq s b)
  have reply (x : List Byte) : s.spdmReply x = sent (body x) := send _
  have param {k : Nat} (h : s.spdm.param ≠ BitVec.ofNat 8 k) : (s.spdm.param.toNat == k) = false := by
    rw [beq_eq_false_iff_ne]
    exact fun e => h (by rw [← e, BitVec.ofNat_toNat, BitVec.setWidth_eq])
  refine ⟨reply _, reply _, reply _, reply _, fun h => ?_, fun h => ?_, send _, fun b h0 hf hm => ?_, fun h0 hf hm => ?_⟩
  · simp only [exec_getCertificate, exec_challenge, execGetCertificate, execChallenge, State.slotReply, h]
    exact ⟨reply _, reply _⟩
  · simp only [exec_getCertificate, exec_challenge, execGetCertificate, execChallenge, State.slotReply, beq_iff_eq, h, if_false]
    exact ⟨send _, send _⟩
  · simp only [exec_getMeasurements, execGetMeasurements, param h0, param hf, show s.measurement s.spdm.via _ = _ from hm,
      Bool.false_eq_true, if_false]
    exact reply _
  · simp only [exec_getMeasurements, execGetMeasurements, param h0, param hf, show s.measurement s.spdm.via _ = _ from hm,
      Bool.false_eq_true, if_false]
    exact send _

/-- Settles O45: operating points, sensors and messages, each by its own rule. -/
theorem sideBandAndAttestation : Obligations.SideBandAndAttestation := ⟨fleetAndSideBand, spdmAnswers⟩

end Sys2Proof.Claims
end

section
/-! SUPPORT. The load of an image: its checks in their order, and the id that it gets (R476, R477, R481, R483). -/

namespace Sys2Proof.Claims

open Sys2Proof.Machine

variable {s : State} {n : Nat} {p : Part}

/-! ### What these instructions execute -/

theorem exec_imageLoad (s : State) : exec .imageLoad s = execImageLoad s := rfl

/-! ### The lowest free id (R481) -/

/-- The id of the next image: the lowest tenant image id that no image has (R481). -/
def freeId (l : List Image) : Nat := (((List.range 64).map (0x1000 + ·)).find? fun i => !l.any (·.id == i)).getD 0x103F

/-- Fewer than 64 images leave one of 64 ids free. -/
theorem exists_free_id {l : List Image} (h : l.length < 64) : ∃ i < 64, ∀ y ∈ l, y.id ≠ 0x1000 + i := by
  by_contra hall
  push Not at hall
  have hsub : (List.range 64).map (0x1000 + ·) ⊆ l.map (·.id) := by
    intro j hj
    obtain ⟨i, hi, rfl⟩ := List.mem_map.1 hj
    obtain ⟨y, hy, e⟩ := hall i (List.mem_range.1 hi)
    exact List.mem_map.2 ⟨y, hy, e⟩
  have hnodup : ((List.range 64).map (0x1000 + ·)).Nodup := List.nodup_range.map fun _ _ h => Nat.add_left_cancel h
  have hle := (hnodup.subperm hsub).length_le
  simp only [List.length_map, List.length_range] at hle
  omega

theorem freeId_spec {l : List Image} (h : l.length < 64) :
    (∀ y ∈ l, y.id ≠ freeId l) ∧ 0x1000 ≤ freeId l ∧ ∀ j, 0x1000 ≤ j → j < freeId l → ∃ y ∈ l, y.id = j := by
  let free (i : Nat) : Bool := !l.any (·.id == 0x1000 + i)
  obtain ⟨i, hi, hfree⟩ := exists_free_id h
  obtain ⟨k, hk⟩ := Option.isSome_iff_exists.1 ((List.find?_isSome (xs := List.range 64) (p := free)).2
    ⟨i, List.mem_range.2 hi, by simpa [free] using hfree⟩)
  have e : freeId l = 0x1000 + k := by
    rw [freeId, List.find?_map]
    exact congrArg (fun o => (Option.map (0x1000 + ·) o).getD 0x103F) hk
  obtain ⟨hkf, -, hlow⟩ := List.find?_range_eq_some.1 hk
  rw [e]
  refine ⟨by simpa [free] using hkf, Nat.le_add_right .., fun j hj hjk => ?_⟩
  obtain ⟨d, rfl⟩ := Nat.exists_eq_add_of_le hj
  simpa [free] using hlow d (by omega)

/-! ### The checks in their order (R481) -/

/-- The image that a container becomes. -/
def imageOf (x : Container) (id : Nat) : Image := { id := id, tenant := x.signer == 1, fmt := x.desc.2, digest := sha384 x.bytes }

/-- IMAGE_LOAD of a container that is not longer than one can be: its checks, in their order. -/
theorem imageLoad_eq (h : ForPart s n p) (h2 : s.cmd.a2 = 0) (h3 : s.cmd.a3 = 0) (h4 : s.cmd.a4 = 0)
    (hlen : s.cmd.a1.toNat ≤ 16736 + 4 * 2 ^ 16 + 4194304) :
    let x := containerOf (s.hostRead s.cmd.fn s.cmd.a0.toNat s.cmd.a1.toNat)
    exec .imageLoad s =
      if s.cmd.a0.toNat % 16 ≠ 0 ∨ x.bad s.cmd.a1.toNat = true then refused s 2
      else (x.key p).elim (refused s 0xB) fun key =>
        if x.signed key = false then refused s 9
        else if x.descBad = true then refused s 0xA
        else if (crc32c x.payload).toNat ≠ fld x.hdr 320 32 then refused s 2
        else if 64 ≤ p.images.length then refused s 7
        else (p.images.find? (·.digest == sha384 x.bytes)).elim
          (done (State.logEntry (s.putPart { p with images := p.images ++ [imageOf x (freeId p.images)] }) 2 (some n) 0xFF
            (freeId p.images) 0 (sha384 x.bytes)) (freeId p.images))
          fun i => done s i.id := by
  intro x
  have hok : (s.cmd.a2 == 0 && s.cmd.a3 == 0 && s.cmd.a4 == 0) = true := by simp [h2, h3, h4]
  simp only [exec_imageLoad, execImageLoad, hok, h.entitled, h.here, if_true, if_neg (Nat.not_lt.2 hlen), Bool.or_eq_true, bne_iff_ne]
  refine ite_congr rfl (fun _ => rfl) fun _ => ?_
  cases x.key p with
  | none => rfl
  | some key =>
    simp only [Option.elim_some, Bool.not_eq_true']
    refine ite_congr rfl (fun _ => rfl) fun _ => ite_congr rfl (fun _ => rfl) fun _ => ite_congr rfl (fun _ => rfl) fun _ =>
      ite_congr rfl (fun _ => rfl) fun _ => ?_
    cases p.images.find? (·.digest == sha384 x.bytes) <;> rfl

/-- Settles O50: the statuses are those of the checks in order; the id is the lowest that no image has. -/
theorem imageLoading : Obligations.ImageLoading := by
  intro s n p hi hp h2 h3 h4 hlen c x
  have e := imageLoad_eq ⟨hi, hp⟩ h2 h3 h4 hlen
  refine ⟨fun h => e.trans (if_pos h), fun ha hb => ?_⟩
  have e := e.trans (if_neg fun h => h.elim (· ha) fun h => Bool.false_ne_true (hb.symm.trans h))
  refine ⟨fun hk => by rw [e, hk]; rfl, fun key hk => ?_⟩
  rw [hk, Option.elim_some] at e
  refine ⟨fun hs => e.trans (if_pos hs), fun hs => ?_⟩
  have e := e.trans (if_neg fun h => Bool.false_ne_true (h.symm.trans hs))
  refine ⟨fun hd => e.trans (if_pos hd), fun hd hc => ?_, fun hd hc hl => ?_, fun hd hc hl => ?_⟩
  all_goals have e := e.trans (if_neg fun h => Bool.false_ne_true (hd.symm.trans h))
  · exact e.trans (if_pos hc)
  · exact (e.trans (if_neg (not_not.2 hc))).trans (if_pos hl)
  · have e := (e.trans (if_neg (not_not.2 hc))).trans (if_neg (Nat.not_le.2 hl))
    refine ⟨fun i hf => by rw [e, hf]; rfl, fun hf => ?_⟩
    obtain ⟨hnew, hlo, hlow⟩ := freeId_spec hl
    exact ⟨freeId p.images, hnew, hlo, hlow, by rw [e, hf]; rfl⟩

end Sys2Proof.Claims
end

section
/-! SUPPORT. Flits, replays and audits (R487 to R491). -/

namespace Sys2Proof.Machine

variable {s : State} {d : Nat} {l : Link}

/-! ### What these instructions execute -/

theorem exec_flitReceive (d : Nat) (ok : Bool) (s : State) : exec (.flitReceive d ok) s = execFlitReceive d ok s := rfl
theorem exec_auditReply (d : Nat) (s : State) : exec (.auditReply d) s = execAuditReply d s := rfl
theorem exec_auditStart (d : Nat) (s : State) : exec (.auditStart d) s = execAuditStart d s := rfl

/-! ### Links under their directions -/

theorem otherDir_otherDir (d : Nat) : otherDir (otherDir d) = d := by
  simp only [otherDir, beq_iff_eq]
  split <;> split <;> omega

theorem otherDir_ne (d : Nat) : otherDir d ≠ d := by
  simp only [otherDir, beq_iff_eq]
  split <;> omega

theorem State.link_putLink_same (s : State) (d : Nat) (l : Link) : (s.putLink d l).link d = l := by
  rw [State.link_putLink, if_pos rfl]

theorem State.link_putLink_of_ne {e : Nat} (h : e ≠ d) (s : State) (l : Link) : (s.putLink d l).link e = s.link e := by
  rw [State.link_putLink, if_neg h]

/-! ### Flits (R487) -/

/-- The fields of a header, from its bits. -/
theorem headerFields (a b : BitVec 12) (c d : Bool) (e f : BitVec 2) (g : BitVec 8) :
    let x := a ++ b ++ BitVec.ofBool c ++ BitVec.ofBool d ++ e ++ f ++ g ++ (0 : BitVec 26)
    x.extractLsb' 52 12 = a ∧ x.extractLsb' 40 12 = b ∧ x.getLsbD 39 = c ∧ x.getLsbD 38 = d ∧ x.extractLsb' 36 2 = e ∧
      x.extractLsb' 34 2 = f ∧ x.extractLsb' 26 8 = g ∧ x.extractLsb' 0 26 = 0 := by
  refine ⟨?_, ?_, ?_, ?_, ?_, ?_, ?_, ?_⟩
  · repeat rw [BitVec.extractLsb'_append_eq_of_le (by decide)]
    exact BitVec.extractLsb'_eq_self
  · repeat rw [BitVec.extractLsb'_append_eq_of_le (by decide)]
    rw [BitVec.extractLsb'_append_eq_of_add_le (by decide)]
    exact BitVec.extractLsb'_eq_self
  · repeat rw [BitVec.getLsbD_append, if_neg (by decide)]
    rw [BitVec.getLsbD_append, if_pos (by decide)]
    simp
  · repeat rw [BitVec.getLsbD_append, if_neg (by decide)]
    rw [BitVec.getLsbD_append, if_pos (by decide)]
    simp
  all_goals repeat rw [BitVec.extractLsb'_append_eq_of_le (by decide)]
  all_goals rw [BitVec.extractLsb'_append_eq_of_add_le (by decide)]
  all_goals exact BitVec.extractLsb'_eq_self

theorem length_bytesOf (n x : Nat) : (bytesOf n x).length = n := by
  induction n generalizing x with
  | zero => rfl
  | succ n ih => exact congrArg Nat.succ (ih _)

theorem Flit.length_covered (f : Flit) : f.covered.length = 248 := by
  unfold Flit.covered
  simp only [List.length_append, length_bytesOf, List.length_take, List.length_replicate]
  omega

/-! ### Sending (R488, R489) -/

/-- The flit that direction `d` sends: its next SEQ, with what its side's receiver returns. -/
def State.flit (s : State) (d vc : Nat) (body : Body) : Flit :=
  let r := s.link (otherDir d)
  { seq := (s.link d).seq, ack := r.rxSeq, nak := r.nak, vc := BitVec.ofNat 2 vc, rvc := BitVec.ofNat 2 r.returns.1,
    rcnt := BitVec.ofNat 8 r.returns.2, body := body }

/-- A sender that has sent a flit. -/
def Link.sent (l : Link) (f : Flit) (now : Nat) : Link :=
  { l with wire := l.wire ++ [(f, f.crc)], seq := l.seq + 1, replay := l.replay ++ [(f, 0)], since := l.since + 1,
           lastAck := if l.replay = [] then now else l.lastAck }

theorem State.transmit_eq (s : State) (d vc : Nat) (body : Body) :
    s.transmit d vc body = (s.putLink d ((s.link d).sent (s.flit d vc body) s.now)).putLink (otherDir d)
      ((s.link (otherDir d)).returned s.now) := by
  unfold State.transmit Link.sent
  simp only [List.isEmpty_iff]
  rfl

theorem State.link_transmit_same (s : State) (d vc : Nat) (body : Body) :
    (s.transmit d vc body).link d = (s.link d).sent (s.flit d vc body) s.now := by
  rw [State.transmit_eq, State.link_putLink_of_ne (otherDir_ne d).symm, State.link_putLink_same]

theorem State.link_transmit_other (s : State) (d vc : Nat) (body : Body) :
    (s.transmit d vc body).link (otherDir d) = (s.link (otherDir d)).returned s.now := by
  rw [State.transmit_eq, State.link_putLink_same]

/-- The lowest channel with freed slots returns them. -/
theorem Link.returns_of_lowest {v : Nat} (hv : v < 4) (h : 0 < l.freed.getD v 0) (hlow : ∀ u < v, l.freed.getD u 0 = 0) :
    l.returns = (v, min 255 (l.freed.getD v 0)) := by
  have hf : (List.range 4).find? (fun v => decide (0 < l.freed.getD v 0)) = some v :=
    List.find?_range_eq_some.2 ⟨decide_eq_true h, List.mem_range.2 hv, fun u hu => by rw [hlow u hu]; rfl⟩
  rw [Link.returns, hf]

theorem Link.returns_of_none (h : ∀ v < 4, l.freed.getD v 0 = 0) : l.returns = (0, 0) := by
  have hf : (List.range 4).find? (fun v => decide (0 < l.freed.getD v 0)) = none :=
    List.find?_eq_none.2 fun v hv => by rw [h v (List.mem_range.1 hv)]; decide
  rw [Link.returns, hf]

theorem Link.freed_returned (l : Link) (now : Nat) : (l.returned now).freed = l.freed.modify l.returns.1 (· - l.returns.2) := rfl

/-- Nothing is returned where nothing has been freed. -/
theorem Link.freed_returned_of_none (h : ∀ v < 4, l.freed.getD v 0 = 0) (now : Nat) : (l.returned now).freed = l.freed := by
  rw [Link.freed_returned, Link.returns_of_none h]
  exact List.modify_id ..

/-! ### Receiving (R489) -/

theorem dropAcked_eq_self {a : BitVec 12} {r : List (Flit × Nat)} (h : ¬ (dropAcked a r).length < r.length) : dropAcked a r = r := by
  unfold dropAcked at *
  split
  · next hany =>
    rw [if_pos hany] at h
    obtain ⟨x, hx, -⟩ := List.any_eq_true.1 hany
    have hpos := List.length_pos_of_mem hx
    have hle := (List.dropWhile_sublist (l := r) (·.1.seq != a)).length_le
    rw [List.length_drop] at h
    omega
  · rfl

/-- What the header of an accepted flit changes of the sender on its side: not its audit. -/
theorem State.heard_spec (s : State) (d : Nat) (f : Flit) :
    (∀ e, e ≠ d → (s.heard d f).link e = s.link e) ∧
    ((s.heard d f).link d).avail = (s.link d).avail.modify f.rvc.toNat (· + f.rcnt.toNat) ∧
    (f.nak = false → ((s.heard d f).link d).replay = dropAcked f.ack (s.link d).replay) ∧
    ((s.heard d f).link d).audit = (s.link d).audit ∧ ((s.heard d f).link d).reply = (s.link d).reply ∧
    ((s.heard d f).link d).missed = (s.link d).missed := by
  unfold State.heard
  extract_lets l rest l₁ l₂ s₁
  have h₁ : s₁.link d = l₂ := State.link_putLink_same ..
  have hl : l₁.avail = l.avail ∧ l₁.replay = rest ∧ l₁.audit = l.audit ∧ l₁.reply = l.reply ∧ l₁.missed = l.missed := by
    unfold l₁
    split
    · exact ⟨rfl, rfl, rfl, rfl, rfl⟩
    · next h => exact ⟨rfl, (dropAcked_eq_self h).symm, rfl, rfl, rfl⟩
  obtain ⟨ha, hr, hau, hre, hm⟩ := hl
  split
  · next hn =>
    have hn : f.nak = true := by simp only [Bool.and_eq_true] at hn; exact hn.1.1
    have h₂ : (s₁.resendAll d).link d = _ := State.link_putLink_same ..
    rw [h₂]
    refine ⟨fun e he => (State.link_putLink_of_ne he _ _).trans (State.link_putLink_of_ne he _ _), ?_,
      fun h => Bool.noConfusion (hn.symm.trans h), ?_, ?_, ?_⟩
    all_goals simp only [h₁, l₂, ha, hau, hre, hm]
    all_goals rfl
  · refine ⟨fun e he => State.link_putLink_of_ne he _ _, ?_, fun _ => ?_, ?_, ?_, ?_⟩
    all_goals simp only [h₁, l₂, ha, hr, hau, hre, hm]
    all_goals rfl

end Sys2Proof.Machine

namespace Sys2Proof.Claims

open Sys2Proof.Machine

theorem flitLayout : FlitLayout := by
  intro f
  obtain ⟨h₁, h₂, h₃, h₄, h₅, h₆, h₇, h₈⟩ := headerFields f.seq f.ack f.nak f.audit f.vc f.rvc f.rcnt
  have htake : f.bytes.take 248 = f.covered := List.take_left' f.length_covered
  refine ⟨h₁, h₂, h₃, h₄, h₅, h₆, h₇, h₈, ?_, ?_, ?_⟩
  · rw [Flit.bytes, List.length_append, f.length_covered, length_bytesOf]
  · rw [Flit.bytes, Flit.covered, List.append_assoc, List.append_assoc]
    exact List.take_left' (length_bytesOf ..)
  · rw [htake]
    exact List.drop_left' f.length_covered

theorem flitsAreSent : FlitsAreSent := by
  intro s d vc body m l r
  refine ⟨⟨s.flit d vc body, s.link_transmit_same d vc body, rfl, rfl, rfl, rfl, fun v hv h hlow => ?_, fun h => ?_⟩, ?_, ?_, ?_⟩
  · have hret : r.returns = _ := Link.returns_of_lowest hv h hlow
    rw [s.link_transmit_other, Link.freed_returned, show (s.link (otherDir d)).returns = _ from hret]
    refine ⟨?_, ?_, rfl⟩
    · rw [show (s.flit d vc body).rvc = BitVec.ofNat 2 r.returns.1 from rfl, hret]
      exact Nat.mod_eq_of_lt hv
    · rw [show (s.flit d vc body).rcnt = BitVec.ofNat 8 r.returns.2 from rfl, hret]
      exact Nat.mod_eq_of_lt (by omega)
  · rw [s.link_transmit_other, Link.freed_returned_of_none h]
    exact ⟨congrArg (fun x : Nat × Nat => BitVec.ofNat 8 x.2) (Link.returns_of_none h), rfl⟩
  · intro ho hr ha hv hav
    have hmay : (s.link d).maySend vc = true := by
      simp only [Link.maySend, Link.room, Bool.and_eq_true, decide_eq_true_eq, Option.isNone_iff_eq_none]
      exact ⟨⟨⟨⟨ho, hr⟩, ha⟩, hv⟩, hav⟩
    simp only [State.sendFlit, hmay, Bool.not_true, Bool.false_eq_true, if_false]
    rw [State.link_transmit_same, State.link_putLink_same]
    exact ⟨rfl, rfl⟩
  · intro h
    have hmay : (s.link d).maySend vc = false := by
      rw [← Bool.not_eq_true]
      simp only [Link.maySend, Link.room, Bool.and_eq_true, decide_eq_true_eq, Option.isNone_iff_eq_none]
      rintro ⟨⟨⟨⟨-, hr⟩, ha⟩, -⟩, hav⟩
      rcases h with h | h | h
      · exact absurd hr (Nat.not_lt.2 h)
      · exact h ha
      · exact Nat.ne_of_gt hav h
    simp only [State.sendFlit, hmay, Bool.not_false, if_true]
  · intro h again
    exact congrArg Host.Outcome.next (if_pos h)

/-- A receiver that owes an acknowledgement by a cycle. -/
def oweBy (l : Link) (n : Nat) : Link := { l with owe := some (min n (l.owe.getD n)) }

/-- A flit with its CRC and the next SEQ goes on to the sender on its side and to its receiver. -/
theorem flitReceive_accept {s : State} {d : Nat} {f : Flit} {w : List (Flit × BitVec 64)} (hw : (s.link d).wire = (f, f.crc) :: w)
    (ho : (s.link d).open_ = true) (hr : (s.link (otherDir d)).reply = none) (hs : f.seq = (s.link d).rxSeq + 1) :
    ∃ n, exec (.flitReceive d true) s =
      .next (((s.putLink d (oweBy { s.link d with wire := w, rxSeq := f.seq, nak := false } n)).heard (otherDir d) f).take_ d f) := by
  have hbad : (f.crc != f.crc || f.seq != (s.link d).rxSeq + 1) = false := by simp [hs]
  simp only [exec_flitReceive, execFlitReceive, hw, ho, hr, Option.isSome_none, Bool.not_true, Bool.or_self, Bool.false_eq_true,
    if_false, if_true, hbad]
  exact ⟨_, rfl⟩

theorem flitReceive_drop {s : State} {d : Nat} {f : Flit} {w : List (Flit × BitVec 64)} (hw : (s.link d).wire = (f, f.crc) :: w)
    (ho : (s.link d).open_ = true) (hr : (s.link (otherDir d)).reply = none) {ok : Bool} (h : ok = false ∨ f.seq ≠ (s.link d).rxSeq + 1) :
    exec (.flitReceive d ok) s = .next (s.putLink d (if (s.link d).nak then { s.link d with wire := w }
      else oweBy { s.link d with wire := w, nak := true } s.now)) := by
  have hbad : ((if ok then f.crc else f.crc ^^^ 1) != f.crc || f.seq != (s.link d).rxSeq + 1) = true := by
    rcases h with rfl | h
    · simp
    · rw [bne_iff_ne.2 h, Bool.or_true]
  simp only [exec_flitReceive, execFlitReceive, hw, ho, hr, Option.isSome_none, Bool.not_true, Bool.or_self, Bool.false_eq_true,
    if_false, hbad, if_true]
  rfl

theorem flitsAreReceived : FlitsAreReceived := by
  intro s d f w l r hw ho hr
  refine ⟨fun hs => ?_, fun ok h => ?_⟩
  · obtain ⟨n, e⟩ := flitReceive_accept hw ho hr hs
    let l₁ := oweBy { l with wire := w, rxSeq := f.seq, nak := false } n
    let s₂ := (s.putLink d l₁).heard (otherDir d) f
    refine ⟨s₂.take_ d f, e, ?_⟩
    obtain ⟨hother, havail, hreplay, haudit, hreply, hmissed⟩ := (s.putLink d l₁).heard_spec (otherDir d) f
    have hd : s₂.link d = l₁ := (hother d (otherDir_ne d).symm).trans (State.link_putLink_same ..)
    rw [State.link_putLink_of_ne (otherDir_ne d)] at havail hreplay haudit hreply hmissed
    have same (x : State) (y : Link) : (x.putLink d y).link d = y := State.link_putLink_same ..
    have same' (x : State) (y : Link) : (x.putLink (otherDir d) y).link (otherDir d) = y := State.link_putLink_same ..
    have other (x : State) (y : Link) : (x.putLink d y).link (otherDir d) = x.link (otherDir d) := State.link_putLink_of_ne (otherDir_ne d) ..
    have other' (x : State) (y : Link) : (x.putLink (otherDir d) y).link d = x.link d := State.link_putLink_of_ne (otherDir_ne d).symm ..
    unfold State.take_
    cases hb : f.body with
    | none =>
      simp only [hd]
      exact ⟨rfl, rfl, rfl, rfl, nofun, havail, hreplay, nofun⟩
    | msg m =>
      simp only [same, other, hd]
      exact ⟨rfl, rfl, rfl, rfl, nofun, havail, hreplay, nofun⟩
    | audit a =>
      simp only [same, other, hd]
      exact ⟨rfl, rfl, rfl, rfl, fun _ => rfl, havail, hreplay, nofun⟩
    | reply v p =>
      simp only [same', other', hd]
      refine ⟨rfl, rfl, rfl, rfl, nofun, ?_, fun hn => ?_, ?_⟩
      · rw [← havail]
        split_ifs <;> rfl
      · rw [← hreplay hn]
        split_ifs <;> rfl
      · rintro v' p' ⟨⟩
        refine ⟨fun hm => ?_, fun hm ha => ?_⟩
        · rw [if_pos (by rw [hmissed]; exact hm)]
          exact ⟨hreply.trans hr, congrArg (· - 1) hmissed⟩
        · rw [if_neg (by rw [hmissed]; exact (Nat.ne_of_gt · hm)), if_pos (by rw [haudit]; exact Option.isSome_iff_ne_none.2 ha)]
  · refine ⟨_, flitReceive_drop hw ho hr h, ?_⟩
    rw [State.link_putLink_same]
    split
    · next hn => exact ⟨hn, rfl, rfl, rfl, fun e he => State.link_putLink_of_ne he _ _⟩
    · exact ⟨rfl, rfl, rfl, rfl, fun e he => State.link_putLink_of_ne he _ _⟩

/-- The reply of an audit says more than a channel has. -/
theorem auditReply_fails {s : State} {d : Nat} {vs ps : List Nat} (hr : (s.link d).reply = some (vs, ps)) (ho : (s.link d).open_ = true)
    (h : ∃ v < 4, vcSlots.getD v 0 < vs.getD v 0) : exec (.auditReply d) s = .next (s.putLink d (s.link d).auditFail) := by
  obtain ⟨v, hv, hlt⟩ := h
  have hany : ((List.range 4).any fun v => decide (vcSlots.getD v 0 < vs.getD v 0)) = true :=
    List.any_eq_true.2 ⟨v, List.mem_range.2 hv, decide_eq_true hlt⟩
  simp only [exec_auditReply, execAuditReply, hr, ho, hany, Bool.not_true, Bool.false_eq_true, if_false, if_true]

theorem auditReply_eq {s : State} {d : Nat} {vs ps : List Nat} (hr : (s.link d).reply = some (vs, ps)) (ho : (s.link d).open_ = true)
    (hres : (s.link d).resend = false) (h : ∀ v < 4, vs.getD v 0 ≤ vcSlots.getD v 0) :
    let wrong := (List.range 4).filter fun v => (s.link d).avail.getD v 0 + ps.getD v 0 != vs.getD v 0
    exec (.auditReply d) s = .next
      ((wrong.foldl (fun s v => s.record { type := 7, detail := Config.recordDetail 7 (d / 2) v }) s).putLink d
        { s.link d with avail := vs, audit := none, reply := none, badAudit := 0 }) := by
  have hany : ((List.range 4).any fun v => decide (vcSlots.getD v 0 < vs.getD v 0)) = false :=
    List.any_eq_false.2 fun v hv => by simpa using h v (List.mem_range.1 hv)
  simp only [exec_auditReply, execAuditReply, hr, ho, hany, hres, Bool.not_true, Bool.false_eq_true, if_false]

theorem auditsCount : AuditsCount := by
  intro s d l failed
  refine ⟨fun h => ?_, ?_, fun vs ps hr ho hres => ⟨auditReply_fails hr ho, fun h => ⟨?_, fun hc => ?_⟩⟩,
    fun h => congrArg Host.Outcome.next (if_pos h)⟩
  · have hdue : (s.link d).auditDue = true := h
    refine ⟨(s.transmit d 3 (.audit l.avail)).putLink d { (s.transmit d 3 (.audit l.avail)).link d with
      audit := some s.now, since := 0, reply := none }, s.flit d 3 (.audit l.avail), ?_, ?_⟩
    · simp only [exec_auditStart, execAuditStart, hdue, Bool.not_true, Bool.false_eq_true, if_false]
      rfl
    · rw [State.link_putLink_same, State.link_transmit_same]
      exact ⟨rfl, rfl, rfl, rfl, rfl⟩
  · let vs := (List.range 4).map fun v => vcSlots.getD v 0 - l.occupied v
    let s₁ := s.putLink d { l with freed := [0, 0, 0, 0], asked := l.asked - 1 }
    have hs : s.replyAudit d = s₁.transmit (otherDir d) 3 (.reply vs l.freed) := rfl
    have hd : (s.replyAudit d).link d = (s₁.link d).returned s₁.now := by
      have e := s₁.link_transmit_other (otherDir d) 3 (.reply vs l.freed)
      rwa [otherDir_otherDir] at e
    rw [hd, hs, State.link_transmit_same, State.link_putLink_same, State.link_putLink_of_ne (otherDir_ne d)]
    exact ⟨_, rfl, rfl, rfl, rfl⟩
  · exact ⟨_, auditReply_eq hr ho hres h, State.link_putLink_same ..⟩
  · have hnone : ((List.range 4).filter fun v => (s.link d).avail.getD v 0 + ps.getD v 0 != vs.getD v 0) = [] :=
      List.filter_eq_nil_iff.2 fun v hv => by simpa using hc v (List.mem_range.1 hv)
    rw [auditReply_eq hr ho hres h, hnone]
    rfl

/-- Settles O41: the layout of a header by its bits, the others by what each step leaves on the two directions of a link. -/
theorem linkFlitsAndAudits : Obligations.LinkFlitsAndAudits := ⟨flitLayout, flitsAreSent, flitsAreReceived, auditsCount⟩

end Sys2Proof.Claims
end

section
/-! SUPPORT. A die's save in a state where two groups share a uid (R355, R467). -/

namespace Sys2Proof.Machine

/-- A copy of 16 bytes of the group of `withProgram`, from 0x12000 to the start of its scratchpad. -/
def sharedCopy : COp :=
  { uid := 9, block := 2, group := 3, hnt := 0, shared := true, row := 0, byte := 0, ready := 0, rows := [0], wrows := [0], pc := 0
    desc := { dir := false, gaddr := 0x12000, saddr := 0, len := 16, nrow := 1, gstride := 0, sstride := 0 }
    mask := allLanes, paused := none }

/-- The switch of the partition of `withProgram` away from its context, asked for in cycle 1. -/
def switchAway : Switch := { to_ := none, tick := 1, saved := [], late := [] }

/-- The partition of `withProgram` with that switch under way. -/
def switchingPart : Part := { demoPart State.reset with switch := some switchAway }

/-- The group of `withProgram`, halted. -/
def haltedGroup : Group := { demoGroup State.reset with halted := true }

/-- A group of the same uid on core 48, which is one of die 1, not halted. -/
def runningTwin : Group := { demoGroup State.reset with block := 99, core := 48 }

/-- The machine with both groups, its partition switching, and core 0 at work on the copy of the halted group. -/
def switchingTwins : State :=
  { State.reset.withProgram 0 with
    parts := [switchingPart], groups := [haltedGroup, runningTwin]
    cores := [(0, { State.reset.core 0 with cq := [sharedCopy] })] }

/-- The groups that a step leaves, each by its uid and whether it is halted. -/
def haltsAfter : Host.Outcome State Fault Refusal → List (Nat × Bool)
  | .next s => s.groups.map fun g => (g.uid, g.halted)
  | _ => []

/-- Die 0 can save: the one group on it is halted, and copies need not have stopped. -/
theorem canSave_switchingTwins : switchingTwins.canSave switchingPart switchAway 0 = true := by decide

/-- The save ends the copy, and the group put back without the copy's request stands for every group of its uid. -/
theorem haltsAfter_dieSaveDone_switchingTwins :
    haltsAfter (exec (.dieSaveDone 0 0) switchingTwins) = [(3, true), (3, true)] := by decide

end Sys2Proof.Machine

namespace Sys2Proof.Claims

open Sys2Proof.Machine

/-- Refutes O40, in its clause on dieSaveDone, which has every group keep its uid and whether it is halted: the copy that the save
stops at its last byte completes (`haltCopy`), `copyGone` puts its halted group back, and `putGroup` puts it in the place of each
group of that uid, a running one of another die too.  The clause has no hypothesis that no two groups share a uid (log 2). -/
theorem not_contextSwitching : ¬ Obligations.ContextSwitching := by
  intro ⟨hsteps, _⟩
  obtain ⟨-, -, -, -, hsave, -⟩ := hsteps switchingTwins switchingPart rfl
  obtain ⟨s', hexec, hgroups, -⟩ := hsave switchAway 0 rfl canSave_switchingTwins
  have hafter : s'.groups.map (fun g => (g.uid, g.halted)) = [(3, true), (3, true)] := by
    rw [← haltsAfter_dieSaveDone_switchingTwins, show exec (.dieSaveDone 0 0) switchingTwins = .next s' from hexec]
    rfl
  have hbefore : switchingTwins.groups.map (fun g => (g.uid, g.halted)) = [(3, true), (3, false)] := rfl
  rw [hafter, hbefore] at hgroups
  exact absurd hgroups (by decide)

end Sys2Proof.Claims
end
